-- ==== Sys2Proof/Word.lean ====
section
/-! DEFINITION. The words of the machine: bytes, 32-bit registers, 64-bit words, 128-bit instructions. -/

namespace Sys2Proof

/-- A byte of any memory (R9). -/
abbrev Byte := BitVec 8

/-- A register of the register window (R464) or a counter (R80). -/
abbrev Word := BitVec 32

/-- A 64-bit word, the unit of error correction and indivisibility (R104, R128). -/
abbrev Dword := BitVec 64

/-- An instruction word (R224). -/
abbrev IWord := BitVec 128

end Sys2Proof
end

