-- ==== Sys2Proof/Syntax.lean ====
section
/-! DEFINITION. The commands of the block: one constructor of `Instr` per row of spec/opcode_table.json, and the types of
their operands.  An instruction row carries the core and the 128-bit instruction word it issues; an event row carries the
unit the event happens at and what arrives there. -/

namespace Sys2Proof

/-- A data byte in transit, with the poison bit of the 64-bit word it belongs to (R104). -/
abbrev TByte := BitVec 8 × Bool

/-- What a packet of the mesh starts from or is bound for (R20, R276). -/
inductive Endpoint where
  | core (n : Nat)
  | slice (n : Nat)
  | kiln
  | streamEngine
  | vane
  | port (n : Nat)
  deriving DecidableEq, Repr

/-- An endpoint of one device of the system (R282). -/
structure Node where
  dev : Nat
  ep : Endpoint
  deriving DecidableEq, Repr

/-- How the owner of a slot answers a neighbour-write request (R121, R126, R242). -/
inductive NwVerdict where
  /-- the write is admitted (R121) -/
  | admitted
  /-- the rank is not NEXT: the sender asks again (R112, R248) -/
  | retry
  /-- the write is refused with this error code (R118, R126, R242) -/
  | refused (code : Nat)
  deriving DecidableEq, Repr

/-- How the peer answers an open request (R284, R285). -/
inductive OpenVerdict where
  | accepted (mlen qcred rcred : Nat)
  | notReady
  | refused (cause : Nat)
  deriving DecidableEq, Repr

/-- What a packet carries.  `id` is the number by which a sender knows its own command. -/
inductive Body where
  /-- a neighbour-write request (R121, R244) -/
  | nwrRequest (id slot off len op rank : Nat) (land : Bool)
  /-- the owner's answer to a request -/
  | nwrAdmission (id slot : Nat) (v : NwVerdict)
  /-- a run of the write's data, at most 1,024 B (R275), `last` in the last of them -/
  | nwrData (id slot off : Nat) (op : Nat) (land : Bool) (last : Bool) (data : List TByte)
  /-- every byte has been performed (R121) -/
  | nwrAck (id : Nat)
  /-- a credit for a slot of the granting core (R122) -/
  | nwrCredit (slot : Nat)
  /-- a request for the unused credits of a slot (R123) -/
  | nwrRevoke (slot : Nat)
  /-- the credits returned (R123) -/
  | nwrReturn (slot n : Nat)
  /-- an open request with the sender's MLEN (R284) -/
  | openReq (ch mlen : Nat)
  | openReply (ch : Nat) (v : OpenVerdict)
  /-- a close notice; `fromSender` tells the end that closed (R287) -/
  | closeNotice (ch : Nat) (fromSender : Bool)
  /-- a packet of a channel message: the header (R290), the ring offset of its record and the units of the pad record before it
  (0 when there is none, R292), and the message's data from byte `pos` on, at most 1,024 B of it (R294) -/
  | message (hdr : BitVec 128) (ringOff padUnits pos : Nat) (data : List TByte)
  /-- the delivery acknowledgement of a message (R294) -/
  | deliveryAck (ch mseq : Nat)
  /-- queue credits and ring units returned (R293) -/
  | chanCredit (ch q units : Nat)
  /-- a drain probe naming a release and the acquire scope (R138) -/
  | probe (seq scope : Nat)
  | probeReply (seq scope : Nat)
  /-- a digest report of a slot's fill to the vane collector (R385) -/
  | vaneReport (entry occ ctx : Nat) (digest : BitVec 64)
  /-- a core's request for a cellar line of another cluster: the transfer, the cellar address, the bytes, whether it stores (R17,
  R258) -/
  | lineReq (id addr n : Nat) (wr : Bool)
  /-- the line that answers it, or that it has been stored -/
  | lineAck (id addr n : Nat) (wr : Bool)
  /-- traffic whose effect is a command of its own (a register access, a poll, a flag word, the stream engine's lines): the kiln
  or cellar address, and its bytes of data (R275, R276) -/
  | other (addr bytes : Nat)
  deriving DecidableEq, Repr

/-- A packet of the mesh (R275). -/
structure Packet where
  src : Node
  dst : Node
  body : Body
  deriving DecidableEq, Repr

/-- The beat marker's payload (R313). -/
structure Marker where
  beat : BitVec 64
  depart : Nat
  period : Nat
  masterId : Nat
  hops : Nat
  state : Nat
  deriving DecidableEq, Repr

/-- What a CONTROL cell carries (R309, R314, R326). (DESIGN CHOICE, log 81) -/
inductive Control where
  /-- an echo request for the delay measurement, and the reply to one (R314) -/
  | echo
  | echoReply
  /-- the peer's device identifier, port, protocol version and beat period (R326) -/
  | peer (dev port version period : Nat)
  /-- a change to the lanes of this set (R326) -/
  | width (lanes : BitVec 4)
  /-- the peer has gone DOWN (R326, R329) -/
  | down
  deriving DecidableEq, Repr

/-- Why a received cell is bad (R309, R321). (DESIGN CHOICE, log 75) -/
inductive BadCell where
  /-- an uncorrectable FEC codeword, with the symbol errors of its lanes -/
  | fec (symErr : List Nat)
  /-- the header check failed -/
  | hcrc
  /-- a reserved TYPE -/
  | reservedType
  deriving DecidableEq, Repr

/-- Where a due refresh burst falls: the tier, and the place within the beat that the quiet window looks at (R263, R266). -/
structure BurstTime where
  tier : Nat
  off : Nat
  deriving DecidableEq, Repr

/-- What meets a cell that the port is about to send: whether an unassigned cell has room in the group, and how many bits of each word of
the packet's data are in error as it leaves the mesh (R54, R312, R318). (DESIGN CHOICE, log 75) -/
structure CellStart where
  room : Bool
  errs : List Nat
  deriving DecidableEq, Repr

/-- One access of the kiln through an aperture or window (R442, R464). -/
inductive KilnAccess where
  | read (off size : Nat)
  | write (off : Nat) (data : List (BitVec 8))
  deriving DecidableEq, Repr

/-- Where an access of the kiln is aimed: an offset in the carve-out's window, one in the full cellar aperture, or an address of the kiln's
physical map, which holds both and every other region (R251, R442). -/
inductive KilnView where
  | carve
  | aperture
  | map
  deriving DecidableEq, Repr

/-- What is written to a register of the window, by the width of the access (R465): 32 bits, 64 bits, or a number of bytes of another width. -/
inductive RegData where
  | w32 (v : BitVec 32)
  | w64 (v : BitVec 64)
  | other (bytes : Nat)
  deriving DecidableEq, Repr

/-- A wait that the command timeout ends (R93). -/
inductive WaitRef where
  /-- the sequencer's slot wait (STALL 9) -/
  | seq (c : Nat)
  /-- the command numbered `id` of a unit's queue -/
  | command (c unit id : Nat)
  /-- the matrix drain's wait for the adjunct unit (R189) -/
  | drain (c : Nat)
  /-- the stream engine's descriptor write into a slot that does not take it (R353) -/
  | streamWrite (x : Nat)
  /-- a step's result flag (R354) -/
  | stepFlag (x : Nat)
  deriving DecidableEq, Repr

/-- A unit whose function reset is under way (R407). -/
inductive ResetTarget where
  | engine (c unit : Nat)
  | core (c : Nat)
  | cluster (n : Nat)
  | port (p : Nat)
  | streamEngine
  | vane
  | mgmt
  | kiln
  deriving DecidableEq, Repr

/-- What the governor reads at its tick (R428): the input voltage in mV, the 1 ms averages of input power in W and of input
current in mA, the newest first, the power over TAU1, and each rail's energy since the last tick in µJ. -/
structure PowerReadings where
  vinMv : Nat
  pinW : List Nat
  iinMa : List Nat
  pinTau1 : Nat
  energy : List Nat
  deriving DecidableEq, Repr

/-- What the boot ROM samples and finds (R445, R448, R457): BOOT_SEL high, FORCE_RECOVERY_N asserted, the flash responds, and the leaf ranges
whose fuses would not read back burnt. -/
structure BootInputs where
  bootSel : Bool
  forceRecovery : Bool
  flashOk : Bool
  weak : List Nat := []
  deriving DecidableEq, Repr

/-- A PTP time (R450). -/
structure PtpTime where
  sec : Nat
  ns : Nat
  deriving DecidableEq, Repr

/-- The commands of the block, one per row of spec/opcode_table.json, in the table's order. -/
inductive Instr where
  /-- NOP (R238): Issues an instruction that takes one issue slot and does nothing. -/
  | nop (c : Nat) (w : BitVec 128)
  /-- END (R71): Issues END, which waits until every queue of the core is empty and every engine is idle. -/
  | endI (c : Nat) (w : BitVec 128)
  /-- END_COMPLETE (R71): Once the core's engines and gather buffer are empty, the sequencer enters HALTED and raises the completion interrupt. -/
  | endComplete (c : Nat)
  /-- BR (R83): Issues a branch, which jumps to an absolute index when taken and faults with cause 0x03 on an out-of-range target. -/
  | br (c : Nat) (w : BitVec 128)
  /-- LOOP (R84): Issues LOOP, which opens a loop level or skips the body when the count is zero. -/
  | loop (c : Nat) (w : BitVec 128)
  /-- LPREM (R86): Copies the remaining count of a loop level into a counter. -/
  | lprem (c : Nat) (w : BitVec 128)
  /-- CSET (R238): Sets a counter from a 32-bit immediate. -/
  | cset (c : Nat) (w : BitVec 128)
  /-- CADD (R238): Adds a signed immediate or another counter to a counter, modulo 2^32. -/
  | cadd (c : Nat) (w : BitVec 128)
  /-- CMOV (R238): Copies one counter into another. -/
  | cmov (c : Nat) (w : BitVec 128)
  /-- CLD (R80): Issues a counter load from a tun word, which waits until the covering slot is FULL. -/
  | cld (c : Nat) (w : BitVec 128)
  /-- CLD_COMPLETE (R80): A pending counter load delivers its word, and instructions that read that counter may then issue. -/
  | cldComplete (c k : Nat)
  /-- CST (R107): Stores a counter to a tun word through the core's gather buffer. -/
  | cst (c : Nat) (w : BitVec 128)
  /-- CMPCFG (R81): Configures a comparator, which then drives its predicate continuously. -/
  | cmpcfg (c : Nat) (w : BitVec 128)
  /-- TDSET (R79): Writes one field of a tile descriptor from an immediate. -/
  | tdset (c : Nat) (w : BitVec 128)
  /-- TDADD (R79): Adds a signed value to a descriptor's BASE, modulo 2^22. -/
  | tdadd (c : Nat) (w : BitVec 128)
  /-- TDLOAD (R79): Copies up to 16 tile descriptors from the tun, reading through the slot interlock. -/
  | tdload (c : Nat) (w : BitVec 128)
  /-- OVL (R90): Reads an overlay entry, marks its blocks LOADING and queues the overlay load. -/
  | ovl (c : Nat) (w : BitVec 128)
  /-- OVL_LOAD_DONE (R90): An overlay load writes its last instruction, and its blocks become VALID so that waiting fetches resume. -/
  | ovlLoadDone (c id : Nat)
  /-- IMAGE_LOAD (R67): The loader's image-load command is accepted, and the blocks it covers become LOADING. -/
  | imageLoad (c first nblk src : Nat)
  /-- IMAGE_LOAD_DONE (R71): Every block of an image load becomes VALID, and the sequencer returns from LOADING to IDLE. -/
  | imageLoadDone (c id : Nat)
  /-- WAITB (R49): The core arrives at a beat fence and either waits for its target beat or records an overrun. -/
  | waitb (c : Nat) (w : BitVec 128)
  /-- OVERRUN_LIMIT (R52): The consecutive-overrun count exceeds the limit, and the core's context faults with OVERRUN_LIMIT. -/
  | overrunLimit (c : Nat)
  /-- FENCE_MET (R49): The core's beat copy reaches the fence target, issue resumes in the next cycle, and the consecutive-overrun count is reset. -/
  | fenceMet (c : Nat)
  /-- CWAIT (R239): Issues a wait on a cellar tag. -/
  | cwait (c : Nat) (w : BitVec 128)
  /-- CWAIT_COMPLETE (R239): Every transfer issued earlier under the tag has completed, and the CWAIT completes. -/
  | cwaitComplete (c : Nat)
  /-- WAITARR (R125): Issues a wait until an arrival counter reaches n. -/
  | waitarr (c : Nat) (w : BitVec 128)
  /-- WAITARR_MET (R125): The arrival counter reaches n, and the sequencer resumes with every counted landing write visible. -/
  | waitarrMet (c : Nat)
  /-- QUEUE_FULL_RESUME (R74): A full engine command queue frees an entry, and the stalled issue resumes. -/
  | queueFullResume (c : Nat)
  /-- UNDEFINED_OPCODE (R98): An instruction with an undefined opcode reaches issue and faults the context with ILLEGAL_INSTR, cause 0x01. -/
  | undefinedOpcode (c : Nat) (w : BitVec 128)
  /-- FLUSH (R108): Writes every gather entry that holds a byte of the range and completes when those entries are performed. -/
  | flush (c : Nat) (w : BitVec 128)
  /-- REL (R133): Queues a release of the given scope and target to the synchronisation unit. -/
  | rel (c : Nat) (w : BitVec 128)
  /-- REL_TOKEN_DELIVERY (R133): Once every covered earlier write has been performed, the release delivers its token to a slot, a flag word or a channel. -/
  | relTokenDelivery (c : Nat)
  /-- ACQ (R137): Holds issue until a flag word holds a token whose VALUE has reached expect. -/
  | acq (c : Nat) (w : BitVec 128)
  /-- ACQ_CELLAR_POLL (R137): Every 64 cycles, an acquire on a cellar flag word reads the word again. -/
  | acqCellarPoll (c : Nat)
  /-- DRAIN_PROBE_ARRIVE (R138): A drain probe from an acquirer reaches the releaser's synchronisation unit. -/
  | drainProbeArrive (p : Packet)
  /-- DRAIN_PROBE_REPLY (R139): The releaser's writes within the probe's scope have been performed, and it replies to the probe. -/
  | drainProbeReply (c i : Nat)
  /-- ACQUIRE_COMPLETE (R138): The acquire completes when the token is observed or, for an escalation, when the probe reply arrives. -/
  | acquireComplete (c : Nat) (reply : Option Packet)
  /-- SLSET (R115): Writes a slot descriptor, and optionally sets its state, once the slot is quiet. -/
  | slset (c : Nat) (w : BitVec 128)
  /-- GRANT (R122): Issues a credit grant to a neighbour for a slot. -/
  | grant (c : Nat) (w : BitVec 128)
  /-- CREDIT_GRANTED (R122): The slot's conditions allow the grant, CRDOUT increments and the credit is sent to the neighbour. -/
  | creditGranted (c : Nat)
  /-- NW_CREDIT_ARRIVE (R122): A credit from a neighbour arrives at the sender's synchronisation unit. -/
  | nwCreditArrive (p : Packet)
  /-- REVOKE (R123): Asks a neighbour to return its unused credits for a slot. -/
  | revoke (c : Nat) (w : BitVec 128)
  /-- NW_CREDIT_RETURN (R123): Returned credits reach the owner, CRDOUT is reduced and the REVOKE completes. -/
  | nwCreditReturn (p : Packet)
  /-- ARRSET (R125): Sets an arrival counter. -/
  | arrset (c : Nat) (w : BitVec 128)
  /-- CFETCH (R243): Queues a cellar-to-tun transfer in the decoupling queue. -/
  | cfetch (c : Nat) (w : BitVec 128)
  /-- CSTORE (R243): Queues a tun-to-cellar transfer in the decoupling queue. -/
  | cstore (c : Nat) (w : BitVec 128)
  /-- CELLAR_LINE_REQUEST (R254): A 64 B line request reaches its slice controller, which checks the extent's owner entry and either serves the request or refuses it with BAD_ADDR. -/
  | cellarLineRequest (c id line : Nat)
  /-- CELLAR_LINE_RETURN (R258): A cellar line is performed at its destination, with poison marked if the word was uncorrectable. -/
  | cellarLineReturn (c id line : Nat)
  /-- NWR (R121): Issues a neighbour write, which opens with a request to the owner. -/
  | nwr (c : Nat) (w : BitVec 128)
  /-- NWR_REQUEST_ARRIVE (R121): A neighbour-write request reaches the owner, which admits it, makes it wait, or refuses it. -/
  | nwrRequestArrive (p : Packet)
  /-- NWR_RANK_RETRY (R112): The sender's data mover repeats a request that the owner refused for rank order, 64 cycles after the refusal. -/
  | nwrRankRetry (c id : Nat)
  /-- NWR_DATA_ARRIVE (R124): Neighbour-write data is performed in the owner's tun, plain or accumulated, and a landing write increments its arrival counter. -/
  | nwrDataArrive (p : Packet)
  /-- NWR_ACK (R121): The owner's acknowledgement reaches the sender, and the sender's NWR command completes. -/
  | nwrAck (p : Packet)
  /-- TCOPY (R243): Copies bytes within the core's own tun. -/
  | tcopy (c : Nat) (w : BitVec 128)
  /-- OPEN_RECEIVE_END (R283): OPEN with ROLE 1 binds a receiving end to a queue and a ring, and the channel enters LISTEN. -/
  | openReceiveEnd (c : Nat) (w : BitVec 128)
  /-- OPEN_SEND_END (R284): OPEN with ROLE 0 sends an open request to the peer, and the channel enters OPENING. -/
  | openSendEnd (c : Nat) (w : BitVec 128)
  /-- OPEN_REQUEST_ARRIVE (R284): An open request reaches the peer end, which accepts it, answers not ready, or refuses it. -/
  | openRequestArrive (p : Packet)
  /-- OPEN_REPLY_ARRIVE (R284): The peer's answer reaches the sending end, which enters OPEN or faults with CHAN_REFUSED. -/
  | openReplyArrive (p : Packet)
  /-- OPEN_RETRY (R284): 256 cycles after a not-ready answer, the sending end repeats its open request. -/
  | openRetry (c id : Nat)
  /-- CLOSE (R287): Closes a channel end, after the earlier sends at a sending end, or by discarding unreceived messages at a receiving end. -/
  | close (c : Nat) (w : BitVec 128)
  /-- CLOSE_NOTICE_ARRIVE (R287): A close notice reaches the other end, which moves to PEER_CLOSED or CLOSED. -/
  | closeNoticeArrive (p : Packet)
  /-- SEND (R294): Issues a message send on a channel. -/
  | send (c : Nat) (w : BitVec 128)
  /-- SEND_START (R294): A send at the head of the channel queue gains the queue and ring credit it needs and starts sending packets. -/
  | sendStart (c : Nat)
  /-- SENDT (R295): Sends a message if credit is held, and otherwise completes at once with status 1. -/
  | sendt (c : Nat) (w : BitVec 128)
  /-- MESSAGE_ARRIVE (R294): A message's data reaches the receiving end, which writes the ring record and then the queue entry, or discards the message if the channel is closed. -/
  | messageArrive (p : Packet)
  /-- DELIVERY_ACK_ARRIVE (R294): The delivery acknowledgement reaches the sender, and the SEND completes. -/
  | deliveryAckArrive (p : Packet)
  /-- RECV (R296): Issues a receive of the oldest message of a channel. -/
  | recv (c : Nat) (w : BitVec 128)
  /-- RECV_TAKE (R296): A message of the channel is available, and the receive copies it to the tun and sets CA. -/
  | recvTake (c id : Nat)
  /-- CHANNEL_CREDIT_RETURN (R293): Queue and ring credits returned by the receiving end reach the sender. -/
  | channelCreditReturn (p : Packet)
  /-- MMUL (R171): Issues a matrix multiply, checked at issue and queued to the matrix engine. -/
  | mmul (c : Nat) (w : BitVec 128)
  /-- MDRAIN (R181): Closes and drains an open chain. -/
  | mdrain (c : Nat) (w : BitVec 128)
  /-- COLUMN_GROUP_DRAIN (R179): The drain finishes a column group: it scales, converts, writes and merges flags. -/
  | columnGroupDrain (c : Nat)
  /-- ABIND (R187): Reads the adjunct row map from the tun. -/
  | abind (c : Nat) (w : BitVec 128)
  /-- ACORR (R187): Reads a segment list and computes adjunct corrections for the paired MMUL. -/
  | acorr (c : Nat) (w : BitVec 128)
  /-- ADJUNCT_GROUP_DONE (R189): The adjunct unit completes a column group's corrections, which releases that group's drain. -/
  | adjunctGroupDone (c : Nat)
  /-- VCFG (R196): Sets the vector engine to the full or the split configuration once earlier vector commands have completed. -/
  | vcfg (c : Nat) (w : BitVec 128)
  /-- VADD (R204): Elementwise addition. -/
  | vadd (c : Nat) (w : BitVec 128)
  /-- VSUB (R204): Elementwise subtraction. -/
  | vsub (c : Nat) (w : BitVec 128)
  /-- VMUL (R204): Elementwise multiplication. -/
  | vmul (c : Nat) (w : BitVec 128)
  /-- VFMA (R204): Elementwise fused multiply-add, rounded once. -/
  | vfma (c : Nat) (w : BitVec 128)
  /-- VMIN (R204): Elementwise minimum. -/
  | vmin (c : Nat) (w : BitVec 128)
  /-- VMAX (R204): Elementwise maximum. -/
  | vmax (c : Nat) (w : BitVec 128)
  /-- VABS (R204): Elementwise absolute value. -/
  | vabs (c : Nat) (w : BitVec 128)
  /-- VNEG (R204): Elementwise negation. -/
  | vneg (c : Nat) (w : BitVec 128)
  /-- VCVT (R166): Converts a tile into D's format, including the formation of MX blocks. -/
  | vcvt (c : Nat) (w : BitVec 128)
  /-- VCMP (R204): Elementwise comparison into UINT8. -/
  | vcmp (c : Nat) (w : BitVec 128)
  /-- VSEL (R204): Elementwise selection by an integer mask. -/
  | vsel (c : Nat) (w : BitVec 128)
  /-- VPOLY (R205): Evaluates a polynomial by Horner's rule. -/
  | vpoly (c : Nat) (w : BitVec 128)
  /-- VFST (R214): Writes VFLAGS to a tun word when it completes. -/
  | vfst (c : Nat) (w : BitVec 128)
  /-- VFCLR (R214): Clears VFLAGS when it completes. -/
  | vfclr (c : Nat) (w : BitVec 128)
  /-- VRED (R206): Reduces rows or columns by SUM, SUMSQ, MAX, MIN, ARGMAX or ARGMIN. -/
  | vred (c : Nat) (w : BitVec 128)
  /-- VEXP2 (R211): Computes 2^a. -/
  | vexp2 (c : Nat) (w : BitVec 128)
  /-- VLOG2 (R211): Computes log2 a. -/
  | vlog2 (c : Nat) (w : BitVec 128)
  /-- VRCP (R211): Computes the reciprocal. -/
  | vrcp (c : Nat) (w : BitVec 128)
  /-- VRSQRT (R211): Computes the reciprocal square root. -/
  | vrsqrt (c : Nat) (w : BitVec 128)
  /-- VSQRT (R211): Computes the square root. -/
  | vsqrt (c : Nat) (w : BitVec 128)
  /-- VDIV (R211): Computes a divided by b. -/
  | vdiv (c : Nat) (w : BitVec 128)
  /-- VTANH (R211): Computes the hyperbolic tangent. -/
  | vtanh (c : Nat) (w : BitVec 128)
  /-- VSIGM (R211): Computes the logistic sigmoid. -/
  | vsigm (c : Nat) (w : BitVec 128)
  /-- VRNG (R217): Fills D with Philox draws keyed by the row records. -/
  | vrng (c : Nat) (w : BitVec 128)
  /-- VTOPK (R219): Selects the k largest elements and their indices for each row. -/
  | vtopk (c : Nat) (w : BitVec 128)
  /-- VSAMPLE (R220): Samples one candidate per row from a candidate list. -/
  | vsample (c : Nat) (w : BitVec 128)
  /-- VECTOR_CMD_COMPLETE (R213): A vector command completes, which performs its slot completions and merges its flags into VFLAGS. -/
  | vectorCmdComplete (c : Nat)
  /-- SLOT_ADMISSION (R114): A waiting command is admitted to its slots, in wait order, and starts. -/
  | slotAdmission (c unit id : Nat)
  /-- PRODUCER_DONE (R111): A producer completes, DONE increments, and the slot becomes FULL when DONE reaches NCONTRIB. -/
  | producerDone (c slot : Nat)
  /-- COUNTED_READ_DONE (R111): A counted read completes, and the slot becomes EMPTY with GEN incremented when every read has finished. -/
  | countedReadDone (c slot : Nat)
  /-- WAIT_TIMEOUT (R94): A sequencer wait reaches the wait timeout, and the context faults with CMD_TIMEOUT. -/
  | waitTimeout (c : Nat)
  /-- COMMAND_TIMEOUT (R93): An engine, endpoint or stream-engine wait reaches the command timeout, and the context faults with SLOT_TIMEOUT, SEND_TIMEOUT or CMD_TIMEOUT. -/
  | commandTimeout (w : WaitRef)
  /-- CORE_START (R434): The ramp limiter admits an ARMED core whose start beat has been reached, and the core enters RUNNING or is deferred. -/
  | coreStart (c : Nat)
  /-- START (R72): A write of START arms the sequencer and loads the program counter. -/
  | start (c : Nat)
  /-- HOLD_SET (R71): Setting HOLD stops issue at an instruction boundary and moves the sequencer to HELD. -/
  | holdSet (c : Nat)
  /-- HOLD_CLEAR (R73): Clearing HOLD resumes issue. -/
  | holdClear (c : Nat)
  /-- IM_DEBUG_WRITE (R70): A kiln write through the instruction-memory window is accepted, which makes its block VALID, or is rejected. -/
  | imDebugWrite (c off size : Nat) (v : BitVec 64)
  /-- TILE_DESC_WINDOW_WRITE (R471): A kiln write to the tile-descriptor window is accepted or discarded according to the sequencer's state. -/
  | tileDescWindowWrite (c off size : Nat) (v : BitVec 64)
  /-- SLOT_DESC_WINDOW_WRITE (R145): A kiln write to the slot-descriptor window is checked and accepted, or discarded. -/
  | slotDescWindowWrite (c off size : Nat) (v : BitVec 64)
  /-- FLUSH_ALL (R144): A register write that writes every gather entry to its bank. -/
  | flushAll (c : Nat)
  /-- KPROBE_GO (R142): The kiln sends a drain probe to a releasing core. -/
  | kprobeGo (c : Nat) (v : BitVec 32)
  /-- TUN_APERTURE_ACCESS (R102): A kiln access to a tun aperture reads or writes a tun word, or returns an access fault. -/
  | tunApertureAccess (c : Nat) (k : KilnAccess)
  /-- CELLAR_APERTURE_ACCESS (R251): A kiln access to the carve-out or to the full cellar aperture is checked and served, or faulted. -/
  | cellarApertureAccess (full : KilnView) (machine : Bool) (k : KilnAccess)
  /-- PACKET_HOP (R275): A mesh packet passes a router, which checks and corrects its header or discards it as MESH_HDR. -/
  | packetHop (x y inPort : Nat) (p : Packet) (bitErrors : Nat)
  /-- EXT_OWN_WRITE (R255): A write to an extent owner entry changes the owner for requests that arrive later. -/
  | extOwnWrite (n idx : Nat) (v : BitVec 32)
  /-- EXTENT_SCRUB_START (R256): A write of KIND 5 queues or starts the zeroing scrub of an extent. -/
  | extentScrubStart (n ext : Nat)
  /-- EXTENT_SCRUB_DONE (R256): An extent scrub writes its last word, the entry becomes FREE, and the scrub interrupt is raised. -/
  | extentScrubDone (n : Nat)
  /-- REFRESH_BURST (R263): A due refresh burst occupies a tier for 20 ns and scrubs the words it rewrites. -/
  | refreshBurst (n : Nat) (tier : BurstTime)
  /-- FORCED_BURST (R266): A burst postponed by the quiet window for more than 4.096 µs runs at once and raises the forced-burst interrupt. -/
  | forcedBurst (n tier : Nat)
  /-- REF_POLICY_WRITE (R264): A change of refresh policy takes effect at the next beat edge. -/
  | refPolicyWrite (n : Nat) (v : BitVec 2)
  /-- BEAT_EDGE (R32): A beat edge increments the beat counter and the regional copies, and applies the effects tied to edges. -/
  | beatEdge (tick : Nat)
  /-- BEAT_ENABLE (R485): A write of EN = 1 takes the beat unit from DISABLED to ACQUIRE. -/
  | beatEnable
  /-- BEAT_DISABLE (R485): A write of EN = 0 stops the beat at the next edge, unless some context is not FREE. -/
  | beatDisable
  /-- BEAT_START (R34): The start command of an internal master starts the counter from the load value at the next edge. -/
  | beatStart
  /-- CLR_FAULT (R484): Clears a beat-unit fault and returns the unit to ACQUIRE. -/
  | clrFault
  /-- BEATREF_EDGE (R35): A sampled BEATREF rising edge makes a master's beat edge, and with BEATSYNC in ACQUIRE loads the counter. -/
  | beatrefEdge (tick : Nat) (sync : Bool)
  /-- REFERENCE_MISS (R36): BEATREF fails to arrive at the predicted tick, and the master counts a miss and makes its edge at that tick. -/
  | referenceMiss (tick : Nat)
  /-- MASTER_HOLDOVER (R36): After four consecutive reference misses, the master enters HOLDOVER on its internal source. -/
  | masterHoldover
  /-- MARKER_RECEIVE (R313): A marker cell arrives, and the beat unit stamps it and steers its edge, or faults on a number or period mismatch. -/
  | markerReceive (port : Nat) (m : Marker) (arrival : Int)
  /-- BEAT_LOCK (R40): Eight consecutive markers within 0.5 ns, or a master's alignment condition, move the unit to LOCKED. -/
  | beatLock
  /-- LOCK_TIMEOUT (R40): A disciplined device that is not LOCKED within 4,096 beats enters FAULT and logs BEAT_LOSS. -/
  | lockTimeout
  /-- MARKER_LOSS (R40): Markers missing or more than 16 ns off for four consecutive beats move a disciplined device to HOLDOVER. -/
  | markerLoss
  /-- FSW_GO (R423): A frequency-switch request is checked, then accepted with its ramp charge reserved, or refused with a cause. -/
  | fswGo
  /-- SWITCH_BEAT (R60): At the switch beat's edge, every generator changes frequency or re-phases, and CUR_FREQ and FSW_DONE are set. -/
  | switchBeat
  /-- VDD_SET_WRITE (R421): A core-voltage setting is checked against V(f) and the converters begin to slew. -/
  | vddSetWrite (mv : Nat)
  /-- VDD_SETTLED (R421): The quadrants settle within 5 mV of VDD_SET, and V_OK becomes 1. -/
  | vddSettled
  /-- GOVERNOR_TICK (R428): Every GOV_PERIOD beats, the governor chooses a frequency step, voltage and activity cap. -/
  | governorTick (r : PowerReadings)
  /-- GUST (R422): Supply droop below DROOP_MV makes a generator stretch its next period, unless the gust window is saturated. -/
  | gust (region : Nat) (newWindow : Bool)
  /-- SENSOR_CONVERSION (R425): Every 10 µs the temperature sensors convert, and the readings go to the governor and the cellar controllers. -/
  | sensorConversion (readings : List Nat)
  /-- PS_REQ_STANDBY (R419): A write of PS_REQ = 1 moves the module to STANDBY when every context is FREE, or is refused. -/
  | psReqStandby
  /-- PS_REQ_IDLE (R419): A write of PS_REQ = 2 turns rails on, zeroes the core memories, ungates the cores and starts port training. -/
  | psReqIdle
  /-- POWER_STATE_DONE (R419): A requested power-state change completes, PS_BUSY clears and the GOV interrupt is raised. -/
  | powerStateDone
  /-- ENGINE_FRESET (R407): Starts the function reset of one engine of a core. -/
  | engineFreset (c unit : Nat)
  /-- CORE_FRESET (R407): Starts a core function reset. -/
  | coreFreset (c : Nat)
  /-- CLUSTER_FRESET (R407): Starts a cluster function reset, which resets its cores and realigns its crossings. -/
  | clusterFreset (n : Nat)
  /-- PORT_FRESET (R329): Starts a link port function reset, which discards every buffered cell. -/
  | portFreset (p : Nat)
  /-- STREAM_ENGINE_FRESET (R407): Starts a stream engine reset, which frees every stream and version. -/
  | streamEngineFreset
  /-- VANE_FRESET (R389): Starts a vane reset, which discards open occurrences and clears EN. -/
  | vaneFreset
  /-- MGMT_PORT_FRESET (R407): Starts a reset of the management port's link. -/
  | mgmtPortFreset
  /-- KILN_FRESET (R407): Restarts the kiln from the boot ROM. -/
  | kilnFreset (inp : BootInputs)
  /-- FRESET_DONE (R407): A function reset completes, and RESET_ACTIVE clears. -/
  | fresetDone (t : ResetTarget)
  /-- CHIP_RESET_KEEP_KILN (R482): A keyed chip reset resets every fabric page while the kiln stays up. -/
  | chipResetKeepKiln (key : BitVec 8)
  /-- CHIP_RESET_RESTART_KILN (R482): A keyed chip reset also restarts the kiln and returns the module to STANDBY. -/
  | chipResetRestartKiln (key : BitVec 8)
  /-- CHIP_RESET_DONE (R482): Cellar recalibration and every fabric page finish, and RST_BUSY clears. -/
  | chipResetDone
  /-- INPUT_POWER_APPLIED (R500): The input rises, and the standby converter brings up VSB33 and VDD_AON, which enters AUX. -/
  | inputPowerApplied (slotId : BitVec 4)
  /-- INPUT_POWER_REMOVED (R418): The input is removed, and the module goes OFF. -/
  | inputPowerRemoved
  /-- PWR_EN_ASSERT (R500): PWR_EN is asserted, and the rails of STANDBY rise in order. -/
  | pwrEnAssert
  /-- PWR_EN_DEASSERT (R502): PWR_EN is deasserted, the rails fall in reverse order, and latched faults clear. -/
  | pwrEnDeassert
  /-- RAILS_POWER_GOOD (R500): The rails of STANDBY reach power-good. -/
  | railsPowerGood
  /-- RAIL_FAULT (R501): A rail fails to reach power-good within 50 ms or leaves regulation, and the module turns its rails off and latches MOD_FAULT_N. -/
  | railFault
  /-- MOD_RESET_ASSERT (R495): MOD_RESET_N is asserted for 1 µs or more and starts a chip reset that restarts the kiln. -/
  | modResetAssert
  /-- INTERNAL_RESET_RELEASE (R500): Once MOD_RESET_N is released and power-good has held for 10 ms, the straps are sampled and the boot ROM runs. -/
  | internalResetRelease (b : BootInputs)
  /-- REFCLK_LOSS (R497): REFCLK is absent for more than 10 µs, and MOD_FAULT_N is asserted. -/
  | refclkLoss
  /-- WDOG_KICK (R441): Reloads the selected kiln watchdogs. -/
  | wdogKick (mask : BitVec 8)
  /-- WDOG_FIRST_EXPIRY (R441): A kiln watchdog expires for the first time and raises its interrupt. -/
  | wdogFirstExpiry (k : Nat)
  /-- WDOG_SECOND_EXPIRY (R441): A watchdog expires again, which logs KILN_WDOG and asserts the fault and alert pins, and may restart the kiln. -/
  | wdogSecondExpiry (k : Nat) (b : BootInputs)
  /-- ACTIVATE (R399): Moves a FREE context to ACTIVE. -/
  | activate (x : Nat)
  /-- STOP (R400): Faults an ACTIVE context with KILLED. -/
  | stop (x : Nat)
  /-- CLEAR (R404): Resets every core of a faulted context and returns its in-flight streams to READY. -/
  | clear (x : Nat)
  /-- CLEAR_DONE (R404): Every core of the context reaches IDLE, and the context becomes ACTIVE. -/
  | clearDone (x : Nat)
  /-- RELEASE (R409): Starts the scrub of a faulted context's partition. -/
  | release (x : Nat)
  /-- PARTITION_SCRUB_DONE (R409): Every step of the partition scrub completes, and the context becomes FREE. -/
  | partitionScrubDone (x : Nat)
  /-- ERR_CLR (R472): Clears a page's first-error fields. -/
  | errClr (page : Nat)
  /-- GFE_CLR (R483): Clears the global first-error log. -/
  | gfeClr
  /-- INT_SET (R472): Sets the chosen INT_STAT bits of a page. -/
  | intSet (page : Nat) (mask : BitVec 32)
  /-- CNT_VAL_LO_READ (R477): A read of the low half of a count latches its high half into CNT_VAL_HI. -/
  | cntValLoRead (page : Nat)
  /-- MOD_FAULT_WRITE (R483): A write of MOD_FAULT asserts or releases MOD_FAULT_N. -/
  | modFaultWrite (v : Bool)
  /-- MOD_READY_WRITE (R461): A write of MOD_READY drives the MOD_READY pin. -/
  | modReadyWrite (v : Bool)
  /-- DEV_ID_WRITE (R479): The first write of DEV_ID after chip reset sets this device's identifier and DEV_ID_VALID. -/
  | devIdWrite (v : BitVec 32)
  /-- SETTINGS_WRITE (R480): A write of EXACT, FTZ or DRND changes SETTINGS_FP. -/
  | settingsWrite (v : BitVec 32)
  /-- OS_OWNS_WRITE (R451): Setting OS_OWNS hands the management port from the ROM's protocol to Swikiov. -/
  | osOwnsWrite (v : Bool)
  /-- REGISTER_WRITE (R13): A write to a register field without behaviour of its own acts as its access code sets out. -/
  | registerWrite (off : Nat) (v : RegData)
  /-- TRAIN_EN_WRITE (R330): Setting TRAIN_EN starts port training, and clearing it sends the port to DISABLED. -/
  | trainEnWrite (p : Nat) (v : Bool)
  /-- RESTORE (R328): Trains a degraded port's dropped lanes and then widens it, or sets RESTORE_FAIL. -/
  | restore (p : Nat)
  /-- RESTORE_TRAIN_TIMEOUT (R328): A dropped lane fails to train within 1 s, and RESTORE ends with RESTORE_FAIL set. -/
  | restoreTrainTimeout (p : Nat)
  /-- LANE_TRAINING_DONE (R326): Training completes on a usable width, and the port enters ALIGN. -/
  | laneTrainingDone (p : Nat) (lanes : BitVec 4)
  /-- NARROW_WIDTH_TIMEOUT (R326): With a narrower width trained and no further lane trained within 200 ms, the port enters ALIGN. -/
  | narrowWidthTimeout (p : Nat)
  /-- TRAINING_TIMEOUT (R326): No width trains within 1 s, and the port goes DOWN with cause 3. -/
  | trainingTimeout (p : Nat)
  /-- ALIGN_LOCK (R326): Alignment markers lock on every lane in use, and the port enters MEASURE. -/
  | alignLock (p : Nat)
  /-- ALIGN_TIMEOUT (R326): Alignment does not lock within 50 ms, and the port goes DOWN with cause 3. -/
  | alignTimeout (p : Nat)
  /-- DELAY_MEASURED (R314): The four-stamp delay exchange completes, DELAY is updated and a port in MEASURE enters PEER. -/
  | delayMeasured (p t1 t2 t3 t4 : Nat)
  /-- DELAY_REMEASURE (R314): Every 4,096 beats, an UP port measures the link delay again. -/
  | delayRemeasure (p : Nat)
  /-- CONTROL_CELL_RECEIVE (R326): A CONTROL cell arrives carrying the peer identity, a width change or a down notice. -/
  | controlCellReceive (p : Nat) (hdr : BitVec 128) (k : Control)
  /-- DATA_CELL_RECEIVE (R311): A DATA cell is accepted in order, then unpacked into mesh packets, forwarded in transit, or discarded by routing. -/
  | dataCellReceive (p : Nat) (hdr : BitVec 128) (pkts : List Packet)
  /-- BAD_CELL_RECEIVE (R321): A cell with a failed FEC codeword, a failed HCRC or the wrong LSEQ is discarded, and one NAK is sent. -/
  | badCellReceive (p : Nat) (why : BadCell)
  /-- CREDIT_CELL_RECEIVE (R320): A CREDIT cell returns cell credits of one class to the sender. -/
  | creditCellReceive (p : Nat) (unassigned : Bool) (n : Nat)
  /-- ACK_RECEIVE (R321): A cumulative ACK frees acknowledged cells from the replay buffer. -/
  | ackReceive (p lseq : Nat)
  /-- NAK_RECEIVE (R321): A NAK makes the sender resend from the named LSEQ and count a retry. -/
  | nakReceive (p lseq : Nat) (offLanes : Option (BitVec 4))
  /-- IDLE_CELL_RECEIVE (R315): An IDLE cell is received and may be discarded to absorb clock differences. -/
  | idleCellReceive (p : Nat)
  /-- CELL_TRANSMIT (R318): The port starts its next cell, chosen by the order of preference within the current group. -/
  | cellTransmit (p group : Nat) (room : CellStart)
  /-- SLOT_GROUP_END (R54): A slot group ends with cells of its flow not yet sent, and those cells are counted as slot misses. -/
  | slotGroupEnd (p group : Nat)
  /-- ACK_TIMER (R321): The receiver sends a cumulative ACK after 64 accepted cells or 100 ns. -/
  | ackTimer (p : Nat)
  /-- NAK_HOLDOFF_EXPIRE (R321): 1 µs after a NAK without the expected cell arriving, the receiver may send another NAK. -/
  | nakHoldoffExpire (p : Nat)
  /-- ACK_TIMEOUT (R321): With no ACK for 2 µs while cells are outstanding, the sender resends from the oldest and counts a retry. -/
  | ackTimeout (p : Nat) (offLanes : Option (BitVec 4))
  /-- DEGRADE (R322): The fourth consecutive retry, or a lane loss, starts a degrade to a narrower width. -/
  | degrade (p : Nat) (lanes : BitVec 4)
  /-- DEGRADE_DONE (R326): Both ends finish re-striping, and the port returns to UP. -/
  | degradeDone (p : Nat)
  /-- LOSS_OF_SIGNAL (R322): Signal or FEC lock is lost on some lanes or on every lane. -/
  | lossOfSignal (p : Nat) (lost : BitVec 4)
  /-- PORT_DOWN (R329): The port enters DOWN, discards its buffered cells, logs LINK_DOWN and sends a down notice. -/
  | portDown (p cause : Nat)
  /-- DOWN_HOLD_EXPIRE (R326): 10 ms after entering DOWN, a port whose TRAIN_EN is 1 retrains. -/
  | downHoldExpire (p : Nat)
  /-- ROUTE_TABLE_WRITE (R331): A route-table entry is written and copied to every port and endpoint. -/
  | routeTableWrite (n : Nat) (v : BitVec 16)
  /-- CTX_ENABLE (R334): A write of CTX_EN = 1 checks the context's configuration and enables it or sets CFG_REJECT. -/
  | ctxEnable (x : Nat)
  /-- CTX_DISABLE (R372): Clearing CTX_EN stops step formation after the steps in flight. -/
  | ctxDisable (x : Nat)
  /-- COMMAND_SUBMIT (R341): The write of CMD_W15 places a 64 B command in the context's FIFO, or drops it when the FIFO is full. -/
  | commandSubmit (x : Nat) (w15 : BitVec 32)
  /-- ADMIT (R344): Admits a new stream into READY, or refuses it, possibly preempting SPOT streams. -/
  | streamAdmit (x : Nat)
  /-- APPEND (R343): Gives an IDLE stream new input. -/
  | append (x : Nat)
  /-- STREAM_CLOSE (R343): Ends a stream and frees its pages and version. -/
  | streamClose (x : Nat)
  /-- ADJLOAD (R363): Creates a new latest adjunct version for an identifier, or reports ADJ_REJECT. -/
  | adjload (x : Nat)
  /-- ADJDROP (R363): Removes the latest version of an adjunct identifier. -/
  | adjdrop (x : Nat)
  /-- CMD_BAD (R343): A command with a reserved OP or non-zero reserved bytes is taken, changes nothing and is reported. -/
  | cmdBad (x : Nat)
  /-- STEP_FORMATION (R347): At a step beat, the engine orders ready streams, places them, preempts or delays others and writes the body. -/
  | stepFormation (x : Nat)
  /-- HEAD_WRITE (R353): Once the body is performed, the engine writes the head into each target slot as a producer. -/
  | headWrite (x t : Nat)
  /-- RFLAG_POLL (R354): Every 64 cycles of region 41, the engine reads the context's result flag word. -/
  | rflagPoll (x : Nat)
  /-- STEP_RECORD_WRITE (R366): When ring space covers it, the engine writes the step record and advances OUT_HEAD. -/
  | stepRecordWrite (x : Nat)
  /-- OUT_TAIL_WRITE (R365): Software advances OUT_TAIL, which frees ring space for the waiting engine. -/
  | outTailWrite (v : BitVec 32)
  /-- VANE_ENABLE (R384): A write of EN = 1 checks the tag table and copies its valid entries to the ports, or sets TAB_REJECT. -/
  | vaneEnable
  /-- VANE_DISABLE (R386): Clearing EN closes every open occurrence as INCOMPLETE. -/
  | vaneDisable
  /-- VANE_REPORT_ARRIVE (R386): A digest report reaches the collector and is added to its layer's occurrence. -/
  | vaneReportArrive (p : Packet)
  /-- QUOTE (R460): Signs a nonce and the measurements with the per-boot key. -/
  | quote (nonce : BitVec 256)
  /-- CERT (R460): Returns the current per-boot certificate. -/
  | cert
  /-- EXTEND (R460): Extends a measurement register with data. -/
  | extend (i : Nat) (data : BitVec 256)
  /-- CHALLENGE (R460): Returns a fresh nonce, the serial and the range r. -/
  | challenge
  /-- UNLOCK (R460): Checks an owner-signed token and unlocks debug for the given scope. -/
  | unlock (key : List (BitVec 8)) (scope : Nat) (sig : List (BitVec 8))
  /-- SET_DEBUG (R460): Burns a step of the debug policy. -/
  | setDebug (step : Nat) (sig : List (BitVec 8))
  /-- CLAIM_OWNER (R460): Burns owner key generation 0. -/
  | claimOwner (hash : BitVec 256)
  /-- ROTATE_OWNER (R460): Burns the next owner generation and revokes the old one. -/
  | rotateOwner (hash : BitVec 256) (sig : List (BitVec 8))
  /-- ROTATE_VENDOR (R460): Burns the next vendor generation and revokes the old one. -/
  | rotateVendor (hash : BitVec 256) (sig : List (BitVec 8))
  /-- SET_SVN (R460): Raises the anti-rollback counter. -/
  | setSvn (v : Nat)
  /-- SET_KILN_MEM (R460): Burns the next kiln-memory default generation. -/
  | setKilnMem (code : Nat) (sig : List (BitVec 8))
  /-- UPDATE_BEGIN (R460): Opens writes to the flash image region after the header verifies. -/
  | updateBegin (header : List (BitVec 8))
  /-- UPDATE_END (R460): Closes writes to the flash image region. -/
  | updateEnd
  /-- SEC_COMMAND_END (R460): A security-engine command ends, SEC_RESULT takes its status and the interrupt bit is set. -/
  | secCommandEnd
  /-- RAP_READ (R451): A register-access protocol read frame is served or refused. -/
  | rapRead (sn : BitVec 32) (off : Nat)
  /-- RAP_WRITE (R451): A register-access protocol write frame is served or refused. -/
  | rapWrite (sn : BitVec 32) (off : Nat) (v : BitVec 32)
  /-- RECOVERY_IMAGE_BLOCK (R451): A recovery image block is received over the management port while in recovery. -/
  | recoveryImageBlock (sn : BitVec 32) (off : Nat) (data : List (BitVec 8)) (last : Bool)
  /-- MGMT_FRAME_RECEIVE (R506): A received frame is placed in the frame buffers, with a timestamp for IEEE 1588 events. -/
  | mgmtFrameReceive (off : Nat) (data : List (BitVec 8)) (stamp : Option PtpTime)
  /-- MGMT_FRAME_SENT (R506): The transmission of a management frame completes. -/
  | mgmtFrameSent (stamp : Option PtpTime)
  /-- MGMT_LINK_CHANGE (R506): The management Ethernet link goes up or down. -/
  | mgmtLinkChange (up : Bool)
  /-- STATUS (R452): SMBus command that returns the module status bytes. -/
  | status
  /-- IDENTITY (R452): SMBus command that returns the serial, part, latency identifier and attestation ranges left. -/
  | identity
  /-- READ_FRU (R452): SMBus command that reads the FRU EEPROM. -/
  | readFru (off : BitVec 16)
  /-- TEMP (R452): SMBus command that returns TMAX. -/
  | temp
  /-- POWER (R452): SMBus command that returns the input voltage, current and power. -/
  | power
  /-- FIRST_ERR (R452): SMBus command that returns the global first-error log. -/
  | firstErr
  /-- CLEAR_ALERT (R452): SMBus command that releases SMB_ALERT_N after the alert response. -/
  | clearAlert
  /-- ALERT_RESPONSE (R452): The tray controller reads the SMBus alert response address. -/
  | alertResponse
  /-- KILN_RESTART (R452): SMBus command that restarts the kiln when given 0xA5. -/
  | kilnRestart (b : BitVec 8) (inp : BootInputs)
  /-- NWR_ADMISSION_ARRIVE (R121): The owner's admission or refusal of a neighbour-write request reaches the sender, which then sends its data or faults its context. -/
  | nwrAdmissionArrive (p : Packet)
  /-- REVOKE_REQUEST_ARRIVE (R123): A revoke request reaches the neighbour that holds credits for the slot, and that neighbour returns its unused credits. -/
  | revokeRequestArrive (p : Packet)
  /-- RESTORE_LANES_TRAINED (R328): The dropped lanes of a degraded port finish training under RESTORE, and the port starts its width change through DEGRADING. -/
  | restoreLanesTrained (p : Nat)
  /-- LANE_ADAPTATION_DONE (R431): Receiver adaptation on a port's lanes ends within 2 ms, and the next port of the region may be adapted. -/
  | laneAdaptationDone (p : Nat)
  /-- CELLAR_CALIBRATION_DONE (R269): After power-up or a chip reset that restarts the kiln, cellar calibration and zeroing complete, and the carve-out becomes usable. -/
  | cellarCalibrationDone
  /-- PER_BOOT_KEY_CERTIFIED (R457): The security engine finishes generating the per-boot key, about 22 ms after it started, and signs its certificate with device-key leaf 256r. -/
  | perBootKeyCertified
  /-- RAILS_OFF_TIME_EXPIRE (R495): The 100 ms minimum rail-off time after PWR_EN is deasserted elapses, and a PWR_EN reassertion that came sooner now takes effect. -/
  | railsOffTimeExpire
  deriving DecidableEq, Repr

end Sys2Proof
end

