-- ==== Sys2Proof/Decode.lean ====
section
/-! DEFINITION. The decoder of the table's words.  The block has no instruction memory of a processor's kind: its commands
arrive from outside, and spec/opcode_table.json gives no row any bits (DESIGN CHOICE, log 1). -/

namespace Sys2Proof

/-- The command that a word of `nbits` bits spells by the table's bits: no row has any, so no word spells one. (DESIGN CHOICE, log 1) -/
def decodeTableWord (_nbits _w : Nat) : Option Instr := none

end Sys2Proof
end

