-- ==== Sys2Proof/Config.lean ====
section
/-! DEFINITION. What the spec leaves open: free values (constants with no body) and the choices that a log entry names. -/

namespace Sys2Proof.Config

/-- A value that the spec leaves open: the `n`th one the machine meets (DESIGN CHOICE, log 2).  Nothing is known of it. -/
opaque freeNat : Nat → Nat

/-- A free 32-bit value (DESIGN CHOICE, log 2). -/
def freeWord (n : Nat) : Word := BitVec.ofNat 32 (freeNat n)

/-- The error that table set FAST-1 makes on a function's correctly rounded result: function code, FP32 input (R211, R212);
used only within the bound that R211 states (DESIGN CHOICE, log 14). -/
opaque fastError : Nat → Nat → Int

/-- The values of a fast chain that mixes integer pairs with floating-point pairs, which the spec leaves open (R181): an accumulator
(0), a drained element (1) or its flags (2) as a function of the operands and settings alone (R375; DESIGN CHOICE, log 79). -/
opaque mixedChain : Nat → List Int → Nat

/-- What a port adds to a measured delay for its own difference between transmit and receive latency, in 1/256 tick, which the spec
gives no number for (R314; DESIGN CHOICE, log 82). -/
opaque delayFix : Nat → Int

/-- SHAKE256 of a byte string to a number of bytes (R377, R455 to R463; DESIGN CHOICE, log 15). -/
opaque shake256 : List (BitVec 8) → Nat → List (BitVec 8)

/-- Whether an XMSS signature verifies: public-key hash, message, signature (R453, R456; DESIGN CHOICE, log 15). -/
opaque xmssVerify : List (BitVec 8) → List (BitVec 8) → List (BitVec 8) → Bool

/-- An XMSS signature made by the security engine: key index, leaf, message (R458; DESIGN CHOICE, log 15). -/
opaque xmssSign : Nat → Nat → List (BitVec 8) → List (BitVec 8)

/-- The FRU EEPROM's byte at an offset (R452; DESIGN CHOICE, log 16). -/
opaque fruByte : Nat → BitVec 8

/-- The control code of each kind of CONTROL cell, which INFO carries, and the payload bytes of its arguments: the echo request, its reply,
the peer's identity, a width, the down notice (0 to 4).  The spec gives no numbers (R309, R310; DESIGN CHOICE, log 81). -/
opaque ctlCode : Nat → BitVec 8
opaque ctlLen : Nat → Nat

/-- Where argument `k` of the security engine's command of a code lies in the mailbox buffer, which the spec does not say (R460; DESIGN CHOICE,
DESIGN CHOICE, log 31). -/
opaque mailOff : Nat → Nat → Nat

/-- The bytes in which FIRST_ERR gives the global first-error log, whose layout the spec does not say: a function of GFE_CODE, GFE_CTX, GFE_SRC,
GFE_BEAT and GFE_MORE (R452, R483; DESIGN CHOICE, log 92). -/
opaque firstErr : List Nat → Nat → BitVec 8

/-- A byte of the boot ROM (R442, R444; DESIGN CHOICE, log 36). -/
opaque romByte : Nat → BitVec 8

end Sys2Proof.Config
end

