-- ==== Sys2Proof/Machine/Sparse.lean ====
section
/-! DEFINITION. Sparse maps as plain data: a list of (key, value) pairs with strictly rising keys that lists no entry equal
to what an unlisted key reads as.  Memory, the register file and every numbered family of units are held this way. -/

namespace Sys2Proof.Machine

variable {α : Type}

/-- The value at a key: `d k` where the key is not listed. -/
def sget (d : Nat → α) : List (Nat × α) → Nat → α
  | [], k => d k
  | (j, v) :: t, k => if j = k then v else sget d t k

/-- The list without a key. -/
def sdel (l : List (Nat × α)) (k : Nat) : List (Nat × α) := l.filter fun p => decide (p.1 ≠ k)

/-- The list with the pair put at its place in rising order. -/
def sput : List (Nat × α) → Nat → α → List (Nat × α)
  | [], k, v => [(k, v)]
  | (j, w) :: t, k, v => if k < j then (k, v) :: (j, w) :: t else if j = k then (k, v) :: t else (j, w) :: sput t k v

/-- The map with `v` at `k`: writing what an unlisted key reads as removes the entry. -/
def sset [DecidableEq α] (d : Nat → α) (l : List (Nat × α)) (k : Nat) (v : α) : List (Nat × α) :=
  if v = d k then sdel l k else sput l k v

/-- Every key of the list lies above `b`. -/
def sabove (b : Nat) (l : List (Nat × α)) : Bool := l.all fun p => decide (b < p.1)

/-- The canonical form: keys strictly rising, no entry equal to its default. -/
def canon [DecidableEq α] (d : Nat → α) : List (Nat × α) → Bool
  | [] => true
  | (k, v) :: t => decide (v ≠ d k) && sabove k t && canon d t

/-- The map without the keys from `lo` to `lo + n - 1`. -/
def sclear (l : List (Nat × α)) (lo n : Nat) : List (Nat × α) :=
  l.filter fun p => !(decide (lo ≤ p.1) && decide (p.1 < lo + n))

/-- A number put into a rising list of numbers. -/
def nput : List Nat → Nat → List Nat
  | [], k => [k]
  | j :: t, k => if k < j then k :: j :: t else if j = k then j :: t else j :: nput t k

/-- A number taken out of a list. -/
def ndel (l : List Nat) (k : Nat) : List Nat := l.filter (· ≠ k)

end Sys2Proof.Machine
end

