-- ==== Sys2Proof/Machine/State.lean ====
section
/-! DEFINITION. The state of the device, as plain data.  Registers stand in one sparse register file keyed by their offset in
the register window (R464), every memory in one byte memory keyed by the kiln's physical address (R442); what is no register
field has a field of its own.  `Chip` is the device without the command queue and without the OTP array. -/

namespace Sys2Proof.Machine

/-- Why the machine stops.  Raised by any command that names a unit number the spec does not number (R18, R20, R399): safe,
the spec gives such a command no meaning. -/
inductive Fault where
  | noSuchUnit
  deriving DecidableEq, Repr

/-- Why a command has no meaning. -/
inductive Refusal where
  /-- the command is not modelled; raised by an arm of `exec` only; safe -/
  | notModelled (mnemonic : String)
  deriving DecidableEq, Repr

/-- What fixes the device at manufacture (R1, R6, R421, R478). -/
structure Ident where
  /-- 1 for NJ3-A144-M, 2 for NJ3-B132-M -/
  part : Nat
  /-- design revision: 0 on A0, 1 on B0 -/
  rev : Nat
  /-- the fused row, or 15 when none is fused -/
  fusedRow : Nat
  /-- one bit per absent link port -/
  portAbsent : BitVec 16
  serial : BitVec 128
  voff : Nat
  deriving DecidableEq, Repr

/-- A command in an engine's queue or in execution, with the operands captured at issue (R76). -/
structure Cmd where
  /-- the number the core gave it, rising in issue order -/
  id : Nat
  pc : Nat
  w : IWord
  /-- slot, tag, address and counter value as the word and the counters gave them at issue (R237, R242) -/
  slot : Nat
  tag : Nat
  addr : Nat
  val : Nat
  /-- the tile descriptors named by D, A, B, C -/
  dD : IWord
  dA : IWord
  dB : IWord
  dC : IWord
  /-- the split configuration was set when it issued (R196) -/
  split : Bool
  /-- the beat count, timeout and place in the order of waiting with which its wait began, when it waits (R94, R114) -/
  began : Option Nat
  tmo : Nat
  ord : Nat
  /-- how far its work has come: column groups drained, chunks sent -/
  prog : Nat
  /-- cellar lines whose requests have left, in order; those served by their controller, and those performed (R258) -/
  sent : Nat
  asked : List Nat
  got : List Nat
  /-- slots it was admitted to and has not completed: slot, as a producer -/
  uses : List (Nat × Bool)
  /-- flags gathered so far (R213), and random words drawn (R223) -/
  flags : BitVec 6
  words : Nat
  deriving DecidableEq, Repr

/-- An open loop level (R84). -/
structure Loop where
  first : Nat
  last : Nat
  rem : Nat
  deriving DecidableEq, Repr

/-- A wait of the sequencer: its STALL code, its timer, its place in the order of waiting, the word that waits and a value
(the fence's target beat, the arrival count, the acquire's phase). -/
structure SeqWait where
  code : Nat
  began : Nat
  tmo : Nat
  ord : Nat
  w : IWord
  val : Nat
  /-- command numbers a CWAIT waits for (R239) -/
  ids : List Nat
  deriving DecidableEq, Repr

/-- A CLD that has not completed: counter, tun address, slot it reads (R80); `live` while no later instruction has written the
counter (R97); the index at which it issued (R99). -/
structure PendLoad where
  cnt : Nat
  addr : Nat
  slot : Option Nat
  live : Bool
  pc : Nat
  deriving DecidableEq, Repr

/-- A load of instruction-memory blocks (R67, R90); `src` is a cellar address. -/
structure Load where
  id : Nat
  first : Nat
  nblk : Nat
  src : Nat
  ovl : Bool
  deriving DecidableEq, Repr

/-- An entry of the gather buffer (R105): its 64 B line and the bytes written, each with its tun offset and the unit that
wrote it (0 the sequencer, else as FAULT_UNIT numbers the units). -/
structure Gather where
  line : Nat
  bytes : List (Nat × Nat × BitVec 8)
  deriving DecidableEq, Repr

/-- An acquire in progress (R137, R138): 0 polling, 1 probe outstanding, 2 complete. -/
structure Acq where
  phase : Nat
  cellar : Bool
  addr : Nat
  expect : Nat
  target : Option Node
  seq : Nat
  scope : Nat
  deriving DecidableEq, Repr

/-- The open chain of the matrix engine (R181): its C index, M and N; how it accumulates (0 FP32 bits, 1 integers, 2 LA576
integers, 3 a mixture, whose values the spec leaves open); its terms but those of adjunct blocks, and the adjunct blocks that
applied to each activation row (times 8) and block row (R178); its accumulators, row by row; the columns with an invalid mark
(R158). -/
structure Chain where
  cIdx : Nat
  m : Nat
  n : Nat
  kind : Nat
  terms : Nat
  blocks : List (Nat × Nat)
  acc : List Int
  marks : List Nat
  deriving DecidableEq, Repr

/-- The corrections of one column group (R188): the element (row × 128 + column within the group) and its FP32 bits or LA576
integer, for the elements that a block reaches; the columns with an invalid mark; the blocks that apply to each row (times 8) and
block row (R178). -/
structure Corr where
  group : Nat
  vals : List (Nat × Int)
  marks : List Nat
  blocks : List (Nat × Nat)
  deriving DecidableEq, Repr

/-- A segment's header and directory as read (R184, R185). -/
structure Seg where
  off : Nat
  len : Nat
  ver : Nat
  bf16 : Bool
  dir : List (BitVec 64)
  deriving DecidableEq, Repr

/-- What the running ACORR has read: its list's words, the headers and directories of its first segments, and the bodies, each with
its segment, its directory entry, its bitmap and its values (R187, R189). -/
structure AdjRead where
  list : List Nat
  segs : List Seg
  bodies : List (Nat × Nat × Nat × Nat)
  deriving DecidableEq, Repr

/-- A neighbour write that this owner has admitted and not performed (R121): its sender and the sender's command, the slot,
and whether it lands without a credit (R124). -/
structure NwIn where
  src : Node
  id : Nat
  slot : Nat
  land : Bool
  deriving DecidableEq, Repr

/-- One core beside its registers, descriptors and slots. -/
structure Core where
  /-- block states by block: 0 INVALID, 1 LOADING, 2 VALID (R67) -/
  blk : List (Nat × Nat)
  loads : List Load
  /-- open levels, the innermost first -/
  loops : List Loop
  /-- commands waiting in the queues and commands in execution, by unit as FAULT_UNIT numbers them (R74, R144) -/
  q : List (Nat × List Cmd)
  run : List (Nat × List Cmd)
  nextId : Nat
  /-- slot completions of finished commands not yet performed: slot, as a producer -/
  due : List (Nat × Bool)
  gather : List Gather
  wait : Option SeqWait
  /-- the index of the WAITB that overran last (R52, R99) -/
  ovrPc : Nat
  /-- the place in the order of waiting that was next when the core's counts were last cleared (R146) -/
  waitBase : Nat
  loadsPend : List PendLoad
  /-- counters that a SENDT or RECV will write, each with the command's number (R297) -/
  cntPend : List (Nat × Nat)
  /-- the last 16 releases, newest first: sequence number and the command numbers it waited behind (R139) -/
  rels : List (Nat × Nat)
  /-- drain probes to answer: asker, SEQ, scope, last command number to wait for -/
  probes : List (Node × Nat × Nat × Nat)
  acq : Option Acq
  /-- credits held, oldest first: direction and slot (R122) -/
  creds : List (Nat × Nat)
  /-- credits granted and outstanding per neighbour: direction, count (R122) -/
  granted : List (Nat × Nat)
  chain : Option Chain
  /-- the chain that the commands issued so far leave open: C index, M, N and whether its pairs are integers (R181) -/
  chainIssued : Option (Nat × Nat × Nat × Bool)
  rowMap : Option (List Nat)
  /-- MMUL commands with ADJ 1 executed since START, and groups corrected of the current ACORR (R187) -/
  adjMmul : Nat
  adjDone : Nat
  corr : List Corr
  adjRead : AdjRead
  /-- the entries of the codebook of the running MMUL's W (R153, R172) -/
  mtxTab : List Nat
  /-- the split configuration set by the last VCFG issued (R196) -/
  splitIssued : Bool
  nwIn : List NwIn
  /-- the vane port: tag-table index, entry and digest accumulated (R381 to R383) -/
  vane : List (Nat × IWord × BitVec 64)
  /-- the start is deferred by the ramp limiter (R434) -/
  deferred : Bool
  /-- what GEN of every slot has gained by core function resets (R407) -/
  genBase : Nat
  /-- the core is in reset, and its partition scrub is under way (R408, R475) -/
  inReset : Bool
  scrubbing : Bool
  deriving DecidableEq, Repr

/-- A core after reset: every block INVALID, every queue empty. (DESIGN CHOICE, log 78) -/
def Core.reset : Core :=
  { blk := [], loads := [], loops := [], q := [], run := [], nextId := 0, due := [], gather := [], wait := none, ovrPc := 0, waitBase := 0,
    loadsPend := [], cntPend := [], rels := [], probes := [], acq := none, creds := [], granted := [], chain := none,
    chainIssued := none, rowMap := none, adjMmul := 0, adjDone := 0, corr := [],
    adjRead := ⟨[], [], []⟩, mtxTab := [], splitIssued := false, nwIn := [], vane := [],
    deferred := false, genBase := 0, inReset := false, scrubbing := false }

/-- A slot descriptor (R109). -/
structure Slot where
  desc : BitVec 64
  gen : Nat
  state : Nat
  started : Nat
  done : Nat
  reads : Nat
  next : Nat
  crdout : Nat
  /-- counted reads completed in this fill -/
  readsDone : Nat
  deriving DecidableEq, Repr

def Slot.reset : Slot :=
  { desc := 0, gen := 0, state := 0, started := 0, done := 0, reads := 0, next := 0, crdout := 0, readsDone := 0 }

/-- A channel end beside its registers (R283 to R293). -/
structure ChanEnd where
  rbase : Nat
  rlen : Nat
  /-- receiving end: where the next record lands, and MSEQ of the next message taken -/
  tail : Nat
  /-- sends not yet acknowledged: command number, MSEQ -/
  sent : List (Nat × Nat)
  /-- receiving end: MSEQ and the bytes received of the message that is arriving (R294) -/
  part : Option (Nat × Nat)
  /-- the queue credits that the channel was given at its open (R289) -/
  qcap : Nat
  deriving DecidableEq, Repr

def ChanEnd.reset : ChanEnd := { rbase := 0, rlen := 0, tail := 0, sent := [], part := none, qcap := 0 }

/-- An entry of a receive queue (R291): header, short data, ring offset and units of its record, units of the pad before it. -/
structure QEntry where
  hdr : BitVec 128
  data : List TByte
  ring : Nat
  units : Nat
  pad : Nat
  deriving DecidableEq, Repr

/-- An open occurrence of a layer in the vane collector (R386, R387). -/
structure VaneOcc where
  layer : Nat
  occ : Nat
  digest : BitVec 64
  nrep : Nat
  ctx : Nat
  deriving DecidableEq, Repr

/-- The beat unit beside its registers (R34 to R42): fine times in 1/256 of a REFCLK tick. -/
structure BeatUnit where
  /-- when the next edge falls, where that is known, and when the last one fell -/
  next : Option Nat
  last : Option Nat
  /-- the steering of the beat under way -/
  step : Int
  /-- the tick of the last BEATREF edge sampled, and how many in a row came exactly a period apart (R37, R40) -/
  lastRef : Option Nat
  refRun : Nat
  /-- consecutive reference misses (R36) -/
  misses : Nat
  /-- consecutive markers with a phase error below 0.5 ns, beats without a valid marker, beats in ACQUIRE (R40) -/
  good : Nat
  missing : Nat
  acq : Nat
  /-- a valid marker has come in this beat -/
  seen : Bool
  /-- BEATSYNC has been taken, or the steered edge has met the BEATREF edge (R37, R40) -/
  synced : Bool
  /-- the next edge loads the counter (R34), or stops the beat (R485) -/
  loadNext : Bool
  stopNext : Bool
  /-- ACQUIRE keeps to the LOCKED rate and never changes the counter (R37, R42) -/
  slow : Bool
  /-- ACQUIRE was entered from HOLDOVER or FAULT (R37, R42) -/
  again : Bool
  /-- a BEATREF edge more than a tick off has counted as a miss in this beat (R36) -/
  stray : Bool
  /-- an edge of HOLDOVER has passed without a marker of the primary port (R40) -/
  tryBackup : Bool
  deriving DecidableEq, Repr

def BeatUnit.reset : BeatUnit :=
  { next := none, last := none, step := 0, lastRef := none, refRun := 0, misses := 0, good := 0, missing := 0, acq := 0,
    seen := false, synced := false, loadNext := false, stopNext := false, slow := false,
    again := false, stray := false, tryBackup := false }

/-- Clocks, voltage and the governor beside their registers (R421 to R434). -/
structure Power where
  /-- ramp charges by beat, in units of 1/48 of an activity weight (R433) -/
  charges : List (Nat × Nat)
  /-- the limiter has stopped for this beat (R434) -/
  stopped : Bool
  /-- the pending switch: FREQ code, beat, made by a thermal emergency (R423, R426) -/
  pend : Option (Nat × Nat × Bool)
  /-- the code that the governor switches to when the voltage has settled, and whether it lowers VDD_SET after the switch -/
  want : Option Nat
  lower : Bool
  /-- the voltage last settled at, in mV; none is V(1,600) as it stands at reset -/
  level : Option Nat
  /-- gusts in the window under way, by region, and whether a region has saturated since the last tick (R422) -/
  gustWin : List (Nat × Nat)
  gustSat : Bool
  /-- edges seen at the last tick -/
  lastTick : Nat
  /-- the 42 generators are locked to REFCLK (R44, R436) -/
  locked : Bool
  deriving DecidableEq, Repr

def Power.reset : Power :=
  { charges := [], stopped := false, pend := none, want := none, lower := false, level := none, gustWin := [], gustSat := false,
    lastTick := 0, locked := false }

/-- A cell of a link, as its sender forms it (R309, R310): the header's fields, the packets that end in it, what a CONTROL cell or a
MARKER carries, and for a cell in transit the port at which it arrived. -/
structure LinkCell where
  type : Nat
  dst : Nat
  src : Nat
  flow : Nat
  lseq : Nat
  len : Nat
  ttl : Nat
  poison : BitVec 32
  info : Nat
  pkts : List Packet
  ctl : Option Control
  mark : Option Marker
  inPort : Option Nat
  deriving DecidableEq, Repr

/-- A Qoreog port beside its registers (R316 to R329). -/
structure Port where
  /-- lanes that have trained, and the lanes of the width being changed to -/
  trained : BitVec 4
  goal : BitVec 4
  restoring : Bool
  /-- a cause for which the port must go DOWN (R322), and a width it must degrade to -/
  downDue : Option Nat
  degradeDue : Option (BitVec 4)
  /-- the peer's identity as received: device, port, version (R326) -/
  peer : Option (Nat × Nat × Nat)
  /-- sent and not acknowledged, oldest first, and how many of the newest are still to be sent again (R321) -/
  replay : List LinkCell
  resend : Nat
  txSeq : Nat
  rxSeq : Nat
  /-- cells acknowledged since the last retry (R322), accepted since the last ACK -/
  ackedRun : Nat
  rxRun : Nat
  /-- a NAK waits to be sent, and the hold-off after one (R321) -/
  nakHold : Bool
  /-- the cell that the port has started last, as the lanes carry it, and the cells since the last IDLE (R309, R315) -/
  sent : Option LinkCell
  idleRun : Nat
  /-- the peer agrees the width being changed to, and the delay has been measured since (R314, R326) -/
  agreed : Bool
  remeasured : Bool
  /-- CONTROL cells waiting; transit cells waiting, with the flow of this port, none for unassigned -/
  ctl : List Control
  transit : List (Option Nat × LinkCell)
  /-- bytes already sent of the oldest packet of each flow and destination -/
  partSent : List (Nat × Nat)
  /-- flows whose last group of the beat has ended, and the cells of each flow that are slot misses and unsent, oldest flow first
(R54, R318) -/
  ended : List Nat
  missed : List (Nat × Nat)
  /-- the group under way and the assigned cells sent in it -/
  group : Nat
  inGroup : Nat
  /-- the slot and flow tables in effect, by register offset (R319) -/
  tables : List (Nat × Word)
  /-- cell credits to return, static and unassigned (R320) -/
  retS : Nat
  retU : Nat
  /-- edges at the last delay measurement (R314), and temperature and edges at the last adaptation (R431) -/
  measured : Nat
  adTemp : Nat
  adEdge : Nat
  adapting : Bool
  /-- the port has trained since its counts were last cleared (R333) -/
  ran : Bool
  deriving DecidableEq, Repr

def Port.reset : Port :=
  { trained := 0, goal := 0, restoring := false, downDue := none, degradeDue := none, peer := none, replay := [], resend := 0,
    txSeq := 0, rxSeq := 0, ackedRun := 0, rxRun := 0, nakHold := false, sent := none, idleRun := 0, agreed := false,
    remeasured := false, ctl := [], transit := [], partSent := [], ended := [], missed := [], group := 0, inGroup := 0, tables := [], retS := 0, retU := 0, measured := 0, adTemp := 0,
    adEdge := 0, adapting := false, ran := false }

/-- A stream placed in a step: its table index, its first row and number of rows, how it steps (0 prefill, 1 tree, 2 decode),
and whether a draft record of its result is expected (R354). -/
structure Placed where
  idx : Nat
  first : Nat
  rows : Nat
  kind : Nat
  spec : Bool
  deriving DecidableEq, Repr

/-- A step in flight (R335, R348, R354). -/
structure Step where
  no : Nat
  beat : Nat
  nrows : Nat
  placed : List Placed
  /-- DELAYED reports of its formation -/
  delayed : List (BitVec 256)
  /-- the head, and the targets that have not received it -/
  head : List (BitVec 8)
  targets : List Nat
  /-- targets whose slot the head waits for, with their places in the order of waiting (R114) -/
  waits : List (Nat × Nat)
  /-- edges at which the wait for the targets and for the flag began, with their timeouts -/
  began : Nat
  cmdTmo : Nat
  waitTmo : Nat
  /-- the range of its body in the cellar -/
  body : Nat × Nat
  deriving DecidableEq, Repr

/-- A context of the stream engine beside its registers (R334 to R370). -/
structure SeCtx where
  fifo : List (BitVec 512)
  steps : List Step
  /-- the admission counter, and the page-table slots in use -/
  admitSeq : Nat
  ptUsed : List Nat
  /-- pages never allocated start here; pages released and zero-listed, in order; pages waiting for a zero list (R359) -/
  pageNext : Nat
  pageFree : List Nat
  zeroDue : List Nat
  /-- tree sets in use with their four pages (R361) -/
  trees : List (Nat × List Nat)
  /-- entries for the next record (R366) -/
  out : List (BitVec 256)
  /-- the next step beat's number k (R335) -/
  nextK : Nat
  /-- a request of the engine that a controller has refused in the operation under way, with its direction (R254) -/
  refused : Option (Nat × Bool)
  /-- a request of the operation under way goes to a slice in reset, which keeps it waiting (R269) -/
  held : Bool
  /-- a step beat has come, and its formation waits for a slice in reset (R269, R335) -/
  due : Bool
  deriving DecidableEq, Repr

def SeCtx.reset : SeCtx :=
  { fifo := [], steps := [], admitSeq := 0, ptUsed := [], pageNext := 0, pageFree := [], zeroDue := [], trees := [], out := [],
    nextK := 0, refused := none, held := false, due := false }

/-- An adjunct version in use (R362): its image, its context and identifier, the streams that bind it. -/
structure AdjVersion where
  image : Nat
  ctx : Nat
  adj : Nat
  refs : Nat
  deriving DecidableEq, Repr

def AdjVersion.reset : AdjVersion := { image := 0, ctx := 0, adj := 0, refs := 0 }

/-- A record that waits for the outlet ring (R365): context, TYPE, bytes. -/
structure OutRecord where
  ctx : Nat
  type : Nat
  bytes : List (BitVec 8)
  deriving DecidableEq, Repr

/-- The stream engine beside its registers and the stream table. -/
structure SE where
  /-- table entries never used start here; entries freed since, in order (R339); entries in use, rising -/
  entryNext : Nat
  entryFreed : List Nat
  used : List Nat
  /-- versions in use, and the latest version plus 1 of identifier `a` of context `x`, at `x × 65536 + a` (R362) -/
  vers : List (Nat × AdjVersion)
  latest : List (Nat × Nat)
  /-- by stream: the draft tree of its last result as (token, parent), its pending commit as first position and nodes, the
  formations in a row at which it was delayed, and 1 where a CLOSE waits -/
  drafts : List (Nat × List (Nat × Nat))
  commits : List (Nat × List Nat)
  delays : List (Nat × Nat)
  closing : List (Nat × Nat)
  ctxs : List (Nat × SeCtx)
  records : List OutRecord
  deriving DecidableEq, Repr

def SE.reset : SE :=
  { entryNext := 0, entryFreed := [], used := [], vers := [], latest := [], drafts := [], commits := [], delays := [],
    closing := [], ctxs := [], records := [] }

/-- The security engine and the boot ROM beside their registers (R448, R457 to R460). -/
structure Sec where
  nonce : Option (BitVec 256)
  /-- the scope that an unlock was given for -/
  scope : Nat
  /-- per-boot keys certified in this boot, the signatures made with the present one, and whether one is ready -/
  keys : Nat
  spent : Nat
  ready : Bool
  cert : List (BitVec 8)
  /-- an update session is open (R460) -/
  session : Bool
  /-- the status that the command under way will report -/
  status : Option Nat
  /-- the recovery image received so far, by offset -/
  staged : List Host.Cell
  /-- SVN of the image that runs, and whether the ROM has passed stage 0x04 in this boot (R444) -/
  svn : Nat
  booted : Bool
  /-- the leaf range of this boot (R457), none when the device key is retired -/
  range : Option Nat
  /-- this run of the ROM follows a power-up or a chip reset, so that it fixes the carve-out (R447) -/
  whole : Bool
  deriving DecidableEq, Repr

def Sec.reset : Sec :=
  { nonce := none, scope := 0, keys := 0, spent := 0, ready := false, cert := [], session := false, status := none, staged := [],
    svn := 0, booted := false, range := none, whole := true }

/-- The module at the board: supply, pins and latches of the always-on domain (R427, R452, R495 to R503). -/
structure Board where
  input : Bool
  pwrEn : Bool
  /-- the rails of STANDBY: 0 off, 1 rising, 2 power-good -/
  rails : Nat
  /-- MOD_RESET_N is asserted, or the internal reset is held -/
  held : Bool
  /-- the boot ROM has not run since the internal reset was asserted -/
  bootDue : Bool
  slotId : BitVec 4
  /-- the sensor of a latched thermal trip; a latched rail fault; a lost REFCLK -/
  trip : Option Nat
  railFault : Bool
  refLost : Bool
  /-- SMB_ALERT_N is asserted, and the alert response has been read -/
  alert : Bool
  answered : Bool
  /-- the 100 ms after PWR_EN was deasserted are not over -/
  offTime : Bool
  /-- the cellar is calibrated and zeroed, so that the carve-out is usable (R269, R444) -/
  celReady : Bool
  /-- a tray controller command has arrived: the level of interrupt source 208 (R443) -/
  smbCame : Bool
  /-- the last IEEE 1588 event timestamp that the management port latched: seconds and nanoseconds (R450) -/
  stamp : Option (Nat × Nat)
  deriving DecidableEq, Repr

/-- At power-up, with the rails of STANDBY good and the internal reset just released. (DESIGN CHOICE, log 13; DESIGN CHOICE, log 78) -/
def Board.reset : Board :=
  { input := true, pwrEn := true, rails := 2, held := false, bootDue := true, slotId := 0, trip := none, railFault := false,
    refLost := false, alert := false, answered := false, offTime := false, celReady := false, smbCame := false, stamp := none }

/-- The device, without the command queue and the OTP array. -/
structure Chip where
  ident : Ident
  regs : List (Nat × Word)
  counts : List (Nat × BitVec 64)
  mem : List Host.Cell
  /-- poisoned 64-bit words, by address ÷ 8, rising (R104) -/
  poison : List Nat
  /-- bit errors standing in stored 64-bit words, by address ÷ 8 (R104, R396) -/
  errs : List (Nat × Nat)
  cores : List (Nat × Core)
  slots : List (Nat × Slot)
  descs : List (Nat × IWord)
  chans : List (Nat × ChanEnd)
  rqs : List (Nat × List QEntry)
  /-- every packet of the mesh, oldest first -/
  net : List Packet
  /-- the packets that stand in the input buffers of the routers, by router × 8 + input, the first the oldest; those that have left
the mesh at link port `q` are at 1152 + `q`, those at another attachment at 1168 (R275) -/
  routers : List (Nat × List Packet)
  /-- the input that each output of a router has served last, by router × 8 + output (R275) -/
  turn : List (Nat × Nat)
  /-- the vane's tag table (R383), the occurrences counted per entry, the open occurrences, and records dropped since the
  last one written (R388) -/
  vaneTab : List (Nat × IWord)
  vaneCnt : List (Nat × Nat)
  vaneOpen : List VaneOcc
  /-- by layer, 1 more than the greatest occurrence that a report has arrived for (R386) -/
  vaneHigh : List (Nat × Nat)
  vaneLost : Bool
  /-- beat edges seen, for the timers that count them (R94) -/
  edges : Nat
  /-- the next place in the order of waiting on slots (R114) -/
  waitNo : Nat
  /-- how many free values have been taken (DESIGN CHOICE, log 2) -/
  fresh : Nat
  beatU : BeatUnit
  pow : Power
  ports : List (Nat × Port)
  se : SE
  sec : Sec
  board : Board
  /-- function resets under way (R407) -/
  resets : List ResetTarget
  /-- contexts whose CLEAR or RELEASE is under way, with the cores of the partition (R404, R409) -/
  clearing : List (Nat × List Nat)
  /-- extent scrubs queued and under way: slice and extent, in order (R256) -/
  scrubQ : List (Nat × Nat)
  /-- refresh bursts run, by slice × 2 + tier (R263) -/
  bursts : List (Nat × Nat)
  /-- bursts that the quiet window holds back, by slice × 2 + tier (R266) -/
  postponed : List (Nat × Nat)
  /-- kiln watchdogs that have expired once without a reload (R441) -/
  wdogHit : List Nat
  /-- what a read of a _LO register left in its _HI register, by the offset of the latter (R477) -/
  latch : List (Nat × Word)
  /-- the answer to the last read or request from outside (model's own field, DESIGN CHOICE, log 6) -/
  resp : List (BitVec 8)
  deriving DecidableEq, Repr

def Ident.reset : Ident :=
  { part := 1, rev := 1, fusedRow := 15, portAbsent := 0, serial := 0, voff := 0 }

/-- The device just after power-up, before the boot ROM has run. (DESIGN CHOICE, log 4; DESIGN CHOICE, log 5; DESIGN CHOICE, log 78) -/
def Chip.reset : Chip :=
  { ident := Ident.reset, regs := [], counts := [], mem := [], poison := [], errs := [], cores := [], slots := [],
    descs := [], chans := [], rqs := [], net := [], routers := [], turn := [], vaneTab := [], vaneCnt := [], vaneOpen := [], vaneHigh := [], vaneLost := false, edges := 0, waitNo := 0,
    fresh := 0, beatU := BeatUnit.reset, pow := Power.reset, ports := [], se := SE.reset, sec := Sec.reset, board := Board.reset,
    resets := [], clearing := [], scrubQ := [], bursts := [], postponed := [], wdogHit := [], latch := [], resp := [] }

/-- The machine: the queue of waiting commands, first in first out; the OTP bits burnt, by number, rising (R453); the device. -/
structure State where
  pending : List Instr
  otp : List Nat
  chip : Chip
  deriving DecidableEq, Repr

/-- The machine right after reset. (DESIGN CHOICE, log 3) -/
def State.reset : State := { pending := [], otp := [], chip := Chip.reset }

end Sys2Proof.Machine
end

