-- ==== Sys2Proof/Machine/Regs.lean ====
section
/-! DEFINITION. The register window: where each page lies (R469), what a register holds at reset (the Reset columns of the
register tables), named fields, event counts (R100). -/

namespace Sys2Proof.Machine

/-- Bits `[lo + len - 1 : lo]` of a word, as a number. -/
def bf {n : Nat} (w : BitVec n) (lo len : Nat) : Nat := (w.extractLsb' lo len).toNat

/-- A word with the bits `[lo + len - 1 : lo]` replaced. -/
def setBf {n : Nat} (w : BitVec n) (lo len v : Nat) : BitVec n :=
  (w &&& ~~~(BitVec.ofNat n ((2 ^ len - 1) * 2 ^ lo))) ||| BitVec.ofNat n ((v % 2 ^ len) * 2 ^ lo)

/-- A word with one bit per element of a list that holds, the first lowest. -/
def packBits (l : List Bool) : Nat := ((l.zip (List.range l.length)).map fun e => if e.1 then 2 ^ e.2 else 0).sum

/-- A signed reading of the low `len` bits of a number. -/
def sgn (len v : Nat) : Int := if v % 2 ^ len < 2 ^ (len - 1) then (v % 2 ^ len : Nat) else (v % 2 ^ len : Nat) - (2 ^ len : Nat)

/-! ## Pages (R469) -/

def pgID : Nat := 0x0
def pgSET : Nat := 0x1000
def pgRST : Nat := 0x2000
def pgGERP : Nat := 0x3000
def pgBEAT : Nat := 0x4000
def pgFLT : Nat := 0x5000
def pgGOV : Nat := 0x6000
def pgCLK : Nat := 0x7000
def pgTHM : Nat := 0x8000
def pgVAN : Nat := 0x9000
def pgKLN : Nat := 0xA000
def pgMGT : Nat := 0xB000
def pgSEC : Nat := 0xC000
def pgOTP : Nat := 0xD000
def pgLNK (p : Nat) : Nat := 0x100000 + 0x1000 * p
def pgLKC : Nat := 0x110000
def pgCEL (n : Nat) : Nat := 0x200000 + 0x10000 * n
def pgSEQ (c : Nat) : Nat := 0x1000000 + 0x40000 * c
def pgMTX (c : Nat) : Nat := pgSEQ c + 0x1000
def pgVEC (c : Nat) : Nat := pgSEQ c + 0x2000
def pgMOV (c : Nat) : Nat := pgSEQ c + 0x3000
def pgADJ (c : Nat) : Nat := pgSEQ c + 0x4000
def pgSYNC (c : Nat) : Nat := pgSEQ c + 0x5000
def pgCHAN (c : Nat) : Nat := pgSEQ c + 0x6000
def pgSE : Nat := 0x3800000
def pgCTX (x : Nat) : Nat := 0x3801000 + 0x1000 * x

/-- What a page offset belongs to: BLK_ID's type and instance (R469), or none where no page lies. -/
def pageType (page : Nat) : Option (Nat × Nat) :=
  if page < 0xE000 then some (page / 0x1000 + 1, 0)
  else if 0x100000 ≤ page && page < 0x110000 then some (0x10, (page - 0x100000) / 0x1000)
  else if page = 0x110000 then some (0x11, 0)
  else if 0x200000 ≤ page && page < 0x440000 && page % 0x10000 = 0 then some (0x20, (page - 0x200000) / 0x10000)
  else if 0x1000000 ≤ page && page < 0x3400000 && page % 0x40000 < 0x7000 then
    some (0x30 + page % 0x40000 / 0x1000, (page - 0x1000000) / 0x40000)
  else if page = 0x3800000 then some (0x40, 0)
  else if 0x3801000 ≤ page && page < 0x3811000 then some (0x41, (page - 0x3801000) / 0x1000)
  else none

/-- BLK_ID[31:8] of a page: type and instance, as FIRST_SRC and GFE_SRC record it. -/
def blkSrc (page : Nat) : Nat :=
  match pageType page with
  | some (t, i) => t * 256 + i
  | none => 0

/-- The reset value of a register, by page type and offset in the page: the Reset columns of R99, R190, R222, R272, R303,
R330, R371, R372, R390, R412, R435 to R437, R463, R480 and R484.  Zero where none is given or the column says 0. (DESIGN CHOICE, log 3) -/
def resetAt (t off : Nat) : Nat :=
  if t = 0x30 then (if off = 0x128 then 16 else 0)
  else if t = 0x32 then (if off = 0x100 then 2 else 0)
  else if t = 0x36 then (if 0x140 ≤ off && off < 0x180 then 4 else 0)
  else if t = 0x20 then (if off = 0x104 then 85 + 82 * 256 else 0)
  else if t = 0x10 then (if off = 0x100 then 3 else 0)
  else if t = 0x40 then
    (if off = 0x100 then 1 else if off = 0x104 then 1048576 else if off = 0x108 then 65536 else if off = 0x118 then 16 else 0)
  else if t = 0x41 then
    (if off = 0x10C then 1 + 65536 else if off = 0x110 then 1 else if off = 0x114 then 1
     else if off = 0x118 then 64 + 32 * 65536 else if off = 0x12C then 0xFFFFFFFF else if off = 0x130 then 16 else 0)
  else if t = 0x0A then (if off = 0x120 then 16 else 0)
  else if t = 0x06 then
    (if 0x200 ≤ off && off < 0x600 && (off % 0x40 = 8 || off % 0x40 = 0xC) then 10000 else 0)
  else if t = 0x07 then
    (if off = 0x104 then 1 else if off = 0x108 then 16 else if off = 0x10C then 64
     else if off = 0x110 then 1300 + 10 * 65536 else if off = 0x114 then 10 + 25 * 256 + 2 * 65536
     else if off = 0x118 then 2 + 16 + 50 * 256 + 65536 else if off = 0x11C then 25 + 256 + 64 * 65536
     else if off = 0x120 then 8 + 1000000 * 256 else if off = 0x124 then 680
     else if off = 0x13C then 0xFFFF else if 0x400 ≤ off && off < 0x490 then 0xFFFFFFFF else 0)
  else if t = 0x08 then (if off = 0x11C then 30 + 256 else 0)
  else if t = 0x09 then (if off = 0x100 then 95 + 100 * 256 + 3 * 65536 else 0)
  else if t = 0x03 then (if off = 0x104 then 1 else 0)
  else if t = 0x0B then (if off = 0x104 then 4 else 0)
  else if t = 0x02 then (if off = 0x108 then 1 else if off = 0x100 then 1 else if off = 0x104 then 0x31010101 else 0)
  else if t = 0x05 then (if off = 0x104 then 160 else 0)
  -- an unburnt OTP: no active generation, every attestation range left (R453, R463)
  else if t = 0x0D then (if off = 0x108 then 7 * 16 + 7 * 256 else if off = 0x10C then 4096 * 65536 else 0)
  else 0

/-- What an unlisted register reads as. (DEDUCED, log 29; DESIGN CHOICE, log 58) -/
def regReset (k : Nat) : Word :=
  match pageType (k / 0x1000 * 0x1000) with
  | some (t, _) => BitVec.ofNat 32 (resetAt t (k % 0x1000))
  | none => 0

/-! ## Fields -/

/-- A field of a register: offset in its page, lowest bit, width. -/
structure Fld where
  off : Nat
  lo : Nat
  len : Nat
  deriving DecidableEq, Repr

/-- The register at an offset of the window, as stored. -/
def Chip.reg (s : Chip) (k : Nat) : Word := sget regReset s.regs k

def Chip.setReg (s : Chip) (k : Nat) (v : Word) : Chip := { s with regs := sset regReset s.regs k v }

/-- A field of a page. -/
def Chip.get (s : Chip) (page : Nat) (f : Fld) : Nat := bf (s.reg (page + f.off)) f.lo f.len

def Chip.put (s : Chip) (page : Nat) (f : Fld) (v : Nat) : Chip :=
  s.setReg (page + f.off) (setBf (s.reg (page + f.off)) f.lo f.len v)

/-- Set a bit of a page's register. -/
def Chip.bit (s : Chip) (page : Nat) (f : Fld) : Bool := s.get page f ≠ 0

/-- A counter field that saturates at its width. -/
def Chip.inc (s : Chip) (page : Nat) (f : Fld) (n : Nat) : Chip :=
  s.put page f (min (s.get page f + n) (2 ^ f.len - 1))

/-- A pair of registers, low word first, as one 64-bit number. -/
def Chip.get64 (s : Chip) (page off : Nat) : Nat := (s.reg (page + off)).toNat + (s.reg (page + off + 4)).toNat * 2 ^ 32

def Chip.put64 (s : Chip) (page off v : Nat) : Chip :=
  (s.setReg (page + off) (BitVec.ofNat 32 v)).setReg (page + off + 4) (BitVec.ofNat 32 (v / 2 ^ 32))

/-- Set bits of INT_STAT. -/
def Chip.raise (s : Chip) (page bitNo : Nat) : Chip :=
  s.setReg (page + 0x028) (s.reg (page + 0x028) ||| BitVec.ofNat 32 (2 ^ bitNo))

/-- The beat counter, of which every region's copy is a view (R32, R47; DEDUCED, log 7). -/
def Chip.beat (s : Chip) : Nat := s.get64 pgBEAT 0x118

/-! ## Event counts (R100): 64 bits, they do not wrap -/

def countReset (_ : Nat) : BitVec 64 := 0

def Chip.countOf (s : Chip) (page sel : Nat) : Nat := (sget countReset s.counts (page + sel)).toNat

def Chip.setCount (s : Chip) (page sel v : Nat) : Chip :=
  { s with counts := sset countReset s.counts (page + sel) (BitVec.ofNat 64 (min v (2 ^ 64 - 1))) }

def Chip.count (s : Chip) (page sel n : Nat) : Chip := s.setCount page sel (s.countOf page sel + n)

/-- A peak count: the maximum so far (R304). -/
def Chip.peak (s : Chip) (page sel n : Nat) : Chip := s.setCount page sel (max (s.countOf page sel) n)

/-- Clear the counts of a page from one code on. -/
def Chip.clearCounts (s : Chip) (page sel n : Nat) : Chip := { s with counts := sclear s.counts (page + sel) n }

/-! ## The unlisted values of the sparse maps -/

def coreReset (_ : Nat) : Core := Core.reset
def slotReset (_ : Nat) : Slot := Slot.reset
def descReset (_ : Nat) : IWord := 0
def chanReset (_ : Nat) : ChanEnd := ChanEnd.reset
def rqReset (_ : Nat) : List QEntry := []
def cmdsReset (_ : Nat) : List Cmd := []
def natReset (_ : Nat) : Nat := 0

def Chip.core (s : Chip) (c : Nat) : Core := sget coreReset s.cores c
def Chip.setCore (s : Chip) (c : Nat) (k : Core) : Chip := { s with cores := sset coreReset s.cores c k }
def Chip.updCore (s : Chip) (c : Nat) (f : Core → Core) : Chip := s.setCore c (f (s.core c))
def Chip.slot (s : Chip) (c n : Nat) : Slot := sget slotReset s.slots (c * 4096 + n)
def Chip.setSlot (s : Chip) (c n : Nat) (v : Slot) : Chip := { s with slots := sset slotReset s.slots (c * 4096 + n) v }
def Chip.desc (s : Chip) (c n : Nat) : IWord := sget descReset s.descs (c * 256 + n)
def Chip.setDesc (s : Chip) (c n : Nat) (v : IWord) : Chip := { s with descs := sset descReset s.descs (c * 256 + n) v }
def Chip.chan (s : Chip) (c n : Nat) : ChanEnd := sget chanReset s.chans (c * 64 + n)
def Chip.setChan (s : Chip) (c n : Nat) (v : ChanEnd) : Chip := { s with chans := sset chanReset s.chans (c * 64 + n) v }
def Chip.rq (s : Chip) (c n : Nat) : List QEntry := sget rqReset s.rqs (c * 16 + n)
def Chip.setRq (s : Chip) (c n : Nat) (v : List QEntry) : Chip := { s with rqs := sset rqReset s.rqs (c * 16 + n) v }
def portReset (_ : Nat) : Port := Port.reset
def seCtxReset (_ : Nat) : SeCtx := SeCtx.reset
def Chip.port (s : Chip) (p : Nat) : Port := sget portReset s.ports p
def Chip.setPort (s : Chip) (p : Nat) (v : Port) : Chip := { s with ports := sset portReset s.ports p v }
def Chip.updPort (s : Chip) (p : Nat) (f : Port → Port) : Chip := s.setPort p (f (s.port p))
def Chip.seCtx (s : Chip) (x : Nat) : SeCtx := sget seCtxReset s.se.ctxs x
def Chip.setSeCtx (s : Chip) (x : Nat) (v : SeCtx) : Chip := { s with se := { s.se with ctxs := sset seCtxReset s.se.ctxs x v } }
def Chip.updSeCtx (s : Chip) (x : Nat) (f : SeCtx → SeCtx) : Chip := s.setSeCtx x (f (s.seCtx x))
def Core.queue (k : Core) (u : Nat) : List Cmd := sget cmdsReset k.q u
def Core.setQueue (k : Core) (u : Nat) (l : List Cmd) : Core := { k with q := sset cmdsReset k.q u l }
def Core.running (k : Core) (u : Nat) : List Cmd := sget cmdsReset k.run u
def Core.setRunning (k : Core) (u : Nat) (l : List Cmd) : Core := { k with run := sset cmdsReset k.run u l }
def Core.block (k : Core) (b : Nat) : Nat := sget natReset k.blk b
def Core.setBlock (k : Core) (b v : Nat) : Core := { k with blk := sset natReset k.blk b v }

/-- The buffers without one packet, taken from the last that holds it: where it has left the routers, from there. -/
def eraseHeld (p : Packet) : List (Nat × List Packet) → List (Nat × List Packet)
  | [] => []
  | (k, l) :: t =>
    if t.any (fun e => e.2.contains p) || !(l.contains p) then (k, l) :: eraseHeld p t
    else if l.erase p = [] then t else (k, l.erase p) :: t

/-- A packet leaves the mesh (R275). -/
def Chip.netTake (s : Chip) (p : Packet) : Chip := { s with net := s.net.erase p, routers := eraseHeld p s.routers }

/-- Only the packets that pass `f` stay in the mesh. -/
def Chip.netKeep (s : Chip) (f : Packet → Bool) : Chip :=
  { s with net := s.net.filter f,
           routers := (s.routers.map fun e => (e.1, e.2.filter f)).filter fun e => !e.2.isEmpty }

/-- A fold of an update over a list of numbers. -/
def Chip.forEach (s : Chip) (l : List Nat) (f : Chip → Nat → Chip) : Chip := l.foldl f s

/-- A fresh free value (DESIGN CHOICE, log 2), and the device with the counter advanced. -/
def Chip.freeWord (s : Chip) : Word × Chip := (Config.freeWord s.fresh, { s with fresh := s.fresh + 1 })

/-! ## Positions (R18) -/

def xOf (c : Nat) : Nat := c % 12
def yOf (c : Nat) : Nat := c / 12
def clusterOf (c : Nat) : Nat := 6 * (yOf c / 2) + xOf c / 2

/-- The core is present on this part (R1, R3). (DESIGN CHOICE, log 3; DEDUCED, log 76) -/
def Chip.present (s : Chip) (c : Nat) : Bool := decide (c < 144) && decide (yOf c ≠ s.ident.fusedRow)

/-- The cores of the device that are present. -/
def Chip.presentCores (s : Chip) : List Nat := (List.range 144).filter s.present

/-- The port is present. (DESIGN CHOICE, log 3) -/
def Chip.portPresent (s : Chip) (p : Nat) : Bool := decide (p < 16) && !(s.ident.portAbsent.getLsbD p)

/-- The neighbour of a core to the north, east, south, west (0 to 3), when a core stands there (R96). -/
def Chip.neighbour (s : Chip) (c d : Nat) : Option Nat :=
  let r : Option Nat :=
    if d = 0 then (if yOf c = 0 then none else some (c - 12))
    else if d = 1 then (if xOf c = 11 then none else some (c + 1))
    else if d = 2 then (if yOf c = 11 then none else some (c + 12))
    else if xOf c = 0 then none else some (c - 1)
  match r with
  | some m => if s.present m then some m else none
  | none => none

/-- The direction seen from the other side. -/
def oppDir (d : Nat) : Nat := (d + 2) % 4

/-- The device's own identifier (R479). -/
def Chip.devId (s : Chip) : Nat := s.get pgID ⟨0x130, 0, 10⟩

/-! ## Answers: a command on the device alone -/

/-- The device is powered and out of reset, so that it acts (R418, R500; DESIGN CHOICE, log 13). -/
def Chip.up (s : Chip) : Bool := decide (s.board.rails = 2) && !(s.board.held)

/-- A command that changes the device and neither the queue nor the OTP; a device without power or in reset does nothing. (DESIGN CHOICE, log 1; DESIGN CHOICE, log 13) -/
def onChip (f : Chip → Chip) (s : State) : Host.Outcome State Fault Refusal :=
  .next (if s.chip.up then { s with chip := f s.chip } else s)

/-- A command to what works without the device's rails: the board's pins and the SMBus (R452, R500). (DESIGN CHOICE, log 1) -/
def onBoard (f : Chip → Chip) (s : State) : Host.Outcome State Fault Refusal := .next { s with chip := f s.chip }

/-- The fabric acts: no chip reset with the kiln kept up is under way (R408, R482). (DESIGN CHOICE, log 13) -/
def Chip.fabricUp (s : Chip) : Bool := s.up && !(s.bit pgRST ⟨0x104, 3, 1⟩)

/-- A command to the fabric. (DESIGN CHOICE, log 1; DESIGN CHOICE, log 13) -/
def onFabric (f : Chip → Chip) (s : State) : Host.Outcome State Fault Refusal :=
  .next (if s.chip.fabricUp then { s with chip := f s.chip } else s)

/-- A command at core `c` (R18). (DESIGN CHOICE, log 1; DEDUCED, log 76) -/
def onCore (c : Nat) (f : Chip → Chip) (s : State) : Host.Outcome State Fault Refusal :=
  if c < 144 then onFabric f s else .fault .noSuchUnit

/-- A command at unit `n` of `max`. (DESIGN CHOICE, log 1) -/
def onUnit (max n : Nat) (f : Chip → Chip) (s : State) : Host.Outcome State Fault Refusal :=
  if n < max then onFabric f s else .fault .noSuchUnit

/-- A command of the kiln at unit `n` of `max`. -/
def onUnitChip (max n : Nat) (f : Chip → Chip) (s : State) : Host.Outcome State Fault Refusal :=
  if n < max then onChip f s else .fault .noSuchUnit

end Sys2Proof.Machine
end

