-- ==== Sys2Proof/Machine/Mem.lean ====
section
/-! DEFINITION. The one byte memory (R442, R470): tuns, cellar, instruction memories and kiln memories by kiln physical
address; the poison bit and the standing bit errors of each 64-bit word (R104, R396, R397). -/

namespace Sys2Proof.Machine

/-- What a byte that is not listed reads as: zero (DESIGN CHOICE, log 5). -/
def memReset (_ : Nat) : BitVec 8 := 0

/-- The canonical form of a memory. -/
def Memory.wf (m : List Host.Cell) : Bool := canon memReset m

/-- Where offset `o` of core `c`'s tun lies (R102). -/
def tunAddr (c o : Nat) : Nat := 0x2000000000 + c * 0x400000 + o

/-- Where cellar address `a` lies (R251). -/
def celAddr (a : Nat) : Nat := 0x1000000000 + a

/-- Where instruction `i` of core `c` lies: its place in the debug window (R470). -/
def imAddr (c i : Nat) : Nat := 0x40000000 + pgSEQ c + 0x10000 + 16 * i

def Chip.byte (s : Chip) (a : Nat) : BitVec 8 := sget memReset s.mem a

def Chip.setByte (s : Chip) (a : Nat) (v : BitVec 8) : Chip := { s with mem := sset memReset s.mem a v }

def Chip.bytes (s : Chip) (a n : Nat) : List (BitVec 8) := (List.range n).map fun i => s.byte (a + i)

/-- Bytes as a number, the lowest address least significant (R9). -/
def natOf : List (BitVec 8) → Nat
  | [] => 0
  | b :: t => b.toNat + 256 * natOf t

/-- The `n` bytes of a number, the least significant first (R9). -/
def bytesOf : Nat → Nat → List (BitVec 8)
  | 0, _ => []
  | n + 1, v => BitVec.ofNat 8 v :: bytesOf n (v / 256)

/-- The number in `n` bytes at an address. -/
def Chip.num (s : Chip) (a n : Nat) : Nat := natOf (s.bytes a n)

def errReset (_ : Nat) : Nat := 0

/-- The bit errors that stand in a stored 64-bit word. -/
def Chip.errOf (s : Chip) (w : Nat) : Nat := sget errReset s.errs w

/-- The word is uncorrectable: three bit errors or more (R396). -/
def Chip.uncorr (s : Chip) (w : Nat) : Bool := decide (3 ≤ s.errOf w)

/-- The words of a range of bytes, by address ÷ 8. -/
def wordsOf (a n : Nat) : List Nat := if n = 0 then [] else (List.range ((a + n - 1) / 8 - a / 8 + 1)).map (a / 8 + ·)

def inWords (a n w : Nat) : Bool := decide (n ≠ 0) && decide (a / 8 ≤ w) && decide (w ≤ (a + n - 1) / 8)

/-- What a read of a range meets: UNCORRECTABLE before POISON_CONSUMED (R396), or nothing. -/
def Chip.rangeBad (s : Chip) (a n : Nat) : Option Nat :=
  if s.errs.any (fun p => inWords a n p.1 && decide (3 ≤ p.2)) then some 0x03
  else if s.poison.any (inWords a n) then some 0x04
  else none

/-- The word travels poisoned: it is poisoned or uncorrectable (R104, R396). -/
def Chip.tagged (s : Chip) (w : Nat) : Bool := s.poison.contains w || s.uncorr w

/-- No bad word stands anywhere. -/
def Chip.clean (s : Chip) : Bool := s.poison.isEmpty && s.errs.all fun p => decide (p.2 < 3)

/-- Bytes read for a copy, each with the poison bit of its word (R396, "Poisoned copy"). -/
def Chip.tbytes (s : Chip) (a n : Nat) : List TByte := (List.range n).map fun i => (s.byte (a + i), s.tagged ((a + i) / 8))

/-- The words of a range that travel poisoned (R396). -/
def Chip.poisoned (s : Chip) (a n : Nat) : Nat := if s.clean then 0 else ((wordsOf a n).filter s.tagged).length

/-- The bytes of a list written from an address on. -/
def Chip.putBytes (s : Chip) (a : Nat) : List (BitVec 8) → Chip
  | [] => s
  | b :: t => (s.setByte a b).putBytes (a + 1) t

/-- The word lies whole in the range. -/
def wholeWord (a n w : Nat) : Bool := decide (a ≤ 8 * w) && decide (8 * w + 8 ≤ a + n)

/-- The codes after a write (R397): a whole word is clean; a word written in part stays poisoned when it was bad. -/
def Chip.recode (s : Chip) (a n : Nat) (bad : Nat → Bool) : Chip :=
  let keep := s.poison.filter fun w => !(wholeWord a n w)
  let worse := (s.errs.filter fun p => inWords a n p.1 && !(wholeWord a n p.1) && decide (3 ≤ p.2)).map (·.1)
  let marks := (wordsOf a n).filter bad
  { s with poison := (worse ++ marks).foldl nput keep, errs := s.errs.filter fun p => !(inWords a n p.1) }

/-- A write of bytes (R397). -/
def Chip.store (s : Chip) (a : Nat) (l : List (BitVec 8)) : Chip :=
  (s.putBytes a l).recode a l.length fun _ => false

/-- A copy's write: the words of poisoned bytes are poisoned (R396). -/
def Chip.storeTagged (s : Chip) (a : Nat) (l : List TByte) : Chip :=
  (s.putBytes a (l.map (·.1))).recode a l.length fun w =>
    (List.range l.length).any fun i => decide ((a + i) / 8 = w) && ((l[i]?).map (·.2)).getD false

/-- A number written in `n` bytes. -/
def Chip.storeNum (s : Chip) (a n v : Nat) : Chip := s.store a (bytesOf n v)

/-- A range of whole words written to zero with valid codes (R256, R409, R419). -/
def Chip.zero (s : Chip) (a n : Nat) : Chip :=
  { s with mem := sclear s.mem a n, poison := s.poison.filter fun w => !(inWords a n w),
           errs := s.errs.filter fun p => !(inWords a n p.1) }

/-- The size of a tun (R102). -/
def tunSize : Nat := 0x300000

/-- Offset and length stay below 3 MiB (R102). -/
def tunOk (o n : Nat) : Bool := decide (o + n ≤ tunSize)

end Sys2Proof.Machine
end

