-- ==== Sys2Proof/Machine/Records.lean ====
section
/-! DEFINITION. The stream table (R338), the entries and records of the outlet ring (R365 to R370), and what the stream engine
does when a context faults (R370, R401). -/

namespace Sys2Proof.Machine

/-! ## Kiln addresses of the carve-out and the stream table -/

/-- Byte `a` of the kiln cellar region, as an address of the memory (R251). -/
def carveAddr (a : Nat) : Nat :=
  let n := a / 2 ^ 21
  celAddr (n % 36 * 2 ^ 28 + n / 36 % 2 * 2 ^ 27 + (63 - n / 72) * 2 ^ 21 + a % 2 ^ 21)

/-- A kiln physical address, as an address of the memory: the kiln cellar region is a view of the cellar (R251, R442). (DEDUCED, log 69) -/
def physAddr (a : Nat) : Nat := if 0x80000000 ≤ a && a < 0x100000000 then carveAddr (a - 0x80000000) else a

/-- The clusters of the stream table (R252). -/
def tableSlices : List Nat := [7, 8, 9, 10, 13, 14, 15, 16, 19, 20, 21, 22, 25, 26, 27, 28]

/-- Offset `o` of the stream table (R252, R338). -/
def tableAddr (o : Nat) : Nat :=
  let k := o / 2 ^ 21
  celAddr ((tableSlices[k % 16]?).getD 0 * 2 ^ 28 + k / 16 % 2 * 2 ^ 27 + o % 2 ^ 21)

/-- A run of bytes written in pieces of 32 B through the kiln's map. -/
def Chip.putPhys (s : Chip) (a : Nat) (l : List (BitVec 8)) : Chip :=
  (List.range ((l.length + 31) / 32)).foldl (fun t i => t.store (physAddr (a + 32 * i)) ((l.drop (32 * i)).take 32)) s

/-! ## Stream-table entries (R338) -/

/-- `n` bytes at offset `o` of stream `i`'s entry. (DEDUCED, log 65) -/
def Chip.st (s : Chip) (i o n : Nat) : Nat := s.num (tableAddr (64 * i) + o) n

def Chip.setSt (s : Chip) (i o n v : Nat) : Chip := s.storeNum (tableAddr (64 * i) + o) n v

def Chip.stState (s : Chip) (i : Nat) : Nat := s.st i 0 1 % 16
def Chip.stCtx (s : Chip) (i : Nat) : Nat := s.st i 0 1 / 16
def Chip.setStState (s : Chip) (i v : Nat) : Chip := s.setSt i 0 1 (v % 16 + s.stCtx i * 16)
def Chip.stClass (s : Chip) (i : Nat) : Nat := s.st i 1 1 % 4

/-- Bit `k` of a stream's CLASS, FLAGS byte. -/
def Chip.stFlag (s : Chip) (i k : Nat) : Bool := decide (s.st i 1 1 / 2 ^ k % 2 = 1)

def Chip.stGen (s : Chip) (i : Nat) : Nat := s.st i 2 2 % 4096

/-- The stream's handle (R337). -/
def Chip.handleOf (s : Chip) (i : Nat) : Nat := i + s.stGen i * 2 ^ 20

/-- The version that a stream binds: none under NOADJ. -/
def Chip.stVer (s : Chip) (i : Nat) : Option Nat := if s.stFlag i 6 then none else some (s.st i 26 2)

/-! ## Entries of a record (R367) -/

/-- The fields of an entry; `none` is a field that the spec gives no value for that status, which is free (DESIGN CHOICE, log 2). -/
structure Entry where
  handle : Nat
  status : Nat
  cause : Nat
  ver : Option Nat
  token : Nat
  prob : Option Nat
  len : Option Nat
  tag : Option Nat
  accepted : Nat
  ncont : Nat
  deriving DecidableEq, Repr

/-- An entry with nothing but a handle and a status. -/
def Entry.plain (handle status : Nat) : Entry :=
  { handle := handle, status := status, cause := 0, ver := none, token := 0xFFFFFFFF, prob := none, len := none, tag := none,
    accepted := 0, ncont := 0 }

/-- The 32 B of an entry; the free values from number `n` on stand for its open fields. (DESIGN CHOICE, log 2) -/
def Entry.word (e : Entry) (n : Nat) : BitVec 256 :=
  BitVec.ofNat 256 (e.handle % 2 ^ 32 + e.status % 256 * 2 ^ 32 + e.cause % 256 * 2 ^ 40 + (e.ver.getD 0xFFFF) % 2 ^ 16 * 2 ^ 48 +
    e.token % 2 ^ 32 * 2 ^ 64 + (e.prob.getD (Config.freeNat n)) % 2 ^ 32 * 2 ^ 96 +
    (e.len.getD (Config.freeNat (n + 1))) % 2 ^ 32 * 2 ^ 128 + (e.tag.getD (Config.freeNat (n + 2))) % 2 ^ 32 * 2 ^ 160 +
    e.accepted % 256 * 2 ^ 192 + e.ncont % 256 * 2 ^ 200 + (if e.ver.isSome then 1 else 0) * 2 ^ 208)

/-- A continuation entry: up to six tokens. -/
def contWord (handle : Nat) (toks : List Nat) : BitVec 256 :=
  BitVec.ofNat 256 (handle % 2 ^ 32 + 0xFF * 2 ^ 32 +
    ((List.range 6).map fun k => (toks[k]?).getD 0xFFFFFFFF % 2 ^ 32 * 2 ^ (64 + 32 * k)).sum)

/-- The continuations of an entry that emitted these tokens before its last (R367). -/
def contWords (handle : Nat) (toks : List Nat) : List (BitVec 256) :=
  (List.range ((toks.length + 5) / 6)).map fun k => contWord handle (toks.drop (6 * k))

/-- An entry for the context's next record (R366). -/
def Chip.report (s : Chip) (x : Nat) (e : Entry) : Chip :=
  let t := s.updSeCtx x fun k => { k with out := k.out ++ [e.word s.fresh] }
  { t with fresh := t.fresh + 3 }

/-- The 32 B header of a record, then its entries (R366). -/
def recordBytes (type x step formed processed : Nat) (l : List (BitVec 256)) : List (BitVec 8) :=
  bytesOf 1 type ++ bytesOf 1 x ++ bytesOf 2 0 ++ bytesOf 4 step ++ bytesOf 8 formed ++ bytesOf 8 processed ++
  bytesOf 4 l.length ++ bytesOf 4 (32 + 32 * l.length) ++ l.flatMap fun e => bytesOf 32 e.toNat

/-! ## The outlet ring (R365) -/

def fOutLog2 : Fld := ⟨0x118, 0, 5⟩
def fOutHead : Fld := ⟨0x11C, 0, 26⟩
def fOutTail : Fld := ⟨0x120, 0, 26⟩
def fOutWait : Fld := ⟨0x124, 0, 1⟩
def fCtxEn : Fld := ⟨0x100, 0, 1⟩

/-- The bytes that a record of length `n` takes with its pad. -/
def Chip.ringNeed (s : Chip) (n : Nat) : Nat :=
  let size := 2 ^ s.get pgSE fOutLog2
  let h := s.get pgSE fOutHead
  if size < h + n then size - h + n else n

/-- The ring has room for a record of `n` bytes and its pad; a ring is never filled to its last byte (DEDUCED, log 17). -/
def Chip.ringRoom (s : Chip) (n : Nat) : Bool :=
  let size := 2 ^ s.get pgSE fOutLog2
  decide (s.ringNeed n + (s.get pgSE fOutHead + size - s.get pgSE fOutTail) % size < size)

/-- The lines of the kiln cellar region that a run of bytes at a kiln address touches are counted by their controllers, which write them
for the engine (R274, R365). -/
def Chip.physLines (s : Chip) (a n : Nat) : Chip :=
  (List.range (if n = 0 then 0 else (a + n - 1) / 64 - a / 64 + 1)).foldl (fun t i =>
    let o := (a / 64 + i) * 64
    if 0x80000000 ≤ o && o < 0x100000000 then
      let p := pgCEL ((carveAddr (o - 0x80000000) - celAddr 0) / 2 ^ 28)
      (t.count p 0x01 1).count p 0x03 1
    else t) s

/-- A record is written at OUT_HEAD, after a pad record where it would pass the end (R365). -/
def Chip.ringWrite (s : Chip) (b : List (BitVec 8)) : Chip :=
  let size := 2 ^ s.get pgSE fOutLog2
  let base := s.get64 pgSE 0x110
  let h := s.get pgSE fOutHead
  let wraps := decide (size < h + b.length)
  let s1 := if wraps then (s.putPhys (base + h) (bytesOf 28 0 ++ bytesOf 4 (size - h))).physLines (base + h) 32 else s
  let at0 := if wraps then 0 else h
  (((s1.putPhys (base + at0) b).physLines (base + at0) b.length).put pgSE fOutHead ((at0 + b.length) % size)).raise pgSE 0

/-- The engine waits for room while the ring has none for the oldest record that waits (R365, R373). -/
def Chip.waitRoom (s : Chip) : Chip :=
  match s.se.records with
  | [] => s.put pgSE fOutWait 0
  | r :: _ =>
    if s.ringRoom r.bytes.length then s.put pgSE fOutWait 0
    else if s.bit pgSE fOutWait then s
    else (s.put pgSE fOutWait 1).raise pgSE 3

/-- The oldest waiting record is written when the ring has room (R365, R373). -/
def Chip.drainRecord (s : Chip) : Chip :=
  match s.se.records with
  | [] => s
  | r :: rest =>
    if s.ringRoom r.bytes.length then
      let s0 : Chip := { s with se := { s.se with records := rest } }
      let s1 := (s0.ringWrite r.bytes).waitRoom
      if r.type = 2 then s1.raise pgSE 2 else s1
    else s.waitRoom

/-- A record joins those that wait for the ring. -/
def Chip.addRecord (s : Chip) (r : OutRecord) : Chip :=
  ({ s with se := { s.se with records := s.se.records ++ [r] } } : Chip).waitRoom

/-- The streams of context `x` that are in a step in flight. -/
def SeCtx.inFlight (k : SeCtx) : List Nat := k.steps.flatMap fun t => t.placed.map (·.idx)

/-- What the stream engine does when a context faults (R370, R401): it forms and processes no more, clears CTX_EN and writes
the fault record; DELAYED reports that the record has no room for are left out and counted, and other entries beyond 65,535 wait for the
context's next record (R369).  The step and the formation beat in that record's header are open (DESIGN CHOICE, log 2). (DEDUCED, log 62) (DEDUCED, log 64) -/
def seFault (x : Nat) (s : Chip) : Chip :=
  let k := s.seCtx x
  let tardy := k.steps.flatMap fun t => t.delayed
  let flt := k.inFlight.map fun i =>
    ({ Entry.plain (s.handleOf i) 0x3F with ver := s.stVer i, len := some (s.st i 28 4), tag := some (s.st i 4 4) } : Entry)
  let all := k.out ++ (flt.zip (List.range flt.length)).map fun e => e.1.word (s.fresh + 2 + 3 * e.2)
  let room := 65535 - all.length
  let b := recordBytes 2 x (Config.freeNat s.fresh) (Config.freeNat (s.fresh + 1)) s.beat (tardy.take room ++ all.take 65535)
  let s0 : Chip := { s with fresh := s.fresh + 2 + 3 * flt.length }
  let s1 := ((s0.setSeCtx x { k with steps := [], out := all.drop 65535, due := false }).put (pgCTX x) fCtxEn 0).count pgSE (16 * x + 4)
    (tardy.length - room)
  let s2 := s1.addRecord ⟨x, 2, b⟩
  if decide (s2.se.records.length = 1) then s2.drainRecord else s2

end Sys2Proof.Machine
end

