-- ==== Sys2Proof/Machine/Ops.lean ====
section
/-! DEFINITION. The shared operations: logging an error (R394, R395, R473, R474), faulting a context and stopping its cores
(R95, R399 to R401), the core's status fields, timers. -/

namespace Sys2Proof.Machine

/-! ## Named fields of the common registers and of the core pages -/

def fBlkCtrlHold : Fld := ⟨0x008, 2, 1⟩
def fLock : Fld := ⟨0x008, 3, 1⟩
def fResetActive : Fld := ⟨0x00C, 1, 1⟩
def fErrStat : Fld := ⟨0x010, 0, 26⟩
def fErrEn : Fld := ⟨0x014, 0, 26⟩
def fErrFirst : Fld := ⟨0x018, 0, 8⟩
def fErrCtx : Fld := ⟨0x01C, 0, 17⟩
def fIntStat : Fld := ⟨0x028, 0, 32⟩
def fIntEn : Fld := ⟨0x02C, 0, 32⟩
def fCntSel : Fld := ⟨0x034, 0, 12⟩
def fSeqIgm : Fld := ⟨0x100, 1, 1⟩
def fSeqState : Fld := ⟨0x104, 0, 3⟩
def fSeqIgmAct : Fld := ⟨0x104, 3, 1⟩
def fSeqLate : Fld := ⟨0x104, 4, 1⟩
def fSeqStall : Fld := ⟨0x104, 8, 4⟩
def fSeqImRej : Fld := ⟨0x104, 13, 1⟩
def fSeqPc : Fld := ⟨0x108, 0, 13⟩
def fSeqStartPc : Fld := ⟨0x10C, 0, 13⟩
def fSeqCtx : Fld := ⟨0x120, 0, 4⟩
def fSeqCtxTag : Fld := ⟨0x120, 0, 16⟩
def fSeqOvlBase : Fld := ⟨0x124, 0, 22⟩
def fSeqOvrLimit : Fld := ⟨0x128, 0, 8⟩
def fSeqOvrConsec : Fld := ⟨0x12C, 0, 8⟩
def fSeqOvrCount : Fld := ⟨0x130, 0, 32⟩
def fSeqOvrMax : Fld := ⟨0x134, 0, 32⟩
def fSeqFault : Fld := ⟨0x140, 0, 29⟩
def fSyncAccOvf : Fld := ⟨0x104, 4, 1⟩
def fSyncNwRef : Fld := ⟨0x104, 5, 1⟩
def fSyncSdRej : Fld := ⟨0x104, 8, 1⟩
def fSyncRelSeq : Fld := ⟨0x108, 0, 16⟩
def fSyncEsc : Fld := ⟨0x10C, 0, 32⟩
def fSyncEscCyc : Fld := ⟨0x110, 0, 32⟩
def fSyncProbes : Fld := ⟨0x114, 0, 32⟩
def fSyncKSeq : Fld := ⟨0x170, 0, 16⟩
def fSyncKScope : Fld := ⟨0x170, 16, 2⟩
def fSyncKBusy : Fld := ⟨0x174, 0, 1⟩
def fSyncKDone : Fld := ⟨0x174, 1, 1⟩
def fSyncFaultSlot : Fld := ⟨0x178, 0, 12⟩
def fSyncFaultUnit : Fld := ⟨0x178, 12, 3⟩
def fFltState (x : Nat) : Fld := ⟨0x200 + 0x40 * x, 0, 2⟩
def fFltCapture (x : Nat) : Fld := ⟨0x200 + 0x40 * x, 2, 1⟩
def fFltCaptureOk (x : Nat) : Fld := ⟨0x200 + 0x40 * x, 3, 1⟩
def fFltTag (x : Nat) : Fld := ⟨0x200 + 0x40 * x, 4, 12⟩
def fFltWaitTmo (x : Nat) : Fld := ⟨0x208 + 0x40 * x, 0, 32⟩
def fFltCmdTmo (x : Nat) : Fld := ⟨0x20C + 0x40 * x, 0, 32⟩
def fFltFirst (x : Nat) : Fld := ⟨0x210 + 0x40 * x, 0, 32⟩
def fFltCount (x : Nat) : Fld := ⟨0x21C + 0x40 * x, 0, 32⟩
def fGfeCode : Fld := ⟨0x100, 0, 8⟩
def fGfeCtx : Fld := ⟨0x104, 0, 17⟩
def fGfeSrc : Fld := ⟨0x108, 0, 24⟩
def fGfeMore : Fld := ⟨0x114, 0, 32⟩
def fModFault : Fld := ⟨0x118, 0, 1⟩
def fSecDbg : Fld := ⟨0x108, 0, 2⟩
def fSecUnlocked : Fld := ⟨0x108, 2, 1⟩

/-- Counter `n` of core `c` (R99). -/
def fCnt (n : Nat) : Fld := ⟨0x160 + 4 * n, 0, 32⟩
def fArr (n : Nat) : Fld := ⟨0x120 + 4 * n, 0, 32⟩

/-- The sequencer's states (R71). -/
def sqIDLE : Nat := 0
def sqLOADING : Nat := 1
def sqARMED : Nat := 2
def sqRUNNING : Nat := 3
def sqHELD : Nat := 4
def sqHALTED : Nat := 5
def sqFAULTED : Nat := 6

/-- The error codes of R393. -/
def eUNCORR : Nat := 0x03
def ePOISON : Nat := 0x04
def eCMD_TIMEOUT : Nat := 0x10
def eABSENT : Nat := 0x11
def eILLEGAL : Nat := 0x12
def eSLOT_TIMEOUT : Nat := 0x13
def eSEND_TIMEOUT : Nat := 0x14
def eBAD_LEN : Nat := 0x15
def eLA_OVF : Nat := 0x16
def eOVERRUN : Nat := 0x17
def eLINK_DOWN : Nat := 0x18
def eBEAT_LOSS : Nat := 0x19
def eBAD_DESC : Nat := 0x1A
def eACC : Nat := 0x1B
def eNW_REFUSED : Nat := 0x1C
def eADJ_BAD : Nat := 0x1D
def eBAD_ADDR : Nat := 0x1E
def eCHAN_CLOSED : Nat := 0x1F
def eCHAN_REFUSED : Nat := 0x20
def eMESH_HDR : Nat := 0x21
def eNO_ROUTE : Nat := 0x22
def eKILLED : Nat := 0x23
def eTHERMAL : Nat := 0x24
def eKILN_WDOG : Nat := 0x25

/-- The units of a core, as FAULT_UNIT numbers them (R144). -/
def uMTX : Nat := 1
def uVEC : Nat := 2
def uMOV : Nat := 3
def uADJ : Nat := 4
def uCHAN : Nat := 5
def uCEL : Nat := 6
def uSYNC : Nat := 7

/-- The page of a unit of core `c`. -/
def unitPage (c u : Nat) : Nat :=
  if u = uMTX then pgMTX c else if u = uVEC then pgVEC c else if u = uMOV || u = uCEL then pgMOV c
  else if u = uADJ then pgADJ c else if u = uCHAN then pgCHAN c else if u = uSYNC then pgSYNC c else pgSEQ c

/-- The bit of ERR_STAT that a code has (R473). -/
def errBit (code : Nat) : Nat := if code < 0x10 then code - 1 else code - 0x0C

/-- The page holds the common error registers (R472). -/
def hasErrRegs (page : Nat) : Bool :=
  match pageType page with
  | some (t, _) => !(t = 1 || t = 2 || t = 3 || t = 0xE || t = 0x41)
  | none => false

/-- The block of a page logs an error in its own registers (R394, R473, R474).  `cw` is the value of ERR_CTX. -/
def Chip.logLocal (s : Chip) (page code cw : Nat) : Chip :=
  if hasErrRegs page then
    let s1 := s.setReg (page + 0x010) (s.reg (page + 0x010) ||| BitVec.ofNat 32 (2 ^ errBit code))
    let s2 := if s.get page fErrFirst = 0 then
        ((s1.put page fErrFirst code).put page fErrCtx cw).put64 page 0x020 s.beat
      else s1
    if (s.reg (page + 0x014)).getLsbD (errBit code) then s2.raise page 31 else s2
  else s

/-- The global first-error log (R395, R483). -/
def Chip.logGlobal (s : Chip) (page code cw : Nat) : Chip :=
  if code = 1 || code = 2 then s
  else if s.get pgGERP fGfeCode = 0 then
    ((((s.put pgGERP fGfeCode code).put pgGERP fGfeCtx cw).put pgGERP fGfeSrc (blkSrc page)).put64 pgGERP 0x10C s.beat).raise
      pgGERP 0
  else s.inc pgGERP fGfeMore 1

/-- An error is logged (R394, R395). -/
def Chip.logErr (s : Chip) (page code cw : Nat) : Chip := (s.logLocal page code cw).logGlobal page code cw

/-- A write to an absent unit is discarded, with ABSENT_UNIT in the global log (R3, R466). -/
def Chip.absentWrite (s : Chip) : Chip := s.logErr pgGERP eABSENT 0

/-- A write to a register of core `c` that acts: one to an absent core is R3's, and a core in reset takes none (R408). -/
def Chip.toCore (s : Chip) (c : Nat) (f : Chip → Chip) : Chip :=
  if !(s.present c) then s.absentWrite else if (s.core c).inReset then s else f s

/-- ERR_CTX naming the context of core `c` (R393). -/
def Chip.coreCtxw (s : Chip) (c : Nat) : Nat := s.get (pgSEQ c) fSeqCtxTag + 2 ^ 16

/-- ERR_CTX naming context `x`, with the job tag of its FLT group. -/
def Chip.ctxw (s : Chip) (x : Nat) : Nat := x % 16 + s.get pgFLT (fFltTag (x % 16)) * 16 + 2 ^ 16

def Chip.ctxOf (s : Chip) (c : Nat) : Nat := s.get (pgSEQ c) fSeqCtx

def Chip.seqState (s : Chip) (c : Nat) : Nat := s.get (pgSEQ c) fSeqState

def Chip.pc (s : Chip) (c : Nat) : Nat := s.get (pgSEQ c) fSeqPc

def Chip.cnt (s : Chip) (c n : Nat) : Word := s.reg (pgSEQ c + 0x160 + 4 * n)

def Chip.setCnt (s : Chip) (c n : Nat) (v : Word) : Chip := s.setReg (pgSEQ c + 0x160 + 4 * n) v

/-- The sequencer of core `c` is in one of these states. -/
def Chip.seqIn (s : Chip) (c : Nat) (l : List Nat) : Bool := l.contains (s.seqState c)

/-- The context's state in the fault unit (R399). -/
def Chip.ctxState (s : Chip) (x : Nat) : Nat := s.get pgFLT (fFltState x)

/-- The cores whose SEQ CTX names a context (R412). -/
def Chip.coresOf (s : Chip) (x : Nat) : List Nat := s.presentCores.filter fun c => s.ctxOf c = x

/-- A packet that carries a line of a node's cellar transfers, its polls or its releases (R17). -/
def lineOf (n : Node) (p : Packet) : Bool :=
  match p.body with
  | .lineReq _ _ _ _ => decide (p.src = n)
  | .lineAck _ _ _ _ => decide (p.dst = n)
  | _ => false

/-- A core stops (R95): the sequencer is FAULTED, the engines abandon what is queued and what runs, a load in progress leaves
its blocks INVALID (R92); the lines of its abandoned transfers are given up (R269).  An IDLE sequencer stays IDLE (R71). (DEDUCED, log 34) (DEDUCED, log 87) -/
def Chip.stopCore (s : Chip) (c code cause pc : Nat) : Chip :=
  if s.seqState c = sqIDLE || s.seqState c = sqFAULTED then s
  else
    let k := s.core c
    let k1 := k.loads.foldl (fun (a : Core) l => (List.range l.nblk).foldl (fun a i => a.setBlock (l.first + i) 0) a) k
    let k2 : Core := { k1 with q := [], run := [], loads := [], wait := none, loadsPend := [], cntPend := [],
                               probes := [], acq := none, chain := none, chainIssued := none,
                               corr := [], deferred := false }
    let s1 := (((s.setCore c k2).put (pgSEQ c) fSeqState sqFAULTED).put (pgSEQ c) fSeqFault
      (code + cause % 256 * 256 + pc % 8192 * 65536)).netKeep fun p => !(lineOf ⟨s.devId, .core c⟩ p)
    -- a channel end that was OPENING is CLOSED when the context faults (R286)
    s1.forEach (List.range 64) fun t ch =>
      if t.get (pgCHAN c) ⟨0x400 + 16 * ch, 0, 3⟩ = 2 then t.put (pgCHAN c) ⟨0x400 + 16 * ch, 0, 3⟩ 0 else t

/-- CAPTURE_OK as it is fixed when a context faults (R403). -/
def Chip.captureOk (s : Chip) (x : Nat) : Nat :=
  if s.get pgFLT (fFltCapture x) = 1 && (s.get pgSEC fSecDbg = 0 || (s.get pgSEC fSecDbg = 1 && s.get pgSEC fSecUnlocked = 1))
  then 1 else 0

/-- A fault is attributed to a context (R399, R401): an ACTIVE context becomes FAULTED, its cores stop, the stream engine
writes its fault record; a FAULTED or SCRUBBING context counts it; a FREE context is not changed. -/
def Chip.contextFault (s : Chip) (x code srcPage : Nat) : Chip :=
  let st := s.ctxState x
  if st = 1 then
    let s1 := ((((s.put pgFLT (fFltState x) 2).put pgFLT (fFltCaptureOk x) (s.captureOk x)).put pgFLT (fFltFirst x)
      (code + blkSrc srcPage * 256)).put64 pgFLT (0x214 + 0x40 * x) s.beat).inc pgFLT (fFltCount x) 1
    let s2 := (s1.count pgFLT (if code = eKILLED then 1 else 0) 1).raise pgFLT 0
    let s3 := s2.forEach (s2.coresOf x) fun t c => t.stopCore c 0 0 (t.pc c)
    seFault x s3
  else if st = 0 then s
  else s.inc pgFLT (fFltCount x) 1

/-- An error of a page is logged and faults context `x` (R393, "Yes"). (DEDUCED, log 77) -/
def Chip.faultCtx (s : Chip) (page x code : Nat) : Chip := (s.logErr page code (s.ctxw x)).contextFault x code page

/-- An error of a unit of core `c` (R95): it is logged with the core's context, the core stops with the code and cause, and
its context faults. -/
def Chip.faultCore (s : Chip) (c page code cause pc : Nat) : Chip :=
  ((s.logErr page code (s.coreCtxw c)).stopCore c code cause pc).contextFault (s.ctxOf c) code page

/-- A fault at issue (R234, R236). -/
def Chip.faultSeq (s : Chip) (c code cause : Nat) : Chip := s.faultCore c (pgSEQ c) code cause (s.pc c)

/-- A fault of unit `u` while it executes a command issued at index `pc`; FAULT_CAUSE holds 0xFF (DEDUCED, log 8). -/
def Chip.faultUnit (s : Chip) (c u code pc : Nat) : Chip := s.faultCore c (unitPage c u) code 0xFF pc

/-- A fault of unit `u`, recording the slot and the unit in the synchronisation page (R144). (DEDUCED, log 8) -/
def Chip.faultSlot (s : Chip) (c u code slot pc : Nat) : Chip :=
  ((s.put (pgSYNC c) fSyncFaultSlot slot).put (pgSYNC c) fSyncFaultUnit u).faultUnit c u code pc

/-- A fault of unit `u` that names a slot and no waiting unit (R120, R144, R242). -/
def Chip.faultNamed (s : Chip) (c u code slot pc : Nat) : Chip := (s.put (pgSYNC c) fSyncFaultSlot slot).faultUnit c u code pc

/-! ## Frequencies and floors (R63, R420, R435, R436) -/

def fCurFreq : Fld := ⟨0x110, 0, 5⟩

/-- The highest floor that a loaded program declares, 0 when none (R63, R435). -/
def Chip.highFloor (s : Chip) : Nat :=
  ((List.range 16).map fun c => if s.bit pgGOV ⟨0x300 + 4 * c, 7, 1⟩ then s.get pgGOV ⟨0x300 + 4 * c, 0, 5⟩ else 0).foldl max 0

/-- The frequency lies below the highest floor, which freezes every consecutive-overrun count (R63). -/
def Chip.belowFloor (s : Chip) : Bool := decide (s.get pgCLK fCurFreq < s.highFloor)

/-! ## Timers (R94, R405) -/

/-- The wait timeout of core `c`'s context, and its command timeout. -/
def Chip.waitTmo (s : Chip) (c : Nat) : Nat := s.get pgFLT (fFltWaitTmo (s.ctxOf c))
def Chip.cmdTmo (s : Chip) (c : Nat) : Nat := s.get pgFLT (fFltCmdTmo (s.ctxOf c))

/-- A timer begun at `began` with timeout `tmo` has expired: `tmo` edges have been seen, and 0 disables it (R94). (DEDUCED, log 28) -/
def Chip.expired (s : Chip) (began tmo : Nat) : Bool := decide (tmo ≠ 0) && decide (began + tmo ≤ s.edges)

/-- A new place in the order of waiting (R114). -/
def Chip.bumpWait (s : Chip) : Chip := { s with waitNo := s.waitNo + 1 }

/-- The sequencer waits (R93). -/
def Chip.setWait (s : Chip) (c : Nat) (w : SeqWait) : Chip :=
  ((s.updCore c fun k => { k with wait := some w }).put (pgSEQ c) fSeqStall w.code).bumpWait

/-- The sequencer's wait ends. -/
def Chip.endWait (s : Chip) (c : Nat) : Chip :=
  (s.updCore c fun k => { k with wait := none }).put (pgSEQ c) fSeqStall 0

/-! ## Corrected words (R398) -/

/-- A unit reads a range: its corrected words are logged in its page (R104, R398). -/
def Chip.noteCorr (s : Chip) (page cw a n : Nat) : Chip :=
  let one := s.errs.any fun p => inWords a n p.1 && decide (p.2 = 1)
  let two := s.errs.any fun p => inWords a n p.1 && decide (p.2 = 2)
  let s1 := if one then s.logErr page 1 cw else s
  if two then s1.logErr page 2 cw else s1

/-- The words that a write covers in part, whose stored content is merged (R397). -/
def partWords (a n : Nat) : List Nat := (wordsOf a n).filter fun w => !(wholeWord a n w)

/-- A write that covers words in part: those that the merge corrects are logged in a page (R397, R398). (DEDUCED, log 77) -/
def Chip.noteMerge (s : Chip) (page cw a n : Nat) : Chip :=
  if s.errs = [] then s else (partWords a n).foldl (fun t w => t.noteCorr page cw (8 * w) 8) s

/-- A copying unit meets an uncorrectable word: it logs it and faults nothing (R396). -/
def Chip.noteUncorr (s : Chip) (page cw a n : Nat) : Chip :=
  if s.errs.any (fun p => inWords a n p.1 && decide (3 ≤ p.2)) then s.logErr page eUNCORR cw else s

end Sys2Proof.Machine
end

