-- ==== Sys2Proof/Machine/Power.lean ====
section
/-! DEFINITION. Frequency switches, core voltage, gusts, the ramp limiter, the governor and the lanes' adaptation (R420 to R434,
R60 to R63). -/

namespace Sys2Proof.Machine

def fPstate : Fld := ⟨0x104, 0, 2⟩
def fPsBusy : Fld := ⟨0x104, 2, 1⟩
def fPsReject : Fld := ⟨0x104, 3, 1⟩
def fFMax : Fld := ⟨0x108, 0, 5⟩
def fGovPeriod : Fld := ⟨0x10C, 0, 11⟩
def fPlSust : Fld := ⟨0x110, 0, 11⟩
def fPeakTime : Fld := ⟨0x114, 0, 4⟩
def fIccMax : Fld := ⟨0x114, 8, 5⟩
def fIccTime : Fld := ⟨0x114, 16, 4⟩
def fPwrStep : Fld := ⟨0x118, 0, 4⟩
def fThrStep : Fld := ⟨0x118, 4, 4⟩
def fPwrHyst : Fld := ⟨0x118, 8, 8⟩
def fUpStep : Fld := ⟨0x118, 16, 4⟩
def fRampPct : Fld := ⟨0x11C, 0, 5⟩
def fCapEn : Fld := ⟨0x11C, 8, 1⟩
def fLeqDt : Fld := ⟨0x120, 0, 4⟩
def fLeqPeriod : Fld := ⟨0x120, 8, 24⟩
def fVddSet : Fld := ⟨0x124, 0, 11⟩
def fVOk : Fld := ⟨0x124, 11, 1⟩
def fVsetReject : Fld := ⟨0x124, 12, 1⟩
def fVrt : Fld := ⟨0x128, 8, 3⟩
def fVinMv : Fld := ⟨0x130, 0, 16⟩
def fIinMa : Fld := ⟨0x134, 0, 16⟩
def fPinW : Fld := ⟨0x138, 0, 11⟩
def fPinTau : Fld := ⟨0x138, 16, 11⟩
def fVinMin : Fld := ⟨0x13C, 0, 16⟩
def fThrottling : Fld := ⟨0x140, 0, 1⟩
def fPlFloor : Fld := ⟨0x140, 1, 1⟩
def fCapOn : Fld := ⟨0x140, 2, 1⟩
def fFswFreq : Fld := ⟨0x100, 0, 5⟩
def fFswPend : Fld := ⟨0x10C, 1, 1⟩
def fFswDone : Fld := ⟨0x10C, 2, 1⟩
def fFswReject : Fld := ⟨0x10C, 4, 3⟩
def fDroopEn : Fld := ⟨0x11C, 8, 1⟩
def fGustCnt (r : Nat) : Fld := ⟨0x200 + 8 * r, 0, 32⟩
def fGustMax (r : Nat) : Fld := ⟨0x204 + 8 * r, 0, 7⟩
def fGustSat (r : Nat) : Fld := ⟨0x204 + 8 * r, 7, 1⟩
def fTThrot : Fld := ⟨0x100, 0, 8⟩
def fTEmerg : Fld := ⟨0x100, 8, 8⟩
def fThrHyst : Fld := ⟨0x100, 16, 4⟩
def fTmax : Fld := ⟨0x104, 0, 10⟩
def fTmaxIdx : Fld := ⟨0x104, 16, 8⟩
def fEmerg : Fld := ⟨0x108, 0, 1⟩
def fTemp (n : Nat) : Fld := ⟨0x400 + 4 * n, 0, 10⟩

/-! ## Voltage (R421) -/

/-- V(f) in half millivolts. (DEDUCED, log 50) -/
def Chip.vNeed (s : Chip) (f : Nat) : Int := 1360 + 15 * f + 10 * (sgn 4 s.ident.voff + s.get pgGOV fVrt)

/-- The setting is at least V(f). (DEDUCED, log 50) -/
def Chip.vEnough (s : Chip) (mv f : Nat) : Bool := decide (s.vNeed f ≤ 2 * (mv : Int))

/-- The lowest setting that is at least V(f). -/
def Chip.vFor (s : Chip) (f : Nat) : Nat := ((s.vNeed f + 1) / 2).toNat

/-- The voltage that the quadrants last settled at. -/
def Chip.vLevel (s : Chip) : Nat := s.pow.level.getD (680 + 5 * sgn 4 s.ident.voff).toNat

/-- Two voltages lie within 5 mV of each other. -/
def nearMv (a b : Nat) : Bool := decide (a ≤ b + 5) && decide (b ≤ a + 5)

/-- VDD_SET changes and the converters begin to slew: V_OK is 1 only while every quadrant lies within 5 mV of it, wherever between the
voltage last settled at and the old VDD_SET the quadrants stand. (DEDUCED, log 50) -/
def Chip.setVdd (s : Chip) (mv : Nat) : Chip :=
  let near := nearMv mv s.vLevel && nearMv mv (s.get pgGOV fVddSet) && s.bit pgGOV fVOk
  (s.put pgGOV fVddSet mv).put pgGOV fVOk (if near then 1 else 0)

/-- A write of VDD_SET (R421); one above the 860 mV that the rail goes to is out of the field's range and ignored (R417, R435). (DEDUCED, log 50) -/
def Chip.vddWrite (s : Chip) (mv : Nat) : Chip :=
  let f := max (s.get pgCLK fCurFreq) ((s.pow.pend.map fun p => p.1).getD 0)
  if 860 < mv then s else if s.vEnough mv f then s.setVdd mv else s.put pgGOV fVsetReject 1

/-! ## The ramp limiter (R433, R434) -/

/-- A core's declared weight. (DEDUCED, log 50) -/
def Chip.actw (s : Chip) (c : Nat) : Nat := s.get pgGOV ⟨0x400 + c / 4 * 4, 8 * (c % 4), 8⟩

/-- The budget of two consecutive beats, in units of 1/48 of a weight. -/
def Chip.rampBudget (s : Chip) : Nat := 255 * s.presentCores.length * s.get pgGOV fRampPct / 100 * 48

def Chip.chargeAt (s : Chip) (b : Nat) : Nat := sget natReset s.pow.charges b

/-- A charge fits in beat `b`, with the beat before and the beat after. -/
def Chip.rampFits (s : Chip) (b w : Nat) : Bool :=
  decide ((if b = 0 then 0 else s.chargeAt (b - 1)) + s.chargeAt b + w ≤ s.rampBudget) &&
  decide (s.chargeAt b + w + s.chargeAt (b + 1) ≤ s.rampBudget)

def Chip.addCharge (s : Chip) (b w : Nat) : Chip :=
  { s with pow := { s.pow with charges := sset natReset s.pow.charges b (s.chargeAt b + w) } }

/-- The charge of a switch to a higher frequency: the weights of the RUNNING cores times the rise over 2,400 MHz. -/
def Chip.switchCharge (s : Chip) (f : Nat) : Nat :=
  ((s.presentCores.filter fun c => s.seqState c = sqRUNNING).map s.actw).sum * (f - s.get pgCLK fCurFreq)

/-- The ARMED core's start beat has been reached; in STANDBY cores are gated (R418). (DEDUCED, log 38) -/
def Chip.mayStart (s : Chip) (c : Nat) : Bool :=
  decide (2 ≤ s.get pgGOV fPstate) && s.present c && !(s.core c).inReset && decide (s.seqState c = sqARMED) && decide (s.get64 (pgSEQ c) 0x110 ≤ s.beat)

/-- Core `d` comes before core `c` in the limiter's order. -/
def Chip.startsBefore (s : Chip) (d c : Nat) : Bool :=
  let a := s.get64 (pgSEQ d) 0x110
  let b := s.get64 (pgSEQ c) 0x110
  decide (a < b) || (decide (a = b) && decide (d < c))

/-- A start is deferred; each core's deferral is counted once. (DEDUCED, log 51) -/
def Chip.deferStart (s : Chip) (c : Nat) : Chip :=
  if (s.core c).deferred then s else (s.updCore c fun k => { k with deferred := true }).count pgGOV 0x07 1

/-- The limiter takes core `c`, when its turn has come (R434): at the first core that does not fit, that core and every core after it are
deferred; a core whose HOLD is set is HELD as soon as it runs (R71). (DEDUCED, log 51) -/
def Chip.coreStart (s : Chip) (c : Nat) : Chip :=
  if !(s.mayStart c) then s
  else if s.pow.stopped then s.deferStart c
  else if s.presentCores.any fun d => s.mayStart d && s.startsBefore d c then s
  else if s.rampFits s.beat (48 * s.actw c) then
    ((s.addCharge s.beat (48 * s.actw c)).updCore c fun k => { k with deferred := false }).put (pgSEQ c) fSeqState
      (if s.bit (pgSEQ c) fBlkCtrlHold then sqHELD else sqRUNNING)
  else
    let t : Chip := { s with pow := { s.pow with stopped := true } }
    t.forEach (s.presentCores.filter s.mayStart) Chip.deferStart

/-- At a beat edge the limiter begins anew; the beats that deferred cores wait are counted (R434, R439). -/
def Chip.rampEdge (s : Chip) : Chip :=
  let n := (s.presentCores.filter fun c => (s.core c).deferred && decide (s.seqState c = sqARMED)).length
  let t : Chip := { s with pow := { s.pow with stopped := false, charges := s.pow.charges.filter fun p => decide (s.beat ≤ p.1 + 1) } }
  t.count pgGOV 0x08 n

/-! ## Frequency switches (R60, R423) -/

def Chip.lastSwitch (s : Chip) : Nat := s.get64 pgCLK 0x114

/-- The earliest beat that causes 1 and 2 allow. -/
def Chip.earliestSwitch (s : Chip) : Nat := max (s.beat + 4) (s.lastSwitch + 8)

/-- The first failing condition of R423 for a switch to code `f` at beat `b`. -/
def Chip.switchCause (s : Chip) (f b : Nat) : Option Nat :=
  let rise := decide (s.get pgCLK fCurFreq < f)
  if b < s.beat + 4 then some 1
  else if b < s.lastSwitch + 8 then some 2
  else if rise && (!(s.bit pgGOV fVOk) || !(s.vEnough (s.get pgGOV fVddSet) f)) then some 3
  else if rise && !(s.rampFits b (s.switchCharge f)) then some 4
  else if s.pow.pend.isSome then some 5
  else if 16 < f then some 6
  else none

/-- A switch is requested (R423). -/
def Chip.requestSwitch (s : Chip) (f b : Nat) : Chip :=
  match s.switchCause f b with
  | some k =>
    let t := (s.put pgCLK fFswReject k).raise pgCLK 1
    if k = 4 then t.count pgGOV 0x09 1 else t
  | none =>
    let t := if s.get pgCLK fCurFreq < f then s.addCharge b (s.switchCharge f) else s
    let u : Chip := { t with pow := { t.pow with pend := some (f, b, false) } }
    u.put pgCLK fFswPend 1

/-- A thermal emergency programs 1,600 MHz: it takes over a pending switch, or programs one (R426). (DEDUCED, log 49) -/
def Chip.emergencySwitch (s : Chip) : Chip :=
  let b := match s.pow.pend with
    | some p => p.2.1
    | none => s.earliestSwitch
  let u : Chip := { s with pow := { s.pow with pend := some (0, b, true), want := none } }
  u.put pgCLK fFswPend 1

/-- A switch that the governor asks for: it writes FSW_FREQ and FSW_BEAT and then FSW_GO. -/
def Chip.governorSwitch (s : Chip) (f : Nat) : Chip :=
  let b := s.earliestSwitch
  ((s.put pgCLK fFswFreq f).put64 pgCLK 0x104 b).requestSwitch f b

/-- The switch to a higher frequency that waited for V_OK, or for the end of a pending switch, is asked for when neither holds it any
more (R428). (DEDUCED, log 49) -/
def Chip.wanted (s : Chip) : Chip :=
  match s.pow.want with
  | some t =>
    if !(s.bit pgGOV fVOk) || s.pow.pend.isSome then s
    else
      let u : Chip := { s with pow := { s.pow with want := none } }
      if s.get pgCLK fCurFreq < t && !(s.bit pgTHM fEmerg) then u.governorSwitch t else u
  | none => s

/-- The edge of the switch beat (R60, R423): CUR_FREQ and LAST_SW_BEAT take their values. (DEDUCED, log 49; DEDUCED, log 66) -/
def Chip.switchTaken (s : Chip) : Chip :=
  match s.pow.pend with
  | none => s
  | some (g, b, em) =>
    if s.beat < b then s
    else
      let old := s.get pgCLK fCurFreq
      -- in STANDBY every router and cellar controller runs at 1.6 GHz (R418)
      let f := if s.get pgGOV fPstate = 1 then 0 else g
      let t : Chip := { s with pow := { s.pow with pend := none, lower := false } }
      let t1 := ((((t.put pgCLK fCurFreq f).put64 pgCLK 0x114 b).put pgCLK fFswPend 0).put pgCLK fFswDone 1).raise pgCLK 0
      let t2 := if old < f then t1.count pgGOV 0 1 else if f < old then t1.count pgGOV 1 1 else t1
      let t3 := if em then t2.count pgGOV 2 1 else t2
      if s.pow.lower then t3.setVdd (t3.vFor f) else t3

/-- The switch beat, and the switch that waited for it. (DEDUCED, log 49) -/
def Chip.switchBeat (s : Chip) : Chip :=
  let t := s.switchTaken
  if s.pow.pend.isSome && t.pow.pend.isNone then t.wanted else t

/-! ## Gusts (R422) -/

/-- A region's rail droops below DROOP_MV: the next period is stretched, or the window is saturated.  Whether the window of 1,024 cycles
slides (R56) or is fixed (R422) is left open: the command says that a new window begins, and its count then starts at 0. (DESIGN CHOICE, log 89) -/
def Chip.gust (s : Chip) (r : Nat) (newWindow : Bool) : Chip :=
  if !(s.bit pgCLK fDroopEn) then s
  else
    let n := if newWindow then 0 else sget natReset s.pow.gustWin r
    if n < 64 then
      let t : Chip := { s with pow := { s.pow with gustWin := sset natReset s.pow.gustWin r (n + 1) } }
      (t.inc pgCLK (fGustCnt r) 1).put pgCLK (fGustMax r) (max (s.get pgCLK (fGustMax r)) (n + 1))
    else
      let t : Chip := { s with pow := { s.pow with gustSat := true } }
      (t.put pgCLK (fGustSat r) 1).raise pgCLK 2

/-! ## Lane adaptation (R431) -/

def fPortState : Fld := ⟨0x104, 0, 3⟩
def psDISABLED : Nat := 0
def psTRAINING : Nat := 1
def psALIGN : Nat := 2
def psMEASURE : Nat := 3
def psPEER : Nat := 4
def psUP : Nat := 5
def psDEGRADING : Nat := 6
def psDOWN : Nat := 7

def Chip.portState (s : Chip) (p : Nat) : Nat := s.get (pgLNK p) fPortState

/-- The reading of the sensor over a port's link region (R425). -/
def Chip.linkTemp (s : Chip) (p : Nat) : Nat := s.get pgTHM (fTemp (148 + p / 4))

/-- Adaptation is due on a port. -/
def Chip.adaptDue (s : Chip) (p : Nat) : Bool :=
  let k := s.port p
  let t := s.linkTemp p
  let moved := 4 * s.get pgGOV fLeqDt
  let per := s.get pgGOV fLeqPeriod
  s.portPresent p && decide (s.portState p = psUP) &&
  (decide (k.adTemp + moved ≤ t) || decide (t + moved ≤ k.adTemp) || (decide (per ≠ 0) && decide (k.adEdge + per ≤ s.edges)))

/-- The governor starts adaptation: one port of a region at a time. -/
def Chip.adaptStart (s : Chip) : Chip :=
  s.forEach (List.range 4) fun t r =>
    let ps := (List.range 4).map fun i => 4 * r + i
    if ps.any fun p => (t.port p).adapting then t
    else match ps.find? t.adaptDue with
      | some p =>
        (t.updPort p fun k => { k with adapting := true, adTemp := t.linkTemp p, adEdge := t.edges }).count pgGOV 0x0A 1
      | none => t

/-! ## The governor's tick (R428 to R430) -/

/-- The last `n` averages were all above a limit. (DEDUCED, log 52) -/
def lastAbove (l : List Nat) (n lim : Nat) : Bool := decide (n ≤ l.length) && (l.take n).all fun x => decide (lim < x)

/-- The readings that the governor keeps (R428, R435). -/
def Chip.takeReadings (s : Chip) (r : PowerReadings) : Chip :=
  let p := pgGOV
  let s1 := (((s.put p fVinMv r.vinMv).put p fIinMa (r.iinMa.headD 0)).put p fPinW (r.pinW.headD 0)).put p fPinTau r.pinTau1
  let s2 := s1.put p fVinMin (min (s.get p fVinMin) (s1.get p fVinMv))
  s2.forEach (List.range 10) fun t k => t.put64 p (0x200 + 8 * k) (t.get64 p (0x200 + 8 * k) + (r.energy[k]?).getD 0)

/-- VRT rises after a saturated gust window (R422). -/
def Chip.raiseVrt (s : Chip) : Chip :=
  let t : Chip := { s with pow := { s.pow with gustSat := false } }
  if s.pow.gustSat && decide (s.get pgGOV fVrt < 6) then (t.inc pgGOV fVrt 1).count pgGOV 0x0B 1 else t

/-- A power or current limit is exceeded. -/
def Chip.overLimit (s : Chip) (r : PowerReadings) : Bool :=
  lastAbove r.pinW (s.get pgGOV fPeakTime - 2) (s.get pgGOV fPlSust) || decide (s.get pgGOV fPlSust < r.pinTau1) ||
  lastAbove r.iinMa (s.get pgGOV fIccTime) (1000 * s.get pgGOV fIccMax)

/-- A sensor reads T_THROT or above. -/
def Chip.hot (s : Chip) : Bool := decide (4 * s.get pgTHM fTThrot ≤ s.get pgTHM fTmax)

/-- Every limit is slack. -/
def Chip.slack (s : Chip) (r : PowerReadings) : Bool :=
  decide (r.pinTau1 + s.get pgGOV fPwrHyst < s.get pgGOV fPlSust) && decide (r.pinW.headD 0 + s.get pgGOV fPwrHyst < s.get pgGOV fPlSust) &&
  decide (r.iinMa.headD 0 + 1000 < 1000 * s.get pgGOV fIccMax) &&
  decide (s.get pgTHM fTmax + 4 * s.get pgTHM fThrHyst < 4 * s.get pgTHM fTThrot)

/-- The code that the governor wants, from the code in force or pending (R428). -/
def Chip.targetFreq (s : Chip) (r : PowerReadings) (f : Nat) : Nat :=
  let ov := s.overLimit r
  let t := if ov || s.hot then f - max (if ov then s.get pgGOV fPwrStep else 0) (if s.hot then s.get pgGOV fThrStep else 0)
           else if s.slack r then f + s.get pgGOV fUpStep else f
  max (min t (s.get pgGOV fFMax)) s.highFloor

/-- The governor moves towards code `t` from code `f`; it makes no request while a switch is pending, but raises VDD_SET for the next.
(DEDUCED, log 49) -/
def Chip.moveFreq (s : Chip) (f t : Nat) : Chip :=
  if t < f then
    (if s.pow.pend.isSome then s
     else
       let u := s.governorSwitch t
       { u with pow := { u.pow with lower := u.pow.pend.isSome } })
  else if f < t then
    let u := if s.vEnough (s.get pgGOV fVddSet) t then s else s.setVdd (s.vFor t)
    ({ u with pow := { u.pow with want := some t } } : Chip).wanted
  else s

/-- The tick (R428, R429); in STANDBY the frequency stays at 1.6 GHz (R418). (DEDUCED, log 49; DEDUCED, log 66) -/
def Chip.governorTick (s : Chip) (r : PowerReadings) : Chip :=
  if s.edges < s.pow.lastTick + s.get pgGOV fGovPeriod then s
  else
    let s0 : Chip := { s with pow := { s.pow with lastTick := s.edges, want := none } }
    let s1 := (s0.takeReadings r).raiseVrt
    let hot := s1.hot
    let ov := s1.overLimit r
    let s2 := s1.put pgGOV fThrottling (if hot then 1 else 0)
    let s3 := if hot then (if s1.bit pgGOV fThrottling then s2 else s2.raise pgGOV 2).count pgGOV 4 1 else s2
    let s4 := (if ov then s3.count pgGOV 5 1 else s3).adaptStart
    if s4.bit pgTHM fEmerg || s4.get pgGOV fPstate = 1 then s4
    else
      let f := (s4.pow.pend.map fun p => p.1).getD (s4.get pgCLK fCurFreq)
      let low := (ov || hot) && decide (f ≤ s4.highFloor)
      let s5 := s4.put pgGOV fPlFloor (if low then 1 else 0)
      let s6 := if low && !(s4.bit pgGOV fPlFloor) then s5.raise pgGOV 1 else s5
      let s7 := s6.put pgGOV fCapOn (if s4.bit pgGOV fCapEn && (ov || hot) && decide (f = s4.highFloor) then 1 else 0)
      s7.moveFreq f (s7.targetFreq r f)

/-- The quadrants have settled (R421); the governor's switch to a higher frequency follows (R428). -/
def Chip.vddSettled (s : Chip) : Chip :=
  (({ s with pow := { s.pow with level := some (s.get pgGOV fVddSet) } } : Chip).put pgGOV fVOk 1).wanted

/-- A loader's request for the floor of context `x`, made by writing it with VALID set (R64, R430): granted when the floor is at most
F_MAX, no emergency is in force, every sensor reads below T_THROT, and PIN_TAU1 and the power that the binary declares stay within
PL_SUST; the frequency then rises to the floor at once.  The declared power stands in no register and is a free value (DESIGN CHOICE, log 2). (DEDUCED, log 49) -/
def Chip.floorRequest (s : Chip) (x : Nat) : Chip :=
  let fl := s.get pgGOV ⟨0x300 + 4 * x, 0, 5⟩
  if !(s.bit pgGOV ⟨0x300 + 4 * x, 7, 1⟩) then s
  else
    let t : Chip := { s with fresh := s.fresh + 1 }
    if decide (fl ≤ s.get pgGOV fFMax) && !(s.bit pgTHM fEmerg) && !s.hot && decide (s.get pgGOV fPstate ≠ 1) &&
       decide (s.get pgGOV fPinTau + Config.freeNat s.fresh ≤ s.get pgGOV fPlSust) then
      let f := (t.pow.pend.map fun p => p.1).getD (t.get pgCLK fCurFreq)
      if f < fl then t.moveFreq f fl else t
    else t

/-! ## The commands -/

/-- FSW_GO (R423). -/
def execFswGo : State → Host.Outcome State Fault Refusal :=
  onFabric fun s => s.requestSwitch (s.get pgCLK fFswFreq) (s.get64 pgCLK 0x104)

def execSwitchBeat : State → Host.Outcome State Fault Refusal := onFabric fun s => s.switchBeat

def execVddSetWrite (mv : Nat) : State → Host.Outcome State Fault Refusal := onFabric fun s => s.vddWrite mv

def execVddSettled : State → Host.Outcome State Fault Refusal := onFabric fun s => s.vddSettled

def execGovernorTick (r : PowerReadings) : State → Host.Outcome State Fault Refusal := onFabric fun s => s.governorTick r

/-- GUST in one of the 42 regions (R22). (DESIGN CHOICE, log 89) -/
def execGust (region : Nat) (newWindow : Bool) : State → Host.Outcome State Fault Refusal :=
  onUnit 42 region fun s => s.gust region newWindow

def execCoreStart (c : Nat) : State → Host.Outcome State Fault Refusal := onCore c fun s => s.coreStart c

/-- The adaptation of a port's lanes ends, and the next port of its region may be adapted (R431). -/
def execLaneAdaptationDone (p : Nat) : State → Host.Outcome State Fault Refusal :=
  onUnit 16 p fun s =>
    if (s.port p).adapting then (s.updPort p fun k => { k with adapting := false }).adaptStart else s

end Sys2Proof.Machine
end

