-- ==== Sys2Proof/Machine/Flags.lean ====
section
/-! DEFINITION. The arithmetic flags (R165, R213, R222). -/

namespace Sys2Proof.Machine

/-- The six flags (R165), numbered as VFLAGS holds them (R222). -/
abbrev Flags := BitVec 6

def flINVALID : Flags := 1
def flDIVZERO : Flags := 2
def flOVERFLOW : Flags := 4
def flUNDERFLOW : Flags := 8
def flINEXACT : Flags := 16
def flSATURATION : Flags := 32

/-- The flags of a row of results. -/
def orFlags (l : List (Nat × Flags)) : Flags := l.foldl (fun f p => f ||| p.2) 0

end Sys2Proof.Machine
end

