-- ==== Sys2Proof/Machine/Operands.lean ====
section
/-! DEFINITION. The number formats (R147 to R167): what the bits of an element stand for, and how an exact value is converted
into each format, with the flags it raises.  Values are exact: a sign, a magnitude `m` and a power of two `e`. -/

namespace Sys2Proof.Machine

/-- A value: NaN, an infinity, or plus or minus m × 2^e. -/
inductive Val where
  | nan
  | inf (neg : Bool)
  | fin (neg : Bool) (m : Nat) (e : Int)
  deriving DecidableEq, Repr

def Val.zero : Val := .fin false 0 0

/-- A value is a zero. -/
def Val.isZero : Val → Bool
  | .fin _ m _ => m = 0
  | _ => false

def Val.isNan : Val → Bool
  | .nan => true
  | _ => false

def Val.isFin : Val → Bool
  | .fin _ _ _ => true
  | _ => false

/-- m × 2^k for a possibly negative k, when it is whole. -/
def shl (m : Nat) (k : Int) : Nat := if 0 ≤ k then m * 2 ^ k.toNat else m / 2 ^ (-k).toNat

/-- The signed magnitude of a finite value at exponent `e`, which must not lie above its own. -/
def Val.intAt (v : Val) (e : Int) : Int :=
  match v with
  | .fin neg m e' => if neg then -(shl m (e' - e) : Int) else shl m (e' - e)
  | _ => 0

/-- The least exponent of a finite value. -/
def Val.exp : Val → Int
  | .fin _ m e => if m = 0 then 0 else e
  | _ => 0

/-- A value from a signed integer at an exponent. -/
def Val.ofInt (i : Int) (e : Int) : Val := .fin (decide (i < 0)) i.natAbs e

/-! ## Exact arithmetic -/

def Val.neg : Val → Val
  | .nan => .nan
  | .inf n => .inf (!n)
  | .fin n m e => .fin (!n) m e

def Val.abs : Val → Val
  | .nan => .nan
  | .inf _ => .inf false
  | .fin _ m e => .fin false m e

/-- The exact product, with INVALID for a product of zero and infinity (R165). -/
def Val.mul (a b : Val) : Val × Flags :=
  match a, b with
  | .nan, _ => (.nan, 0)
  | _, .nan => (.nan, 0)
  | .inf n, .inf k => (.inf (n != k), 0)
  | .inf n, .fin k m _ => if m = 0 then (.nan, flINVALID) else (.inf (n != k), 0)
  | .fin k m _, .inf n => if m = 0 then (.nan, flINVALID) else (.inf (n != k), 0)
  | .fin n m e, .fin k p f => (.fin (n != k) (m * p) (e + f), 0)

/-- The exact sum (R160): the sign of a sum that is zero is that of its zeros when they agree, else plus, and minus under RDN. -/
def Val.add (a b : Val) (rdn : Bool) : Val × Flags :=
  match a, b with
  | .nan, _ => (.nan, 0)
  | _, .nan => (.nan, 0)
  | .inf n, .inf k => if n = k then (.inf n, 0) else (.nan, flINVALID)
  | .inf n, .fin _ _ _ => (.inf n, 0)
  | .fin _ _ _, .inf n => (.inf n, 0)
  | .fin n m e, .fin k p f =>
    if m = 0 && p = 0 then (.fin (if n = k then n else rdn) 0 0, 0)
    else
      let g := if m = 0 then f else if p = 0 then e else min e f
      let i := (Val.fin n m e).intAt g + (Val.fin k p f).intAt g
      if i = 0 then (.fin rdn 0 0, 0) else (.ofInt i g, 0)

/-- Is `a` below `b`?  Both are no NaN; the two zeros are equal. -/
def Val.lt (a b : Val) : Bool :=
  match a, b with
  | .inf true, .inf true => false
  | .inf true, _ => true
  | _, .inf true => false
  | .inf false, _ => false
  | _, .inf false => true
  | x, y => let g := min x.exp y.exp; decide (x.intAt g < y.intAt g)

/-- Equal in value: the two zeros are. -/
def Val.eqv (a b : Val) : Bool :=
  match a, b with
  | .nan, _ => false
  | _, .nan => false
  | .inf n, .inf k => n = k
  | .fin n m e, .fin k p f => let g := min (Val.fin n m e).exp (Val.fin k p f).exp
                              decide ((Val.fin n m e).intAt g = (Val.fin k p f).intAt g)
  | _, _ => false

/-- Minus before plus among zeros: the sign of a value. -/
def Val.negSign : Val → Bool
  | .fin n _ _ => n
  | .inf n => n
  | .nan => false

/-- `a` lies strictly below `b` when +0 lies above −0 (R204, R209). -/
def Val.ltz (a b : Val) : Bool := a.lt b || (a.isZero && b.isZero && a.negSign && !b.negSign)

/-- The number of bits of a magnitude. -/
def bitLen (m : Nat) : Nat := if m = 0 then 0 else Nat.log2 m + 1

/-- a ÷ b to 64 bits or more; an inexact quotient has an odd magnitude beyond every format's precision. -/
def divMag (m p : Nat) : Nat × Int :=
  let k := 72 + bitLen p - bitLen m
  let q := m * 2 ^ k / p
  (if m * 2 ^ k % p = 0 then 2 * q else 2 * q + 1, -(k : Int) - 1)

/-- IEEE division (R211). -/
def Val.div (a b : Val) : Val × Flags :=
  match a, b with
  | .nan, _ => (.nan, 0)
  | _, .nan => (.nan, 0)
  | .inf _, .inf _ => (.nan, flINVALID)
  | .inf n, .fin k _ _ => (.inf (n != k), 0)
  | .fin n _ _, .inf k => (.fin (n != k) 0 0, 0)
  | .fin n m e, .fin k p f =>
    if p = 0 then (if m = 0 then (.nan, flINVALID) else (.inf (n != k), flDIVZERO))
    else if m = 0 then (.fin (n != k) 0 0, 0)
    else let r := divMag m p; (.fin (n != k) r.1 (r.2 + e - f), 0)

/-- The square root of a magnitude to 64 bits or more, odd where it is inexact. -/
def sqrtMag (m : Nat) (e : Int) : Nat × Int :=
  let sh : Int := if e % 2 = 0 then 160 else 161
  let n := m * 2 ^ sh.toNat
  let r := Nat.sqrt n
  (if r * r = n then 2 * r else 2 * r + 1, (e - sh) / 2 - 1)

/-- √a (R211). -/
def Val.sqrt (a : Val) : Val × Flags :=
  match a with
  | .nan => (.nan, 0)
  | .inf true => (.nan, flINVALID)
  | .inf false => (.inf false, 0)
  | .fin n m e =>
    if m = 0 then (.fin n 0 0, 0)
    else if n then (.nan, flINVALID)
    else let r := sqrtMag m e; (.fin false r.1 r.2, 0)

/-! ## Formats -/

/-- The floating-point formats (R149, R151): exponent bits, mantissa bits, bias, the largest finite encoding, whether the
format has infinities, and its canonical NaN. -/
structure Fp where
  e : Nat
  m : Nat
  bias : Int
  max : Nat
  inf : Bool
  nan : Option Nat
  deriving DecidableEq, Repr

def fp32 : Fp := ⟨8, 23, 127, 0x7F7FFFFF, true, some 0x7FC00000⟩

/-- The floating-point format of an FMT code (R147, R149, R151). -/
def fpOf (f : Nat) : Option Fp :=
  match f with
  | 0 => some fp32
  | 1 => some ⟨8, 7, 127, 0x7F7F, true, some 0x7FC0⟩
  | 2 => some ⟨5, 10, 15, 0x7BFF, true, some 0x7E00⟩
  | 3 => some ⟨4, 3, 7, 0x7E, false, some 0x7F⟩
  | 4 => some ⟨5, 2, 15, 0x7B, true, some 0x7E⟩
  | 5 => some ⟨3, 2, 3, 0x1F, false, none⟩
  | 6 => some ⟨2, 3, 1, 0x1F, false, none⟩
  | 7 => some ⟨2, 1, 1, 0x7, false, none⟩
  | _ => none

/-- The integer formats (R152): least and greatest value. -/
def intOf (f : Nat) : Option (Int × Int) :=
  match f with
  | 0x0A => some (-2147483648, 2147483647)
  | 0x0B => some (-32768, 32767)
  | 0x0C => some (-128, 127)
  | 0x0D => some (0, 255)
  | 0x0E => some (-8, 7)
  | 0x0F => some (-1, 1)
  | _ => none

/-- Bits per element (R147). -/
def fmtBits (f : Nat) : Nat :=
  match f with
  | 0 => 32 | 1 => 16 | 2 => 16 | 3 => 8 | 4 => 8 | 5 => 6 | 6 => 6 | 7 => 4 | 8 => 4 | 9 => 4
  | 0x0A => 32 | 0x0B => 16 | 0x0C => 8 | 0x0D => 8 | 0x0E => 4 | 0x0F => 2 | 0x10 => 8 | 0x11 => 576 | _ => 0

/-- What COLS must be a multiple of (R147). -/
def fmtCols (f : Nat) : Nat :=
  match f with
  | 5 => 4 | 6 => 4 | 7 => 2 | 8 => 2 | 9 => 2 | 0x0E => 2 | 0x0F => 4 | _ => 1

/-- SCL 1 is allowed (R147). -/
def fmtScaled (f : Nat) : Bool := (decide (3 ≤ f) && decide (f ≤ 7)) || f = 0x0C

/-- CB4 (R153). -/
def fmtCb4 (f : Nat) : Bool := f = 8 || f = 9

/-- A floating-point format, CB4 included (R199). -/
def fmtFloat (f : Nat) : Bool := decide (f ≤ 9)

/-- An integer format (R199). -/
def fmtInt (f : Nat) : Bool := decide (0x0A ≤ f) && decide (f ≤ 0x0F)

/-- Flush-to-zero acts on FP32, BF16 and FP16 (R162). -/
def fmtFtz (f : Nat) : Bool := decide (f ≤ 2)

/-- The value of a floating-point encoding (R150, R151). -/
def decodeFp (p : Fp) (b : Nat) : Val :=
  let neg := decide (b / 2 ^ (p.e + p.m) % 2 = 1)
  let ef := b / 2 ^ p.m % 2 ^ p.e
  let mf := b % 2 ^ p.m
  if p.inf && ef = 2 ^ p.e - 1 then (if mf = 0 then .inf neg else .nan)
  else if !p.inf && p.nan.isSome && ef = 2 ^ p.e - 1 && mf = 2 ^ p.m - 1 then .nan
  else if ef = 0 then .fin neg mf (1 - p.bias - p.m)
  else .fin neg (2 ^ p.m + mf) (ef - p.bias - p.m)

/-- The value of an element's bits in a format; CB4 elements are looked up elsewhere (R150 to R157). -/
def decodeElt (f b : Nat) : Val :=
  match fpOf f with
  | some p => decodeFp p b
  | none =>
    if f = 0x0F then (if b % 4 = 1 then .fin false 1 0 else if b % 4 = 3 then .fin true 1 0 else .zero)
    else if f = 0x0D then .fin false b 0
    else if f = 0x10 then (if b = 255 then .nan else .fin false 1 (b - 127))
    else if f = 0x11 then .ofInt (sgn 576 b) (-300)
    else .ofInt (sgn (fmtBits f) b) 0

/-- A subnormal source of FP32, BF16 or FP16 read under flush-to-zero is a zero of its sign (R162). -/
def ftzRead (ftz : Bool) (f : Nat) (v : Val) : Val :=
  match fpOf f, v with
  | some p, .fin n m e =>
    if ftz && fmtFtz f && decide (m ≠ 0) && decide (e + bitLen m ≤ 1 - p.bias) then .fin n 0 0 else .fin n m e
  | _, x => x

/-! ## Conversion -/

/-- Round m × 2^e to a multiple of 2^q (R159): the multiple and whether it differs. -/
def roundAt (rnd : Nat) (neg : Bool) (m : Nat) (e q : Int) : Nat × Bool :=
  if q ≤ e then (shl m (e - q), false)
  else
    let d := 2 ^ (q - e).toNat
    let n := m / d
    let r := m % d
    let up := if rnd = 1 then decide (2 * r > d) || (decide (2 * r = d) && decide (n % 2 = 1))
              else if rnd = 3 then neg && decide (r ≠ 0)
              else if rnd = 4 then !neg && decide (r ≠ 0)
              else false
    (if up then n + 1 else n, decide (r ≠ 0))

/-- The sign bit of a format. -/
def signBit (p : Fp) (neg : Bool) : Nat := if neg then 2 ^ (p.e + p.m) else 0

/-- Convert an exact value into a floating-point format (R159 to R165). -/
def encodeFp (f : Nat) (p : Fp) (rnd : Nat) (sat ftz : Bool) (v : Val) : Nat × Flags :=
  let nanOr (alt : Nat) : Nat := p.nan.getD alt
  match v with
  | .nan => match p.nan with
    | some n => (n, 0)
    | none => (0, flINVALID)
  | .inf neg =>
    if p.inf then (signBit p neg + (2 ^ p.e - 1) * 2 ^ p.m, 0)
    else if sat || p.nan.isNone then (signBit p neg + p.max, flSATURATION ||| flINEXACT)
    else (nanOr 0, flINVALID)
  | .fin neg m e =>
    if m = 0 then (signBit p neg, 0)
    else
      let emin := 1 - p.bias - (p.m : Int)
      let q := max (e + bitLen m - 1 - p.m) emin
      let r := roundAt rnd neg m e q
      let n2 := if r.1 = 2 ^ (p.m + 1) then (2 ^ p.m, q + 1) else (r.1, q)
      let bits := if n2.1 < 2 ^ p.m then n2.1 else (n2.2 - emin + 1).toNat * 2 ^ p.m + (n2.1 - 2 ^ p.m)
      let inx : Flags := if r.2 then flINEXACT else 0
      if bits > p.max then
        -- overflow (R161)
        if sat || p.nan.isNone then (signBit p neg + p.max, flOVERFLOW ||| flINEXACT ||| flSATURATION)
        else if rnd = 2 || (rnd = 3 && !neg) || (rnd = 4 && neg) then (signBit p neg + p.max, flOVERFLOW ||| flINEXACT)
        else if p.inf then (signBit p neg + (2 ^ p.e - 1) * 2 ^ p.m, flOVERFLOW ||| flINEXACT)
        else (nanOr 0, flOVERFLOW ||| flINEXACT)
      else if bits < 2 ^ p.m then
        -- tiny (R162)
        if ftz && fmtFtz f && bits ≠ 0 then (signBit p neg, flUNDERFLOW ||| flINEXACT)
        else (signBit p neg + bits, if r.2 then flUNDERFLOW ||| flINEXACT else 0)
      else (signBit p neg + bits, inx)

/-- Convert an exact value into an integer format (R161, R164). (DEDUCED, log 32) -/
def encodeInt (f : Nat) (lo hi : Int) (rnd : Nat) (v : Val) : Nat × Flags :=
  let code (i : Int) : Nat := (i % (2 ^ fmtBits f : Nat)).toNat
  match v with
  | .nan => (0, flINVALID)
  | .inf neg => (code (if neg then lo else hi), flSATURATION ||| flINEXACT)
  | .fin neg m e =>
    let r := roundAt rnd neg m e 0
    let i : Int := if neg then -(r.1 : Int) else r.1
    if i < lo then (code lo, flSATURATION ||| flINEXACT)
    else if hi < i then (code hi, flSATURATION ||| flINEXACT)
    else (code i, if r.2 then flINEXACT else 0)

/-- Convert into E8M0 (R167): 2^⌊log₂|x|⌋. -/
def encodeE8 (v : Val) : Nat × Flags :=
  match v with
  | .nan => (255, 0)
  | .inf _ => (255, flINVALID)
  | .fin neg m e =>
    if m = 0 then (0, flUNDERFLOW ||| flINEXACT)
    else
      let k := e + bitLen m - 1
      if k < -127 then (0, flUNDERFLOW ||| flINEXACT)
      else ((k + 127).toNat, if neg || m ≠ 2 ^ (bitLen m - 1) then flINEXACT else 0)

/-- The LA576 integer of a finite value (R157), truncated below 2^-300. -/
def laOf (v : Val) : Int := v.intAt (-300)

/-- The bits of an LA576 integer, modulo 2^576. -/
def laBits (i : Int) : Nat := (i % (2 ^ 576 : Nat)).toNat

/-- The range of LA576 (R157). -/
def laInRange (i : Int) : Bool := decide (-(2 ^ 575 : Nat) ≤ i) && decide (i < (2 ^ 575 : Nat))

/-- Convert an exact value into a format, under a rounding mode, SAT and the flush-to-zero state (R159 to R167). (DEDUCED, log 32) -/
def convert (f rnd : Nat) (sat ftz : Bool) (v : Val) : Nat × Flags :=
  match fpOf f with
  | some p => encodeFp f p rnd sat ftz v
  | none => match intOf f with
    | some r => encodeInt f r.1 r.2 rnd v
    | none =>
      if f = 0x10 then encodeE8 v
      else if v.isFin then (laBits (laOf v), 0) else (0, flINVALID)

/-- A value rounded to FP32 by RNE, as a value. -/
def rne32 (ftz : Bool) (v : Val) : Val × Flags :=
  let r := encodeFp 0 fp32 1 false ftz v
  (decodeFp fp32 r.1, r.2)

/-- A 32-bit word read as FP32. -/
def f32 (w : Nat) : Val := decodeFp fp32 w

/-! ## Tiles (R77, R148, R153, R155) -/

def tdBase (d : IWord) : Nat := bf d 0 22
def tdRows (d : IWord) : Nat := bf d 22 16
def tdCols (d : IWord) : Nat := bf d 38 16
def tdStride (d : IWord) : Nat := bf d 54 22
def tdScale (d : IWord) : Nat := bf d 76 22
def tdFmt (d : IWord) : Nat := bf d 98 5
def tdScl (d : IWord) : Nat := bf d 103 2

/-- What is kept of a written tile descriptor: its reserved bits read as zero (R14, R77). -/
def tdKeep (d : IWord) : IWord := setBf d 105 23 0

/-- Bytes of one row (R148). -/
def tdRowBytes (d : IWord) : Nat := tdCols d * fmtBits (tdFmt d) / 8

/-- Bytes from the first to the last of the tile. -/
def tdSpan (d : IWord) : Nat := (tdRows d - 1) * tdStride d + tdRowBytes d

/-- Bytes of the scale array or of the codebook. -/
def tdScaleBytes (d : IWord) : Nat :=
  if tdScl d = 1 then tdRows d * (tdCols d / 32) else if tdScl d = 2 then (if tdFmt d = 8 then 16 else 32) else 0

/-- The checks of R78 and R148 that no engine adds to. -/
def tdOk (d : IWord) : Bool :=
  let f := tdFmt d
  let scl := tdScl d
  decide (tdBase d % 64 = 0) && decide (tdStride d % 64 = 0) && decide (f < 0x12) && decide (scl ≠ 3) &&
  (scl = 0 || decide (tdScale d % 64 = 0)) && decide (tdRows d ≠ 0) && decide (tdCols d ≠ 0) &&
  decide (tdCols d % fmtCols f = 0) && (scl ≠ 1 || (fmtScaled f && decide (tdCols d % 32 = 0))) &&
  (fmtCb4 f == decide (scl = 2)) && decide (tdRowBytes d ≤ tdStride d) &&
  decide (tdBase d + tdSpan d ≤ 0x300000) && (scl = 0 || decide (tdScale d + tdScaleBytes d ≤ 0x300000))

end Sys2Proof.Machine
end

