-- ==== Sys2Proof/Machine/Fields.lean ====
section
/-! DEFINITION. The instruction word: its fields (R224 to R232), which fields and codes are reserved in each instruction
(R225, R227, R238 to R247), and the counters it reads. -/

namespace Sys2Proof.Machine

def opcode (w : IWord) : Nat := bf w 120 8

/-! Format S (R229), D (R230), C (R231) and T (R232). -/
def sCA (w : IWord) : Nat := bf w 111 4
def sCB (w : IWord) : Nat := bf w 107 4
def sCS (w : IWord) : Bool := w.getLsbD 106
def sSEL (w : IWord) : Nat := bf w 103 3
def sOP (w : IWord) : Nat := bf w 100 3
def sTD (w : IWord) : Nat := bf w 92 8
def sIDX (w : IWord) : Nat := bf w 79 13
def wIMM1 (w : IWord) : Nat := bf w 32 32
def wIMM0 (w : IWord) : Nat := bf w 0 32
def dCC (w : IWord) : Nat := bf w 103 4
def dCAS (w : IWord) : Bool := w.getLsbD 102
def dCBS (w : IWord) : Bool := w.getLsbD 101
def dCCS (w : IWord) : Bool := w.getLsbD 100
def dTAG (w : IWord) : Nat := bf w 96 4
def dSLOT (w : IWord) : Nat := bf w 84 12
def dLEN (w : IWord) : Nat := bf w 67 17
def dNOSLOT (w : IWord) : Bool := w.getLsbD 66
def dADDR (w : IWord) : Nat := bf w 30 34
def dAUX (w : IWord) : Nat := bf w 22 8
def wOFF (w : IWord) : Nat := bf w 0 22
def cCH (w : IWord) : Nat := bf w 109 6
def cRQ (w : IWord) : Nat := bf w 105 4
def cPDEV (w : IWord) : Nat := bf w 95 10
def cPCORE (w : IWord) : Nat := bf w 87 8
def cMLEN (w : IWord) : Nat := bf w 72 15
def cCA (w : IWord) : Nat := bf w 68 4
def cROLE (w : IWord) : Bool := w.getLsbD 67
def cRBASE (w : IWord) : Nat := bf w 45 22
def cRLEN (w : IWord) : Nat := bf w 23 22
def tD (w : IWord) : Nat := bf w 107 8
def tA (w : IWord) : Nat := bf w 99 8
def tB (w : IWord) : Nat := bf w 91 8
def tC (w : IWord) : Nat := bf w 83 8
def tFN (w : IWord) : Nat := bf w 78 5
def tFA (w : IWord) : Nat := bf w 76 2
def tFB (w : IWord) : Nat := bf w 74 2
def tFC (w : IWord) : Nat := bf w 72 2
def tRND (w : IWord) : Nat := bf w 69 3
def tSAT (w : IWord) : Bool := w.getLsbD 68
def tSUB (w : IWord) : Nat := bf w 66 2
def tMODE (w : IWord) : Nat := bf w 64 2

/-- NWR's fields in TAG and ADDR (R244). -/
def nDIR (w : IWord) : Nat := bf w 98 2
def nLAND (w : IWord) : Bool := w.getLsbD 97
def nOP (w : IWord) : Nat := bf w 52 3
def nSRC (w : IWord) : Nat := bf w 30 22

/-- MMUL's flags in FORM, and OSC (R246). -/
def mACCUM (w : IWord) : Bool := w.getLsbD 77
def mCHAIN (w : IWord) : Bool := w.getLsbD 76
def mADJ (w : IWord) : Bool := w.getLsbD 75
def mOSC (w : IWord) : Int := sgn 8 (wIMM0 w)

/-- The opcode is defined (R228, R238 to R247). -/
def opDefined (o : Nat) : Bool :=
  decide (o ≤ 0x11) || (decide (0x20 ≤ o) && decide (o ≤ 0x26)) || (decide (0x40 ≤ o) && decide (o ≤ 0x43)) ||
  (decide (0x60 ≤ o) && decide (o ≤ 0x64)) || o = 0x80 || o = 0x81 || o = 0x84 || o = 0x85 ||
  (decide (0xA0 ≤ o) && decide (o ≤ 0xAE)) || (decide (0xC0 ≤ o) && decide (o ≤ 0xCB))

/-! ## Vector commands: sources and forms (R247).  Forms: 0 TILE, 1 ROW, 2 COL, 3 IMM. -/

def anyForm : List Nat := [0, 1, 2, 3]

/-- The forms each source of a vector command takes, for the sources it takes. -/
def vecForms (o : Nat) : List (List Nat) :=
  if o = 0xA1 || o = 0xA2 || o = 0xA3 || o = 0xA5 || o = 0xA6 || o = 0xAA || o = 0xC6 then [anyForm, anyForm]
  else if o = 0xA4 then [anyForm, anyForm, anyForm]
  else if o = 0xA7 || o = 0xA8 then [anyForm]
  else if o = 0xA9 then [[0]]
  else if o = 0xAB then [anyForm, anyForm, [0, 2]]
  else if o = 0xAC then [[0], [1]]
  else if o = 0xC0 then [[0]]
  else if 0xC1 ≤ o && o ≤ 0xC8 then [anyForm]
  else if o = 0xC9 then [[2]]
  else if o = 0xCA then [[0]]
  else if o = 0xCB then [[0], [2]]
  else []

/-- The forms given to the sources the command takes. -/
def vecGiven (w : IWord) : List Nat := ([tFA w, tFB w, tFC w]).take (vecForms (opcode w)).length

/-- How many IMM sources the command names. -/
def vecImms (w : IWord) : Nat := ((vecGiven w).filter (· = 3)).length

/-- Vector commands that perform no conversion: RND and SAT are reserved in them (R247). -/
def vecNoConv (o : Nat) : Bool :=
  o = 0xA0 || o = 0xAA || o = 0xAD || o = 0xAE || o = 0xC9 || o = 0xCA || o = 0xCB

/-! ## Reserved fields -/

/-- The reserved fields of an instruction's word, each as lowest bit and width, given the fields that decide (R225, R227). -/
def resvFields (w : IWord) : List (Nat × Nat) :=
  let o := opcode w
  let hdr : List (Nat × Nat) := if w.getLsbD 119 then [] else [(115, 4)]
  -- format S: counter A, counter B and the immediates as CS selects
  let csImm : List (Nat × Nat) := if sCS w then [(0, 32)] else [(111, 4)]
  let cbSel : List (Nat × Nat) := if sCS w then [] else [(107, 4)]
  let body : List (Nat × Nat) :=
    if o = 0x00 || o = 0x01 then [(0, 115)]
    else if o = 0x02 then [(92, 23), (0, 79)]
    else if o = 0x03 then [(107, 4), (92, 14), (64, 15), (32, 32)] ++ csImm
    else if o = 0x04 then [(105, 6), (0, 103)]
    else if o = 0x05 then [(32, 79)]
    else if o = 0x06 then [(32, 74)] ++ (if sCS w then [(0, 32)] else [(107, 4)])
    else if o = 0x07 then [(0, 107)]
    else if o = 0x08 || o = 0x09 then [(22, 84)] ++ cbSel
    else if o = 0x0A then [(32, 68)] ++ (if sCS w then [(0, 32)] else [(107, 4)])
    else if o = 0x0B then
      let wd := if sSEL w = 0 || sSEL w = 3 || sSEL w = 4 then 22 else if sSEL w = 1 || sSEL w = 2 then 16
                else if sSEL w = 5 then 5 else 2
      [(106, 9), (100, 3), (32, 60), (wd, 32 - wd)]
    else if o = 0x0C then [(111, 4), (100, 6), (32, 60)] ++ cbSel
    else if o = 0x0D then [(100, 15), (37, 55), (22, 10)]
    else if o = 0x0E then [(8, 107)]
    else if o = 0x0F then [(107, 4), (32, 74)] ++ (if sCS w then [] else [(111, 4)])
    else if o = 0x10 then [(4, 111)]
    else if o = 0x11 then [(107, 4), (36, 70)] ++ csImm
    else if o = 0x20 then [(54, 61), (22, 10)]
    else if o = 0x21 then
      [(107, 4), (102, 1), (92, 8), (64, 15)] ++ (if sCS w then [(32, 16)] else [(111, 4)]) ++
      (if sSEL w = 0 then [(91, 1), (48, 16), (0, 32)]
       else if sSEL w = 1 then [(79, 13), (48, 16), (22, 10)]
       else if sSEL w = 2 then [(79, 13), (50, 14), (22, 10)]
       else if sSEL w = 3 then [(79, 13), (58, 6), (48, 8)]
       else [(85, 7), (48, 16), (0, 32)])
    else if o = 0x22 then
      [(107, 4), (64, 39)] ++ (if sCS w then [(32, 16)] else [(111, 4)]) ++
      (if sSEL w = 0 then [(48, 16), (22, 10)] else [(58, 6), (48, 8)])
    else if o = 0x23 then [(103, 12), (91, 9), (64, 15)]
    else if o = 0x24 || o = 0x25 then [(106, 9), (105, 1), (91, 12), (0, 79)]
    else if o = 0x26 then [(107, 4), (36, 70)] ++ csImm
    else if o = 0x40 || o = 0x41 then
      [(64, 2), (22, 8)] ++ (if dCAS w then [(96, 4)] else [(111, 4)]) ++
      (if dNOSLOT w then [(84, 12), (101, 1), (107, 4)] else if dCBS w then [] else [(107, 4)]) ++
      (if dCCS w then [] else [(103, 4)])
    else if o = 0x42 then
      [(64, 3), (55, 9), (96, 1), (102, 1), (111, 4)] ++ (if dCBS w then [] else [(107, 4)]) ++
      (if dCCS w then [] else [(103, 4)])
    else if o = 0x43 then
      [(64, 2), (22, 8), (52, 12), (96, 4), (102, 1), (111, 4)] ++
      (if dNOSLOT w then [(84, 12), (101, 1), (107, 4)] else if dCBS w then [] else [(107, 4)]) ++
      (if dCCS w then [] else [(103, 4)])
    else if o = 0x60 then [(68, 4), (0, 23)] ++ (if cROLE w then [] else [(105, 4), (45, 22), (23, 22)])
    else if o = 0x61 then [(0, 109)]
    else if o = 0x62 then [(87, 22), (22, 50)]
    else if o = 0x63 || o = 0x64 then [(87, 22), (22, 46)]
    else if o = 0x80 then [(83, 8), (78, 5), (72, 3), (64, 4), (8, 56)]
    else if o = 0x81 then [(78, 29), (72, 5), (64, 4), (8, 56)]
    else if o = 0x84 then [(64, 51), (45, 19), (22, 10)]
    else if o = 0x85 then [(64, 51), (39, 25), (22, 10)]
    else
      -- vector commands
      let n := (vecForms o).length
      let imm (i : Nat) : Bool := decide ((vecGiven w)[i]? = some 3)
      let dNone : List (Nat × Nat) := if o = 0xA0 || o = 0xAD || o = 0xAE then [(107, 8)] else []
      let src : List (Nat × Nat) :=
        (if n < 1 then [(99, 8), (76, 2)] else if imm 0 then [(99, 8)] else []) ++
        (if n < 2 then [(91, 8), (74, 2)] else if imm 1 then [(91, 8)] else []) ++
        (if n < 3 then [(83, 8), (72, 2)] else if imm 2 then [(83, 8)] else [])
      let fn : List (Nat × Nat) :=
        if o = 0xA0 then [(79, 4)] else if o = 0xAA then [(81, 2)] else if o = 0xAC || o = 0xC0 then [(82, 1)] else [(78, 5)]
      let conv : List (Nat × Nat) := if vecNoConv o then [(68, 4)] else []
      let sub : List (Nat × Nat) := if o = 0xA0 || o = 0xAD || o = 0xAE then [(66, 2)] else []
      let mode : List (Nat × Nat) := if o = 0xCA then [(64, 1)] else [(64, 2)]
      let k := vecImms w
      let im : List (Nat × Nat) :=
        if o = 0xAD then [(32, 32), (22, 10)]
        else if o = 0xC0 then [(32, 32)]
        else if o = 0xC9 then [(44, 20)]
        else if o = 0xCA then [(39, 25)]
        else if o = 0xCB then [(44, 20), (0, 32)]
        else (if k < 1 then [(0, 32)] else []) ++ (if k < 2 then [(32, 32)] else [])
      dNone ++ src ++ fn ++ conv ++ sub ++ mode ++ im
  hdr ++ body

/-- A used field holds a reserved code (R159, R227, R238 to R247). -/
def resvCode (w : IWord) : Bool :=
  let o := opcode w
  if o = 0x0A then decide (6 ≤ sOP w)
  else if o = 0x0B then sSEL w = 7
  else if o = 0x21 then decide (5 ≤ sSEL w)
  else if o = 0x22 then decide (2 ≤ sSEL w)
  else if o = 0x23 then decide (3 ≤ sOP w)
  else if 0x40 ≤ o && o ≤ 0x43 then dLEN w = 0 || (o = 0x42 && decide (5 ≤ nOP w))
  else if o = 0x80 || o = 0x81 then decide (5 ≤ tRND w)
  else if 0xA0 ≤ o then
    (!(vecNoConv o) && decide (5 ≤ tRND w)) || (o = 0xAA && decide (6 ≤ tFN w % 8)) || (o = 0xC0 && decide (6 ≤ tFN w % 8))
  else false

/-- Check 2 of R234 fails. -/
def resvBad (w : IWord) : Bool := (resvFields w).any (fun p => decide (bf w p.1 p.2 ≠ 0)) || resvCode w

/-- The counters that an instruction's body reads (R80, R237). -/
def readsCounters (w : IWord) : List Nat :=
  let o := opcode w
  if o = 0x03 || o = 0x0F || o = 0x11 || o = 0x21 || o = 0x22 || o = 0x26 then (if sCS w then [sCA w] else [])
  else if o = 0x06 then sCA w :: (if sCS w then [sCB w] else [])
  else if o = 0x07 then [sCB w]
  else if o = 0x08 || o = 0x0C then (if sCS w then [sCB w] else [])
  else if o = 0x09 then sCA w :: (if sCS w then [sCB w] else [])
  else if 0x40 ≤ o && o ≤ 0x43 then
    (if dCAS w then [sCA w] else []) ++ (if dCBS w then [sCB w] else []) ++ (if dCCS w then [dCC w] else [])
  else []

/-- The unit an engine command is queued to (R74, R240), or none for what the sequencer executes itself. -/
def unitOf (o : Nat) : Option Nat :=
  if o = 0x80 || o = 0x81 then some 1
  else if o = 0x84 || o = 0x85 then some 4
  else if 0xA0 ≤ o then some 2
  else if o = 0x42 || o = 0x43 then some 3
  else if o = 0x40 || o = 0x41 then some 6
  else if 0x60 ≤ o && o ≤ 0x64 then some 5
  else if 0x20 ≤ o && o ≤ 0x26 && o ≠ 0x22 then some 7
  else none

/-- The depth of a unit's queue (R74). -/
def queueDepth (u : Nat) : Nat := if u = 2 || u = 3 then 16 else if u = 6 then 64 else 8

/-- The STALL code of a full queue (R93): the queues in the order of R74. -/
def stallOf (u : Nat) : Nat :=
  if u = 1 then 2 else if u = 4 then 3 else if u = 2 then 4 else if u = 3 then 5 else if u = 6 then 6
  else if u = 7 then 7 else 8

end Sys2Proof.Machine
end

