-- ==== Sys2Proof/Machine/Gather.lean ====
section
/-! DEFINITION. The gather buffer (R105 to R108): narrow writes of the sequencer and of the core's own engines, seen only by
the unit that made them until their entry is written. -/

namespace Sys2Proof.Machine

/-- The byte at tun offset `o` as unit `u` of the core sees it: its own pending narrow write first (R107). -/
def Chip.seenByte (s : Chip) (c u o : Nat) : BitVec 8 :=
  match (s.core c).gather.find? fun g => g.line = o / 64 with
  | some g => match g.bytes.find? fun p => p.1 = o && p.2.1 = u with
    | some p => p.2.2
    | none => s.byte (tunAddr c o)
  | none => s.byte (tunAddr c o)

/-- Bytes of the tun as a unit of the core sees them. -/
def Chip.seen (s : Chip) (c u o n : Nat) : List (BitVec 8) := (List.range n).map fun i => s.seenByte c u (o + i)

/-- A number in the tun as a unit of the core sees it. -/
def Chip.seenNum (s : Chip) (c u o n : Nat) : Nat := natOf (s.seen c u o n)

/-- What a unit's read of a range of the tun meets (R396). -/
def Chip.tunBad (s : Chip) (c o n : Nat) : Option Nat := s.rangeBad (tunAddr c o) n

/-- The entry covers a word of its line, the `i`th, whole; or touches it at all. -/
def Gather.covers (g : Gather) (i : Nat) : Bool := (List.range 8).all fun j => g.bytes.any fun p => p.1 = g.line * 64 + 8 * i + j
def Gather.touches (g : Gather) (i : Nat) : Bool := g.bytes.any fun p => p.1 / 8 = g.line * 8 + i

/-- An entry is written to its bank, with byte enables (R106).  A word that the entry covers whole gets a new code; one that it
touches is merged, and corrected as it is (R397, R398). -/
def Chip.gatherPut (s : Chip) (c : Nat) (g : Gather) : Chip :=
  let see := if s.errs = [] then s else
    ((List.range 8).filter fun i => g.touches i && !(g.covers i)).foldl
      (fun (t : Chip) i => t.noteCorr (pgSYNC c) (t.coreCtxw c) (tunAddr c (g.line * 64 + 8 * i)) 8) s
  let put := g.bytes.foldl (fun (t : Chip) p => t.store (tunAddr c p.1) [p.2.2]) see
  let all := (List.range 8).foldl (fun (t : Chip) i =>
    let o := g.line * 64 + 8 * i
    if g.covers i then
      t.store (tunAddr c o) ((List.range 8).map fun j => t.byte (tunAddr c (o + j)))
    else t) put
  all.updCore c fun k => { k with gather := k.gather.filter fun h => h.line ≠ g.line }

/-- An entry is written and counted under an event code of R146. -/
def Chip.gatherWrite (s : Chip) (c : Nat) (g : Gather) (why : Nat) : Chip := (s.gatherPut c g).count (pgSYNC c) why 1

/-- Entries that hold a byte of a range are written (R106, R108). (DEDUCED, log 80) -/
def Chip.gatherFlush (s : Chip) (c o n : Nat) : Chip :=
  ((s.core c).gather.filter fun g => g.bytes.any fun p => decide (o ≤ p.1) && decide (p.1 < o + n)).foldl
    (fun t g => t.gatherWrite c g 0x0E) s

/-- Every entry is written (R106, R144). (DEDUCED, log 80) -/
def Chip.gatherAll (s : Chip) (c : Nat) : Chip := (s.core c).gather.foldl (fun t g => t.gatherWrite c g 0x0E) s

/-- A slot becomes FULL: the narrow writes that engines made into its region are performed (R140). (DEDUCED, log 10) -/
def Chip.gatherRelease (s : Chip) (c o n : Nat) : Chip :=
  ((s.core c).gather.filter fun g => g.bytes.any fun p =>
    decide (p.2.1 ≠ 0) && decide (o ≤ p.1) && decide (p.1 < o + n)).foldl (fun t g => t.gatherPut c g) s

/-- Every byte of the line has been written by some unit (R106). -/
def Gather.complete (g : Gather) : Bool := (List.range 64).all fun i => g.bytes.any fun p => p.1 = g.line * 64 + i

/-- A narrow write of unit `u` within one line (R105, R106).  It replaces the unit's own pending bytes; those of other units stay
pending beside it, each for its own unit, and the last written wins when the entry is written (R107). -/
def Chip.narrow (s : Chip) (c u o : Nat) (l : List (BitVec 8)) : Chip :=
  let line := o / 64
  let new : List (Nat × Nat × BitVec 8) := (List.range l.length).map fun i => (o + i, u, (l[i]?).getD 0)
  let k := s.core c
  match k.gather.find? fun g => g.line = line with
  | some g =>
    let bytes := (g.bytes.filter fun p => !(p.2.1 = u && decide (o ≤ p.1) && decide (p.1 < o + l.length))) ++ new
    let g1 : Gather := { g with bytes := bytes }
    let s1 := s.updCore c fun k => { k with gather := k.gather.map fun h => if h.line = line then g1 else h }
    if g1.complete then s1.gatherWrite c g1 0x0C else s1
  | none =>
    let s1 := if 8 ≤ k.gather.length then
        match k.gather with
        | g :: _ => s.gatherWrite c g 0x0D
        | [] => s
      else s
    s1.updCore c fun k => { k with gather := k.gather ++ [⟨line, new⟩] }

/-- The pieces of a range that lie in one line each: offset in the list and length. -/
def linePieces (o n : Nat) : List (Nat × Nat) :=
  if n = 0 then [] else
    (List.range ((o + n - 1) / 64 - o / 64 + 1)).map fun i =>
      let a := max o ((o / 64 + i) * 64)
      let b := min (o + n) ((o / 64 + i + 1) * 64)
      (a - o, b - a)

/-- A unit's own pending narrow writes into a line are gone. -/
def Core.dropNarrow (k : Core) (u line : Nat) : Core :=
  let l := k.gather.map fun g => if g.line = line then { g with bytes := g.bytes.filter fun q => q.2.1 ≠ u } else g
  { k with gather := l.filter fun g => !g.bytes.isEmpty }

/-- A write of one of the core's own engines: whole lines go to their banks, the rest through the gather buffer (R105, R129). -/
def Chip.unitWrite (s : Chip) (c u o : Nat) (l : List (BitVec 8)) : Chip :=
  (linePieces o l.length).foldl (fun (t : Chip) p =>
    let part := (l.drop p.1).take p.2
    if p.2 = 64 then
      -- it also replaces what the unit's own narrow writes hold of the line
      (t.updCore c (·.dropNarrow u ((o + p.1) / 64))).store (tunAddr c (o + p.1)) part
    else t.narrow c u (o + p.1) part) s

end Sys2Proof.Machine
end

