-- ==== Sys2Proof/Machine/VanePort.lean ====
section
/-! DEFINITION. The vane: the tag table's entries (R383), the records of its ring (R386 to R388), the digest port of a core
(R381 to R385) and the writes of the engines that it watches. -/

namespace Sys2Proof.Machine

def fVanEn : Fld := ⟨0x100, 0, 1⟩
def fTabReject : Fld := ⟨0x100, 1, 1⟩
def fTabSel : Fld := ⟨0x104, 0, 10⟩
def fVanLog2 : Fld := ⟨0x120, 0, 5⟩
def fVanHead : Fld := ⟨0x124, 0, 24⟩
def fVanTail : Fld := ⟨0x128, 0, 24⟩
def fDropped : Fld := ⟨0x12C, 0, 32⟩
def fNValid : Fld := ⟨0x130, 0, 11⟩

/-! ## The tag table (R383) -/

def tagValid (w : IWord) : Bool := w.getLsbD 66
def tagCore (w : IWord) : Nat := bf w 56 8
def tagSlot (w : IWord) : Nat := bf w 67 12
def tagLayer (w : IWord) : Nat := bf w 79 10

/-- An entry of the tag table; one that was never written is invalid (DESIGN CHOICE, log 4). -/
def Chip.tagEntry (s : Chip) (i : Nat) : IWord := sget descReset s.vaneTab i

/-- The valid entries, by index. -/
def Chip.validTags (s : Chip) : List (Nat × IWord) := s.vaneTab.filter fun e => decide (e.1 < 1024) && tagValid e.2

/-! ## Records (R386 to R388) -/

/-- EXPECT of a layer: the valid entries that name it (R386). -/
def Chip.vaneExpect (s : Chip) (layer : Nat) : Nat := (s.validTags.filter fun e => decide (tagLayer e.2 = layer)).length

/-- The 32 B of a record. -/
def vaneRecord (o : VaneOcc) (incomplete lost : Bool) (beat expect : Nat) : List (BitVec 8) :=
  bytesOf 8 o.digest.toNat ++ bytesOf 4 o.occ ++ bytesOf 2 (o.layer % 1024) ++ bytesOf 1 (o.ctx % 16) ++
  bytesOf 1 ((if incomplete then 1 else 0) + (if lost then 2 else 0)) ++ bytesOf 8 beat ++ bytesOf 2 o.nrep ++
  bytesOf 2 expect ++ bytesOf 4 0

/-- The ring has room for one more record; it is never filled to its last byte (DEDUCED, log 17). -/
def Chip.vaneRoom (s : Chip) : Bool :=
  let size := 2 ^ s.get pgVAN fVanLog2
  decide ((s.get pgVAN fVanHead + size - s.get pgVAN fVanTail % size) % size + 32 < size)

/-- An occurrence closes: its record is written at RING_HEAD, or dropped when the ring is full (R386, R388, R391, R392). -/
def Chip.closeOcc (s : Chip) (o : VaneOcc) (incomplete : Bool) : Chip :=
  let s0 : Chip := { s with vaneOpen := s.vaneOpen.filter (· ≠ o) }
  if s.vaneRoom then
    let size := 2 ^ s.get pgVAN fVanLog2
    let h := s.get pgVAN fVanHead
    let a := s.get64 pgVAN 0x118 + h
    let s1 := (s0.putPhys a (vaneRecord o incomplete s.vaneLost s.beat (s.vaneExpect o.layer))).physLines a 32
    let s2 : Chip := { s1 with vaneLost := false }
    let s3 := ((s2.put pgVAN fVanHead ((h + 32) % size)).raise pgVAN 0).count pgVAN 3 1
    if incomplete then (s3.raise pgVAN 1).count pgVAN 4 1 else s3
  else
    let s1 : Chip := { s0 with vaneLost := true }
    ((s1.inc pgVAN fDropped 1).raise pgVAN 2).count pgVAN 5 1

/-- Several occurrences close INCOMPLETE, in the order in which they were opened. -/
def Chip.closeAll (s : Chip) (l : List VaneOcc) : Chip := l.foldl (fun t o => t.closeOcc o true) s

/-- The occurrences of a layer that lie four or more behind one close INCOMPLETE (R386). -/
def Chip.closeOld (s : Chip) (layer occ : Nat) : Chip :=
  s.closeAll (s.vaneOpen.filter fun o => decide (o.layer = layer) && decide (o.occ + 4 ≤ occ))

/-- A report has arrived for an occurrence four or more beyond this one, which is thereby closed (R386). -/
def Chip.vanePast (s : Chip) (layer occ : Nat) : Bool := decide (occ + 5 ≤ sget natReset s.vaneHigh layer)

/-- A report of an entry is lost, discarded by its port or by a reset of its core: its occurrence is open from then on, so that it
closes INCOMPLETE when a report four or more beyond it arrives or EN clears (R385, R386, R389); until a report of it arrives its
CTX is open. (DEDUCED, log 69) (DESIGN CHOICE, log 2) -/
def Chip.lostReport (s : Chip) (entry occ : Nat) : Chip :=
  let layer := tagLayer (s.tagEntry entry)
  if s.vanePast layer occ || s.vaneOpen.any fun o => decide (o.layer = layer) && decide (o.occ = occ) then s
  else { s with fresh := s.fresh + 1, vaneOpen := s.vaneOpen ++
    [{ layer := layer, occ := occ, digest := 0, nrep := 0, ctx := Config.freeNat s.fresh % 16 }] }

/-! ## The port of a core (R381 to R385) -/

/-- The SplitMix64 finaliser (R382). -/
def vaneFin (z : BitVec 64) : BitVec 64 :=
  let a := (z ^^^ (z >>> 30)) * 0xBF58476D1CE4E5B9
  let b := (a ^^^ (a >>> 27)) * 0x94D049BB133111EB
  b ^^^ (b >>> 31)

/-- The tensor word offset of local word `l` under an entry (R382). -/
def vaneOffset (e : IWord) (l : Nat) : Nat :=
  let roww := bf e 89 19
  let growww := bf e 108 20
  if roww = 0 then bf e 0 32 + l else bf e 0 32 + l / roww * growww + l % roww

/-- One word's contribution (R382). -/
def vaneContribution (e : IWord) (l : Nat) (v : BitVec 64) : BitVec 64 :=
  vaneFin (vaneFin (BitVec.ofNat 64 (bf e 32 24 * 2 ^ 40) ^^^ BitVec.ofNat 64 (vaneOffset e l)) ^^^ v)

/-- The first tun byte and the length of a slot's region (R109). -/
def Slot.base (sl : Slot) : Nat := bf sl.desc 0 13 * 512
def Slot.len (sl : Slot) : Nat := bf sl.desc 13 13 * 512

/-- The words of a range that one port entry folds: those in the region of its slot while that is EMPTY or FILLING (R381), but for a
word that a narrow write leaves poisoned (R396, R397). -/
def Chip.foldWords (s : Chip) (c o n : Nat) (e : Nat × IWord × BitVec 64) : List Nat :=
  let sl := s.slot c (bf e.2.1 67 12)
  if sl.state = 0 || sl.state = 1 then (wordsOf o n).filter fun w => decide (sl.base ≤ 8 * w) && decide (8 * w < sl.base + sl.len) &&
    !(s.tagged (tunAddr c (8 * w) / 8))
  else []

/-- One port entry after a write of unit `u` to a range. -/
def Chip.foldEntry (s : Chip) (c u o n : Nat) (e : Nat × IWord × BitVec 64) : Nat × IWord × BitVec 64 :=
  let b := (s.slot c (bf e.2.1 67 12)).base
  (s.foldWords c o n e).foldl (fun (r : Nat × IWord × BitVec 64) w =>
    (r.1, r.2.1, r.2.2 + vaneContribution r.2.1 ((8 * w - b) / 8) (BitVec.ofNat 64 (s.seenNum c u (8 * w) 8)))) e

/-- The matrix drain or the vector engine, unit `u`, writes bytes at tun offset `o`; the core's port folds the words (R381,
R392). -/
def Chip.engineWrite (s : Chip) (c u o : Nat) (l : List (BitVec 8)) : Chip :=
  let s1 := s.unitWrite c u o l
  let port := (s1.core c).vane
  if port = [] then s1
  else
    (s1.updCore c fun k => { k with vane := port.map (s1.foldEntry c u o l.length) }).count pgVAN 0
      ((port.map fun e => (s1.foldWords c o l.length e).length).sum)

/-- The node of core `c` of this device. (DEDUCED, log 76) -/
def Chip.coreNode (s : Chip) (c : Nat) : Node := ⟨s.devId, .core c⟩

/-- A packet enters the mesh. (DESIGN CHOICE, log 43) -/
def Chip.inject (s : Chip) (p : Packet) : Chip := { s with net := s.net ++ [p] }

/-- Whether a packet is a digest report of core `c`. -/
def isReportOf (src : Node) (p : Packet) : Bool :=
  match p.body with
  | .vaneReport _ _ _ _ => decide (p.src = src)
  | _ => false

/-- A tagged slot becomes FULL: its port sends the accumulated digest, or discards it when four reports wait (R385). -/
def Chip.vaneFull (s : Chip) (c n : Nat) : Chip :=
  match (s.core c).vane.find? fun e => bf e.2.1 67 12 = n with
  | none => s
  | some e =>
    let occ := sget natReset s.vaneCnt e.1
    let s1 := s.updCore c fun k => { k with vane := k.vane.map fun f => if f.1 = e.1 then (f.1, f.2.1, 0) else f }
    let s2 := { s1 with vaneCnt := sset natReset s1.vaneCnt e.1 (occ + 1) }
    if 4 ≤ (s.net.filter (isReportOf (s.coreNode c))).length then (s2.count pgVAN 2 1).lostReport e.1 occ
    else s2.inject ⟨s.coreNode c, ⟨s.devId, .vane⟩, .vaneReport e.1 occ (s.ctxOf c) e.2.2⟩

/-- `SLSET` to EMPTY clears the accumulator and sends nothing (R385). -/
def Chip.vaneEmpty (s : Chip) (c n : Nat) : Chip :=
  s.updCore c fun k => { k with vane := k.vane.map fun f => if bf f.2.1 67 12 = n then (f.1, f.2.1, 0) else f }

end Sys2Proof.Machine
end

