-- ==== Sys2Proof/Machine/Slots.lean ====
section
/-! DEFINITION. Slots (R109 to R116): which slots a range touches, admission and completion of producers and counted reads. -/

namespace Sys2Proof.Machine

def Slot.nread (sl : Slot) : Nat := bf sl.desc 48 8
def Slot.ncontrib (sl : Slot) : Nat := bf sl.desc 56 8
def Slot.acc (sl : Slot) : Nat := bf sl.desc 45 3
def Slot.ord (sl : Slot) : Bool := sl.desc.getLsbD 44
def Slot.init (sl : Slot) : Bool := sl.desc.getLsbD 43
def Slot.land (sl : Slot) : Bool := sl.desc.getLsbD 42
def Slot.arr (sl : Slot) : Nat := bf sl.desc 38 4

/-- An `ADD.F32` slot of several contributions without ORD: the first producer of each fill is refused (R119). -/
def Slot.unranked (sl : Slot) : Bool := sl.acc = 2 && !sl.ord && decide (1 < sl.ncontrib)

/-- The slots in use of core `c`, with their numbers. -/
def Chip.slotsOf (s : Chip) (c : Nat) : List (Nat × Slot) :=
  (s.slots.filter fun p => decide (p.1 / 4096 = c) && decide (p.2.len ≠ 0)).map fun p => (p.1 % 4096, p.2)

/-- The slots that a range of tun bytes touches (R110). -/
def Chip.slotsOn (s : Chip) (c o n : Nat) : List Nat :=
  ((s.slotsOf c).filter fun p => decide (p.2.base < o + n) && decide (o < p.2.base + p.2.len)).map (·.1)

/-- The descriptor holds no reserved code and lies within the tun (R109, R110). -/
def slotFits (d : BitVec 64) : Bool :=
  let sl : Slot := { Slot.reset with desc := d }
  decide (sl.len = 0) || (decide (sl.ncontrib ≠ 0) && decide (sl.acc ≤ 4) && decide (bf d 0 13 + bf d 13 13 ≤ 6144))

/-- What is kept of a written slot descriptor: its reserved bits read as zero (R14, R109). -/
def slotKeep (d : BitVec 64) : BitVec 64 := setBf d 26 12 0

/-- The descriptor covers no granule of another slot in use (R110). -/
def Chip.slotApart (s : Chip) (c n : Nat) (d : BitVec 64) : Bool :=
  let sl : Slot := { Slot.reset with desc := d }
  decide (sl.len = 0) || ((s.slotsOf c).filter fun p => decide (p.1 ≠ n) && decide (p.2.base < sl.base + sl.len) &&
    decide (sl.base < p.2.base + p.2.len)).isEmpty

/-- A producer may be admitted (R112): `cred` for one that holds a credit, `rank` for a write that names its rank. (DEDUCED, log 33) -/
def Slot.mayProduce (sl : Slot) (cred : Bool) (rank : Option Nat) : Bool :=
  (cred || ((sl.state = 0 || sl.state = 1) && decide (sl.started + sl.crdout < sl.ncontrib))) &&
  (!sl.ord || (decide (sl.started = sl.done) && decide (rank.getD sl.next = sl.next)))

/-- A counted read, or a read of a persistent slot, may be admitted (R113). -/
def Slot.mayRead (sl : Slot) : Bool :=
  if sl.nread = 0 then sl.state = 2 else (sl.state = 2 || sl.state = 3) && decide (sl.reads < sl.nread)

/-- The identity that INIT sets, as the bytes of one element (R109, R117). -/
def accIdentity (acc : Nat) : List (BitVec 8) :=
  if acc = 2 then [0, 0, 0, 0x80] else if acc = 3 then [0, 0, 0x80, 0xFF] else [0]

/-- A region filled with repetitions of an element. -/
def Chip.fillWith (s : Chip) (a n : Nat) (e : List (BitVec 8)) : Chip :=
  if e = [0] then s.zero a n
  else s.store a ((List.range n).map fun i => (e[i % e.length]?).getD 0)

/-- A producer is admitted (R111, R112): the first of a fill makes the slot FILLING and sets the region when INIT is 1. -/
def Chip.admitProducer (s : Chip) (c n : Nat) (cred : Bool) : Chip :=
  let sl := s.slot c n
  let s1 := if sl.state = 0 && sl.init then s.fillWith (tunAddr c sl.base) sl.len (accIdentity sl.acc) else s
  s1.setSlot c n { sl with state := if sl.state = 0 then 1 else sl.state, started := sl.started + 1,
                           crdout := if cred then sl.crdout - 1 else sl.crdout }

/-- A producer completes (R111, R112); a slot that becomes FULL sends its digest report (R385). (DEDUCED, log 10; DEDUCED, log 77) -/
def Chip.completeProducer (s : Chip) (c n : Nat) : Chip :=
  let sl := s.slot c n
  if sl.state = 1 then
    let full := decide (sl.done + 1 = sl.ncontrib)
    let s1 := s.setSlot c n { sl with done := sl.done + 1, next := sl.next + 1, state := if full then 2 else 1 }
    if full then (s1.gatherRelease c sl.base sl.len).vaneFull c n else s1
  else s

/-- A counted read is admitted (R111, R113); a persistent slot counts none. -/
def Chip.admitRead (s : Chip) (c n : Nat) : Chip :=
  let sl := s.slot c n
  if sl.nread = 0 then s else s.setSlot c n { sl with state := 3, reads := sl.reads + 1 }

/-- The slot becomes EMPTY (R111): its counts become 0 and GEN increments. -/
def Slot.emptied (sl : Slot) : Slot :=
  { sl with state := 0, started := 0, done := 0, reads := 0, next := 0, readsDone := 0, gen := (sl.gen + 1) % 256 }

/-- A counted read completes (R111). -/
def Chip.completeRead (s : Chip) (c n : Nat) : Chip :=
  let sl := s.slot c n
  if sl.nread = 0 || sl.state ≠ 3 then s
  else
    let sl1 := { sl with readsDone := sl.readsDone + 1 }
    s.setSlot c n (if sl1.reads = sl.nread && sl1.readsDone = sl1.reads then sl1.emptied else sl1)

def Chip.completeUse (s : Chip) (c : Nat) (u : Nat × Bool) : Chip :=
  if u.2 then s.completeProducer c u.1 else s.completeRead c u.1

/-- The uses of a command may all be admitted at once (R110); accesses to a landing slot are not interlocked (R124). -/
def Chip.mayUse (s : Chip) (c : Nat) (uses : List (Nat × Bool)) : Bool :=
  uses.all fun u =>
    let sl := s.slot c u.1
    sl.land || (if u.2 then sl.mayProduce false none else sl.mayRead)

/-- The first slot that holds a command back. -/
def Chip.blocking (s : Chip) (c : Nat) (uses : List (Nat × Bool)) : Nat :=
  match uses.find? fun u => !(s.mayUse c [u]) with
  | some u => u.1
  | none => 0

/-- A command is admitted to its slots. -/
def Chip.admitUses (s : Chip) (c : Nat) (uses : List (Nat × Bool)) : Chip :=
  uses.foldl (fun t u => if (t.slot c u.1).land then t else if u.2 then t.admitProducer c u.1 false else t.admitRead c u.1) s

/-- Of the uses of a command, those that count: not of landing slots, and reads only of slots whose NREAD is not 0. -/
def Chip.counted (s : Chip) (c : Nat) (uses : List (Nat × Bool)) : List (Nat × Bool) :=
  uses.filter fun u => !((s.slot c u.1).land) && (u.2 || decide ((s.slot c u.1).nread ≠ 0))

/-- A producer that writes plain bytes into a slot with an accumulate operation is refused (R118). -/
def Chip.accClash (s : Chip) (c : Nat) (uses : List (Nat × Bool)) : Option Nat :=
  (uses.find? fun u => u.2 && decide ((s.slot c u.1).acc ≠ 0)).map (·.1)

end Sys2Proof.Machine
end

