-- ==== Sys2Proof/Machine/Checks.lean ====
section
/-! DEFINITION. The checks at issue (R234): predicates, ranges, presence of units, descriptors, lengths, alignments, addresses. -/

namespace Sys2Proof.Machine

/-- Predicate `k` of core `c`: its comparator applied to the counters (R81, R99). -/
def Chip.pred (s : Chip) (c k : Nat) : Bool :=
  let r := s.reg (pgSEQ c + 0x1A0 + 8 * k)
  let a := s.cnt c (bf r 0 4)
  let b := if r.getLsbD 7 then s.cnt c (bf r 8 4) else s.reg (pgSEQ c + 0x1A4 + 8 * k)
  match bf r 4 3 with
  | 0 => a = b
  | 1 => a ≠ b
  | 2 => a.ult b
  | 3 => !(a.ult b)
  | 4 => a.slt b
  | 5 => !(a.slt b)
  | _ => false

/-- The condition of an instruction's header holds (R82, R225). -/
def Chip.condHolds (s : Chip) (c : Nat) (w : IWord) : Bool :=
  !(w.getLsbD 119) || (s.pred c (bf w 115 3) != w.getLsbD 118)

/-- The counters that decide an instruction's condition. -/
def Chip.predCounters (s : Chip) (c : Nat) (w : IWord) : List Nat :=
  if w.getLsbD 119 then
    let r := s.reg (pgSEQ c + 0x1A0 + 8 * bf w 115 3)
    bf r 0 4 :: (if r.getLsbD 7 then [bf r 8 4] else [])
  else []

/-! ## Resolved operands (R237, R242) -/

/-- SLOT plus CB, not wrapped. -/
def Chip.dSlot (s : Chip) (c : Nat) (w : IWord) : Nat := dSLOT w + (if dCBS w then (s.cnt c (sCB w)).toNat else 0)

def Chip.dTag (s : Chip) (c : Nat) (w : IWord) : Nat := if dCAS w then (s.cnt c (sCA w)).toNat % 16 else dTAG w

/-- The cellar address, or the tun source offset of NWR and TCOPY. -/
def Chip.dAddr (s : Chip) (c : Nat) (w : IWord) : Nat :=
  let add := if dCCS w then (s.cnt c (dCC w)).toNat else 0
  if opcode w = 0x40 || opcode w = 0x41 then (dADDR w + add) % 2 ^ 34 else (nSRC w + add) % 2 ^ 22

/-- The tun offset of format D's tun side. -/
def Chip.dTun (s : Chip) (c : Nat) (w : IWord) : Nat :=
  if dNOSLOT w then wOFF w else (s.slot c (s.dSlot c w)).base + wOFF w

/-- The tun offset of CLD and CST. -/
def Chip.cldAddr (s : Chip) (c : Nat) (w : IWord) : Nat :=
  (bf w 0 22 + (if sCS w then (s.cnt c (sCB w)).toNat else 0)) % 2 ^ 22

/-- A cellar range lies within one tier of one slice below 36 (R243). -/
def celOk (a n : Nat) : Bool := decide (n ≠ 0) && decide (a / 2 ^ 28 < 36) && decide (a / 2 ^ 27 = (a + n - 1) / 2 ^ 27)

/-- The element size of an accumulate operation (R117); plain writes have none to keep. -/
def accSize (op : Nat) : Nat := if op = 4 then 72 else 4

/-! ## Matrix pairs (R168, R169) -/

/-- Width class of an operand for pairing: 16, 8, 6 (FP6 and FP4 weights), 4 (FP4 activations); 0 where it is no such float. -/
def pairClass (f scl : Nat) (weight : Bool) : Nat :=
  if f = 1 || f = 2 || f = 9 then 16
  else if f = 3 || f = 4 || f = 8 || (f = 0x0C && scl = 1) then 8
  else if f = 5 || f = 6 then (if weight then 6 else 0)
  else if f = 7 then (if weight then 6 else 4)
  else 0

def isWeight (f : Nat) : Bool := (decide (1 ≤ f) && decide (f ≤ 9)) || f = 0x0C || f = 0x0E || f = 0x0F
def isAct (f : Nat) : Bool := f = 1 || f = 2 || f = 3 || f = 4 || f = 7 || f = 0x0C || f = 0x0D

/-- The K block of a pair, or none where R168 has no such pair. -/
def kBlock (w a : IWord) : Option Nat :=
  let cw := pairClass (tdFmt w) (tdScl w) true
  let ca := pairClass (tdFmt a) (tdScl a) false
  if cw ≠ 0 && ca ≠ 0 then
    if cw = 16 || ca = 16 then some 32
    else if cw = 8 then some 64
    else if ca = 8 then some 64
    else some 128
  else if cw = 0 && ca = 0 then
    if tdFmt w = 0x0F then (if tdFmt a = 0x0C then some 128 else if tdFmt a = 0x0D then some 64 else none)
    else if (tdFmt w = 0x0C || tdFmt w = 0x0E) && (tdFmt a = 0x0C || tdFmt a = 0x0D) then some 64
    else none
  else none

/-- An integer pair. -/
def intPair (w a : IWord) : Bool := pairClass (tdFmt w) (tdScl w) true = 0 && pairClass (tdFmt a) (tdScl a) false = 0

/-- Exact mode of the matrix engine and of the vector engine (R177, R208). -/
def Chip.mtxExact (s : Chip) (c : Nat) : Bool := s.get (pgMTX c) ⟨0x100, 0, 1⟩ = 1
def Chip.vecExact (s : Chip) (c : Nat) : Bool := s.get (pgVEC c) ⟨0x100, 0, 1⟩ = 1
def Chip.vecDrnd (s : Chip) (c : Nat) : Nat := s.get (pgVEC c) ⟨0x100, 1, 3⟩
def Chip.vecFtz (s : Chip) (c : Nat) : Bool := s.get (pgVEC c) ⟨0x100, 4, 1⟩ = 1

/-- The rounding mode that RND names (R159). -/
def Chip.rnd (s : Chip) (c : Nat) (r : Nat) : Nat := if r = 0 then s.vecDrnd c else r

/-- An output format of the drain (R179). -/
def drainFmt (int exact : Bool) (f : Nat) : Bool :=
  if int then f = 0x0A || f = 0 || (exact && f = 0x11) else decide (f ≤ 4) || (exact && f = 0x11)

/-- Rows of a row group (R171). -/
def groupRows (exact : Bool) : Nat := if exact then 32 else 64

/-- MMUL's descriptors (R78, R169, R170, R179): the index of the first that breaks a rule, in the order C, A, W.  The formats of a
pair that R168 does not name leave C any output format, and the refusal names W (R169). -/
def Chip.mmulBad (s : Chip) (c : Nat) (w : IWord) : Option Nat :=
  let dc := s.desc c (tD w)
  let da := s.desc c (tA w)
  let dw := s.desc c (tB w)
  let ex := s.mtxExact c
  let cOk := tdOk dc && decide (tdScl dc = 0) && decide (tdRows dc = tdRows da) && decide (tdCols dc = tdRows dw) &&
    (if (kBlock dw da).isSome then drainFmt (intPair dw da) ex (tdFmt dc)
     else drainFmt true ex (tdFmt dc) || drainFmt false ex (tdFmt dc)) && (decide (tdFmt dc ≠ 0x11) || decide (mOSC w = 0))
  if !cOk then some (tD w)
  else if !(tdOk da && isAct (tdFmt da)) then some (tA w)
  else if !(tdOk dw && isWeight (tdFmt dw) && decide (tdCols dw = tdCols da) && (kBlock dw da).isSome) then some (tB w)
  else none

/-! ## Vector descriptors (R198, R199, R215) -/

/-- A tile of row records (R215) of `m` rows. -/
def recOk (d : IWord) (m : Nat) : Bool :=
  decide (tdCols d = 1) && decide (tdRows d = m) && decide (tdScl d = 0) && decide (tdFmt d < 0x12) &&
  decide (tdBase d % 64 = 0) && decide (tdStride d % 64 = 0) && decide (32 ≤ tdStride d) && decide (m ≠ 0) &&
  decide (tdBase d + (m - 1) * tdStride d + 32 ≤ 0x300000)

/-- The shape of a source in a form, against D's M and N (R198). -/
def formOk (form : Nat) (d : IWord) (m n : Nat) : Bool :=
  match form with
  | 0 => decide (tdRows d = m) && decide (tdCols d = n)
  | 1 => decide (tdRows d = 1) && decide (tdCols d = n) && decide (n ≤ 4096)
  | 2 => decide (tdRows d = m) && decide (tdCols d = 1)
  | _ => true

/-- VCVT's pairs of formats (R166, R167, R199). -/
def cvtOk (src dst : Nat) : Bool :=
  if src = 0x10 then dst = 0 || dst = 1 || dst = 0x11
  else if dst = 0x10 then src = 0 || src = 1 || src = 9
  else !(fmtCb4 dst)

/-- The vector command's descriptors: the index of the first that breaks a rule, in the order D, A, B, C.  VRED's LA576 destination takes integer
as well as floating-point elements of A, since R208 names no kind for it. (DESIGN CHOICE, log 100) -/
def Chip.vecBad (s : Chip) (c : Nat) (w : IWord) : Option Nat :=
  let o := opcode w
  let dd := s.desc c (tD w)
  let m := tdRows dd
  let n := tdCols dd
  let forms := vecGiven w
  let idx : List Nat := [tA w, tB w, tC w]
  let src (i : Nat) : IWord := s.desc c ((idx[i]?).getD 0)
  let isImm (i : Nat) : Bool := decide (forms[i]? = some 3)
  let plainD := tdOk dd && decide (tdScl dd = 0)
  let ex := s.vecExact c
  if o = 0xA0 || o = 0xAD || o = 0xAE then none
  else if o = 0xA9 then
    -- VCVT
    if !(tdOk dd && decide (tdScl dd ≠ 2) && cvtOk (tdFmt (src 0)) (tdFmt dd) &&
         (decide (tdScl dd = 0) || decide (tdFmt (src 0) ≠ 0x10))) then some (tD w)
    else if !(tdOk (src 0) && formOk 0 (src 0) m n) then some (tA w) else none
  else if o = 0xC9 then
    if !(plainD && (decide (tdFmt dd = 0) || decide (tdFmt dd = 0x0A))) then some (tD w)
    else if !(recOk (src 0) m) then some (tA w) else none
  else if o = 0xCA then
    let k := bf w 32 7
    if !(plainD && decide (tdFmt dd = 0x0A) && decide (n = 2 * k)) then some (tD w)
    else if !(tdOk (src 0) && decide (tdRows (src 0) = m) &&
        (if tMODE w / 2 = 1 then decide (tdScl (src 0) = 0) && decide (tdFmt (src 0) = 0x0A) && decide (tdCols (src 0) % 2 = 0)
         else fmtFloat (tdFmt (src 0)) || fmtInt (tdFmt (src 0)))) then some (tA w)
    else none
  else if o = 0xCB then
    if !(plainD && decide (tdFmt dd = 0x0A) && decide (n = 2)) then some (tD w)
    else if !(tdOk (src 0) && decide (tdRows (src 0) = m) && decide (tdScl (src 0) = 0) && decide (tdFmt (src 0) = 0x0A) &&
        decide (tdCols (src 0) % 2 = 0) && decide (tdCols (src 0) ≤ 128)) then some (tA w)
    else if !(recOk (src 1) m) then some (tB w) else none
  else if o = 0xC0 then
    -- VRED
    let col := (tFN w / 8) % 2 = 1
    let fn := tFN w % 8
    let am := tdRows (src 0)
    let an := tdCols (src 0)
    let wd := if 4 ≤ fn then 2 else 1
    let shape := if col then decide (m = 1) && decide (n = wd * an) else decide (m = am) && decide (n = wd)
    let fmtD := if 4 ≤ fn then decide (tdFmt dd = 0x0A)
                else if tdFmt dd = 0x11 then ex && decide (fn ≤ 1)
                else fmtFloat (tdFmt dd) && !(fmtCb4 (tdFmt dd)) || fmtInt (tdFmt dd)
    let fmtA := if 4 ≤ fn then fmtFloat (tdFmt (src 0))
                else if tdFmt dd = 0x11 then fmtFloat (tdFmt (src 0)) || fmtInt (tdFmt (src 0))
                else if fmtFloat (tdFmt dd) then fmtFloat (tdFmt (src 0)) else fmtInt (tdFmt (src 0))
    if !(plainD && shape && fmtD) then some (tD w)
    else if !(tdOk (src 0) && fmtA) then some (tA w) else none
  else
    -- elementwise and transcendental commands
    let trans := decide (0xC1 ≤ o) && decide (o ≤ 0xC8)
    let ns := (vecForms o).length
    let dataSrc := if o = 0xAB then 2 else ns
    let kinds : List Nat := (if o = 0xAA then [] else [tdFmt dd]) ++
      ((List.range dataSrc).filter fun i => !(isImm i)).map fun i => tdFmt (src i)
    let float := match kinds with
      | [] => true
      | f :: _ => fmtFloat f
    let okKind (f : Nat) : Bool := if trans || o = 0xAC then fmtFloat f else if float then fmtFloat f else fmtInt f
    let dOk := plainD && decide (tdFmt dd < 0x10) && !(fmtCb4 (tdFmt dd)) &&
      (if o = 0xAA then decide (tdFmt dd = 0x0D) else okKind (tdFmt dd))
    let sOk (i : Nat) : Bool :=
      isImm i ||
      (tdOk (src i) &&
       (if o = 0xAC && i = 1 then decide (tdFmt (src i) = 0) && decide (tdScl (src i) = 0) && decide (tdRows (src i) = 1) &&
          decide (tdCols (src i) = tFN w % 16 + 1)
        else formOk ((forms[i]?).getD 0) (src i) m n &&
          (if o = 0xAB && i = 2 then fmtInt (tdFmt (src i)) else okKind (tdFmt (src i)))))
    if !dOk then some (tD w)
    else ((List.range ns).find? fun i => !(sOk i)).map fun i => (idx[i]?).getD 0

/-! ## Checks 3 to 6 (R234) -/

/-- Check 3: the cause of ILLEGAL_INSTR, or none.  A CB4 source is no table in the sense of R197, whose codebook the split configuration would
bar. (DESIGN CHOICE, log 98) -/
def Chip.check3 (s : Chip) (c : Nat) (w : IWord) : Option Nat :=
  let o := opcode w
  let k := s.core c
  if o = 0x02 then (if 6144 ≤ sIDX w then some 0x03 else none)
  else if o = 0x03 then
    let e := sIDX w
    if e ≤ s.pc c || 6144 ≤ e || (match k.loops with | l :: _ => decide (l.last < e) | [] => false) then some 0x05
    else if 4 ≤ k.loops.length then some 0x04 else none
  else if o = 0x0D then
    let n := bf w 32 5
    if n = 0 || 16 < n || 256 < sTD w + n then some 0x0B else none
  else if o = 0x21 then
    let scope := bf w 100 2
    if ((sSEL w = 2 || sSEL w = 3) && scope = 0) || (sSEL w = 4 && scope ≠ 3) then some 0x0B else none
  else if 0x40 ≤ o && o ≤ 0x43 then
    if (!(dNOSLOT w) && 4096 ≤ s.dSlot c w) || 65536 < dLEN w || (o = 0x42 && dAUX w = 255) then some 0x0B else none
  else if o = 0x60 || o = 0x62 || o = 0x63 || o = 0x64 then
    if cMLEN w = 0 || 16384 < cMLEN w || (o = 0x60 && 144 ≤ cPCORE w) then some 0x0B else none
  else if o = 0x84 then (if bf w 32 13 = 0 then some 0x0B else none)
  else if o = 0x85 then (if bf w 32 7 = 0 || 64 < bf w 32 7 then some 0x0B else none)
  else if 0xA0 ≤ o then
    if (o = 0xAC && tFN w % 16 = 0) || (o = 0xCA && (bf w 32 7 = 0 || 64 < bf w 32 7)) then some 0x0B
    else if 3 ≤ vecImms w || ((vecForms o).zip (vecGiven w)).any (fun p => !(p.1.contains p.2)) then some 0x0A
    else if o = 0xA0 || o = 0xAD || o = 0xAE then none
    else if k.splitIssued then
      (if (vecGiven w).any (fun f => f = 1 || f = 2) then some 0x09 else none)
    else if tSUB w ≠ 0 then some 0x09 else none
  else none

/-- The route table's entry for a device (R323, R331). (DEDUCED, log 39) -/
def Chip.route (s : Chip) (n : Nat) : Nat := bf (s.reg (pgLKC + 0x800 + n / 2 * 4)) (n % 2 * 16) 16

/-- The ring of a receiving end: its tun range, where channel `n` of core `c` is one that is not CLOSED (R283). -/
def Chip.ringOf (s : Chip) (c n : Nat) : Option (Nat × Nat) :=
  if s.get (pgCHAN c) ⟨0x400 + 16 * n, 0, 3⟩ ≠ 0 && s.get (pgCHAN c) ⟨0x400 + 16 * n, 3, 1⟩ = 1 then
    some ((s.chan c n).rbase, (s.chan c n).rlen)
  else none

/-- A ring lies in populated, free bytes and overlaps no other ring (R283). (DEDUCED, log 39) -/
def Chip.ringFree (s : Chip) (c n o l : Nat) : Bool :=
  tunOk o l && (s.slotsOn c o l).isEmpty &&
  (List.range 64).all fun i => i = n ||
    (match s.ringOf c i with
     | some r => decide (o + l ≤ r.1) || decide (r.1 + r.2 ≤ o)
     | none => true)

/-- A channel's peer is a fused-off core, or lies behind an absent port (R3, R96). -/
def Chip.peerAbsent (s : Chip) (dev core : Nat) : Bool :=
  if dev = s.devId then !(s.present core)
  else
    let r := s.route dev
    r.testBit 4 && !(s.portPresent (r % 16))

/-- Check 4: the unit addressed is absent (R96, R240, R241, R244). -/
def Chip.check4 (s : Chip) (c : Nat) (w : IWord) : Bool :=
  let o := opcode w
  if o = 0x42 then (s.neighbour c (nDIR w)).isNone
  else if o = 0x24 || o = 0x25 then (s.neighbour c (sSEL w % 4)).isNone
  else if o = 0x21 && sSEL w = 2 then (s.neighbour c (bf w 48 2)).isNone
  else if o = 0x60 then s.peerAbsent (cPDEV w) (cPCORE w)
  else false

/-! ## Chains at issue (R181) -/

/-- A command that breaks the chain that the commands issued so far leave open: the cause is the chain's C index (R181). (DEDUCED, log 25) -/
def Chip.chainBreak (s : Chip) (c : Nat) (w : IWord) : Option Nat :=
  match (s.core c).chainIssued with
  | none => none
  | some (ci, m, n, _) =>
    if tD w = ci && (opcode w ≠ 0x80 || (tdRows (s.desc c (tA w)) = m && tdRows (s.desc c (tB w)) = n)) then none else some ci

/-- A chain that is too large to open, or an MDRAIN whose C does not fit the chain (R179, R181): its own index. (DEDUCED, log 25) -/
def Chip.chainSize (s : Chip) (c : Nat) (w : IWord) : Option Nat :=
  let dc := s.desc c (tD w)
  match (s.core c).chainIssued with
  | none =>
    if opcode w = 0x80 && mCHAIN w && !(decide (tdRows (s.desc c (tA w)) ≤ groupRows (s.mtxExact c)) &&
        decide (tdRows (s.desc c (tB w)) ≤ 128)) then some (tD w) else none
  | some (_, m, n, int) =>
    if opcode w ≠ 0x81 || (tdRows dc = m && tdCols dc = n && drainFmt int (s.mtxExact c) (tdFmt dc) && (tdFmt dc ≠ 0x11 || mOSC w = 0))
    then none else some (tD w)

/-- What an accepted matrix command leaves open of a chain (R181). (DEDUCED, log 25) -/
def Chip.chainNext (s : Chip) (c : Nat) (w : IWord) : Option (Nat × Nat × Nat × Bool) :=
  if opcode w = 0x80 && mCHAIN w then
    some (((s.core c).chainIssued).getD (tD w, tdRows (s.desc c (tA w)), tdRows (s.desc c (tB w)),
      intPair (s.desc c (tB w)) (s.desc c (tA w))))
  else none

/-- The slot descriptors of core `c` as the SLSETs that are queued or executing will leave them. (DEDUCED, log 39) -/
def Chip.slotsAhead (s : Chip) (c : Nat) : Chip :=
  let k := s.core c
  ((k.running 7 ++ k.queue 7).filter fun m => opcode m.w = 0x23).foldl (fun t m =>
    t.setSlot c (sIDX m.w % 4096) { t.slot c (sIDX m.w % 4096) with desc := slotKeep (m.w.extractLsb' 0 64) }) s

/-- The tun range that an instruction gives by an offset, as offset and length (R102). -/
def Chip.offRange (s : Chip) (c : Nat) (w : IWord) : Option (Nat × Nat) :=
  let o := opcode w
  if o = 0x08 || o = 0x09 then some (s.cldAddr c w, 4)
  else if o = 0x0D then some (bf w 0 22, 16 * bf w 32 5)
  else if o = 0x0E then some (s.get (pgSEQ c) fSeqOvlBase + 16 * bf w 0 8, 16)
  else if o = 0x20 then (if bf w 32 22 = 0 then none else some (bf w 0 22, bf w 32 22))
  else if o = 0x21 && (sSEL w = 1 || sSEL w = 2) then some (bf w 0 22, 8)
  else if o = 0x22 && sSEL w = 0 then some (bf w 0 22, 8)
  else if (o = 0x40 || o = 0x41 || o = 0x43) && dNOSLOT w then some (wOFF w, dLEN w)
  else if o = 0x62 || o = 0x63 || o = 0x64 then some (wOFF w, cMLEN w)
  else if o = 0x84 then some (bf w 0 22, bf w 32 13)
  else if o = 0x85 then some (bf w 0 22, 4 * bf w 32 7)
  else if o = 0xAD then some (bf w 0 22, 4)
  else none

/-- Check 5: BAD_DESC with this cause (R78, R102, R110, R170, R181, R198, R236, R242). -/
def Chip.check5 (s : Chip) (c : Nat) (w : IWord) : Option Nat :=
  let o := opcode w
  let range := match s.offRange c w with
    | some r => !(tunOk r.1 r.2)
    | none => false
  if range then some 0xFF
  else if o = 0x23 then
    (if slotFits (w.extractLsb' 0 64) && (s.slotsAhead c).slotApart c (sIDX w % 4096) (w.extractLsb' 0 64) then none else some 0xFF)
  else if (o = 0x40 || o = 0x41 || o = 0x43) && !(dNOSLOT w) && (s.slot c (s.dSlot c w)).len = 0 then some 0xFF
  else if (o = 0x42 || o = 0x43) && !(tunOk (s.dAddr c w) (dLEN w)) then some 0xFF
  else if o = 0x60 then (if cROLE w && !(s.ringFree c (cCH w) (cRBASE w) (cRLEN w)) then some 0xFF else none)
  else if o = 0x80 then ((s.chainBreak c w).or (s.mmulBad c w)).or (s.chainSize c w)
  else if o = 0x81 then
    let d := s.desc c (tD w)
    let own := if tdOk d && tdScl d = 0 && (decide (tdFmt d ≤ 4) || decide (tdFmt d = 0x0A) || decide (tdFmt d = 0x11)) then none
      else some (tD w)
    ((s.chainBreak c w).or own).or (s.chainSize c w)
  else if 0xA0 ≤ o then s.vecBad c w
  else none

/-- Check 6: BAD_LEN, BAD_ADDR or ADJ_BAD (R237 to R247). -/
def Chip.check6 (s : Chip) (c : Nat) (w : IWord) : Option Nat :=
  let o := opcode w
  if o = 0x08 || o = 0x09 then (if s.cldAddr c w % 4 ≠ 0 then some eBAD_LEN else none)
  else if o = 0x0D then (if bf w 0 22 % 16 ≠ 0 then some eBAD_LEN else none)
  else if o = 0x21 && (sSEL w = 1 || sSEL w = 2) then (if bf w 0 22 % 8 ≠ 0 then some eBAD_LEN else none)
  else if (o = 0x21 && sSEL w = 3) || (o = 0x22 && sSEL w = 1) then
    let a := bf w 56 2 * 2 ^ 32 + wIMM0 w
    if a % 8 ≠ 0 then some eBAD_LEN else if !(celOk a 8) then some eBAD_ADDR else none
  else if o = 0x22 then (if bf w 0 22 % 8 ≠ 0 then some eBAD_LEN else none)
  else if o = 0x40 || o = 0x41 then
    let a := s.dAddr c w
    let n := dLEN w
    if n % 8 ≠ 0 || a % 8 ≠ 0 || s.dTun c w % 8 ≠ 0 ||
       (!(dNOSLOT w) && decide ((s.slot c (s.dSlot c w)).len < wOFF w + n)) then some eBAD_LEN
    else if !(celOk a n) then some eBAD_ADDR else none
  else if o = 0x42 then
    (if dLEN w % 4 ≠ 0 || (nOP w ≠ 0 && dLEN w % accSize (nOP w) ≠ 0) then some eBAD_LEN else none)
  else if o = 0x43 then
    let a := s.dAddr c w
    let t := s.dTun c w
    if (!(dNOSLOT w) && decide ((s.slot c (s.dSlot c w)).len < wOFF w + dLEN w)) ||
       (decide (a < t + dLEN w) && decide (t < a + dLEN w)) then some eBAD_LEN else none
  else if o = 0x60 then
    if cROLE w && (decide (cRLEN w / 2 < cMLEN w) || cRBASE w % 64 ≠ 0 || cRLEN w % 64 ≠ 0) then some eBAD_LEN else none
  else if o = 0x84 then (if 4096 < bf w 32 13 then some eADJ_BAD else none)
  else if o = 0x85 then (if bf w 0 22 % 4 ≠ 0 then some eBAD_LEN else none)
  else if o = 0x80 then (if mADJ w && intPair (s.desc c (tB w)) (s.desc c (tA w)) then some eADJ_BAD else none)
  else if o = 0xAD then (if bf w 0 22 % 4 ≠ 0 then some eBAD_LEN else none)
  else none

/-- Checks 3 to 6 in order: the fault's code and cause. (DEDUCED, log 37) -/
def Chip.issueBad (s : Chip) (c : Nat) (w : IWord) : Option (Nat × Nat) :=
  match s.check3 c w with
  | some cause => some (eILLEGAL, cause)
  | none =>
    if s.check4 c w then some (eABSENT, 0xFF)
    else match s.check5 c w with
      | some cause => some (eBAD_DESC, cause)
      | none => (s.check6 c w).map fun code => (code, 0xFF)

end Sys2Proof.Machine
end

