-- ==== Sys2Proof/Machine/Tiles.lean ====
section
/-! DEFINITION. Tiles in the tun (R77, R148, R153, R155): the elements of a tile as an engine reads them, the bytes an engine
reads and writes, and the slots that a command touches (R110, R182, R200, R242, R245). -/

namespace Sys2Proof.Machine

/-- The tun offset and the length of the bytes that hold element `j` of row `i`. -/
def eltRange (d : IWord) (i j : Nat) : Nat × Nat :=
  let b := fmtBits (tdFmt d)
  (tdBase d + i * tdStride d + j * b / 8, (j * b % 8 + b + 7) / 8)

/-- The bits of element `j` of row `i` as unit `u` sees them (R148). -/
def Chip.eltBits (s : Chip) (c u : Nat) (d : IWord) (i j : Nat) : Nat :=
  let b := fmtBits (tdFmt d)
  let r := eltRange d i j
  s.seenNum c u r.1 r.2 / 2 ^ (j * b % 8) % 2 ^ b

/-- The tun offset of the scale byte of element `j` of row `i` (R155). -/
def scaleAt (d : IWord) (i j : Nat) : Nat := tdScale d + i * (tdCols d / 32) + j / 32

/-- The bits of an entry of a CB4 table, and what they stand for (R153). -/
def Chip.cbRaw (s : Chip) (c u : Nat) (d : IWord) (x : Nat) : Nat :=
  if tdFmt d = 8 then s.seenNum c u (tdScale d + x) 1 else s.seenNum c u (tdScale d + 2 * x) 2

def cbVal (d : IWord) (b : Nat) : Val := decodeElt (if tdFmt d = 8 then 3 else 1) b

/-- The value of an entry of a CB4 table (R153). -/
def Chip.cbEntry (s : Chip) (c u : Nat) (d : IWord) (x : Nat) : Val := cbVal d (s.cbRaw c u d x)

/-- The value of an element before its block scale. -/
def Chip.eltRaw (s : Chip) (c u : Nat) (d : IWord) (i j : Nat) : Val :=
  let b := s.eltBits c u d i j
  if fmtCb4 (tdFmt d) then s.cbEntry c u d b
  else if tdFmt d = 0x0C && tdScl d = 1 then .ofInt (sgn 8 b) (-6)
  else decodeElt (tdFmt d) b

/-- A value times its block scale (R155). -/
def scaled (v : Val) (x : Nat) : Val :=
  if x = 255 then .nan else
    match v with
    | .fin n m e => .fin n m (e + x - 127)
    | y => y

/-- The value of element `j` of row `i` of a tile (R150 to R155). -/
def Chip.elt (s : Chip) (c u : Nat) (d : IWord) (i j : Nat) : Val :=
  let v := s.eltRaw c u d i j
  if tdScl d = 1 then scaled v (s.seenNum c u (scaleAt d i j) 1) else v

/-- What reading element `j` of row `i` meets. (DEDUCED, log 9) -/
def Chip.eltBad (s : Chip) (c : Nat) (d : IWord) (i j : Nat) : Option Nat :=
  let r := eltRange d i j
  let a := s.tunBad c r.1 r.2
  if tdScl d = 1 then
    (match a, s.tunBad c (scaleAt d i j) 1 with
     | some 3, _ => some 3
     | _, some 3 => some 3
     | some x, _ => some x
     | _, y => y)
  else a

/-- What reading the codebook meets: the table is read whole (R153). -/
def Chip.tableBad (s : Chip) (c : Nat) (d : IWord) : Option Nat :=
  if tdScl d = 2 then s.tunBad c (tdScale d) (tdScaleBytes d) else none

/-- The byte ranges of a tile: its rows, and its scales or table. -/
def tileRanges (d : IWord) : List (Nat × Nat) :=
  (if tdRowBytes d = tdStride d then [(tdBase d, tdRows d * tdRowBytes d)]
   else (List.range (tdRows d)).map fun i => (tdBase d + i * tdStride d, tdRowBytes d)) ++
  (if tdScl d = 1 || tdScl d = 2 then [(tdScale d, tdScaleBytes d)] else [])

/-- The byte ranges of a tile of row records (R215). -/
def recRanges (d : IWord) : List (Nat × Nat) := (List.range (tdRows d)).map fun i => (tdBase d + i * tdStride d, 32)

/-- Correctable words among ranges are logged by unit `u` (R104, R398). -/
def Chip.noteRanges (s : Chip) (c u : Nat) (l : List (Nat × Nat)) : Chip :=
  if s.errs = [] then s
  else l.foldl (fun t r => t.noteCorr (unitPage c u) (t.coreCtxw c) (tunAddr c r.1) r.2) s

/-- A row of elements packed into bytes (R148). -/
def packRow (b : Nat) (l : List Nat) : List (BitVec 8) :=
  bytesOf (l.length * b / 8) ((List.range l.length).foldl (fun a k => a + (l[k]?).getD 0 % 2 ^ b * 2 ^ (k * b)) 0)

/-! ## The slots that a command touches -/

/-- Every element of a list once. -/
def once (l : List Nat) : List Nat := l.foldl (fun a x => if a.contains x then a else a ++ [x]) []

def Chip.slotsIn (s : Chip) (c : Nat) (l : List (Nat × Nat)) : List Nat :=
  once (l.flatMap fun r => s.slotsOn c r.1 r.2)

/-- Reads and writes of ranges as uses of slots: each slot once as a read and once as a producer. -/
def Chip.usesOn (s : Chip) (c : Nat) (reads writes : List (Nat × Nat)) : List (Nat × Bool) :=
  (s.slotsIn c reads).map (fun n => (n, false)) ++ (s.slotsIn c writes).map fun n => (n, true)

/-- The ranges that a vector command reads, by its captured descriptors (R200). -/
def vecReads (m : Cmd) : List (Nat × Nat) :=
  let o := opcode m.w
  let src : List IWord := [m.dA, m.dB, m.dC]
  (List.range (vecForms o).length).flatMap fun i =>
    let d := (src[i]?).getD 0
    if (vecGiven m.w)[i]? = some 3 then []
    else if (o = 0xC9 && i = 0) || (o = 0xCB && i = 1) then recRanges d
    else tileRanges d

/-- The ranges that a vector command writes. -/
def vecWrites (m : Cmd) : List (Nat × Nat) :=
  let o := opcode m.w
  if o = 0xAD then [(bf m.w 0 22, 4)] else if o = 0xA0 || o = 0xAE then [] else tileRanges m.dD

/-- Where the tun side of a format D command lies, as captured: `m.val` holds its offset. -/
def dRange (m : Cmd) : Nat × Nat := (m.val, dLEN m.w)

/-- The uses that a queued command makes of slots, known when it starts. (DEDUCED, log 37) -/
def Chip.usesOf (s : Chip) (c : Nat) (m : Cmd) : List (Nat × Bool) :=
  let o := opcode m.w
  if o = 0x80 then
    s.usesOn c (tileRanges m.dA ++ tileRanges m.dB) (if mCHAIN m.w then [] else tileRanges m.dD)
  else if o = 0x81 then (if (s.core c).chain.isSome then s.usesOn c [] (tileRanges m.dD) else [])
  else if o = 0x84 then s.usesOn c [(bf m.w 0 22, bf m.w 32 13)] []
  else if o = 0x85 then (if m.prog = 0 then s.usesOn c [(bf m.w 0 22, 4 * bf m.w 32 7)] [] else [(m.slot, false)])
  else if 0xA0 ≤ o then s.usesOn c (vecReads m) (vecWrites m)
  else if o = 0x40 then s.usesOn c [] [dRange m]
  else if o = 0x41 then s.usesOn c [dRange m] []
  else if o = 0x42 then s.usesOn c [(m.addr, dLEN m.w)] []
  else if o = 0x43 then s.usesOn c [(m.addr, dLEN m.w)] [dRange m]
  else if o = 0x62 || o = 0x63 then s.usesOn c [(wOFF m.w, cMLEN m.w)] []
  else if o = 0x64 then (if m.val = 0 then [] else s.usesOn c [] [(wOFF m.w, m.val)])
  else if o = 0x21 && sSEL m.w = 0 then [(sIDX m.w % 4096, true)]
  else []

/-! ## The order of waiting (R114) -/

/-- The uses of the sequencer's own slot read, while it waits. -/
def Chip.seqUses (s : Chip) (c : Nat) (w : IWord) : List (Nat × Bool) :=
  if opcode w = 0x08 || opcode w = 0x0D || opcode w = 0x0E then
    (match s.offRange c w with
     | some r => (s.slotsOn c r.1 r.2).map fun n => (n, false)
     | none => [])
  else []

/-- The command waits on slots of its own core, and not for something else: `queued` at the head of its queue. -/
def onSlots (queued : Bool) (m : Cmd) : Bool :=
  let o := opcode m.w
  m.began.isSome &&
  (if 0x40 ≤ o && o ≤ 0x43 then m.prog = 0
   else if 0x62 ≤ o && o ≤ 0x64 then m.prog = 2
   else if o = 0x21 then m.prog = 1
   else if o = 0x85 then true
   else o ≠ 0x23 && o ≠ 0x24 && queued)

/-- The heads of the stream engine that wait for slots of core `c`: their place in the order and the slot, as a producer (R114, R353). -/
def Chip.headWaiters (s : Chip) (c : Nat) : List (Nat × List (Nat × Bool)) :=
  (s.se.ctxs.flatMap fun e => e.2.steps.flatMap fun p => p.waits.map fun w => (e.1, w)).filterMap fun z =>
    if s.get (pgCTX z.1) ⟨0x180 + 4 * z.2.1, 0, 8⟩ = c then some (z.2.2, [(s.get (pgCTX z.1) ⟨0x180 + 4 * z.2.1, 8, 12⟩, true)])
    else none

/-- Those that wait on slots of core `c`: their place in the order and their uses. (DESIGN CHOICE, log 46) -/
def Chip.waiters (s : Chip) (c : Nat) : List (Nat × List (Nat × Bool)) :=
  let k := s.core c
  let cmds := ((k.q.filterMap fun p => p.2.head?).filter (onSlots true)) ++ ((k.run.flatMap fun p => p.2).filter (onSlots false))
  (cmds.map fun m => (m.ord, s.usesOf c m)) ++
  (match k.wait with
   | some x => if x.code = 9 && x.val ≠ 0 then [(x.ord, s.seqUses c x.w)] else []
   | none => []) ++ s.headWaiters c

/-- Someone who began to wait earlier on a slot of these uses, and whom the slots' rules let in now, comes first. -/
def Chip.overtakes (s : Chip) (c ord : Nat) (uses : List (Nat × Bool)) : Bool :=
  (s.waiters c).any fun p => decide (p.1 < ord) && (p.2.any fun u => uses.any fun v => u.1 = v.1) && s.mayUse c p.2

/-- The uses may all be admitted, and no earlier waiter comes first (R110, R114). (DEDUCED, log 33; DESIGN CHOICE, log 46) -/
def Chip.admits (s : Chip) (c ord : Nat) (uses : List (Nat × Bool)) : Bool := s.mayUse c uses && !(s.overtakes c ord uses)

end Sys2Proof.Machine
end

