-- ==== Sys2Proof/Machine/Extents.lean ====
section
/-! DEFINITION. The cellar's extents (R250 to R255): who owns them, which requests a controller refuses, what it records of the
words that it reads (R267, R268, R272). -/

namespace Sys2Proof.Machine

/-- The carve-out in force, in units of 256 MiB (R447). -/
def fKlnCarve : Fld := ⟨0x104, 0, 4⟩
/-- The stream table is reserved (R252). -/
def fSeTableOn : Fld := ⟨0x100, 0, 1⟩

/-- Extent `e` (tier × 64 + extent) of slice `n` is carve-out extent number `(63 - e mod 64) × 72 + tier × 36 + n` (R251). -/
def carveIndex (n e : Nat) : Nat := (63 - e % 64) * 72 + e / 64 * 36 + n

def Chip.inCarve (s : Chip) (n e : Nat) : Bool := decide (carveIndex n e < 128 * s.get pgKLN fKlnCarve)

def Chip.inTable (s : Chip) (n e : Nat) : Bool := s.bit pgSE fSeTableOn && decide (e % 64 = 0) && tableSlices.contains n

/-- The register that holds an extent's owner entry, and the entry's lowest bit. -/
def fExtOwn (e : Nat) : Fld := ⟨0x200 + e / 4 * 4, 8 * (e % 4), 7⟩

/-- An owner entry: CTX in bits 3 to 0, KIND in bits 6 to 4 (R253, R272).  Those of the carve-out and the stream table are the
hardware's (R269). -/
def Chip.extOwn (s : Chip) (n e : Nat) : Nat :=
  if s.inCarve n e then 3 * 16 else if s.inTable n e then 4 * 16 else s.get (pgCEL n) (fExtOwn e)

def Chip.extKind (s : Chip) (n e : Nat) : Nat := s.extOwn n e / 16
def Chip.extCtx (s : Chip) (n e : Nat) : Nat := s.extOwn n e % 16

/-- Slice, extent and tier of a cellar address (R250). -/
def sliceOf (a : Nat) : Nat := a / 2 ^ 28
def extOf (a : Nat) : Nat := a / 2 ^ 21 % 128
def tierOf (a : Nat) : Nat := a / 2 ^ 27

/-- Extents touched by a range. -/
def extsOf (a n : Nat) : List Nat := if n = 0 then [] else (List.range ((a + n - 1) / 2 ^ 21 - a / 2 ^ 21 + 1)).map (a / 2 ^ 21 + ·)

/-- The cluster of a slice that a range lies in is in reset, which keeps requests from outside waiting (R269). (DEDUCED, log 44) -/
def Chip.sliceWaits (s : Chip) (a n : Nat) : Bool := (extsOf a n).any fun e => decide (e < 36 * 128) && s.bit (pgCEL (e / 128)) fResetActive

/-- The owner check of R254 for a core's request of context `x`. -/
def Chip.coreMay (s : Chip) (x a : Nat) (wr : Bool) : Bool :=
  let k := s.extKind (sliceOf a) (extOf a)
  (k = 1 && s.extCtx (sliceOf a) (extOf a) = x) || (k = 2 && !wr)

/-- The owner check of R254 for the stream engine acting for context `x`. -/
def Chip.streamMay (s : Chip) (x a : Nat) (wr : Bool) : Bool :=
  s.coreMay x a wr || s.extKind (sliceOf a) (extOf a) = 4

/-- The first address of a range whose extent refuses the request. -/
def Chip.firstRefused (s : Chip) (x a n : Nat) (wr : Bool) : Option Nat :=
  ((extsOf a n).find? fun e => !(s.coreMay x (e * 2 ^ 21) wr)).map fun e => max a (e * 2 ^ 21)

/-- A controller refuses a request: it records it, counts it and raises its interrupt (R254, R272 to R274). -/
def Chip.refuse (s : Chip) (a x src : Nat) (wr : Bool) : Chip :=
  let p := pgCEL (sliceOf a)
  let r := a / 2 ^ 32 + x % 16 * 16 + (if wr then 256 else 0) + src % 256 * 65536
  (((s.setReg (p + 0x128) (BitVec.ofNat 32 a)).setReg (p + 0x12C) (BitVec.ofNat 32 r)).count p 0x0B 1).raise p 3

/-- A core's request is refused: its context faults with BAD_ADDR, logged by the controller (R254). -/
def Chip.refuseCore (s : Chip) (c a pc : Nat) (wr : Bool) : Chip :=
  (s.refuse a (s.ctxOf c) c wr).faultCore c (pgCEL (sliceOf a)) eBAD_ADDR 0xFF pc

/-- What a controller records when it reads word `w` (an address ÷ 8) with `e` bit errors, for a request or as the patrol
(R267, R268, R272, R274). -/
def Chip.celWord (s : Chip) (patrol : Bool) (cw w e : Nat) : Chip :=
  let a := w * 8 - celAddr 0
  let n := sliceOf a
  let p := pgCEL n
  let corr := if patrol then 0x09 else 0x08
  if e = 1 then ((s.inc p ⟨0x110, 0, 32⟩ 1).count p corr 1).logErr p 1 cw
  else if e = 2 then ((s.inc p ⟨0x114, 0, 32⟩ 1).count p corr 1).logErr p 2 cw
  else if 3 ≤ e then
    let r := a / 2 ^ 32 + (if patrol then 4 else 0) + s.extKind n (extOf a) * 16
    ((((s.inc p ⟨0x118, 0, 32⟩ 1).setReg (p + 0x120) (BitVec.ofNat 32 a)).setReg (p + 0x124) (BitVec.ofNat 32 r)).raise p 0).logErr
      p eUNCORR cw
  else s

/-- The words with bit errors of a list in the order in which one access reports them: the lowest code first (R394). -/
def lowFirst (l : List (Nat × Nat)) : List (Nat × Nat) :=
  l.filter (fun q => decide (q.2 = 1)) ++ l.filter (fun q => decide (q.2 = 2)) ++ l.filter fun q => decide (3 ≤ q.2)

/-- A controller reads a range of its slice for a request, line by line, each line one access (R268, R394). -/
def Chip.celRead (s : Chip) (cw a n : Nat) : Chip :=
  let l := s.errs.filter fun q => inWords (celAddr a) n q.1
  (l.map fun q => q.1 / 8).eraseDups.foldl (fun (t : Chip) i =>
    (lowFirst (l.filter fun q => decide (q.1 / 8 = i))).foldl (fun t q => t.celWord false cw q.1 q.2) t) s

/-- A write that covers words of its slice in part: the controller reads them for the merge, and corrects one of one or two bit errors
(R397, R398). (DEDUCED, log 77) -/
def Chip.celMerge (s : Chip) (cw a n : Nat) : Chip :=
  if s.errs = [] then s
  else (partWords (celAddr a) n).foldl (fun t w => if t.errOf w < 3 then t.celWord false cw w (t.errOf w) else t) s

/-- The lines that a controller counts for a request of core `c` (R274). -/
def Chip.celCount (s : Chip) (c a : Nat) (wr : Bool) (lines : Nat) : Chip :=
  let p := pgCEL (sliceOf a)
  (s.count p (if wr then 1 else 0) lines).count p (if clusterOf c = sliceOf a then 2 else 3) lines

end Sys2Proof.Machine
end

