-- ==== Sys2Proof/Machine/Issue.lean ====
section
/-! DEFINITION. Fetch and issue (R68, R69, R83 to R88, R234): one instruction of a core reaches issue. -/

namespace Sys2Proof.Machine

/-- What a fetch meets (R68, R69, R83). -/
inductive Fetch where
  | word (w : IWord)
  /-- the block is LOADING -/
  | loading
  | bad (code cause : Nat)
  deriving DecidableEq, Repr

/-- The fetch at the program counter of core `c`. -/
def Chip.fetch (s : Chip) (c : Nat) : Fetch :=
  let i := s.pc c
  if 6144 ≤ i then .bad eILLEGAL 0x03
  else
    let b := (s.core c).block (i / 64)
    if b = 0 then .bad eILLEGAL 0x08
    else if b = 1 then .loading
    else match s.rangeBad (imAddr c i) 16 with
      | some code => .bad code 0xFF
      | none => .word (BitVec.ofNat 128 (s.num (imAddr c i) 16))

/-- The end of a level has issued (R87): the innermost level with that end counts down and returns, or closes and the next is
checked. -/
def loopEnd : List Loop → Nat → List Loop × Option Nat
  | [], _ => ([], none)
  | l :: t, i =>
    if l.last = i then (if l.rem ≠ 0 then ({ l with rem := l.rem - 1 } :: t, some l.first) else loopEnd t i)
    else (l :: (loopEnd t i).1, (loopEnd t i).2)

def Chip.setPc (s : Chip) (c i : Nat) : Chip := s.put (pgSEQ c) fSeqPc i

/-- Issue goes on after the instruction at index `i` (R83, R87). -/
def Chip.after (s : Chip) (c i : Nat) : Chip :=
  let r := loopEnd (s.core c).loops i
  (s.updCore c fun k => { k with loops := r.1 }).setPc c (r.2.getD (i + 1))

/-- An instruction has issued and no wait is left: it is counted and issue goes on behind it (R82, R100). -/
def Chip.retire (s : Chip) (c : Nat) : Chip := (((s.endWait c).count (pgSEQ c) 0 1).after c (s.pc c))

/-- The sequencer waits with the word `w`; a wait of the same kind for the same word keeps its timer and place (R93, R114).
The value of a slot wait is the slot's number and one; it is 0 for a wait on a counter. -/
def Chip.hold (s : Chip) (c code tmo : Nat) (w : IWord) (val : Nat) : Chip :=
  match (s.core c).wait with
  | some x => if x.code = code && x.w = w && (x.val = 0) = (val = 0) then s else s.setWait c ⟨code, s.edges, tmo, s.waitNo, w, val, []⟩
  | none => s.setWait c ⟨code, s.edges, tmo, s.waitNo, w, val, []⟩

/-- A counter of the list waits for a CLD, RECV or SENDT (R80, R297). -/
def Chip.pendingIn (s : Chip) (c : Nat) (l : List Nat) : Bool :=
  l.any fun n => ((s.core c).cntPend.any fun p => p.2 = n) || (s.core c).loadsPend.any fun p => p.cnt = n && p.live

/-- A later instruction writes counter `n`: what earlier ones would still deliver to it is superseded (R97). -/
def Core.supersede (k : Core) (n : Nat) : Core :=
  { k with cntPend := k.cntPend.filter fun p => p.2 ≠ n,
           loadsPend := k.loadsPend.map fun p => if p.cnt = n then { p with live := false } else p }

/-- A sequencer instruction writes counter `n`, which the next instruction sees (R97). -/
def Chip.writeCnt (s : Chip) (c n : Nat) (v : Word) : Chip := (s.updCore c (·.supersede n)).setCnt c n v

/-- The word may reach issue at core `c` now: the sequencer issues, and it is stalled on nothing but this word's slot or fetch. (DESIGN CHOICE, log 1) -/
def Chip.mayIssue (s : Chip) (c : Nat) (w : IWord) : Bool :=
  decide (s.seqState c = sqRUNNING) && !(s.core c).inReset &&
  match (s.core c).wait with
  | none => true
  | some x => (x.code = 9 && x.w = w) || x.code = 10

/-- A fault at issue; ADJ_BAD is logged by the adjunct unit, which records its cause (R186); SLSET's refusal names its slot. (DEDUCED, log 26) (DEDUCED, log 39) -/
def Chip.faultIssue (s : Chip) (c : Nat) (w : IWord) (code cause : Nat) : Chip :=
  if code = eADJ_BAD then
    (s.put (pgADJ c) ⟨0x108, 0, 8⟩ (if opcode w = 0x84 then 9 else 8)).faultUnit c uADJ code (s.pc c)
  else if opcode w = 0x23 && code = eBAD_DESC then
    -- the slot that SLSET names is recorded (R110)
    (s.put (pgSYNC c) fSyncFaultSlot (sIDX w % 4096)).faultSeq c code cause
  else if opcode w = 0x60 && code = eABSENT then
    -- the channel endpoint makes this check (R3, R96)
    (s.put (pgCHAN c) ⟨0x108, 0, 6⟩ (cCH w)).faultUnit c uCHAN code (s.pc c)
  else s.faultSeq c code cause

/-- The word, which has been fetched, goes through the checks (R234) and takes its effect. -/
def Chip.issueWord (s : Chip) (c : Nat) (w : IWord) (eff : Chip → Chip) : Chip :=
  if !(opDefined (opcode w)) then s.faultSeq c eILLEGAL 0x01
  else if resvBad w then s.faultSeq c eILLEGAL 0x02
  else if s.pendingIn c (s.predCounters c w) then s.hold c 9 (s.cmdTmo c) w 0
  else if !(s.condHolds c w) then s.retire c
  else if s.pendingIn c (readsCounters w) then s.hold c 9 (s.cmdTmo c) w 0
  else match s.issueBad c w with
    | some f => s.faultIssue c w f.1 f.2
    | none => eff s

/-- The fetch at the program counter of core `c` is corrected, and its corrected words are logged in the sequencer's page (R104,
R398); a word that already waits at issue is not fetched again. -/
def Chip.noteFetch (s : Chip) (c : Nat) : Chip :=
  match (s.core c).wait with
  | some x => if x.code = 10 then s.noteCorr (pgSEQ c) (s.coreCtxw c) (imAddr c (s.pc c)) 16 else s
  | none => s.noteCorr (pgSEQ c) (s.coreCtxw c) (imAddr c (s.pc c)) 16

/-- Core `c` issues the word `w`, an instruction of opcode `op`.  Where the core is not issuing, or fetches another word, the
event cannot occur and nothing changes (DESIGN CHOICE, log 1); a fetch that fails is taken as R68, R69 and R83 say. -/
def Chip.issue (s : Chip) (c : Nat) (w : IWord) (op : Nat → Bool) (eff : Chip → Chip) : Chip :=
  if !(s.mayIssue c w) then s
  else match s.fetch c with
    -- a half that is corrected is logged although the other half is bad (R394, R398)
    | .bad code cause => (if code = eUNCORR || code = ePOISON then s.noteFetch c else s).faultSeq c code cause
    | .loading => s.hold c 10 (s.waitTmo c) 0 0
    | .word v => if v = w && op (opcode w) then (s.noteFetch c).issueWord c w eff else s

/-- The operands of an engine command, captured at issue (R76). -/
def Chip.capture (s : Chip) (c : Nat) (w : IWord) : Cmd :=
  { id := (s.core c).nextId, pc := s.pc c, w := w, slot := s.dSlot c w % 4096, tag := s.dTag c w, addr := s.dAddr c w,
    val := if 0x40 ≤ opcode w && opcode w ≤ 0x43 then s.dTun c w else (s.cnt c (sCA w)).toNat,
    dD := s.desc c (tD w), dA := s.desc c (tA w), dB := s.desc c (tB w), dC := s.desc c (tC w),
    split := (s.core c).splitIssued, began := none, tmo := 0, ord := 0, prog := 0, sent := 0, asked := [], got := [], uses := [],
    flags := 0, words := 0 }

/-! ## Engine commands (R74 to R76, R181, R196) -/

/-- A command is placed in its queue, or stalls when the queue is full (R74); once queued it is the engine's (R76). (DEDUCED, log 11) -/
def Chip.queueCmd (s : Chip) (c u : Nat) (m : Cmd) : Chip :=
  if queueDepth u ≤ ((s.core c).queue u).length then s.hold c (stallOf u) (s.waitTmo c) m.w 0
  else (s.updCore c fun k => { (k.setQueue u (k.queue u ++ [m])) with nextId := k.nextId + 1 }).retire c

/-- An engine command issues to the queue of its unit. -/
def Chip.toUnit (s : Chip) (c : Nat) (w : IWord) : Chip :=
  let m := s.capture c w
  match unitOf (opcode w) with
  | none => s
  | some u =>
    if u = uMTX then
      let t := s.queueCmd c u m
      if queueDepth u ≤ ((s.core c).queue u).length then t else t.updCore c fun k => { k with chainIssued := s.chainNext c w }
    else if opcode w = 0xA0 && ((s.core c).queue u).length < queueDepth u then
      (s.queueCmd c u m).updCore c fun k => { k with splitIssued := tFN w % 2 = 1 }
    else if (opcode w = 0x63 || opcode w = 0x64) && ((s.core c).queue u).length < queueDepth u then
      (s.queueCmd c u m).updCore c fun k => { (k.supersede (cCA w)) with cntPend := (k.supersede (cCA w)).cntPend ++ [(m.id, cCA w)] }
    else s.queueCmd c u m

/-! ## Commands in their engines -/

def Core.replace (k : Core) (u : Nat) (m : Cmd) : Core :=
  k.setRunning u ((k.running u).map fun x => if x.id = m.id then m else x)

/-- A command in execution is replaced by its next state. -/
def Chip.updCmd (s : Chip) (c u : Nat) (m : Cmd) : Chip := s.updCore c fun k => k.replace u m

def Chip.cmdOf (s : Chip) (c u id : Nat) : Option Cmd := ((s.core c).running u).find? fun m => m.id = id

/-- A command leaves its engine; its slot completions fall due (R111). -/
def Chip.finish (s : Chip) (c u : Nat) (m : Cmd) : Chip :=
  s.updCore c fun k => { (k.setRunning u ((k.running u).filter fun x => x.id ≠ m.id)) with due := k.due ++ m.uses }

/-- A command leaves its engine and completes at its slots at once (R111). -/
def Chip.finishNow (s : Chip) (c u : Nat) (m : Cmd) : Chip :=
  m.uses.foldl (fun t x => t.completeUse c x) (s.updCore c fun k => k.setRunning u ((k.running u).filter fun x => x.id ≠ m.id))

/-- A waiting command's timer starts and it takes its place in the order of waiting (R94, R114). -/
def Chip.startWait (s : Chip) (c : Nat) (m : Cmd) : Cmd :=
  if m.began.isSome then m else { m with began := some s.edges, tmo := s.cmdTmo c, ord := s.waitNo }

/-- Flags merge into VFLAGS (R213). -/
def Chip.mergeFlags (s : Chip) (c : Nat) (f : Flags) : Chip :=
  s.setReg (pgVEC c + 0x108) (s.reg (pgVEC c + 0x108) ||| f.zeroExtend 32)

end Sys2Proof.Machine
end

