-- ==== Sys2Proof/Machine/Tokens.lean ====
section
/-! DEFINITION. Packets between units (R276, R279), tokens (R135), scopes (R133, R138), and what an acquirer does when it sees
a token (R137 to R139). -/

namespace Sys2Proof.Machine

/-! ## Packets -/

/-- The address that chooses a router, where a packet has one. -/
def packetAddr (p : Packet) : Nat :=
  match p.body with
  | .lineReq _ a _ _ => a
  | .lineAck _ a _ _ => a
  | .other a _ => a
  | _ => 0

/-- The router of a slice that a packet to or from it takes, by its address bits [7:6] (R261). -/
def sliceWay (p : Packet) : Nat :=
  match p.src.ep, p.dst.ep with
  | .slice _, _ => packetAddr p / 64 % 4
  | _, .slice _ => packetAddr p / 64 % 4
  | _, _ => 0

/-- Two packets travel from one port of the mesh to another, and so in the order in which they were sent (R276). -/
def sameWay (p q : Packet) : Bool := decide (q.src = p.src) && decide (q.dst = p.dst) && decide (sliceWay q = sliceWay p)

/-- How many packets equal to this one stand in the inputs of routers (R275), from which PACKET_HOP takes them on. -/
def Chip.standing (s : Chip) (p : Packet) : Nat := ((s.routers.filter fun e => decide (e.1 < 1152)).map fun e => e.2.count p).sum

/-- The packet, and every one equal to it, stands in the input of a router. -/
def Chip.inRouter (s : Chip) (p : Packet) : Bool := decide (s.net.count p ≤ s.standing p)

/-- A packet arrives: it is the oldest in the mesh from its source port to its destination port (R276), stands in no router, and is
bound for this device; it leaves the mesh.  Its arrival stands for the hops that no PACKET_HOP has told.  Otherwise the event cannot occur (DESIGN CHOICE, log 1). (DESIGN CHOICE, log 43; DESIGN CHOICE, log 75) -/
def Chip.arrive (s : Chip) (p : Packet) : Option Chip :=
  if p.dst.dev = s.devId && s.net.find? (sameWay p) = some p && !(s.inRouter p) then some (s.netTake p) else none

/-- The core at which a packet arrives. -/
def packetCore (p : Packet) : Option Nat :=
  match p.dst.ep with
  | .core c => if c < 144 then some c else none
  | _ => none

/-- The core of this device that a node is. -/
def Chip.localCore (s : Chip) (n : Node) : Option Nat :=
  match n.ep with
  | .core c => if n.dev = s.devId && c < 144 then some c else none
  | _ => none

/-- The direction in which a core is a neighbour of core `c` (R96). -/
def Chip.dirTo (s : Chip) (c m : Nat) : Option Nat := (List.range 4).find? fun d => s.neighbour c d = some m

/-- What a packet carries, as a number: 0 to 5 a neighbour write's request, answer, data, acknowledgement, credit and revoke,
6 returned credits, 7 and 8 an open's request and reply, 9 a close notice, 10 to 12 a message, its acknowledgement and its
credits, 13 and 14 a drain probe and its reply, 15 a digest report, 16 other traffic, 17 and 18 a cellar line's request and answer. -/
def bodyKind : Body → Nat
  | .nwrRequest _ _ _ _ _ _ _ => 0
  | .nwrAdmission _ _ _ => 1
  | .nwrData _ _ _ _ _ _ _ => 2
  | .nwrAck _ => 3
  | .nwrCredit _ => 4
  | .nwrRevoke _ => 5
  | .nwrReturn _ _ => 6
  | .openReq _ _ => 7
  | .openReply _ _ => 8
  | .closeNotice _ _ => 9
  | .message _ _ _ _ _ => 10
  | .deliveryAck _ _ => 11
  | .chanCredit _ _ _ => 12
  | .probe _ _ => 13
  | .probeReply _ _ => 14
  | .vaneReport _ _ _ _ => 15
  | .other _ _ => 16
  | .lineReq _ _ _ _ => 17
  | .lineAck _ _ _ _ => 18

/-- An arrival of a packet of kind `k` at a core: nothing happens where no such packet is in the mesh. -/
def Chip.atCore (s : Chip) (k : Nat) (p : Packet) (f : Nat → Chip → Chip) : Chip :=
  if bodyKind p.body ≠ k then s
  else match s.arrive p, packetCore p with
    | some t, some c => f c t
    | _, _ => s

/-! ## Scopes -/

/-- The narrowest scope instance that holds core `c` and core `m` of device `d`: 0 CORE, 1 CLUSTER, 2 DEVICE, 3 SYSTEM (R138). -/
def Chip.scopeTo (s : Chip) (c d m : Nat) : Nat :=
  if d ≠ s.devId then 3 else if m = c then 0 else if m < 144 && clusterOf m = clusterOf c then 1 else 2

/-- The scope of a cellar address, seen from core `c`. -/
def celScope (c a : Nat) : Nat := if sliceOf a = clusterOf c then 1 else 2

/-- The peer of a channel end, as device and core (R303). -/
def Chip.chPeer (s : Chip) (c n : Nat) : Nat × Nat :=
  (s.get (pgCHAN c) ⟨0x400 + 16 * n, 8, 10⟩, s.get (pgCHAN c) ⟨0x400 + 16 * n, 18, 8⟩)

/-- The narrowest scope instance that holds the destination of a command's writes, or none for a command that writes to no
memory (R133). -/
def Chip.writeScope (s : Chip) (c : Nat) (m : Cmd) : Option Nat :=
  let o := opcode m.w
  if o = 0x80 then (if mCHAIN m.w then none else some 0)
  else if o = 0x81 || o = 0x40 || o = 0x43 || o = 0x64 then some 0
  else if 0xA0 ≤ o then (if o = 0xA0 || o = 0xAE then none else some 0)
  else if o = 0x41 then some (celScope c m.addr)
  else if o = 0x42 then (s.neighbour c (nDIR m.w)).map fun n => s.scopeTo c s.devId n
  else if o = 0x62 || o = 0x63 then
    let p := s.chPeer c (cCH m.w)
    some (s.scopeTo c p.1 p.2)
  else if o = 0x21 then
    (match sSEL m.w with
     | 1 => some 0
     | 2 => (s.neighbour c (bf m.w 48 2)).map fun n => s.scopeTo c s.devId n
     | 3 => some (celScope c (bf m.w 56 2 * 2 ^ 32 + wIMM0 m.w))
     | _ => none)
  else none

/-- A write of a command below `bound`, whose destination lies within the scope, has not been performed (R133, R138). -/
def Chip.writesLeft (s : Chip) (c bound scope : Nat) : Bool :=
  let k := s.core c
  ((k.q ++ k.run).flatMap (·.2)).any fun m => decide (m.id < bound) &&
    (match s.writeScope c m with
     | some v => decide (v ≤ scope)
     | none => false)

/-! ## Tokens -/

/-- A token (R135). -/
def tokenWord (scope dev src seq val : Nat) : BitVec 64 :=
  BitVec.ofNat 64 (val % 2 ^ 16 + seq % 2 ^ 16 * 2 ^ 16 + src % 2 ^ 8 * 2 ^ 32 + dev % 2 ^ 10 * 2 ^ 40 + scope % 4 * 2 ^ 50 + 2 ^ 63)

def tkSet (t : BitVec 64) : Bool := t.getLsbD 63
def tkScope (t : BitVec 64) : Nat := bf t 50 2
def tkDev (t : BitVec 64) : Nat := bf t 40 10
def tkSrc (t : BitVec 64) : Nat := bf t 32 8
def tkSeq (t : BitVec 64) : Nat := bf t 16 16
def tkVal (t : BitVec 64) : Nat := bf t 0 16

/-- The word is a token whose VALUE has reached `expect` (R137). -/
def tkReached (t : BitVec 64) (expect : Nat) : Bool := tkSet t && decide ((tkVal t + 2 ^ 16 - expect % 2 ^ 16) % 2 ^ 16 < 2 ^ 15)

/-- What follows when an acquirer sees a token: it is done, it probes the releaser, or the releaser is absent (R138, R139). -/
inductive Seen where
  | done
  | probe (target : Node) (seq scope : Nat)
  | absent
  deriving DecidableEq, Repr

/-- Core `c` acquires through the token `t` (R138, R139). -/
def Chip.seeToken (s : Chip) (c : Nat) (t : BitVec 64) : Seen :=
  if tkSrc t = 0xFE || tkSrc t = 0xFD then .done
  else
    let sc := s.scopeTo c (tkDev t) (tkSrc t)
    if sc ≤ tkScope t then .done
    else if 144 ≤ tkSrc t || (tkDev t = s.devId && !(s.present (tkSrc t))) then .absent
    else .probe ⟨tkDev t, .core (tkSrc t)⟩ (tkSeq t) sc

/-- A drain probe leaves; the escalation is counted (R138). -/
def Chip.sendProbe (s : Chip) (c : Nat) (n : Node) (seq scope : Nat) : Chip :=
  (s.inject ⟨s.coreNode c, n, .probe seq scope⟩).inc (pgSYNC c) fSyncEsc 1

/-- An escalation ends: its cycles, which the spec does not state, are added (R138; DESIGN CHOICE, log 2). (DESIGN CHOICE, log 35) -/
def Chip.escEnd (s : Chip) (c : Nat) : Chip :=
  let r := s.freeWord
  r.2.inc (pgSYNC c) fSyncEscCyc r.1.toNat

/-- The command number below which a release's writes lie: its own, or for a release no longer remembered every number given
so far (R139). -/
def Chip.probeBound (s : Chip) (c seq : Nat) : Nat :=
  match (s.core c).rels.find? fun r => r.1 = seq with
  | some r => r.2
  | none => (s.core c).nextId

/-- A drain probe reaches core `c`; a core that is FAULTED or in reset answers none (R138, R139). (DEDUCED, log 42) -/
def Chip.probeIn (s : Chip) (c : Nat) (asker : Node) (seq scope : Nat) : Chip :=
  if s.seqState c = sqFAULTED || (s.core c).inReset then s
  else s.updCore c fun k => { k with probes := k.probes ++ [(asker, seq, scope, s.probeBound c seq)] }

/-- The answer to probe number `i`, once its writes have been performed (R138, R139, R142). -/
def Chip.probeReply (s : Chip) (c i : Nat) : Chip :=
  match (s.core c).probes[i]? with
  | none => s
  | some (asker, seq, scope, bound) =>
    if s.writesLeft c bound scope then s
    else
      let s1 := (s.updCore c fun k => { k with probes := k.probes.eraseIdx i }).inc (pgSYNC c) fSyncProbes 1
      if asker.ep = .kiln then (s1.put (pgSYNC c) fSyncKBusy 0).put (pgSYNC c) fSyncKDone 1
      else s1.inject ⟨s.coreNode c, asker, .probeReply seq scope⟩

end Sys2Proof.Machine
end

