-- ==== Sys2Proof/Machine/Cells.lean ====
section
/-! DEFINITION. Link cells: their headers (R310), the flows that they belong to (R317), what waits at a port (R318) and its slot
misses (R54). -/

namespace Sys2Proof.Machine

/-! ## The cell header (R310) -/

/-- One bit more of a CRC-16 with polynomial 0x1021. -/
def crcStep (c : Nat) (b : Bool) : Nat :=
  let d := (c * 2 % 2 ^ 16)
  if decide (c / 2 ^ 15 % 2 = 1) != b then d ^^^ 0x1021 else d

/-- HCRC (R310): over bits [127:16], the highest first. (DESIGN CHOICE, log 81) -/
def hcrc (h : BitVec 128) : Nat := (List.range 112).foldl (fun c i => crcStep c (h.getLsbD (127 - i))) 0xFFFF

/-- The header of a cell (R310). (DESIGN CHOICE, log 81) -/
def LinkCell.header (x : LinkCell) : BitVec 128 :=
  let h : BitVec 128 := BitVec.ofNat 128 (x.type % 16 * 2 ^ 124 + x.dst % 1024 * 2 ^ 114 + x.src % 1024 * 2 ^ 104 + x.flow % 64 * 2 ^ 98 +
    x.lseq % 4096 * 2 ^ 86 + x.len % 512 * 2 ^ 77 + x.ttl % 32 * 2 ^ 72 + x.poison.toNat * 2 ^ 40 + x.info % 2 ^ 24 * 2 ^ 16)
  BitVec.ofNat 128 (h.toNat + hcrc h)

def hcType (h : BitVec 128) : Nat := bf h 124 4
def hcDst (h : BitVec 128) : Nat := bf h 114 10
def hcSrc (h : BitVec 128) : Nat := bf h 104 10
def hcFlow (h : BitVec 128) : Nat := bf h 98 6
def hcLseq (h : BitVec 128) : Nat := bf h 86 12
def hcLen (h : BitVec 128) : Nat := bf h 77 9
def hcTtl (h : BitVec 128) : Nat := bf h 72 5
def hcPoison (h : BitVec 128) : BitVec 32 := h.extractLsb' 40 32
def hcInfo (h : BitVec 128) : Nat := bf h 16 24

/-- The header check of a received cell (R310). -/
def hcGood (h : BitVec 128) : Bool := decide (bf h 0 16 = hcrc h)

/-- A cell that a port makes itself: TTL 31 (R324), and no flow (R317). (DESIGN CHOICE, log 81) -/
def Chip.cell (s : Chip) (type info : Nat) : LinkCell :=
  { type := type, dst := 0, src := s.devId, flow := 63, lseq := 0, len := 0, ttl := 31, poison := 0, info := info, pkts := [],
    ctl := none, mark := none, inPort := none }

/-- The port starts a cell.  Where 4,095 others have left since the last IDLE, an IDLE leaves before it (R315). -/
def Port.start (k : Port) (x : LinkCell) : Port :=
  { k with sent := some x, idleRun := if x.type = 5 then 0 else if 4095 ≤ k.idleRun then 1 else k.idleRun + 1 }

/-- The kinds of CONTROL cell, as Config numbers them. -/
def controlKind : Control → Nat
  | .echo => 0
  | .echoReply => 1
  | .peer .. => 2
  | .width _ => 3
  | .down => 4

/-- A CONTROL cell: its code in INFO, its arguments in the payload (R310). (DESIGN CHOICE, log 81) -/
def Chip.ctlCell (s : Chip) (c : Control) : LinkCell :=
  { s.cell 4 (Config.ctlCode (controlKind c)).toNat with len := Config.ctlLen (controlKind c) % 257, ctl := some c }

/-! ## Packets on a port -/

/-- The packet's route leads to port `p` (R323). -/
def Chip.bound (s : Chip) (p : Nat) (q : Packet) : Bool :=
  decide (q.dst.dev ≠ s.devId) && (s.route q.dst.dev).testBit 4 && !((s.route q.dst.dev).testBit 5) &&
    decide (s.route q.dst.dev % 16 = p)

/-- The packets of this device that a port must send: those whose route names it (R323) and that stand in no router input (R301). -/
def Chip.outPackets (s : Chip) (p : Nat) : List Packet := s.net.filter fun q => s.bound p q && !(s.inRouter q)

/-- A packet's channel. -/
def packetCh (q : Packet) : Option Nat :=
  match q.body with
  | .message h _ _ _ _ => some (bf h 18 6)
  | .openReq ch _ => some ch
  | .closeNotice ch _ => some ch
  | _ => none

/-- The bytes of a packet: 16 B of header and its data (R275, R311). -/
def packetBytes (q : Packet) : Nat :=
  16 + match q.body with
    | .message _ _ _ _ d => d.length
    | .nwrData _ _ _ _ _ _ d => d.length
    | .lineReq _ _ n wr => if wr then n else 0
    | .lineAck _ _ n wr => if wr then 0 else n
    | .other _ b => b
    | _ => 0

/-- The poison bits of a packet's bytes, those of its header clear (R104, R312). -/
def packetTags (q : Packet) : List Bool :=
  List.replicate 16 false ++ match q.body with
    | .message _ _ _ _ d => d.map (·.2)
    | .nwrData _ _ _ _ _ _ d => d.map (·.2)
    | .lineReq _ _ n wr => List.replicate (if wr then n else 0) false
    | .lineAck _ _ n wr => List.replicate (if wr then 0 else n) false
    | .other _ b => List.replicate b false
    | _ => []

/-! ## Flows (R317) -/

/-- The word of an entry in effect at a port. -/
def Port.tab (k : Port) (off : Nat) : Word := sget (fun _ => (0 : Word)) k.tables off

/-- The flow whose local entry names a packet's source core and channel. -/
def Port.localFlow (k : Port) (q : Packet) : Option Nat :=
  match q.src.ep, packetCh q with
  | .core c, some ch => (List.range 63).find? fun f =>
      let w := k.tab (0x300 + 4 * f)
      w.getLsbD 0 && !(w.getLsbD 1) && decide (bf w 2 8 = c) && decide (bf w 10 6 = ch)
  | _, _ => none

/-- The flow whose transit entry names an arrival port and the flow there. -/
def Port.transitFlow (k : Port) (inp fl : Nat) : Option Nat :=
  if fl = 63 then none
  else (List.range 63).find? fun f =>
    let w := k.tab (0x300 + 4 * f)
    w.getLsbD 0 && w.getLsbD 1 && decide (bf w 16 4 = inp) && decide (bf w 20 6 = fl)

/-- The flow that owns a group. -/
def Port.owner (k : Port) (g : Nat) : Option Nat :=
  let w := k.tab (0x200 + 4 * g)
  if w.getLsbD 6 then some (bf w 0 6) else none

/-- Packets in order, as far as cells of theirs fit. -/
def fitCells : Nat → List Packet → List Packet
  | _, [] => []
  | room, q :: t => let n := (packetBytes q + 255) / 256
                    if n ≤ room then q :: fitCells (room - n) t else []

/-- The packets of flows in a port's static buffer of 256 cells; those behind wait in the routers (R301, R318). (DEDUCED, log 56) -/
def Chip.inStatic (s : Chip) (p : Nat) : List Packet := fitCells 256 ((s.outPackets p).filter fun q => ((s.port p).localFlow q).isSome)

/-- The packets waiting at a port in one flow. -/
def Chip.flowPackets (s : Chip) (p : Nat) (fl : Option Nat) : List Packet :=
  (if fl.isSome then s.inStatic p else s.outPackets p).filter fun q => (s.port p).localFlow q = fl

/-- The transit cells waiting at a port in one flow. -/
def Port.flowTransit (k : Port) (fl : Option Nat) : List LinkCell := (k.transit.filter fun e => e.1 = fl).map (·.2)

/-- Cells of a flow wait. -/
def Chip.flowWaits (s : Chip) (p : Nat) (fl : Option Nat) : Bool :=
  !((s.flowPackets p fl).isEmpty) || !(((s.port p).flowTransit fl).isEmpty)

/-- The key under which a port keeps what it has sent of the oldest packet of a flow to a device. -/
def partKey (fl : Option Nat) (dev : Nat) : Nat := fl.getD 63 * 1024 + dev

/-- The cells that packets of one flow still fill, by destination device (R311). -/
def Port.cellsOf (k : Port) (fl : Option Nat) (l : List Packet) : Nat :=
  ((once (l.map (·.dst.dev))).map fun d =>
    (((l.filter fun q => q.dst.dev = d).map packetBytes).sum - sget natReset k.partSent (partKey fl d) + 255) / 256).sum

/-- The number of cells of a flow that wait (R54). -/
def Chip.flowCells (s : Chip) (p : Nat) (fl : Option Nat) : Nat :=
  (s.port p).cellsOf fl (s.flowPackets p fl) + ((s.port p).flowTransit fl).length

/-- The cells of a list of packets at a port. -/
def Port.cellsIn (k : Port) (l : List Packet) : Nat :=
  ((List.range 64).map fun i => let fl := if i = 63 then none else some i; k.cellsOf fl (l.filter fun q => k.localFlow q = fl)).sum

/-! ## Slot misses (R54, R318) -/

/-- The slot misses of a flow that wait to be sent. -/
def Port.missesOf (k : Port) (f : Nat) : Nat := ((k.missed.filter fun e => e.1 = f).map (·.2)).sum

/-- The misses of a flow are `n` now, in its place among the flows. -/
def Port.setMisses (k : Port) (f n : Nat) : Port :=
  { k with missed := (if k.missed.any fun e => e.1 = f then k.missed.map fun e => if e.1 = f then (f, n) else e
                      else k.missed ++ [(f, n)]).filter fun e => e.2 ≠ 0 }

/-- The cells of flows whose last group of the beat has ended are slot misses: those that wait, and those that come later in the
beat (R54). (DEDUCED, log 56) -/
def Chip.noteMisses (s : Chip) (p : Nat) : Chip :=
  (s.port p).ended.foldl (fun t f =>
    let n := t.flowCells p (some f)
    let m := (t.port p).missesOf f
    if n ≤ m then t else (t.updPort p fun k => k.setMisses f n).count (pgLNK p) 0x0C (n - m)) s

end Sys2Proof.Machine
end

