-- ==== Sys2Proof/Machine/Beat.lean ====
section
/-! DEFINITION. The beat unit (R31 to R43, R484 to R486): its edges, its sources, the markers it steers by, its states.  Fine
times are in 1/256 of a REFCLK tick, 25 ps (R36, R38). -/

namespace Sys2Proof.Machine

def fBeatEn : Fld := ⟨0x100, 0, 1⟩
def fBeatMaster : Fld := ⟨0x100, 1, 1⟩
def fBeatExt : Fld := ⟨0x100, 2, 1⟩
def fBeatBackup : Fld := ⟨0x100, 5, 1⟩
def fBeatUpPort : Fld := ⟨0x100, 8, 4⟩
def fBeatBkPort : Fld := ⟨0x100, 12, 4⟩
def fBeatPeriod : Fld := ⟨0x104, 0, 11⟩
def fBeatState : Fld := ⟨0x110, 0, 3⟩
def fBeatOnBk : Fld := ⟨0x110, 3, 1⟩
def fBeatCause : Fld := ⟨0x110, 4, 2⟩
def fBeatHops : Fld := ⟨0x110, 8, 4⟩
def fBeatMasterId : Fld := ⟨0x110, 16, 10⟩
def fBeatPhase : Fld := ⟨0x114, 0, 32⟩

def bsDISABLED : Nat := 0
def bsACQUIRE : Nat := 1
def bsLOCKED : Nat := 2
def bsHOLDOVER : Nat := 3
def bsFAULT : Nat := 4

def Chip.beatState (s : Chip) : Nat := s.get pgBEAT fBeatState
def Chip.isMaster (s : Chip) : Bool := s.bit pgBEAT fBeatMaster
def Chip.extMaster (s : Chip) : Bool := s.isMaster && s.bit pgBEAT fBeatExt

/-- The beat period in fine time. -/
def Chip.finePeriod (s : Chip) : Nat := 256 * s.get pgBEAT fBeatPeriod

def Chip.updBeat (s : Chip) (f : BeatUnit → BeatUnit) : Chip := { s with beatU := f s.beatU }

/-- Some context of the device is ACTIVE (R37, R42). -/
def Chip.anyActive (s : Chip) : Bool := (List.range 16).any fun x => decide (s.ctxState x = 1)

/-- Every context is FREE (R419, R485). -/
def Chip.allFree (s : Chip) : Bool := (List.range 16).all fun x => decide (s.ctxState x = 0)

/-- The unit enters a state: its interrupts and counts (R486); FAULT logs BEAT_LOSS (R40). -/
def Chip.enterBeat (s : Chip) (st : Nat) : Chip :=
  let s1 := if s.beatState = bsLOCKED && decide (st ≠ bsLOCKED) then s.raise pgBEAT 1 else s
  let s2 := s1.put pgBEAT fBeatState st
  if st = bsLOCKED then s2.raise pgBEAT 0
  else if st = bsHOLDOVER then (s2.count pgBEAT 4 1).updBeat fun u => { u with tryBackup := false }
  else if st = bsFAULT then ((s2.count pgBEAT 5 1).raise pgBEAT 2).logErr pgBEAT eBEAT_LOSS 0
  else s2

/-- FAULT with its cause (R40, R484). -/
def Chip.beatFault (s : Chip) (cause : Nat) : Chip := (s.enterBeat bsFAULT).put pgBEAT fBeatCause cause

/-- A number held within a bound on either side: the LOCKED rate is 200 ps, 8 units, per beat (R38). -/
def clampTo (lim : Nat) (e : Int) : Int := max (-(lim : Int)) (min (lim : Int) e)

/-- The unit keeps to the LOCKED rate and leaves its counter alone: in an ACQUIRE entered from HOLDOVER or FAULT, when a
context ran at the entry (R37, R42) or is ACTIVE now (R32). (DEDUCED, log 48) -/
def Chip.calm (s : Chip) : Bool := s.beatU.slow || (s.beatU.again && s.anyActive)

/-- The beat under way comes back to the LOCKED rate (R38, R42). (DEDUCED, log 48) -/
def Chip.calmStep (s : Chip) : Chip :=
  s.updBeat fun u =>
    { u with step := clampTo 8 u.step,
             next := match u.last with
               | some l => some ((l + s.finePeriod : Int) + clampTo 8 u.step).toNat
               | none => u.next }

/-- ACQUIRE from HOLDOVER or FAULT: at the LOCKED rate while a context runs (R37, R42). -/
def Chip.reacquire (s : Chip) : Chip :=
  let t := (s.enterBeat bsACQUIRE).updBeat fun u =>
    { u with good := 0, acq := 0, missing := 0, synced := false, slow := s.anyActive, again := true }
  if s.anyActive then t.calmStep else t

/-! ## What an edge brings about -/

/-- A slice is judged hot or not at the edge (R264). -/
def Chip.hotEdge (s : Chip) (n : Nat) : Chip :=
  let p := pgCEL n
  let t := ((List.range 4).map fun i => s.get pgTHM (fTemp (4 * n + i))).foldl max 0
  let hot := if s.get p ⟨0x100, 0, 2⟩ = 1 then true
             else if s.bit p ⟨0x108, 0, 1⟩ then decide (4 * s.get p ⟨0x104, 8, 8⟩ ≤ t)
             else decide (4 * s.get p ⟨0x104, 0, 8⟩ < t)
  s.put p ⟨0x108, 0, 1⟩ (if hot then 1 else 0)

/-- The beat's marker leaves a port that is UP (R313): the first cell after the edge, at a time that the model leaves open within one
cell time, 435 units of 1/256 tick over the lanes in use (R308). (DESIGN CHOICE, log 2) -/
def Chip.sendMarker (s : Chip) (p : Nat) : Chip :=
  let m : Marker := { beat := BitVec.ofNat 64 s.beat, depart := Config.freeNat s.fresh % (435 / s.get (pgLNK p) ⟨0x104, 3, 3⟩ + 1), period := s.get pgBEAT fBeatPeriod,
                      masterId := s.get pgBEAT fBeatMasterId, hops := s.get pgBEAT fBeatHops, state := s.beatState }
  let t : Chip := { s with fresh := s.fresh + 1 }
  (t.updPort p fun k => k.start { s.cell 1 0 with len := 256, mark := some m }).count (pgLNK p) 0x10 1

/-- A port at the edge: the cells that its ended flows hold are misses of the beat that ends (R54); its marker leaves when it is UP
(R313), its tables take effect (R319), its groups begin anew. -/
def Chip.portEdge (s : Chip) (p : Nat) : Chip :=
  if s.portPresent p then
    let tab := (s.regs.filter fun e => decide (pgLNK p + 0x200 ≤ e.1) && decide (e.1 < pgLNK p + 0x400)).map fun e =>
      (e.1 - pgLNK p, e.2)
    let t := if s.portState p = psUP then (s.noteMisses p).sendMarker p else s
    t.updPort p fun k => { k with tables := tab, group := 0, inGroup := 0, ended := [] }
  else s

/-- The PTP time and the beat number that the management port latches (R450); the time is open (DESIGN CHOICE, log 18). (DESIGN CHOICE, log 2) -/
def Chip.latchPtp (s : Chip) : Chip :=
  let f := Config.freeNat
  let s0 : Chip := { s with fresh := s.fresh + 2 }
  (((s0.setReg (pgMGT + 0x114) (BitVec.ofNat 32 (f s.fresh))).setReg (pgMGT + 0x118)
    (BitVec.ofNat 32 (f s.fresh / 2 ^ 32 % 2 ^ 16))).setReg (pgMGT + 0x11C) (BitVec.ofNat 32 (f (s.fresh + 1) % 1000000000))).setReg
    (pgMGT + 0x120) (BitVec.ofNat 32 s.beat)

/-- The counts of a beat that ends (R486): steered, without a marker, in LOCKED. -/
def Chip.beatCounts (s : Chip) : Chip :=
  let u := s.beatU
  let s1 := if 0 < u.step then s.count pgBEAT 2 1 else if u.step < 0 then s.count pgBEAT 3 1 else s
  let s2 := if s.beatState = bsLOCKED then s1.count pgBEAT 6 1 else s1
  if s.isMaster || u.last.isNone then s2
  else if u.seen then s2
  else (s2.count pgBEAT 1 1).updBeat fun v => { v with missing := v.missing + 1, good := 0 }

/-- The governor's counts of beats (R439). -/
def Chip.govCounts (s : Chip) : Chip :=
  let s1 := if s.belowFloor then s.count pgGOV 3 1 else s
  if s.bit pgGOV fCapOn then s1.count pgGOV 6 1 else s1

/-- A beat edge at fine time `t` (R32): the counter goes up by one or takes the load value; every timer sees the edge. (DEDUCED, log 7; DEDUCED, log 47; DEDUCED, log 77) -/
def Chip.edge (s : Chip) (t : Nat) (load : Bool) : Chip :=
  let u := s.beatU
  let n := if load || u.loadNext then s.get64 pgBEAT 0x108 else s.beat + 1
  let s1 := if u.last.isSome then s.beatCounts else s
  let s2 : Chip := { s1 with edges := s1.edges + 1 }
  let s3 := (s2.put64 pgBEAT 0x118 n).updBeat fun v =>
    let st := if s.calm then clampTo 8 v.step else v.step
    { v with last := some t, next := some ((t + s.finePeriod : Int) + st).toNat, step := st, seen := false, loadNext := false,
             stray := false, tryBackup := decide (s.beatState = bsHOLDOVER),
             acq := if s.beatState = bsACQUIRE then v.acq + 1 else v.acq }
  let s4 := ((s3.forEach (List.range 36) Chip.hotEdge).forEach (List.range 16) Chip.portEdge).rampEdge.govCounts.latchPtp
  if u.stopNext then
    let s5 : Chip := { s4 with beatU := BeatUnit.reset }
    (s5.enterBeat bsDISABLED).put pgBEAT fBeatEn 0
  else s4

/-- An edge that the unit makes by itself (R34, R36, R40): at the tick that it falls due, or, the first one, at any. -/
def Chip.ownEdge (s : Chip) (tick : Nat) : Chip :=
  let due := match s.beatU.next with
    | some t => decide (tick = t / 256)
    | none => true
  let ext := s.extMaster && (s.beatState = bsLOCKED || (s.beatState = bsACQUIRE && !(s.calm)))
  let waits := s.isMaster && !(s.extMaster) && decide (s.beatState = bsACQUIRE)
  if s.beatState = bsDISABLED || ext || waits || !due then s
  else s.edge (match s.beatU.next with | some t => t | none => 256 * tick) false

/-! ## The master (R34 to R37) -/

/-- The tick at which the master expects its edge. -/
def Chip.predicted (s : Chip) : Option Nat := s.beatU.next.map (· / 256)

/-- A tick lies more than one tick from the predicted one (R36). -/
def farFrom (q tick : Nat) : Bool := decide (q + 1 < tick) || decide (tick + 1 < q)

/-- A reference miss counts (R36). -/
def Chip.countMiss (s : Chip) : Chip := (s.count pgBEAT 0 1).updBeat fun v => { v with misses := v.misses + 1 }

/-- A miss in the ACQUIRE that follows a HOLDOVER sends the master back (R37). -/
def Chip.missedAgain (s : Chip) : Chip := (s.count pgBEAT 0 1).enterBeat bsHOLDOVER

/-- A reference miss counts where the edge is not at the predicted tick itself: an edge that breaks the setup or hold limit is sampled one
tick early or late, and counts as a miss (R498). (DEDUCED, log 48) -/
def Chip.offByOne (s : Chip) (q tick : Nat) : Chip :=
  if q = tick then s.updBeat fun v => { v with misses := 0 } else s.countMiss

/-- BEATREF is sampled rising (R35 to R37, R40, R498).  Whether an edge that breaks the run of edges exactly period ticks apart, after three of
them have ended HOLDOVER, starts the count of three for LOCKED anew is left open: it does here, so that LOCKED is entered at a BEATSYNC only
when the last three edges stand exactly period ticks apart. (DESIGN CHOICE, log 91) (DEDUCED, log 47; DEDUCED, log 48) -/
def Chip.beatrefEdge (s : Chip) (tick : Nat) (sync : Bool) : Chip :=
  let u := s.beatU
  let per := s.get pgBEAT fBeatPeriod
  let run := if u.lastRef = some (tick - per) && decide (per ≤ tick) then u.refRun + 1 else 1
  let s1 := s.updBeat fun v => { v with lastRef := some tick, refRun := run }
  if !(s.extMaster) then s
  else if s.beatState = bsACQUIRE then
    if s.calm then
      let late := match u.lastRef with
        | some r => farFrom (r + per) tick
        | none => false
      if late then s1.missedAgain
      else match u.last with
        | some l =>
          let d : Int := (256 * tick : Nat) - (l : Int)
          let p : Int := s.finePeriod
          let e := if p < 2 * d then d - p else d
          s1.updBeat fun v => { v with step := clampTo 8 e, next := some (l + p + clampTo 8 e).toNat, synced := decide (e = 0) }
        | none => s1
    else if u.again && (match s.predicted with | some q => farFrom q tick | none => false) then s1.missedAgain
    else (s1.edge (256 * tick) sync).updBeat fun v => { v with synced := v.synced || sync, step := 0 }
  else if s.beatState = bsLOCKED then
    (match s.predicted with
     | some q =>
       if farFrom q tick then s.countMiss.updBeat fun v => { v with stray := true }
       else ((s1.offByOne q tick).edge (256 * tick) false).updBeat fun v => { v with step := 0 }
     | none => s1.edge (256 * tick) false)
  else if s.beatState = bsHOLDOVER then
    (if 3 ≤ run then
       (if s.anyActive then s1.reacquire else (s1.reacquire.edge (256 * tick) false).updBeat fun v => { v with step := 0 })
     else s1)
  else s

/-- BEATREF fails to come within one tick of the predicted tick (R36, R37): the edge is made there; a beat whose stray edge has
counted already counts no second miss. (DEDUCED, log 48) -/
def Chip.referenceMiss (s : Chip) (tick : Nat) : Chip :=
  let u := s.beatU
  if !(s.extMaster) then s
  else if s.beatState = bsLOCKED then
    if s.predicted = some tick then
      ((if u.stray then s else s.countMiss).edge (256 * tick) false).updBeat fun v => { v with refRun := 0 }
    else s
  else if s.beatState = bsACQUIRE && s.calm && (u.lastRef.map (· + s.get pgBEAT fBeatPeriod)) = some tick then
    (s.updBeat fun v => { v with refRun := 0 }).missedAgain
  else if s.beatState = bsACQUIRE && u.again && !(s.calm) && s.predicted = some tick then
    ((s.edge (256 * tick) false).updBeat fun v => { v with refRun := 0 }).missedAgain
  else s

/-- Four consecutive misses (R36). (DEDUCED, log 48) -/
def Chip.masterHoldover (s : Chip) : Chip :=
  if s.extMaster && decide (s.beatState = bsLOCKED) && decide (4 ≤ s.beatU.misses) then
    (s.enterBeat bsHOLDOVER).updBeat fun v => { v with misses := 0, refRun := 0 }
  else s

/-! ## Disciplined devices (R38 to R42) -/

/-- The port that the unit takes its markers from. -/
def Chip.upstream (s : Chip) : Nat := if s.bit pgBEAT fBeatOnBk then s.get pgBEAT fBeatBkPort else s.get pgBEAT fBeatUpPort

/-- A signed number in 32 bits, saturating. -/
def sat32 (e : Int) : Nat := (max (-(2 ^ 31)) (min (2 ^ 31 - 1) e) % 2 ^ 32).toNat

/-- A marker of the upstream port in ACQUIRE or LOCKED: it gives the phase error, the number is compared or adopted, and the
edge is steered (R38, R40, R42).  Which local beat a marker belongs to is left open: one more than half a period after the last edge is held
against the next beat, so that a marker late by more than half a beat brings FAULT and no miss. (DESIGN CHOICE, log 90) (DEDUCED, log 48) -/
def Chip.steer (s : Chip) (port : Nat) (m : Marker) (arrival : Int) : Chip :=
  let u := s.beatU
  let lock := decide (s.beatState = bsLOCKED)
  let t : Int := arrival - m.depart - s.get (pgLNK port) ⟨0x10C, 0, 32⟩
  let per : Int := s.finePeriod
  let s0 := (s.put pgBEAT fBeatHops (m.hops + 1)).put pgBEAT fBeatMasterId m.masterId
  if !lock && decide (m.period ≠ s.get pgBEAT fBeatPeriod) then s.beatFault 2
  else match u.last with
    | none =>
      if s.calm && decide (m.beat.toNat ≠ s.beat) then s0.beatFault 3
      else (s0.put64 pgBEAT 0x118 m.beat.toNat).updBeat fun v =>
        { v with last := some t.toNat, next := some (t + per).toNat, seen := true, good := 1, missing := 0 }
    | some l =>
      let d := t - l
      let ahead := decide (per < 2 * d)
      let e := if ahead then d - per - u.step else d
      let sound := decide (-640 ≤ e) && decide (e ≤ 640)
      let s1 := s0.put pgBEAT fBeatPhase (sat32 e)
      let expected := s.beat + (if ahead then 1 else 0)
      if decide (m.beat.toNat ≠ expected) && (lock || s.calm) then s1.beatFault 3
      else if lock && !sound then s1
      else
        let s2 := if m.beat.toNat = expected then s1 else s1.put64 pgBEAT 0x118 (m.beat.toNat - (if ahead then 1 else 0))
        let lim := if lock || s.calm then 8 else 256
        let st := clampTo lim (if ahead then u.step + e else e)
        s2.updBeat fun v => { v with step := st, next := some (l + per + st).toNat, seen := true, missing := 0,
                                     good := if decide (-20 < e) && decide (e < 20) then v.good + 1 else 0 }

/-- A marker arrives (R313): the port counts it; a disciplined unit uses it, and in HOLDOVER a marker on the primary or the
backup port brings it to ACQUIRE (R40); the primary port is tried first: the backup's marker counts once a whole beat of
HOLDOVER has passed without one of the primary. (DEDUCED, log 48) -/
def Chip.markerReceive (s : Chip) (port : Nat) (m : Marker) (arrival : Int) : Chip :=
  if !(s.portPresent port) || decide (s.portState port ≠ psUP) then s
  else
    let s1 := s.count (pgLNK port) 0x11 1
    let st := s.beatState
    if s.isMaster then s1
    else if st = bsHOLDOVER then
      if port = s.get pgBEAT fBeatUpPort then ((s1.reacquire).put pgBEAT fBeatOnBk 0).steer port m arrival
      else if s.bit pgBEAT fBeatBackup && s.beatU.tryBackup && decide (port = s.get pgBEAT fBeatBkPort) then
        ((s1.reacquire).put pgBEAT fBeatOnBk 1).steer port m arrival
      else s1
    else if decide (port ≠ s.upstream) then s1
    else if st = bsACQUIRE || st = bsLOCKED then s1.steer port m arrival
    else if st = bsFAULT then s1.updBeat fun v => { v with seen := true }
    else s1

/-- The unit's condition for LOCKED holds (R37, R40). (DEDUCED, log 47) -/
def Chip.beatLock (s : Chip) : Chip :=
  let u := s.beatU
  let ready := if s.isMaster then s.extMaster && decide (3 ≤ u.refRun) && u.synced else decide (8 ≤ u.good)
  if s.beatState = bsACQUIRE && ready then
    ((s.enterBeat bsLOCKED).updBeat fun v => { v with misses := 0, missing := 0, slow := false, again := false }).calmStep
  else s

/-! ## The fields EN, START and CLR_FAULT -/

/-- EN = 1 (R40, R484). -/
def Chip.beatEnable (s : Chip) : Chip :=
  if s.beatState = bsDISABLED then
    let t : Chip := { s with beatU := BeatUnit.reset }
    let t1 := ((t.put pgBEAT fBeatEn 1).enterBeat bsACQUIRE).put pgBEAT fBeatOnBk 0
    if s.isMaster then ((t1.put pgBEAT fBeatHops 0).put pgBEAT fBeatMasterId s.devId).put pgBEAT fBeatPhase 0 else t1
  else s

/-- EN = 0 (R485): ignored while some context is not FREE; else it takes effect at the next edge. (DEDUCED, log 47) -/
def Chip.beatDisable (s : Chip) : Chip :=
  if decide (s.beatState ≠ bsDISABLED) && s.allFree then s.updBeat fun u => { u with stopNext := true } else s

/-- START of an internal master in ACQUIRE (R34, R40). (DEDUCED, log 47) -/
def Chip.beatStart (s : Chip) : Chip :=
  if s.isMaster && !(s.extMaster) && decide (s.beatState = bsACQUIRE) then
    (s.enterBeat bsLOCKED).updBeat fun u => { u with loadNext := true }
  else s

/-- CLR_FAULT (R40, R484). -/
def Chip.clrFault (s : Chip) : Chip := if s.beatState = bsFAULT then s.reacquire else s

/-! ## The commands -/

def execBeatEdge (tick : Nat) : State → Host.Outcome State Fault Refusal := onFabric fun s => s.ownEdge tick

def execBeatEnable : State → Host.Outcome State Fault Refusal := onFabric Chip.beatEnable
def execBeatDisable : State → Host.Outcome State Fault Refusal := onFabric Chip.beatDisable
def execBeatStart : State → Host.Outcome State Fault Refusal := onFabric Chip.beatStart
def execClrFault : State → Host.Outcome State Fault Refusal := onFabric Chip.clrFault

def execBeatrefEdge (tick : Nat) (sync : Bool) : State → Host.Outcome State Fault Refusal := onFabric fun s => s.beatrefEdge tick sync

def execReferenceMiss (tick : Nat) : State → Host.Outcome State Fault Refusal := onFabric fun s => s.referenceMiss tick

def execMasterHoldover : State → Host.Outcome State Fault Refusal := onFabric fun s => s.masterHoldover

def execMarkerReceive (port : Nat) (m : Marker) (arrival : Int) : State → Host.Outcome State Fault Refusal :=
  onUnit 16 port fun s => s.markerReceive port m arrival

def execBeatLock : State → Host.Outcome State Fault Refusal := onFabric fun s => s.beatLock

/-- Not LOCKED within 4,096 beats (R40). (DESIGN CHOICE, log 74) -/
def execLockTimeout : State → Host.Outcome State Fault Refusal :=
  onFabric fun s =>
    if s.beatState = bsACQUIRE && !(s.isMaster) && decide (4096 ≤ s.beatU.acq) then s.beatFault 1 else s

/-- Four beats in a row without a valid marker (R40). -/
def execMarkerLoss : State → Host.Outcome State Fault Refusal :=
  onFabric fun s =>
    if s.beatState = bsLOCKED && !(s.isMaster) && decide (4 ≤ s.beatU.missing) then s.enterBeat bsHOLDOVER else s

end Sys2Proof.Machine
end

