-- ==== Sys2Proof/Machine/Matrix.lean ====
section
/-! DEFINITION. The matrix engine (R168 to R183): accumulation in fast and exact mode, chains, the drain. -/

namespace Sys2Proof.Machine

/-! ## Operand rows -/

/-- The values of a row of a tile as unit `u` sees them, with the codebook `tab` (R148 to R155). -/
def Chip.rowValsBy (s : Chip) (c u : Nat) (d : IWord) (tab : Nat → Val) (i : Nat) : List Val :=
  let b := fmtBits (tdFmt d)
  let r := s.seenNum c u (tdBase d + i * tdStride d) (tdRowBytes d)
  let x := if tdScl d = 1 then s.seenNum c u (scaleAt d i 0) (tdCols d / 32) else 0
  (List.range (tdCols d)).map fun k =>
    let e := r / 2 ^ (k * b) % 2 ^ b
    let v := if fmtCb4 (tdFmt d) then tab e
             else if tdFmt d = 0x0C && tdScl d = 1 then .ofInt (sgn 8 e) (-6)
             else decodeElt (tdFmt d) e
    if tdScl d = 1 then scaled v (x / 2 ^ (8 * (k / 32)) % 256) else v

/-- The values of a row of a tile as unit `u` sees them (R148 to R155). -/
def Chip.rowVals (s : Chip) (c u : Nat) (d : IWord) (i : Nat) : List Val := s.rowValsBy c u d (s.cbEntry c u d) i

/-- The values of a row of the running command's W: its codebook is the one read when the command began (R153, R172). -/
def Chip.wRow (s : Chip) (c : Nat) (d : IWord) (i : Nat) : List Val :=
  s.rowValsBy c uMTX d (fun e => cbVal d (((s.core c).mtxTab[e]?).getD 0)) i

/-- The ranges of a row of a tile and its scales. -/
def rowRanges (d : IWord) (i : Nat) : List (Nat × Nat) :=
  (tdBase d + i * tdStride d, tdRowBytes d) :: (if tdScl d = 1 then [(scaleAt d i 0, tdCols d / 32)] else [])

/-- The worse of two findings: UNCORRECTABLE before POISON_CONSUMED (R396). -/
def worse (a b : Option Nat) : Option Nat :=
  match a, b with
  | some x, some y => some (min x y)
  | some x, none => some x
  | none, y => y

/-- The worst finding among ranges (R396). -/
def Chip.rangesBad (s : Chip) (c : Nat) (l : List (Nat × Nat)) : Option Nat :=
  if s.clean then none else l.foldl (fun a r => worse a (s.tunBad c r.1 r.2)) none

/-- What reading a row of a tile and its scales meets. -/
def Chip.rowBad (s : Chip) (c : Nat) (d : IWord) (i : Nat) : Option Nat := s.rangesBad c (rowRanges d i)

/-- The worst finding among rows. -/
def Chip.rowsBad (s : Chip) (c : Nat) (d : IWord) (l : List Nat) : Option Nat := s.rangesBad c (l.flatMap (rowRanges d))

/-- The numbers from `a` to `b - 1`. -/
def span (a b : Nat) : List Nat := (List.range (b - a)).map (a + ·)

/-! ## Accumulation -/

/-- A sum of exact products rounded once to FP32, with the special values of R175. -/
def blockSum (l : List (Val × Val)) : Val × Flags :=
  let ps := l.map fun p => p.1.mul p.2
  let f := ps.foldl (fun a p => a ||| p.2) 0
  let pinf := ps.any fun p => p.1 = .inf false
  let ninf := ps.any fun p => p.1 = .inf true
  if ps.any (fun p => p.1.isNan) || (pinf && ninf) then (.nan, if pinf && ninf then f ||| flINVALID else f)
  else if pinf then (.inf false, f)
  else if ninf then (.inf true, f)
  else
    let r := rne32 false (ps.foldl (fun a p => (a.add p.1 false).1) (.fin true 0 0))
    (r.1, f ||| r.2)

/-- An FP32 addition of the accumulator, rounded by RNE and never flushed (R173). -/
def acc32 (a b : Val) : Val × Flags :=
  let r := a.add b false
  let q := rne32 false r.1
  (q.1, r.2 ||| q.2)

/-- Pairs in runs of `n`: the K blocks. -/
def runs {α : Type} (n : Nat) : Nat → List α → List (List α)
  | 0, _ => []
  | f + 1, l => if l.isEmpty then [] else l.take n :: runs n f (l.drop n)

/-- The fast accumulation of one element over the K blocks of a command (R173). -/
def fastAcc (kb : Nat) (a : Val) (l : List (Val × Val)) : Val × Flags :=
  (runs kb (l.length + 1) l).foldl (fun (st : Val × Flags) blk =>
    let b := blockSum blk
    let r := acc32 st.1 b.1
    (r.1, st.2 ||| b.2 ||| r.2)) (a, 0)

/-- The exact sum of products as an LA576 integer, and whether an input is not finite (R158, R177). -/
def exactAcc (a : Int) (l : List (Val × Val)) : Int × Bool :=
  l.foldl (fun (st : Int × Bool) p =>
    if p.1.isFin && p.2.isFin then (st.1 + laOf (p.1.mul p.2).1, st.2) else (st.1, true)) (a, false)

/-- The exact sum of integer products (R176). -/
def intAcc (a : Int) (l : List (Val × Val)) : Int := l.foldl (fun st p => st + (p.1.mul p.2).1.intAt 0) a

/-- How a command accumulates (Chain.kind). (DEDUCED, log 25) (DESIGN CHOICE, log 79) (DESIGN CHOICE, log 97) -/
def mtxKind (exact : Bool) (dw da : IWord) : Nat := if exact then 2 else if intPair dw da then 1 else 0

/-- An accumulator as a value. -/
def accVal (kind : Nat) (a : Int) : Val :=
  if kind = 0 then f32 a.toNat else if kind = 1 then .ofInt a 0 else .ofInt a (-300)

/-- The bits of an FP32 value, as it is kept in an accumulator. -/
def bits32 (v : Val) : Nat := (encodeFp 0 fp32 1 false false v).1

/-- The accumulators of a row group and column group after a command: the elements row by row, the marks, the flags. -/
structure Accs where
  kind : Nat
  acc : List Int
  marks : List Nat
  flags : Flags
  deriving DecidableEq, Repr

/-- The accumulators with which a command begins a group: those of the open chain, else −0 or 0 (R173, R181).  A command of another kind than
the chain's, by its pairs or because EXACT was changed while the chain was open and the core HELD, makes the chain mixed, whose values are open.
(DESIGN CHOICE, log 79; DESIGN CHOICE, log 97) -/
def startAccs (ch : Option Chain) (kind rows cols : Nat) : Accs :=
  match ch with
  | some x => ⟨if x.kind = kind then kind else 3, x.acc, x.marks, 0⟩
  | none => ⟨kind, List.replicate (rows * cols) (if kind = 0 then 0x80000000 else 0), [], 0⟩

/-- A value as integers, an operand of the function of a mixed chain. -/
def Val.ints : Val → List Int
  | .fin n m e => [0, if n then 1 else 0, m, e]
  | .inf n => [1, if n then 1 else 0]
  | .nan => [2]

/-- The products of rows of A with rows of W added, element by element (R171 to R177). (DESIGN CHOICE, log 79) (DESIGN CHOICE, log 97) -/
def Chip.accumulate (s : Chip) (c : Nat) (m : Cmd) (r0 r1 j0 j1 : Nat) (a0 : Accs) : Accs :=
  let as := (span r0 r1).map (s.rowVals c uMTX m.dA)
  let ws := (span j0 j1).map (s.wRow c m.dB)
  let kb := (kBlock m.dB m.dA).getD 32
  let n := j1 - j0
  let cells := as.flatMap fun x => ws.map fun y => x.zip y
  let step (p : Nat × List (Val × Val)) : Int × Bool × Flags :=
    let a := (a0.acc[p.1]?).getD 0
    if a0.kind = 0 then
      let r := fastAcc kb (f32 a.toNat) p.2
      (bits32 r.1, false, r.2)
    else if a0.kind = 1 then (intAcc a p.2, false, 0)
    else if a0.kind = 3 then
      -- (DESIGN CHOICE, log 79)
      ((Config.mixedChain 0 (a :: p.2.flatMap fun q => q.1.ints ++ q.2.ints) : Nat), false, 0)
    else let r := exactAcc a p.2; (r.1, r.2, 0)
  let res := ((List.range ((r1 - r0) * n)).zip cells).map step
  { a0 with acc := res.map (·.1), marks := ((List.range res.length).zip res).foldl (fun l p => if p.2.2.1 then nput l p.1 else l) a0.marks,
            flags := res.foldl (fun f p => f ||| p.2.2) a0.flags }

/-- The corrections of the group added (R173 step 3, R177, R188). (DESIGN CHOICE, log 79) -/
def addCorr (a : Accs) (n : Nat) (k : Corr) : Accs :=
  let at_ (x : Nat) : Nat := x / 128 * n + x % 128
  k.vals.foldl (fun (b : Accs) p =>
    let i := at_ p.1
    let old := (b.acc[i]?).getD 0
    if b.kind = 0 then
      let r := acc32 (f32 old.toNat) (f32 p.2.toNat)
      { b with acc := b.acc.set i (bits32 r.1), flags := b.flags ||| r.2 }
    else if b.kind = 3 then { b with acc := b.acc.set i (Config.mixedChain 0 [old, p.2] : Nat) }
    else { b with acc := b.acc.set i (old + p.2) }) { a with marks := (k.marks.map at_).foldl nput a.marks }

/-! ## Groups and their faults -/

def rowGroups (g m : Nat) : Nat := (m + g - 1) / g
def colGroups (n : Nat) : Nat := (n + 127) / 128

/-- The rows and columns of group number `i`: row groups outside, column groups inside (R171). -/
def groupAt (exact : Bool) (m n i : Nat) : Nat × Nat × Nat × Nat :=
  let g := groupRows exact
  let rg := i / colGroups n
  let cg := i % colGroups n
  (rg * g, min m (rg * g + g), cg * 128, min n (cg * 128 + 128))

/-- Counts of adjunct blocks added, row by row and block row by block row (R178). -/
def addBlocks (a b : List (Nat × Nat)) : List (Nat × Nat) :=
  b.foldl (fun l p => sset (fun _ => (0 : Nat)) l p.1 (sget (fun _ => (0 : Nat)) l p.1 + p.2)) a

/-- The blocks of the element that most blocks apply to. -/
def mostBlocks (l : List (Nat × Nat)) : Nat := (l.map (·.2)).foldl max 0

/-- The term count of an open chain, none when no chain is open (R178, R190). -/
def chainTerms : Option Chain → Nat
  | some x => x.terms + 16 * mostBlocks x.blocks
  | none => 0

/-- The terms of an open chain but those of blocks, and its blocks. -/
def chainCount : Option Chain → Nat × List (Nat × Nat)
  | some x => (x.terms, x.blocks)
  | none => (0, [])

/-- The term limit of an accumulation (R178). -/
def termLimit : Nat := 2 ^ 19

/-- LA_OVERFLOW with its cause, row and column recorded (R178, R190). -/
def Chip.laOverflow (s : Chip) (c : Nat) (m : Cmd) (cause row col : Nat) : Chip :=
  let t := (s.put (pgMTX c) ⟨0x104, 7, 1⟩ 1)
  let t1 := if s.get (pgMTX c) ⟨0x104, 7, 1⟩ = 1 then t else
    ((t.put (pgMTX c) ⟨0x104, 8, 2⟩ cause).put (pgMTX c) ⟨0x108, 0, 7⟩ col).put (pgMTX c) ⟨0x108, 16, 16⟩ row
  t1.faultUnit c uMTX eLA_OVF m.pc

/-- The first element whose LA576 sum leaves the range. -/
def firstOut (kind : Nat) (l : List Int) : Option Nat :=
  if kind = 2 then (List.range l.length).find? fun i => !(laInRange ((l[i]?).getD 0)) else none

/-- The pair index of the running matrix command when it carries ADJ 1 (R187). -/
def Core.adjPair (k : Core) : Nat := k.adjMmul

/-- The corrections of group `g` are complete for the paired command (R187, R189). -/
def Chip.corrReady (s : Chip) (c g : Nat) : Bool :=
  let done := s.get (pgADJ c) ⟨0x110, 0, 32⟩
  decide ((s.core c).adjMmul ≤ done) || (decide (done + 1 = (s.core c).adjMmul) && decide (g < (s.core c).adjDone))

def Chip.corrOf (s : Chip) (c g : Nat) : Corr :=
  match (s.core c).corr.find? fun k => k.group = g with
  | some k => k
  | none => ⟨g, [], [], []⟩

/-- The events that one group's products count (R191). -/
def Chip.mtxCounts (s : Chip) (c : Nat) (m : Cmd) (rows cols : Nat) : Chip :=
  let k := tdCols m.dA
  let kb := (kBlock m.dB m.dA).getD 32
  ((s.count (pgMTX c) 0x03 (rows * cols * k)).count (pgMTX c) 0x04 ((k + kb - 1) / kb))

/-- A command of the matrix engine completes: its flags merge, its slot completions fall due (R111, R191, R213). -/
def Chip.mtxFinish (s : Chip) (c : Nat) (m : Cmd) : Chip :=
  let s1 := ((s.finish c uMTX m).mergeFlags c m.flags).count (pgMTX c) (if opcode m.w = 0x80 then 0 else 1) 1
  if s.mtxExact c then s1.count (pgMTX c) 0x08 1 else s1

/-- A chained MMUL adds its products, and its corrections when it carries ADJ 1, to the open chain (R181). (DEDUCED, log 87) -/
def Chip.chainAccumulate (s : Chip) (c : Nat) (m : Cmd) : Chip :=
  let rows := tdRows m.dA
  let cols := tdRows m.dB
  match worse (s.rowsBad c m.dA (span 0 rows)) (s.rowsBad c m.dB (span 0 cols)) with
  | some code =>
    (s.noteRanges c uMTX ((span 0 rows).flatMap (rowRanges m.dA) ++ (span 0 cols).flatMap (rowRanges m.dB))).faultUnit c uMTX code m.pc
  | none =>
    let kind := mtxKind (s.mtxExact c) m.dB m.dA
    let a0 := startAccs (s.core c).chain kind rows cols
    let k := if mADJ m.w then s.corrOf c 0 else ⟨0, [], [], []⟩
    let terms := (chainCount (s.core c).chain).1 + tdCols m.dA
    let blocks := addBlocks (chainCount (s.core c).chain).2 k.blocks
    if termLimit < terms + 16 * mostBlocks blocks then s.laOverflow c m 1 0 0
    else
      let a := addCorr (s.accumulate c m 0 rows 0 cols a0) cols k
      let ch : Chain := ⟨tD m.w, rows, cols, a.kind, terms, blocks, a.acc, a.marks⟩
      let s1 := (s.noteRanges c uMTX ((span 0 rows).flatMap (rowRanges m.dA) ++ (span 0 cols).flatMap (rowRanges m.dB))).updCore c
        fun x => { x with chain := some ch, corr := [] }
      (((s1.put (pgMTX c) ⟨0x110, 0, 8⟩ (tD m.w)).mtxCounts c m rows cols).mtxFinish c { m with flags := m.flags ||| a.flags })

/-! ## The drain (R179) -/

/-- One element is finished: ACCUM, the output scale, the conversion; its bits and flags. (DESIGN CHOICE, log 79) (DEDUCED, log 86) (DEDUCED, log 9) -/
def drainElt (kind fmt rnd : Nat) (sat ftz accum : Bool) (osc : Int) (a : Int) (mark : Bool) (old : Val) : Nat × Flags :=
  let scale (v : Val) : Val := match v with
    | .fin n m e => .fin n m (e + osc)
    | x => x
  if kind = 0 then
    let r := if accum then acc32 (f32 a.toNat) old else (f32 a.toNat, 0)
    let q := convert fmt rnd sat ftz (scale r.1)
    (q.1, r.2 ||| q.2)
  else if kind = 1 then
    -- R176: an old value that is NaN or infinite is the result
    let v := if accum then (if old.isFin then ((Val.ofInt a 0).add old (rnd = 3)).1 else old) else .ofInt a 0
    convert fmt rnd sat ftz (scale v)
  else if kind = 3 then
    -- (DESIGN CHOICE, log 79)
    let l := [a, (fmt : Int), rnd, if sat then 1 else 0, if ftz then 1 else 0, osc] ++ (if accum then old.ints else [])
    (Config.mixedChain 1 l % 2 ^ fmtBits fmt, BitVec.ofNat 6 (Config.mixedChain 2 l))
  else
    let bad := mark || (accum && !(old.isFin))
    if fmt = 0x11 then (laBits a, if bad then flINVALID else 0)
    else if bad then
      let q := convert fmt 1 sat ftz .nan
      (q.1, q.2 ||| flINVALID)
    else convert fmt 1 sat ftz (scale (.ofInt a (-300)))

/-- The rows of a group written to C (R179 step 4). -/
def Chip.writeGroup (s : Chip) (c : Nat) (d : IWord) (r0 j0 n : Nat) (bits : List Nat) : Chip :=
  let b := fmtBits (tdFmt d)
  (List.range (bits.length / n)).foldl (fun (t : Chip) i =>
    t.engineWrite c uMTX (tdBase d + (r0 + i) * tdStride d + j0 * b / 8) (packRow b ((bits.drop (i * n)).take n))) s

/-- The last group has drained: the command completes and an open chain is closed (R181). (DEDUCED, log 87) -/
def Chip.drainEnd (s : Chip) (c : Nat) (m : Cmd) : Chip :=
  (s.updCore c fun k => { k with chain := none, corr := [] }).mtxFinish c m

/-- The ranges that the drain of a group reads of the old C (R173, R182). -/
def oldRanges (d : IWord) (r0 r1 j0 j1 : Nat) : List (Nat × Nat) :=
  let b := fmtBits (tdFmt d)
  (span r0 r1).map fun i => (tdBase d + i * tdStride d + j0 * b / 8, (j1 - j0) * b / 8)

/-- The drain of the running command's next column group (R104, R171, R178, R179, R183, R189). (DEDUCED, log 25) -/
def Chip.drainGroup (s : Chip) (c : Nat) (m : Cmd) : Chip :=
  let ex := s.mtxExact c
  let mul := decide (opcode m.w = 0x80)
  let ch := (s.core c).chain
  let rows := tdRows m.dD
  let cols := tdCols m.dD
  let g := groupAt ex rows cols m.prog
  let (r0, r1, j0, j1) := g
  let n := j1 - j0
  let last := decide (m.prog + 1 = rowGroups (groupRows ex) rows * colGroups cols)
  let reads := (if mACCUM m.w then oldRanges m.dD r0 r1 j0 j1 else []) ++
    (if mul then (span r0 r1).flatMap (rowRanges m.dA) ++ (span j0 j1).flatMap (rowRanges m.dB) else [])
  match s.rangesBad c reads with
  | some code => (s.noteRanges c uMTX reads).faultUnit c uMTX code m.pc
  | none =>
    let kind := if mul then mtxKind ex m.dB m.dA else match ch with
      | some x => x.kind
      | none => 0
    let a0 := startAccs ch kind (r1 - r0) n
    let k := if mul && mADJ m.w then s.corrOf c m.prog else ⟨m.prog, [], [], []⟩
    let terms := (chainCount ch).1 + (if mul then tdCols m.dA else 0) + (if mACCUM m.w then 1 else 0)
    if termLimit < terms + 16 * mostBlocks (addBlocks (chainCount ch).2 k.blocks) then s.laOverflow c m 1 r0 0
    else
      let a := if mul then addCorr (s.accumulate c m r0 r1 j0 j1 a0) n k else a0
      let olds : List Val := if mACCUM m.w then (span r0 r1).flatMap fun i => ((s.rowVals c uMTX m.dD i).drop j0).take n else []
      let acc2 := if a.kind = 2 && mACCUM m.w then
          (a.acc.zip olds).map fun p => if p.2.isFin then p.1 + laOf p.2 else p.1
        else a.acc
      match firstOut a.kind acc2 with
      | some i => s.laOverflow c m 2 (r0 + i / n) (i % n)
      | none =>
        let rnd := s.rnd c (tRND m.w)
        let outs := (List.range acc2.length).map fun i =>
          drainElt a.kind (tdFmt m.dD) rnd (tSAT m.w) (s.vecFtz c) (mACCUM m.w) (mOSC m.w) ((acc2[i]?).getD 0) (a.marks.contains i)
            ((olds[i]?).getD Val.zero)
        let s1 := (s.noteRanges c uMTX reads).writeGroup c m.dD r0 j0 n (outs.map (·.1))
        let s2 := if mul then s1.mtxCounts c m (r1 - r0) n else s1
        let m1 := { m with prog := m.prog + 1, flags := m.flags ||| a.flags ||| outs.foldl (fun f p => f ||| p.2) 0, began := none }
        if last then s2.drainEnd c m1 else s2.updCmd c uMTX m1

/-- COLUMN_GROUP_DRAIN: the group drains, or its drain waits for the adjunct unit (R189). -/
def Chip.columnGroupDrain (s : Chip) (c : Nat) : Chip :=
  match ((s.core c).running uMTX).head? with
  | none => s
  | some m =>
    if opcode m.w = 0x80 && mCHAIN m.w then s
    else if opcode m.w = 0x80 && mADJ m.w && !(s.corrReady c m.prog) then
      s.updCmd c uMTX (s.startWait c m)
    else s.drainGroup c m

/-- The codebook of W is read whole before anything is computed (R153, R172). -/
def Chip.readTable (s : Chip) (c : Nat) (d : IWord) : Chip :=
  if tdScl d = 2 then
    (s.noteRanges c uMTX [(tdScale d, tdScaleBytes d)]).updCore c fun k => { k with mtxTab := (List.range 16).map (s.cbRaw c uMTX d) }
  else s

/-- A matrix command has been admitted and starts (R153, R181, R187). -/
def Chip.mtxBegin (s : Chip) (c : Nat) (m : Cmd) : Chip :=
  if opcode m.w = 0x81 then (if (s.core c).chain.isSome then s else s.mtxFinish c m)
  else match s.tableBad c m.dB with
    | some code => (s.noteRanges c uMTX [(tdScale m.dB, tdScaleBytes m.dB)]).faultUnit c uMTX code m.pc
    | none =>
      let t := s.readTable c m.dB
      if mADJ m.w then t.updCore c fun k => { k with adjMmul := k.adjMmul + 1 }
      else if mCHAIN m.w then t.chainAccumulate c m
      else t

end Sys2Proof.Machine
end

