-- ==== Sys2Proof/Machine/Adjunct.lean ====
section
/-! DEFINITION. The adjunct unit (R184 to R189): the row map, segments and their checks, the corrections of a column group. -/

namespace Sys2Proof.Machine

/-- ADJ_BAD with its cause, segment, directory entry and VERSION recorded (R186, R192). -/
def Chip.adjBad (s : Chip) (c : Nat) (m : Cmd) (cause seg entry ver : Nat) : Chip :=
  ((((s.put (pgADJ c) ⟨0x108, 0, 8⟩ cause).put (pgADJ c) ⟨0x108, 8, 8⟩ seg).put (pgADJ c) ⟨0x10C, 0, 16⟩ entry).put (pgADJ c)
    ⟨0x10C, 16, 16⟩ ver).faultUnit c uADJ eADJ_BAD m.pc

/-- ABIND reads its row map and completes (R187). -/
def Chip.abindBegin (s : Chip) (c : Nat) (m : Cmd) : Chip :=
  let o := bf m.w 0 22
  let n := bf m.w 32 13
  match s.tunBad c o n with
  | some code => (s.noteRanges c uADJ [(o, n)]).faultUnit c uADJ code m.pc
  | none =>
    let map := (s.seen c uADJ o n).map (·.toNat)
    let s1 := ((s.noteRanges c uADJ [(o, n)]).updCore c fun k => { k with rowMap := some map }).put (pgADJ c) ⟨0x104, 0, 13⟩ n
    ((s1.put (pgADJ c) ⟨0x100, 5, 1⟩ 1).finish c uADJ m).count (pgADJ c) 0 1

/-- ACORR starts: no group is corrected yet, and nothing of its segments is read (R187). -/
def Chip.acorrBegin (s : Chip) (c : Nat) (m : Cmd) : Chip :=
  (s.updCmd c uADJ { m with prog := 1, asked := (s.usesOf c m).map (·.1) }).updCore c fun k =>
    { k with adjDone := 0, adjRead := ⟨[], [], []⟩ }

def dirOff (e : BitVec 64) : Nat := bf e 32 32
def dirBc (e : BitVec 64) : Nat := bf e 12 12
def dirBr (e : BitVec 64) : Nat := bf e 0 12

/-- The words of an ACORR's segment list. -/
def Chip.segList (s : Chip) (c : Nat) (m : Cmd) : List Nat :=
  (List.range (bf m.w 32 7)).map fun i => s.seenNum c uADJ (bf m.w 0 22 + 4 * i) 4

/-- A segment's header, as a word. -/
def Chip.segHdr (s : Chip) (c o : Nat) : BitVec 128 := BitVec.ofNat 128 (s.seenNum c uADJ o 16)

def hdNblk (h : BitVec 128) : Nat := bf h 0 16
def hdSegLen (h : BitVec 128) : Nat := bf h 64 32
def hdVer (h : BitVec 128) : Nat := bf h 32 16

/-- A segment's header and directory. -/
def Chip.segAt (s : Chip) (c o : Nat) : Seg :=
  let h := s.segHdr c o
  ⟨o, hdSegLen h, hdVer h, h.getLsbD 16, (List.range (hdNblk h)).map fun i => BitVec.ofNat 64 (s.seenNum c uADJ (o + 16 + 8 * i) 8)⟩

/-- What the check of a header finds (R186): a reserved field, or a directory that lies beyond LEN or 3 MiB. (DEDUCED, log 26) -/
def hdrBad (h : BitVec 128) (o : Nat) : Option Nat :=
  let n := hdNblk h
  if bf h 96 32 ≠ 0 || bf h 48 16 ≠ 0 || bf h 17 15 ≠ 0 then some 1
  else if !(tunOk o (16 + 8 * n)) || decide (hdSegLen h < 16 + 8 * n) then some 4
  else none

/-- What the check of a directory finds (R186): cause and directory entry. (DEDUCED, log 26) -/
def dirBad (dir : List (BitVec 64)) (rows cols : Nat) : Option (Nat × Nat) :=
  (List.range dir.length).findSome? fun i =>
    let e := (dir[i]?).getD 0
    if bf e 24 8 ≠ 0 then some (1, i)
    else if (rows + 15) / 16 ≤ dirBr e || (cols + 15) / 16 ≤ dirBc e then some (2, i)
    else if i ≠ 0 && (let p := (dir[i - 1]?).getD 0
        decide (dirBr e * 4096 + dirBc e ≤ dirBr p * 4096 + dirBc p)) then some (3, i)
    else if dirOff e % 32 ≠ 0 then some (4, i)
    else none

/-- Bits set in the low `n` bits of a number, in rising order. -/
def bitsOf (n v : Nat) : List Nat := (List.range n).filter fun i => v.testBit i

/-- Bytes of a value. -/
def Seg.size (g : Seg) : Nat := if g.bf16 then 2 else 1

/-- The bytes of a block's body: bitmap and values, padded to a multiple of 32. -/
def bodyLen (g : Seg) (map : Nat) : Nat := (32 + (bitsOf 256 map).length * g.size + 31) / 32 * 32

/-- The first byte that a body may not reach: the end of its segment, or 3 MiB. -/
def Seg.limit (g : Seg) : Nat := min (g.off + g.len) tunSize

/-- What the check of a block's body finds once its bitmap is read (R186, causes 4 and 5). -/
def bodyBad (g : Seg) (e : BitVec 64) (map rows cols : Nat) : Option Nat :=
  if g.limit < g.off + dirOff e + bodyLen g map then some 4
  else if (bitsOf 256 map).any fun b => decide (rows ≤ 16 * dirBr e + b / 16) || decide (cols ≤ 16 * dirBc e + b % 16) then some 5
  else none

/-- The bitmap and the values of a body that has been read (R189). -/
def AdjRead.body (r : AdjRead) (i j : Nat) : Option (Nat × Nat) :=
  (r.bodies.find? fun b => b.1 = i && b.2.1 = j).map (·.2.2)

/-- The present entries of a block: row and column within the block, value (R184, R185). -/
def bodyVals (g : Seg) (b : Nat × Nat) : List (Nat × Nat × Val) :=
  let l := bitsOf 256 b.1
  (List.range l.length).map fun q =>
    let x := (l[q]?).getD 0
    (x / 16, x % 16, decodeElt (if g.bf16 then 1 else 3) (b.2 / 2 ^ (8 * g.size * q) % 2 ^ (8 * g.size)))

/-- The directory entries of a segment that column group `cg` uses, with their numbers. -/
def groupDir (g : Seg) (cg : Nat) : List (Nat × BitVec 64) :=
  ((List.range g.dir.length).zip g.dir).filter fun e => dirBr e.2 / 8 = cg

/-- The corrections of a group in fast mode for one row: the sums of each block in directory order (R188). -/
def fastRow (bs : List (Nat × List (Nat × Nat × Val) × (Nat → Val))) : List (Nat × Val) × Flags :=
  bs.foldl (fun (st : List (Nat × Val) × Flags) b =>
    (List.range 16).foldl (fun (st : List (Nat × Val) × Flags) i =>
      let es := b.2.1.filter fun e => e.1 = i
      if es = [] then st
      else
        let r := blockSum (es.map fun e => (e.2.2, b.2.2 e.2.1))
        let n := b.1 + i
        let old := match st.1.find? fun p => p.1 = n with
          | some p => p.2
          | none => .fin true 0 0
        let q := acc32 old r.1
        (if st.1.any (fun p => p.1 = n) then st.1.map fun p => if p.1 = n then (n, q.1) else p else st.1 ++ [(n, q.1)],
         st.2 ||| r.2 ||| q.2)) st) ([], 0)

/-- The same in exact mode: exact sums and the columns that a non-finite factor marks (R158, R188). -/
def exactRow (bs : List (Nat × List (Nat × Nat × Val) × (Nat → Val))) : List (Nat × Int) × List Nat :=
  bs.foldl (fun (st : List (Nat × Int) × List Nat) b =>
    b.2.1.foldl (fun (st : List (Nat × Int) × List Nat) e =>
      let n := b.1 + e.1
      let a := b.2.2 e.2.1
      let fin := e.2.2.isFin && a.isFin
      let v : Int := if fin then laOf (e.2.2.mul a).1 else 0
      (if st.1.any (fun p => p.1 = n) then st.1.map fun p => if p.1 = n then (n, p.2 + v) else p else st.1 ++ [(n, v)],
       if fin then st.2 else nput st.2 n)) st) ([], [])

/-- The corrections of group `g` of the paired command `x` from what has been read (R188, R189), the flags and the count of pairs.
A block applies to the elements of its block row, whatever its bitmap marks. (DEDUCED, log 26) -/
def Chip.corrections (s : Chip) (c : Nat) (x : Cmd) (g : Nat) : Corr × Flags × Nat :=
  let ex := s.mtxExact c
  let gr := groupAt ex (tdRows x.dA) (tdRows x.dB) g
  let (r0, r1, j0, _) := gr
  let k := s.core c
  let map := k.rowMap.getD []
  let rows : List (Nat × List (Nat × List (Nat × Nat × Val) × (Nat → Val))) := (span r0 r1).map fun i =>
    let si := (map[i]?).getD 255
    match k.adjRead.segs[si]? with
    | none => (i, [])
    | some sg =>
      let av := s.rowVals c uADJ x.dA i
      (i, (groupDir sg (j0 / 128)).map fun e =>
        (16 * dirBr e.2 - j0, bodyVals sg ((k.adjRead.body si e.1).getD (0, 0)), fun (j : Nat) => (av[16 * dirBc e.2 + j]?).getD Val.zero))
  let blocks := rows.flatMap fun r => ((List.range 8).filterMap fun b =>
    let n := (r.2.filter fun q => q.1 = 16 * b).length
    if n = 0 then none else some ((r.1 - r0) * 8 + b, n))
  let pairs := (rows.map fun r => r.2.length).sum
  if ex then
    let rs := rows.map fun r => (r.1, exactRow r.2)
    (⟨g, rs.flatMap fun r => r.2.1.map fun p => ((r.1 - r0) * 128 + p.1, p.2),
      (rs.flatMap fun r => r.2.2.map fun n => (r.1 - r0) * 128 + n), blocks⟩, 0, pairs)
  else
    let rs := rows.map fun r => (r.1, fastRow r.2)
    (⟨g, rs.flatMap fun r => r.2.1.map fun p => ((r.1 - r0) * 128 + p.1, (bits32 p.2 : Int)), [], blocks⟩,
      rs.foldl (fun f r => f ||| r.2.2) 0, pairs)

/-! ## The reads of an ACORR (R186, R187, R189) -/

/-- What a read comes to: the device and the command after it, or the device where the unit waits or has faulted. -/
abbrev AdjStep := Except Chip (Chip × Cmd)

/-- The slots of a read, one after another: the unit is admitted once per ACORR to each slot, persistent ones among them, and
waits at the first that holds it back (R187). -/
def Chip.stage (s : Chip) (c : Nat) (m : Cmd) : List Nat → AdjStep
  | [] => .ok (s.updCmd c uADJ m, m)
  | n :: t =>
    if m.asked.contains n || (s.slot c n).land then s.stage c m t
    else if s.admits c (if m.began.isSome then m.ord else s.waitNo) [(n, false)] then
      (s.admitUses c [(n, false)]).stage c
        { m with uses := m.uses ++ s.counted c [(n, false)], asked := m.asked ++ [n], began := none } t
    else .error ((if m.began.isSome then s else s.bumpWait).updCmd c uADJ { s.startWait c m with slot := n })

/-- A range is read: its slots admit it, its words are sound. -/
def Chip.adjFetch (s : Chip) (c : Nat) (m : Cmd) (o n : Nat) : AdjStep :=
  if n = 0 then .ok (s, m)
  else do
    let r ← s.stage c m (s.slotsOn c o n)
    match r.1.tunBad c o n with
    | some code => .error ((r.1.noteRanges c uADJ [(o, n)]).faultUnit c uADJ code m.pc)
    | none => .ok (r.1.noteRanges c uADJ [(o, n)], r.2)

/-- The unit goes on reading where it stood. -/
def Chip.updRead (s : Chip) (c : Nat) (f : AdjRead → AdjRead) : Chip := s.updCore c fun k => { k with adjRead := f k.adjRead }

/-- The header and the directory of the next segment of the list, at offset `o`, are read and checked (R186). (DEDUCED, log 26) -/
def Chip.adjHead (s : Chip) (c : Nat) (m : Cmd) (rows cols o : Nat) : AdjStep :=
  let i := (s.core c).adjRead.segs.length
  if !(tunOk o 16) then .error (s.adjBad c m 4 i 0 0)
  else do
    let r ← s.adjFetch c m o 16
    let h := r.1.segHdr c o
    match hdrBad h o with
    | some cause => .error (r.1.adjBad c m cause i 0 (hdVer h))
    | none =>
      let q ← r.1.adjFetch c r.2 (o + 16) (8 * hdNblk h)
      let g := q.1.segAt c o
      match dirBad g.dir rows cols with
      | some e => .error (q.1.adjBad c m e.1 i e.2 (hdVer h))
      | none => .ok (q.1.updRead c fun a => { a with segs := a.segs ++ [g] }, q.2)

/-- The body of directory entry `e` of segment `i` is read and checked, once per ACORR (R186, R189), and counted (R193). -/
def Chip.adjBody (s : Chip) (c : Nat) (m : Cmd) (rows cols i : Nat) (g : Seg) (e : Nat × BitVec 64) : AdjStep :=
  let o := g.off + dirOff e.2
  if ((s.core c).adjRead.body i e.1).isSome then .ok (s, m)
  else if g.limit < o + 32 then .error (s.adjBad c m 4 i e.1 g.ver)
  else do
    let r ← s.adjFetch c m o 32
    let map := r.1.seenNum c uADJ o 32
    match bodyBad g e.2 map rows cols with
    | some cause => .error (r.1.adjBad c m cause i e.1 g.ver)
    | none =>
      let q ← r.1.adjFetch c r.2 (o + 32) (bodyLen g map - 32)
      let n := (bitsOf 256 map).length
      let t := q.1.updRead c fun a => { a with bodies := a.bodies ++ [(i, e.1, map, q.1.seenNum c uADJ (o + 32) (n * g.size))] }
      .ok ((t.count (pgADJ c) 0x02 1).count (pgADJ c) 0x03 n, q.2)

/-- Reads one after another. -/
def adjEach {α : Type} (f : Chip → Cmd → α → AdjStep) : List α → Chip → Cmd → AdjStep
  | [], s, m => .ok (s, m)
  | x :: t, s, m => match f s m x with
    | .ok r => adjEach f t r.1 r.2
    | .error e => .error e

/-- The list and the row map are wrong (R186, causes 6 and 7): cause and segment index. (DEDUCED, log 26) -/
def Chip.listBad (s : Chip) (c : Nat) (l : List Nat) (x : Cmd) : Option (Nat × Nat) :=
  match (List.range l.length).find? fun i => decide ((l[i]?).getD 0 % 64 ≠ 0) || decide (2 ^ 22 ≤ (l[i]?).getD 0) with
  | some i => some (6, i)
  | none =>
    let map := ((s.core c).rowMap).getD []
    if map.length ≠ tdRows x.dA then some (7, 0)
    else if map.any fun b => decide (b ≠ 255) && decide (l.length ≤ b) then some (6, 0)
    else none

/-- The segment list is read and checked, before the first segment (R186, R187). (DEDUCED, log 26) -/
def Chip.adjList (s : Chip) (c : Nat) (m x : Cmd) : AdjStep :=
  if !((s.core c).adjRead.list.isEmpty) then .ok (s, m)
  else
    match s.tunBad c (bf m.w 0 22) (4 * bf m.w 32 7) with
    | some code => .error ((s.noteRanges c uADJ [(bf m.w 0 22, 4 * bf m.w 32 7)]).faultUnit c uADJ code m.pc)
    | none =>
      let l := s.segList c m
      match s.listBad c l x with
      | some e => .error (s.adjBad c m e.1 e.2 0 0)
      | none => .ok ((s.noteRanges c uADJ [(bf m.w 0 22, 4 * bf m.w 32 7)]).updRead c fun a => { a with list := l }, m)

/-- The segments that the rows of a group use, in the order of the rows. -/
def Chip.groupSegs (s : Chip) (c r0 r1 : Nat) : List Nat :=
  let map := ((s.core c).rowMap).getD []
  once (((span r0 r1).map fun i => (map[i]?).getD 255).filter (· ≠ 255))

/-- What the corrections of a column group need is read: at first the list, the headers and the directories, in list order, then the
bodies of the group (R186, R187, R189). (DEDUCED, log 26) -/
def Chip.adjReads (s : Chip) (c : Nat) (m x : Cmd) (r0 r1 cg : Nat) : AdjStep := do
  let rows := tdRows x.dB
  let cols := tdCols x.dB
  let a ← s.adjList c m x
  let k := (a.1.core c).adjRead
  let b ← adjEach (fun t n o => t.adjHead c n rows cols o) (k.list.drop k.segs.length) a.1 a.2
  let segs := (b.1.core c).adjRead.segs
  adjEach (fun t n (i : Nat) =>
      let g := (segs[i]?).getD ⟨0, 0, 0, false, []⟩
      adjEach (fun t n e => t.adjBody c n rows cols i g e) (groupDir g cg) t n)
    (b.1.groupSegs c r0 r1) b.1 b.2

/-- ADJUNCT_GROUP_DONE: the running ACORR corrects the next column group of its paired MMUL (R186 to R189). (DEDUCED, log 26) -/
def Chip.adjunctGroupDone (s : Chip) (c : Nat) : Chip :=
  match ((s.core c).running uADJ).head?, ((s.core c).running uMTX).head? with
  | some m, some x =>
    if opcode m.w = 0x85 && opcode x.w = 0x80 && mADJ x.w && s.get (pgADJ c) ⟨0x110, 0, 32⟩ + 1 = (s.core c).adjMmul then
      let g := (s.core c).adjDone
      let ex := s.mtxExact c
      let (r0, r1, j0, _) := groupAt ex (tdRows x.dA) (tdRows x.dB) g
      match s.adjReads c m x r0 r1 (j0 / 128) with
      | .error t => t
      | .ok (s1, m1) =>
        let r := s1.corrections c x g
        let m2 := { m1 with flags := m.flags ||| r.2.1 }
        let s2 := (s1.updCmd c uADJ m2).updCore c fun k => { k with adjDone := g + 1, corr := k.corr ++ [r.1] }
        let none_ := ((span r0 r1).filter fun i => ((((s.core c).rowMap).getD [])[i]?).getD 255 = 255).length
        let s3 := (s2.count (pgADJ c) 0x04 r.2.2).count (pgADJ c) 0x07 (if j0 = 0 then none_ else 0)
        let all := decide (g + 1 = rowGroups (groupRows ex) (tdRows x.dA) * colGroups (tdRows x.dB))
        let s4 := if all then
            (((s3.finish c uADJ m2).mergeFlags c m2.flags).inc (pgADJ c) ⟨0x110, 0, 32⟩ 1).count (pgADJ c) 0x01 1
          else s3
        if mCHAIN x.w then s4.chainAccumulate c x else s4
    else s
  | _, _ => s

end Sys2Proof.Machine
end

