-- ==== Sys2Proof/Machine/Channels.lean ====
section
/-! DEFINITION. The channel endpoint (R282 to R304): channel ends, messages, rings and credits.  A command holds the head of the
channel queue until it starts. -/

namespace Sys2Proof.Machine

/-! ## A channel end's registers (R303) -/

def fChState (n : Nat) : Fld := ⟨0x400 + 16 * n, 0, 3⟩
def fChRole (n : Nat) : Fld := ⟨0x400 + 16 * n, 3, 1⟩
def fChRq (n : Nat) : Fld := ⟨0x400 + 16 * n, 4, 4⟩
def fChPdev (n : Nat) : Fld := ⟨0x400 + 16 * n, 8, 10⟩
def fChPcore (n : Nat) : Fld := ⟨0x400 + 16 * n, 18, 8⟩
def fChMlen (n : Nat) : Fld := ⟨0x404 + 16 * n, 0, 15⟩
def fChQcred (n : Nat) : Fld := ⟨0x404 + 16 * n, 16, 7⟩
def fChMseq (n : Nat) : Fld := ⟨0x408 + 16 * n, 0, 16⟩
def fChRcred (n : Nat) : Fld := ⟨0x408 + 16 * n, 16, 16⟩
def fChRptr (n : Nat) : Fld := ⟨0x40C + 16 * n, 0, 22⟩
def fFaultCh : Fld := ⟨0x108, 0, 6⟩
def fFaultChCause : Fld := ⟨0x108, 8, 3⟩
def fDiscards : Fld := ⟨0x10C, 0, 32⟩
def fRqCred (n : Nat) : Fld := ⟨0x140 + 4 * n, 0, 7⟩

/-- The states of a channel end (R286). -/
def chCLOSED : Nat := 0
def chLISTEN : Nat := 1
def chOPENING : Nat := 2
def chOPEN : Nat := 3
def chCLOSING : Nat := 4
def chPEER_CLOSED : Nat := 5

def Chip.chState (s : Chip) (c n : Nat) : Nat := s.get (pgCHAN c) (fChState n)
def Chip.chRecv (s : Chip) (c n : Nat) : Bool := s.bit (pgCHAN c) (fChRole n)

/-- The peer of a channel end as a node. -/
def Chip.chNode (s : Chip) (c n : Nat) : Node := ⟨(s.chPeer c n).1, .core (s.chPeer c n).2⟩

/-- The queue credits of the channels bound to a receive queue (R285, R289, R303). (DEDUCED, log 40) -/
def Chip.rqResv (s : Chip) (c q : Nat) : Nat :=
  (((List.range 64).filter fun n => s.chState c n ≠ 0 && s.chRecv c n && s.get (pgCHAN c) (fChRq n) = q).map
    fun n => (s.chan c n).qcap).sum

/-- A channel end becomes CLOSED: its registers and what it holds are cleared. -/
def Chip.chClear (s : Chip) (c n : Nat) : Chip :=
  let p := pgCHAN c + 0x400 + 16 * n
  ((((s.setReg p 0).setReg (p + 4) 0).setReg (p + 8) 0).setReg (p + 12) 0).setChan c n ChanEnd.reset

/-- The counts of a channel start again at its open (R304). -/
def Chip.chOpened (s : Chip) (c n : Nat) : Chip := (s.put (pgCHAN c) (fChState n) chOPEN).clearCounts (pgCHAN c) (8 * n) 8

/-- A fault of the channel endpoint (R303). -/
def Chip.chanFault (s : Chip) (c : Nat) (m : Cmd) (code : Nat) : Chip :=
  (s.put (pgCHAN c) fFaultCh (cCH m.w)).faultUnit c uCHAN code m.pc

/-- CHAN_REFUSED with its cause (R285). -/
def Chip.chanRefused (s : Chip) (c : Nat) (m : Cmd) (cause : Nat) : Chip :=
  (s.put (pgCHAN c) fFaultChCause cause).chanFault c m eCHAN_REFUSED

/-! ## The head of the channel queue -/

/-- The head of a unit's queue leaves it. -/
def Chip.popHead (s : Chip) (c u : Nat) : Chip := s.updCore c fun k => k.setQueue u (k.queue u).tail

/-- The head of a unit's queue is replaced. -/
def Chip.setHead (s : Chip) (c u : Nat) (m : Cmd) : Chip := s.updCore c fun k => k.setQueue u (m :: (k.queue u).tail)

/-- The head of a unit's queue goes into execution. -/
def Chip.toRun (s : Chip) (c u : Nat) (m : Cmd) : Chip :=
  (s.popHead c u).updCore c fun k => k.setRunning u (k.running u ++ [m])

/-- The head of a unit's queue waits for `why`; a wait for the same thing keeps its timer and place (R93, R94, R114). -/
def Chip.waitHead (s : Chip) (c u : Nat) (m : Cmd) (why : Nat) : Chip :=
  if m.began.isSome && m.prog = why then s.setHead c u m
  else (s.setHead c u (s.startWait c { m with began := none, prog := why })).bumpWait

/-- Waits of a channel command: for credit or a message, for its slots, for an open's reply, to repeat an open. -/
def wtCredit : Nat := 1
def wtSlot : Nat := 2
def wtReply : Nat := 3
def wtRetry : Nat := 4
/-- A send that has left and waits for its acknowledgement; a receive whose token is escalated; a close under way. -/
def wtAck : Nat := 5
def wtProbe : Nat := 9
def wtClose : Nat := 6

/-- The counter of a SENDT or RECV gets its value, unless a later instruction has written the counter (R97, R295 to R297). -/
def Chip.chanSettle (s : Chip) (c : Nat) (m : Cmd) (v : Nat) : Chip :=
  if (s.core c).cntPend.contains (m.id, cCA m.w) then
    (s.updCore c fun k => { k with cntPend := k.cntPend.erase (m.id, cCA m.w) }).setCnt c (cCA m.w) (BitVec.ofNat 32 v)
  else s

/-! ## OPEN (R283 to R285) -/

/-- OPEN of a receiving end reaches the head of the queue (R283). (DEDUCED, log 40) (DEDUCED, log 39) -/
def Chip.openRecv (s : Chip) (c : Nat) (m : Cmd) : Chip :=
  let n := cCH m.w
  let p := pgCHAN c
  let q := cRQ m.w
  let cred := s.get p (fRqCred q)
  if s.chState c n ≠ chCLOSED then s.chanRefused c m 5
  -- an OPEN ahead of it in the queue may have taken the bytes since its issue (R283)
  else if !(s.ringFree c n (cRBASE m.w) (cRLEN m.w)) then s.chanFault c m eBAD_DESC
  else if 64 < s.rqResv c q + cred then s.chanRefused c m 4
  else
    let s1 := ((((((s.put p (fChState n) chLISTEN).put p (fChRole n) 1).put p (fChRq n) q).put p (fChPdev n) (cPDEV m.w)).put p
      (fChPcore n) (cPCORE m.w)).put p (fChMlen n) (cMLEN m.w)).put p (fChRptr n) (cRBASE m.w)
    (s1.setChan c n { rbase := cRBASE m.w, rlen := cRLEN m.w, tail := cRBASE m.w, sent := [], part := none, qcap := cred }).popHead c uCHAN

/-- OPEN of a sending end reaches the head of the queue and holds it until the peer has answered (R284, R325). (DEDUCED, log 39) -/
def Chip.openSend (s : Chip) (c : Nat) (m : Cmd) : Chip :=
  let n := cCH m.w
  let p := pgCHAN c
  let r := s.route (cPDEV m.w)
  if s.chState c n ≠ chCLOSED then s.chanRefused c m 5
  else if cPDEV m.w ≠ s.devId && !(r.testBit 4) && !(r.testBit 5) then s.chanFault c m eNO_ROUTE
  else
    let s1 := (((s.put p (fChState n) chOPENING).put p (fChPdev n) (cPDEV m.w)).put p (fChPcore n) (cPCORE m.w)).put p (fChMlen n)
      (cMLEN m.w)
    (s1.inject ⟨s.coreNode c, ⟨cPDEV m.w, .core (cPCORE m.w)⟩, .openReq n (cMLEN m.w)⟩).waitHead c uCHAN m wtReply

/-- What the peer answers to an open request (R284, R285). (DEDUCED, log 37) -/
def Chip.openAnswer (s : Chip) (c n mlen : Nat) (src : Node) : OpenVerdict :=
  let p := pgCHAN c
  if (s.core c).inReset || s.chState c n = chCLOSED then .notReady
  else if !(s.chRecv c n) then .refused 2
  else if s.chState c n ≠ chLISTEN || decide (s.chNode c n ≠ src) then .refused 1
  else if s.get p (fChMlen n) < mlen then .refused 3
  else .accepted (s.get p (fChMlen n)) (s.chan c n).qcap ((s.chan c n).rlen / 64)

/-- An open request arrives (R284). -/
def Chip.openRequest (s : Chip) (c : Nat) (p : Packet) : Chip :=
  match p.body with
  | .openReq n mlen =>
    let v := s.openAnswer c n mlen p.src
    let s1 := match v with
      | .accepted _ _ _ => s.chOpened c n
      | _ => s
    s1.inject ⟨s.coreNode c, p.src, .openReply n v⟩
  | _ => s

/-- The OPEN of channel `n` that holds the head of the queue. -/
def Chip.opening (s : Chip) (c n : Nat) : Option Cmd :=
  match ((s.core c).queue uCHAN).head? with
  | some m => if opcode m.w = 0x60 && cCH m.w = n && m.prog = wtReply then some m else none
  | none => none

/-- The peer's answer arrives (R284, R285). -/
def Chip.openReply (s : Chip) (c : Nat) (p : Packet) : Chip :=
  match p.body with
  | .openReply n v =>
    (match s.opening c n with
     | none => s
     | some m =>
       match v with
       | .accepted _ q r =>
         let s1 := ((s.chOpened c n).put (pgCHAN c) (fChQcred n) q).put (pgCHAN c) (fChRcred n) r
         (s1.setChan c n { rbase := 0, rlen := 64 * r, tail := 0, sent := [], part := none, qcap := q }).popHead c uCHAN
       | .notReady => s.setHead c uCHAN { m with prog := wtRetry }
       | .refused cause => (s.chClear c n).chanRefused c m cause)
  | _ => s

/-- The sending end repeats its open request (R284). -/
def Chip.openRetry (s : Chip) (c id : Nat) : Chip :=
  match ((s.core c).queue uCHAN).head? with
  | some m =>
    if m.id = id && opcode m.w = 0x60 && m.prog = wtRetry then
      (s.inject ⟨s.coreNode c, ⟨cPDEV m.w, .core (cPCORE m.w)⟩, .openReq (cCH m.w) (cMLEN m.w)⟩).setHead c uCHAN
        { m with prog := wtReply }
    else s
  | none => s

/-! ## Sending (R290 to R295) -/

/-- A message header (R290). -/
def msgHdr (tok : BitVec 64) (dev core mseq ch kind : Nat) (long : Bool) (len : Nat) : BitVec 128 :=
  BitVec.ofNat 128 (len % 2 ^ 15 + (if long then 2 ^ 15 else 0) + kind % 4 * 2 ^ 16 + ch % 64 * 2 ^ 18 + mseq % 2 ^ 16 * 2 ^ 24 +
    core % 256 * 2 ^ 40 + dev % 1024 * 2 ^ 48 + tok.toNat * 2 ^ 64)

def hdLen (h : BitVec 128) : Nat := bf h 0 15
def hdLong (h : BitVec 128) : Bool := h.getLsbD 15
def hdKind (h : BitVec 128) : Nat := bf h 16 2
def hdCh (h : BitVec 128) : Nat := bf h 18 6
def hdMseq (h : BitVec 128) : Nat := bf h 24 16
def hdToken (h : BitVec 128) : BitVec 64 := h.extractLsb' 64 64

/-- The ring units of a message: none when it is short (R291, R292). -/
def unitsOf (n : Nat) : Nat := if n ≤ 48 then 0 else (n + 16 + 63) / 64

/-- The units of the pad record that a message of `units` units needs at the sender's tail (R292). -/
def padOf (rlen tail units : Nat) : Nat := if rlen < tail + 64 * units then (rlen - tail) / 64 else 0

/-- The sender holds the credit that a message of `len` bytes needs (R293). -/
def Chip.hasCredit (s : Chip) (c n len : Nat) : Bool :=
  let u := unitsOf len
  let pad := padOf (s.chan c n).rlen (s.chan c n).tail u
  decide (0 < s.get (pgCHAN c) (fChQcred n)) && decide (u + pad ≤ s.get (pgCHAN c) (fChRcred n))

/-- Data in runs of at most `n` bytes. -/
def pieces {α : Type} (n : Nat) : Nat → List α → List (List α)
  | 0, _ => []
  | f + 1, l => if l.length ≤ n then [l] else l.take n :: pieces n f (l.drop n)

/-- A message leaves: the credit it needs is taken, and it is numbered and sent (R290 to R294). (DEDUCED, log 40) (DEDUCED, log 20) -/
def Chip.sendMessage (s : Chip) (c n kind : Nat) (tok : BitVec 64) (data : List TByte) : Chip :=
  let p := pgCHAN c
  let e := s.chan c n
  let u := unitsOf data.length
  let pad := padOf e.rlen e.tail u
  let off := if pad = 0 then e.tail else 0
  let q := s.get p (fChQcred n)
  let r := s.get p (fChRcred n)
  let mseq := s.get p (fChMseq n)
  let h := msgHdr tok s.devId c mseq n kind (u ≠ 0) data.length
  let tail := if u = 0 then e.tail else if e.rlen ≤ off + 64 * u then 0 else off + 64 * u
  let s1 := (((s.put p (fChQcred n) (q - 1)).put p (fChRcred n) (r - (u + pad))).put p (fChMseq n) (mseq + 1)).put p (fChRptr n) tail
  let s2 := (((s1.setChan c n { e with tail := tail }).count p (8 * n) 1).count p (8 * n + 1) data.length).count p (8 * n + 7)
    (if pad = 0 then 0 else 1)
  let s3 := (s2.peak p (8 * n + 4) (e.rlen / 64 - (r - (u + pad)))).peak p (8 * n + 5) (e.qcap - (q - 1))
  -- packets of at most 1,024 B of data (R294)
  let ps := pieces 1024 (data.length / 1024 + 1) data
  (List.range ps.length).foldl (fun (t : Chip) i =>
    t.inject ⟨s.coreNode c, s.chNode c n, .message h off pad (1024 * i) ((ps[i]?).getD [])⟩) s3

/-- A SEND or SENDT starts: its source is read, the message leaves, and the command waits for its acknowledgement (R294). -/
def Chip.sendGo (s : Chip) (c : Nat) (m : Cmd) : Chip :=
  let n := cCH m.w
  let o := wOFF m.w
  let len := cMLEN m.w
  let mseq := s.get (pgCHAN c) (fChMseq n)
  let uses := s.usesOf c m
  let data := s.tbytes (tunAddr c o) len
  let s1 := (((s.admitUses c uses).noteCorr (pgCHAN c) (s.coreCtxw c) (tunAddr c o) len).noteUncorr (pgCHAN c) (s.coreCtxw c)
    (tunAddr c o) len).count (pgMOV c) 8 (s.poisoned (tunAddr c o) len)
  let s2 := (s1.sendMessage c n 0 0 data).updCore c fun k => { k with due := k.due ++ s.counted c uses }
  let e := s2.chan c n
  (s2.setChan c n { e with sent := e.sent ++ [(m.id, mseq)] }).toRun c uCHAN
    { s.startWait c { m with began := none } with prog := wtAck, val := mseq }

/-- A SEND or SENDT at the head of the queue (R294, R295): `go` when what it waited for may have come. (DEDUCED, log 40) (DEDUCED, log 39) -/
def Chip.sendHead (s : Chip) (c : Nat) (m : Cmd) (go : Bool) : Chip :=
  let n := cCH m.w
  if s.chState c n ≠ chOPEN || s.chRecv c n then s.chanFault c m eCHAN_CLOSED
  -- the endpoint checks every send against the grade and core map (R96)
  else if s.peerAbsent (s.chPeer c n).1 (s.chPeer c n).2 then s.chanFault c m eABSENT
  else if s.get (pgCHAN c) (fChMlen n) < cMLEN m.w then s.chanFault c m eBAD_LEN
  else if !(s.hasCredit c n (cMLEN m.w)) then
    if opcode m.w = 0x63 then (s.chanSettle c m 1).popHead c uCHAN
    else s.waitHead c uCHAN m wtCredit
  else if m.began.isSome && !go then s
  else if !(s.admits c (if m.prog = wtSlot && m.began.isSome then m.ord else s.waitNo) (s.usesOf c m)) then s.waitHead c uCHAN m wtSlot
  else s.sendGo c m

/-- A close notice leaves the sending end behind the last message (R287). (DEDUCED, log 21) (DEDUCED, log 40) -/
def Chip.closeSend (s : Chip) (c n : Nat) : Chip := s.inject ⟨s.coreNode c, s.chNode c n, .closeNotice n true⟩

/-- The notice of channel `n` of core `c` has been delivered: a CLOSING end is CLOSED, and its CLOSE completes (R286, R287). (DEDUCED, log 21) -/
def Chip.closeDone (s : Chip) (c n : Nat) : Chip :=
  if s.chState c n = chCLOSING then
    (s.chClear c n).updCore c fun k => k.setRunning uCHAN ((k.running uCHAN).filter fun m => !(opcode m.w = 0x61 && cCH m.w = n))
  else s

/-- The acknowledgement of a message arrives: its command completes (R294, R295), and a CLOSE that waits for it goes on
(R287). -/
def Chip.deliveryAck (s : Chip) (c : Nat) (p : Packet) : Chip :=
  match p.body with
  | .deliveryAck n mseq =>
    let e := s.chan c n
    if p.src ≠ s.chNode c n then s
    else
      match e.sent.find? fun q => q.2 = mseq with
      | none => s
      | some q =>
        let s1 := s.setChan c n { e with sent := e.sent.erase q }
        let s2 := match s.cmdOf c uCHAN q.1 with
          | some m =>
            let t := s1.finish c uCHAN m
            if opcode m.w = 0x63 then t.chanSettle c m 0 else t
          | none => s1
        if s2.chState c n = chCLOSING && (s2.chan c n).sent.isEmpty then s2.closeSend c n else s2
  | _ => s

/-! ## Arrival of messages (R287 to R292) -/

/-- The receiving end takes no message: it is discarded and counted (R287, R288). (DEDUCED, log 41) -/
def Chip.discard (s : Chip) (c n k : Nat) : Chip := (s.inc (pgCHAN c) fDiscards k).count (pgCHAN c) (8 * n + 6) k

/-- A queue entry's 64 bytes (R291). -/
def QEntry.bytes (e : QEntry) : List (BitVec 8) :=
  let body := if hdLong e.hdr then bytesOf 4 e.ring ++ bytesOf 2 e.pad else e.data.map (·.1)
  (bytesOf 16 e.hdr.toNat ++ body ++ List.replicate 48 0).take 64

/-- The ring record of a message, as a packet brings it: the pad record and the header with the first, the zeros behind the data
with the last (R292). -/
def Chip.ringPut (s : Chip) (c n : Nat) (h : BitVec 128) (off pad pos : Nat) (data : List TByte) : Chip :=
  let e := s.chan c n
  let u := unitsOf (hdLen h)
  let plain (l : List (BitVec 8)) : List TByte := l.map fun b => (b, false)
  let s1 := if pad = 0 || pos ≠ 0 then s else
    let ph := msgHdr 0 (bf h 48 10) (bf h 40 8) (hdMseq h) n 1 false (64 * pad)
    s.store (tunAddr c (e.rbase + e.rlen - 64 * pad)) (bytesOf 16 ph.toNat ++ List.replicate (64 * pad - 16) 0)
  let head := if pos = 0 then plain (bytesOf 16 h.toNat) else []
  let fill := if pos + data.length = hdLen h then List.replicate (64 * u - 16 - hdLen h) (0, false) else []
  if u = 0 then s1 else s1.storeTagged (tunAddr c (e.rbase + off + (if pos = 0 then 0 else 16 + pos))) (head ++ data ++ fill)

/-- The whole message has come: its queue entry, which makes it visible, and its acknowledgement (R291, R292, R294). -/
def Chip.messageWhole (s : Chip) (c n : Nat) (src : Node) (h : BitVec 128) (off pad : Nat) (data : List TByte) : Chip :=
  let q := s.get (pgCHAN c) (fChRq n)
  let u := unitsOf (hdLen h)
  let at_ := (s.chan c n).rbase + off
  let oldest := (s.rq c q).any fun x => hdCh x.hdr = n && hdLong x.hdr
  let s1 := if u ≠ 0 && !oldest then s.put (pgCHAN c) (fChRptr n) at_ else s
  let entry : QEntry := { hdr := h, data := if u = 0 then data else [], ring := at_, units := u, pad := pad }
  let l := s.rq c q ++ [entry]
  let mine := l.filter fun x => hdCh x.hdr = n
  let s2 := ((s1.setRq c q l).peak (pgCHAN c) (8 * n + 5) mine.length).peak (pgCHAN c) (8 * n + 4)
    ((mine.map fun x => x.units + x.pad).sum)
  s2.inject ⟨s.coreNode c, src, .deliveryAck n (hdMseq h)⟩

/-- A packet of a message arrives (R294).  A message one of whose packets was lost (R281) is never whole. (DEDUCED, log 20; DEDUCED, log 41) -/
def Chip.messageIn (s : Chip) (c : Nat) (p : Packet) : Chip :=
  match p.body with
  | .message h off pad pos data =>
    let n := hdCh h
    let last := decide (pos + data.length = hdLen h)
    if (s.core c).inReset || s.chState c n ≠ chOPEN || !(s.chRecv c n) || decide (s.chNode c n ≠ p.src) then
      (if last then s.discard c n 1 else s)
    else
      let e := s.chan c n
      let inOrder := pos = 0 || e.part = some (hdMseq h, pos)
      if !inOrder then s
      else
        let s1 := s.ringPut c n h off pad pos data
        if last then (s1.setChan c n { e with part := none }).messageWhole c n p.src h off pad data
        else s1.setChan c n { e with part := some (hdMseq h, pos + data.length) }
  | _ => s

/-- Credits return to the sending end (R293). -/
def Chip.creditReturn (s : Chip) (c : Nat) (p : Packet) : Chip :=
  match p.body with
  | .chanCredit n q u =>
    if (s.chState c n = chOPEN || s.chState c n = chCLOSING) && !(s.chRecv c n) && decide (s.chNode c n = p.src) then
      (s.put (pgCHAN c) (fChQcred n) (s.get (pgCHAN c) (fChQcred n) + q)).put (pgCHAN c) (fChRcred n)
        (s.get (pgCHAN c) (fChRcred n) + u)
    else s
  | _ => s

/-! ## RECV (R296 to R299) -/

/-- The oldest message of a channel in its queue. -/
def Chip.oldestOf (s : Chip) (c n : Nat) : Option QEntry :=
  (s.rq c (s.get (pgCHAN c) (fChRq n))).find? fun e => hdCh e.hdr = n

/-- One queue credit and the units of a record and its pad return to the sending end (R293). -/
def Chip.recvCredit (s : Chip) (c n units : Nat) : Chip := s.inject ⟨s.coreNode c, s.chNode c n, .chanCredit n 1 units⟩

/-- RECV takes a message that it may take: data, credits, counter, and the acquire of a token message. (DEDUCED, log 41) -/
def Chip.recvGo (s : Chip) (c : Nat) (m : Cmd) (e : QEntry) : Chip :=
  let n := cCH m.w
  let p := pgCHAN c
  let q := s.get p (fChRq n)
  let len := hdLen e.hdr
  let src := tunAddr c (e.ring + 16)
  let data := if e.units = 0 then e.data else s.tbytes src len
  let uses := s.usesOf c m
  let s1 := if e.units = 0 then s else (s.noteCorr p (s.coreCtxw c) src len).noteUncorr p (s.coreCtxw c) src len
  let dst := tunAddr c (wOFF m.w)
  -- a payload word that is copied poisoned counts with the data mover's copies (R396, R489)
  let bad := (List.range ((data.length + 7) / 8)).filter fun w => ((data.drop (8 * w)).take 8).any (·.2)
  let s2 := (((s1.admitUses c uses).count (pgMOV c) 8 bad.length).noteMerge p (s.coreCtxw c) dst data.length).storeTagged dst data
  let s3 := (s2.setRq c q ((s.rq c q).erase e)).put p (fChMseq n) (s.get p (fChMseq n) + 1)
  let ce := s.chan c n
  let next := if ce.rbase + ce.rlen ≤ e.ring + 64 * e.units then ce.rbase else e.ring + 64 * e.units
  let s4 := if e.units = 0 then s3 else
    match ((s.rq c q).erase e).find? fun x => hdCh x.hdr = n && hdLong x.hdr with
    | some x => s3.put p (fChRptr n) x.ring
    | none => s3.put p (fChRptr n) next
  let s5 := ((s4.count p (8 * n) 1).count p (8 * n + 1) len).count p (8 * n + 7) (if e.pad = 0 then 0 else 1)
  let s6 := s5.updCore c fun k => { k with due := k.due ++ s.counted c uses }
  -- the credits return when the RECV completes (R293)
  let units := e.units + e.pad
  let s7 := s6.recvCredit c n units
  if hdKind e.hdr = 2 then
    match s.seeToken c (hdToken e.hdr) with
    | .done => ((s7.popHead c uCHAN).chanSettle c m 0).count (pgSYNC c) 4 1
    | .probe t seq scope =>
      let r : Cmd := { m with prog := wtProbe, began := none, addr := tkSrc (hdToken e.hdr), slot := t.dev, tag := scope, val := seq,
                              sent := units }
      (s6.toRun c uCHAN r).sendProbe c t seq scope
    | .absent => s6.faultUnit c uSYNC eABSENT m.pc
  else (s7.popHead c uCHAN).chanSettle c m len

/-- A RECV at the head of the queue: it faults, waits for a message or for its slots, or may be taken (`go`). -/
def Chip.recvHead (s : Chip) (c : Nat) (m : Cmd) (go : Bool) : Chip :=
  let n := cCH m.w
  if s.chState c n = chCLOSED || !(s.chRecv c n) then s.chanFault c m eCHAN_CLOSED
  else match s.oldestOf c n with
    | none => if s.chState c n = chPEER_CLOSED then s.chanFault c m eCHAN_CLOSED else s.waitHead c uCHAN m wtCredit
    | some e =>
      if cMLEN m.w < hdLen e.hdr then s.chanFault c m eBAD_LEN
      else
        let m1 := { m with val := hdLen e.hdr }
        let uses := s.usesOf c m1
        match s.accClash c uses with
        | some sl => s.faultNamed c uSYNC eACC sl m.pc
        | none =>
          let waited := m.began.isSome && m.prog = wtSlot
          if !(s.admits c (if waited then m.ord else s.waitNo) uses) then s.waitHead c uCHAN m1 wtSlot
          else if go then s.recvGo c m1 e
          else if waited then s else s.setHead c uCHAN { m1 with began := none }

/-- The reply to the drain probe of a token message's receive arrives: the receive completes (R138, R299). (DEDUCED, log 41) -/
def Chip.recvAcquired (s : Chip) (c : Nat) (src : Node) (seq scope : Nat) : Option Chip :=
  match ((s.core c).running uCHAN).find? fun m => opcode m.w = 0x64 && m.prog = wtProbe && decide (src = ⟨m.slot, .core m.addr⟩) &&
      m.val = seq && m.tag = scope with
  | some m => some (((((s.finish c uCHAN m).recvCredit c (cCH m.w) m.sent).chanSettle c m 0).count (pgSYNC c) 4 1).escEnd c)
  | none => none

/-! ## CLOSE (R286, R287) -/

/-- A CLOSE at the head of the queue. (DEDUCED, log 21) -/
def Chip.closeHead (s : Chip) (c : Nat) (m : Cmd) : Chip :=
  let n := cCH m.w
  let st := s.chState c n
  let q := s.get (pgCHAN c) (fChRq n)
  if st = chLISTEN then (s.chClear c n).popHead c uCHAN
  else if st = chOPEN && !(s.chRecv c n) then
    let s1 := (s.put (pgCHAN c) (fChState n) chCLOSING).toRun c uCHAN { m with prog := wtClose }
    if (s.chan c n).sent.isEmpty then s1.closeSend c n else s1
  else if st = chOPEN || st = chPEER_CLOSED then
    let gone := (s.rq c q).filter fun e => hdCh e.hdr = n
    let s1 := (s.setRq c q ((s.rq c q).filter fun e => hdCh e.hdr ≠ n)).discard c n gone.length
    let s2 := if st = chOPEN then s1.inject ⟨s.coreNode c, s.chNode c n, .closeNotice n false⟩ else s1
    (s2.chClear c n).popHead c uCHAN
  else s.chanFault c m eCHAN_CLOSED

/-- A close notice of a sending end here has been delivered to the receiving end on another device: it has left this one, by the links
(R286, R287). (DEDUCED, log 21) -/
def Chip.noticeAway (s : Chip) (p : Packet) : Chip :=
  match p.body, s.localCore p.src with
  | .closeNotice n true, some c =>
    if p.dst.dev ≠ s.devId && decide (s.chNode c n = p.dst) && (s.chan c n).sent.isEmpty && !(s.net.contains p) then s.closeDone c n else s
  | _, _ => s

/-- A close notice arrives (R286, R287). (DEDUCED, log 21) -/
def Chip.closeNotice (s : Chip) (c : Nat) (p : Packet) : Chip :=
  match p.body with
  | .closeNotice n true =>
    let s1 := if s.chState c n = chOPEN && s.chRecv c n && decide (s.chNode c n = p.src) then
        s.put (pgCHAN c) (fChState n) chPEER_CLOSED else s
    -- the sender's end is CLOSED once its notice is delivered
    (match s.localCore p.src with
     | some d => s1.closeDone d n
     | none => s1)
  | .closeNotice n false =>
    if s.chState c n = chOPEN && !(s.chRecv c n) && decide (s.chNode c n = p.src) then s.chClear c n else s
  | _ => s

/-! ## The head of the channel queue -/

/-- The head of the channel queue goes as far as it can by itself; `go` when what it waited for may have come. -/
def Chip.chanHead (s : Chip) (c : Nat) (m : Cmd) (go : Bool) : Chip :=
  let o := opcode m.w
  if o = 0x60 then
    (if m.prog = wtReply || m.prog = wtRetry then s else if cROLE m.w then s.openRecv c m else s.openSend c m)
  else if o = 0x61 then s.closeHead c m
  else if o = 0x62 || o = 0x63 then s.sendHead c m go
  else s.recvHead c m go

end Sys2Proof.Machine
end

