-- ==== Sys2Proof/Machine/Sync.lean ====
section
/-! DEFINITION. The synchronisation unit (R108, R115, R121 to R125, R133 to R142, R240, R241): FLUSH, REL, ACQ, SLSET, GRANT,
REVOKE, ARRSET, drain probes and credits.  It executes its commands one at a time, in order (R134). -/

namespace Sys2Proof.Machine

/-- A command of the synchronisation unit completes. -/
def Chip.syncDone (s : Chip) (c : Nat) (m : Cmd) : Chip := s.finish c uSYNC m

/-- The command that the synchronisation unit executes. -/
def Chip.syncCmd (s : Chip) (c : Nat) : Option Cmd := ((s.core c).running uSYNC).head?

/-- The command waits, from now on if it did not (R94). (DEDUCED, log 42) -/
def Chip.syncWait (s : Chip) (c : Nat) (m : Cmd) : Chip :=
  if m.began.isSome then s else (s.updCmd c uSYNC (s.startWait c m)).bumpWait

/-- Slot number of SLSET, GRANT, REVOKE and of a release to a slot. -/
def sySlot (m : Cmd) : Nat := sIDX m.w % 4096

/-- A 32-bit operand captured at issue: a counter when CS is 1, else the immediate. -/
def syVal (m : Cmd) (imm : Nat) : Nat := if sCS m.w then m.val else imm

/-! ## SLSET (R110, R115) -/

/-- A producer, a read or a landing write of the slot is in progress (R115). -/
def Chip.slotBusy (s : Chip) (c n : Nat) : Bool :=
  let k := s.core c
  let sl := s.slot c n
  decide (sl.started ≠ sl.done) || decide (sl.reads ≠ sl.readsDone) ||
  (k.run.any fun p => p.2.any fun m =>
    -- an ACORR holds the slots that it was admitted to, persistent ones among them (R187)
    if opcode m.w = 0x85 then m.asked.contains n else !(onSlots false m) && (s.usesOf c m).any fun u => u.1 = n) ||
  (k.loadsPend.any fun l => l.slot = some n) || (k.nwIn.any fun w => w.slot = n)

/-- SLSET writes the descriptor, and the state it names (R115); the vane port hears of it (R385). (DEDUCED, log 39) -/
def Chip.slset (s : Chip) (c n op : Nat) (d : BitVec 64) : Chip :=
  let sl := { s.slot c n with desc := slotKeep d }
  if op = 1 then (s.setSlot c n sl.emptied).vaneEmpty c n
  else if op = 2 then
    (s.setSlot c n { sl with state := 2, started := 0, done := 0, reads := 0, next := 0, readsDone := 0 }).vaneFull c n
  else s.setSlot c n sl

/-- SLSET executes once its slot is quiet and no credit is outstanding. (DEDUCED, log 39) -/
def Chip.slsetTry (s : Chip) (c : Nat) (m : Cmd) : Chip :=
  let n := sySlot m
  let d := m.w.extractLsb' 0 64
  if s.slotBusy c n || decide ((s.slot c n).crdout ≠ 0) then s.syncWait c m
  else if !(s.slotApart c n d) then s.faultNamed c uSYNC eBAD_DESC n m.pc
  else (s.slset c n (sOP m.w) d).syncDone c m

/-! ## Credits (R122, R123) -/

/-- A GRANT's conditions hold (R122). -/
def Chip.mayGrant (s : Chip) (c n d : Nat) : Bool :=
  let sl := s.slot c n
  (sl.state = 0 || sl.state = 1) && !sl.land && decide (sl.started + sl.crdout < sl.ncontrib) &&
  decide (sget natReset (s.core c).granted d < 16)

/-- The direction of GRANT and REVOKE. -/
def syDir (m : Cmd) : Nat := sSEL m.w % 4

/-- A credit is granted (R122). -/
def Chip.grantNow (s : Chip) (c : Nat) (m : Cmd) : Chip :=
  let n := sySlot m
  let d := syDir m
  let sl := s.slot c n
  match s.neighbour c d with
  | none => s
  | some nb =>
    let s1 := (s.setSlot c n { sl with crdout := sl.crdout + 1 }).updCore c fun k =>
      { k with granted := sset natReset k.granted d (sget natReset k.granted d + 1) }
    (s1.inject ⟨s.coreNode c, s.coreNode nb, .nwrCredit n⟩).syncDone c m

/-- CREDIT_GRANTED: the GRANT in execution grants, or waits. -/
def Chip.creditGranted (s : Chip) (c : Nat) : Chip :=
  match s.syncCmd c with
  | some m =>
    if opcode m.w = 0x24 then
      (if s.mayGrant c (sySlot m) (syDir m) then s.grantNow c m else s.syncWait c m)
    else s
  | none => s

/-- A credit from a neighbour arrives (R122); a core in reset takes none (R127). -/
def Chip.creditIn (s : Chip) (c : Nat) (p : Packet) : Chip :=
  match p.body, s.localCore p.src with
  | .nwrCredit n, some o =>
    (match s.dirTo c o with
     | some d => if (s.core c).inReset then s else s.updCore c fun k => { k with creds := k.creds ++ [(d, n)] }
     | none => s)
  | _, _ => s

/-- A neighbour asks for the unused credits of a slot: they are returned (R123). -/
def Chip.revokeIn (s : Chip) (c : Nat) (p : Packet) : Chip :=
  match p.body, s.localCore p.src with
  | .nwrRevoke n, some o =>
    (match s.dirTo c o with
     | some d =>
       let back := (s.core c).creds.filter fun q => q = (d, n)
       (s.updCore c fun k => { k with creds := k.creds.filter fun q => q ≠ (d, n) }).inject
         ⟨s.coreNode c, p.src, .nwrReturn n back.length⟩
     | none => s)
  | _, _ => s

/-- Returned credits reach the owner, and its REVOKE completes (R123). -/
def Chip.creditsBack (s : Chip) (c : Nat) (p : Packet) : Chip :=
  match p.body, s.localCore p.src with
  | .nwrReturn n k, some o =>
    (match s.dirTo c o with
     | some d =>
       let sl := s.slot c n
       let s1 := (s.setSlot c n { sl with crdout := sl.crdout - k }).updCore c fun x =>
         { x with granted := sset natReset x.granted d (sget natReset x.granted d - k) }
       (match s1.syncCmd c with
        | some m => if opcode m.w = 0x25 && sySlot m = n && syDir m = d then s1.syncDone c m else s1
        | none => s1)
     | none => s)
  | _, _ => s

/-! ## REL (R133 to R136, R139 to R141, R241) -/

def relScope (m : Cmd) : Nat := bf m.w 100 2
def relAddr (m : Cmd) : Nat := bf m.w 0 22
def flagCell (m : Cmd) : Nat := bf m.w 56 2 * 2 ^ 32 + wIMM0 m.w

/-- The release is numbered, counted and remembered, and completes (R139, R144, R146). (DEDUCED, log 42) -/
def Chip.relDone (s : Chip) (c : Nat) (m : Cmd) : Chip :=
  let seq := (s.get (pgSYNC c) fSyncRelSeq + 1) % 2 ^ 16
  let s1 := (s.put (pgSYNC c) fSyncRelSeq seq).updCore c fun k => { k with rels := ((seq, m.id) :: k.rels).take 16 }
  (s1.count (pgSYNC c) (relScope m) 1).syncDone c m

/-- The token of a release (R135): numbered one above the last. -/
def Chip.relToken (s : Chip) (c : Nat) (m : Cmd) : BitVec 64 :=
  tokenWord (relScope m) s.devId c (s.get (pgSYNC c) fSyncRelSeq + 1) (syVal m (wIMM1 m.w) % 2 ^ 16)

/-- A release to a slot: one producer, admitted and completed (R140), which R119 refuses as it refuses a write.  Its wait for
the slot goes on under the release's own timer (R133); a landing slot counts no producer (R124). (DEDUCED, log 42) -/
def Chip.relSlot (s : Chip) (c : Nat) (m : Cmd) : Chip :=
  let n := sySlot m
  let uses : List (Nat × Bool) := [(n, true)]
  let waited := m.prog = 1
  if !(s.slot c n).land && (s.slot c n).unranked then s.faultNamed c uSYNC eACC n m.pc
  else if (s.slot c n).land || s.admits c (if waited then m.ord else s.waitNo) uses then
    let s1 := if (s.slot c n).land then s else (s.admitProducer c n false).completeProducer c n
    s1.relDone c m
  else if waited then s
  else (s.updCmd c uSYNC { m with prog := 1, ord := s.waitNo }).bumpWait

/-- The flag word of a release or an acquire lies in the slice of the core's own cluster, which it reaches without the mesh (R17). -/
def Chip.ownFlag (_ : Chip) (c : Nat) (m : Cmd) : Bool := decide (sliceOf (flagCell m) = clusterOf c)

/-- The request for a word of `n` bytes at another port of the mesh, and its answer (R17). -/
def Chip.wordAsk (s : Chip) (c : Nat) (ep : Endpoint) (id a : Nat) (wr : Bool) : Packet :=
  ⟨s.coreNode c, ⟨s.devId, ep⟩, .lineReq id a 8 wr⟩

def Chip.wordAck (s : Chip) (c : Nat) (ep : Endpoint) (id a : Nat) (wr : Bool) : Packet :=
  ⟨⟨s.devId, ep⟩, s.coreNode c, .lineAck id a 8 wr⟩

/-- A token for a word that lies across the mesh: it leaves as a packet, is written where the packet arrives (`serve`), and the
release completes with the answer (R17, R133). (DEDUCED, log 44) -/
def Chip.relFar (s : Chip) (c : Nat) (m : Cmd) (ep : Endpoint) (a : Nat) (serve : Chip → Chip) : Chip :=
  if m.prog = 0 then (s.updCmd c uSYNC { m with prog := 2 }).inject (s.wordAsk c ep m.id a true)
  else if m.prog = 2 then
    (match s.arrive (s.wordAsk c ep m.id a true) with
     | some t => (serve (t.updCmd c uSYNC { m with prog := 3 }))
     | none => s)
  else
    match s.arrive (s.wordAck c ep m.id a true) with
    | some t => t.relDone c m
    | none => s

/-- A release delivers its token, once every earlier write in its scope is performed (R133, R241). -/
def Chip.relDeliver (s : Chip) (c : Nat) : Chip :=
  match s.syncCmd c with
  | none => s
  | some m =>
    if opcode m.w ≠ 0x21 || s.writesLeft c m.id (relScope m) then s
    else
      let word := bytesOf 8 (s.relToken c m).toNat
      match sSEL m.w with
      | 0 => s.relSlot c m
      | 1 => (s.store (tunAddr c (relAddr m)) word).relDone c m
      | 2 =>
        (match s.neighbour c (bf m.w 48 2) with
         | some nb =>
           s.relFar c m (.core nb) (relAddr m) fun t =>
             (t.store (tunAddr nb (relAddr m)) word).inject (t.wordAck c (.core nb) m.id (relAddr m) true)
         | none => s)
      | 3 =>
        let a := flagCell m
        let serve := fun (t : Chip) (fin : Chip → Chip) =>
          if t.coreMay (t.ctxOf c) a true then fin ((t.store (celAddr a) word).celCount c a true 1) else t.refuseCore c a m.pc true
        -- a slice in reset keeps the request waiting (R269)
        if s.bit (pgCEL (sliceOf a)) fResetActive && m.prog ≠ 3 then s
        else if s.ownFlag c m then serve s fun t => t.relDone c m
        else s.relFar c m (.slice (sliceOf a)) a fun t => serve t fun u => u.inject (u.wordAck c (.slice (sliceOf a)) m.id a true)
      | _ =>
        let n := sIDX m.w % 64
        if s.chState c n ≠ chOPEN || s.chRecv c n then (s.put (pgCHAN c) fFaultCh n).faultUnit c uCHAN eCHAN_CLOSED m.pc
        -- the endpoint checks every send against the grade and core map (R96)
        else if s.peerAbsent (s.chPeer c n).1 (s.chPeer c n).2 then (s.put (pgCHAN c) fFaultCh n).faultUnit c uCHAN eABSENT m.pc
        else if 0 < s.get (pgCHAN c) (fChQcred n) then (s.sendMessage c n 2 (s.relToken c m) []).relDone c m
        else s

/-! ## ACQ (R137 to R139) -/

/-- The acquire completes: the sequencer goes on (R137, R146). -/
def Chip.acqDone (s : Chip) (c : Nat) : Chip :=
  let s1 := s.updCore c fun k => { (k.setRunning uSYNC []) with acq := none }
  (s1.count (pgSYNC c) 4 1).retire c

/-- The acquirer reads its flag word, whose bits are `t` (R137, R138). -/
def Chip.acqSee (s : Chip) (c : Nat) (a : Acq) (t : BitVec 64) (pc : Nat) : Chip :=
  if !(tkReached t a.expect) then s
  else match s.seeToken c t with
    | .done => s.acqDone c
    | .probe n seq scope =>
      (s.updCore c fun k => { k with acq := some { a with phase := 1, target := some n, seq := seq, scope := scope } }).sendProbe c n
        seq scope
    | .absent => s.faultUnit c uSYNC eABSENT pc

/-- The flag word of an acquire in the core's own tun is checked (R137). -/
def Chip.acqTun (s : Chip) (c : Nat) : Chip :=
  match (s.core c).acq, s.syncCmd c with
  | some a, some m =>
    if a.phase = 0 && !a.cellar then
      (match s.tunBad c a.addr 8 with
       | some code => s.faultUnit c uSYNC code m.pc
       | none => (s.noteCorr (pgSYNC c) (s.coreCtxw c) (tunAddr c a.addr) 8).acqSee c a (BitVec.ofNat 64 (s.seenNum c uSYNC a.addr 8)) m.pc)
    else s
  | _, _ => s

/-- The slice's controller serves a poll, or refuses it (R254, R268). -/
def Chip.pollServe (s : Chip) (c : Nat) (a : Acq) (m : Cmd) (fin : Chip → Chip) : Chip :=
  if !(s.coreMay (s.ctxOf c) a.addr false) then s.refuseCore c a.addr m.pc false
  else fin ((s.celCount c a.addr false 1).celRead (s.coreCtxw c) a.addr 8)

/-- The flag word of an acquire in the cellar, as a poll has read it (R137, R138, R396). -/
def Chip.pollSee (s : Chip) (c : Nat) (a : Acq) (m : Cmd) : Chip :=
  match s.rangeBad (celAddr a.addr) 8 with
  | some code => s.faultUnit c uSYNC code m.pc
  | none => s.acqSee c a (BitVec.ofNat 64 (s.num (celAddr a.addr) 8)) m.pc

/-- A poll of the flag word of an acquire in the cellar (R137, R254): at once in the core's own slice, else as a packet of the mesh
and its answer (R17); one that the mesh has lost is sent again with the next poll.  A slice in reset keeps the request waiting
(R269). (DEDUCED, log 44) -/
def Chip.acqPoll (s : Chip) (c : Nat) : Chip :=
  match (s.core c).acq, s.syncCmd c with
  | some a, some m =>
    let ep := Endpoint.slice (sliceOf a.addr)
    let ask := s.wordAsk c ep m.id a.addr false
    let ack := s.wordAck c ep m.id a.addr false
    if !(a.phase = 0 && a.cellar) then s
    else if s.net.contains ack then
      (match s.arrive ack with
       | some t => t.pollSee c a m
       | none => s)
    else if !(s.ownFlag c m) && !(s.net.contains ask) then s.inject ask
    else if s.bit (pgCEL (sliceOf a.addr)) fResetActive then s
    else if s.ownFlag c m then s.pollServe c a m fun t => t.pollSee c a m
    else
      match s.arrive ask with
      | some t => t.pollServe c a m fun u => u.inject ack
      | none => s
  | _, _ => s

/-- ACQUIRE_COMPLETE: a flag word in the own tun is observed, or the reply to a drain probe arrives (R137, R138, R299). -/
def Chip.acquireComplete (s : Chip) (c : Nat) (reply : Option Packet) : Chip :=
  match reply with
  | none => s.acqTun c
  | some p =>
    match s.arrive p, p.body with
    | some t, .probeReply seq scope =>
      if decide (p.dst ≠ s.coreNode c) then s
      else
        let mine := match (t.core c).acq with
          | some a => a.phase = 1 && a.target = some p.src && a.seq = seq && a.scope = scope
          | none => false
        if mine then (t.acqDone c).escEnd c
        else (t.recvAcquired c p.src seq scope).getD t
    | _, _ => s

/-- The synchronisation unit starts a command. (DEDUCED, log 12) -/
def Chip.syncBegin (s : Chip) (c : Nat) (m : Cmd) : Chip :=
  let o := opcode m.w
  if o = 0x20 then (s.gatherFlush c (bf m.w 0 22) (bf m.w 32 22)).syncDone c m
  else if o = 0x21 then (s.syncWait c m)
  else if o = 0x22 then
    let a : Acq := ⟨0, sSEL m.w = 1, if sSEL m.w = 1 then flagCell m else relAddr m, syVal m (wIMM1 m.w) % 2 ^ 16, none, 0, 0⟩
    let s1 := s.updCore c fun k => { k with acq := some a }
    if a.cellar then s1.acqPoll c else s1.acqTun c
  else if o = 0x23 then s.slsetTry c m
  else if o = 0x24 then (if s.mayGrant c (sySlot m) (syDir m) then s else s.syncWait c m)
  else if o = 0x25 then
    (match s.neighbour c (syDir m) with
     | some nb => (s.inject ⟨s.coreNode c, s.coreNode nb, .nwrRevoke (sySlot m)⟩).syncWait c m
     | none => s.syncDone c m)
  else if o = 0x26 then (s.put (pgSYNC c) (fArr (bf m.w 32 4)) (syVal m (wIMM0 m.w))).syncDone c m
  else s.syncDone c m

/-- ACQ is placed in the synchronisation unit's queue, and the sequencer holds issue (R137, R240). -/
def Chip.acqIssue (s : Chip) (c : Nat) (w : IWord) : Chip :=
  let m := s.capture c w
  if queueDepth uSYNC ≤ ((s.core c).queue uSYNC).length then s.hold c (stallOf uSYNC) (s.waitTmo c) w 0
  else
    (s.updCore c fun k => { (k.setQueue uSYNC (k.queue uSYNC ++ [m])) with nextId := k.nextId + 1 }).setWait c
      ⟨13, s.edges, s.waitTmo c, s.waitNo, w, 0, []⟩

/-! ## The kiln's probe (R142) -/

/-- The kiln writes its probe register: the fields are written, and GO is taken while no probe is outstanding. -/
def Chip.kprobe (s : Chip) (c : Nat) (v : Word) : Chip :=
  let s1 := (s.put (pgSYNC c) fSyncKSeq (bf v 0 16)).put (pgSYNC c) fSyncKScope (bf v 16 2)
  if v.getLsbD 31 && !(s.bit (pgSYNC c) fSyncKBusy) then
    (s1.put (pgSYNC c) fSyncKBusy 1).probeIn c ⟨s.devId, .kiln⟩ (bf v 0 16) (bf v 16 2)
  else s1

/-- Every gather entry is written, while the sequencer runs nothing (R144). -/
def Chip.flushAll (s : Chip) (c : Nat) : Chip :=
  if s.seqIn c [sqIDLE, sqHELD, sqHALTED, sqFAULTED] then s.gatherAll c else s

end Sys2Proof.Machine
end

