-- ==== Sys2Proof/Machine/Mover.lean ====
section
/-! DEFINITION. The data mover (R117 to R127, R242 to R244): TCOPY, and both sides of a neighbour write. -/

namespace Sys2Proof.Machine

/-- A command of the data mover or cellar queue starts its wait on a slot, and keeps it (R94, R114). -/
def Chip.runWait (s : Chip) (c u : Nat) (m : Cmd) : Chip :=
  if m.began.isSome then s.updCmd c u m else (s.updCmd c u (s.startWait c m)).bumpWait

/-- The data mover reads a range of the tun to copy it: the corrected words and the uncorrectable words are logged in its page,
the poisoned ones counted (R396, R398, R489). -/
def Chip.copyRead (s : Chip) (c o n : Nat) : Chip :=
  ((s.noteCorr (pgMOV c) (s.coreCtxw c) (tunAddr c o) n).noteUncorr (pgMOV c) (s.coreCtxw c) (tunAddr c o) n).count (pgMOV c) 8
    (s.poisoned (tunAddr c o) n)

/-! ## The sender -/

/-- The steps of an NWR: it waits for its source's slots, for a credit, for the owner's answer, for a retry, for the
acknowledgement. -/
def nwSlots : Nat := 0
def nwCredit : Nat := 1
def nwAsked : Nat := 2
def nwRetry : Nat := 4
def nwSent : Nat := 5

/-- The request leaves (R121). (DEDUCED, log 42) -/
def Chip.nwrAsk (s : Chip) (c : Nat) (m : Cmd) : Chip :=
  match s.neighbour c (nDIR m.w) with
  | some nb =>
    (s.inject ⟨s.coreNode c, s.coreNode nb, .nwrRequest m.id m.slot (wOFF m.w) (dLEN m.w) (nOP m.w) (dAUX m.w) (nLAND m.w)⟩).updCmd
      c uMOV m
  | none => s

/-- An admitted NWR uses its oldest credit, or waits for one; a landing write needs none (R122, R124). (DEDUCED, log 42) -/
def Chip.nwrCreditOrWait (s : Chip) (c : Nat) (m : Cmd) : Chip :=
  let asked : Cmd := { s.startWait c { m with began := none } with prog := nwAsked }
  if nLAND m.w then s.nwrAsk c asked
  else if (s.core c).creds.contains (nDIR m.w, m.slot) then
    (s.updCore c fun k => { k with creds := k.creds.erase (nDIR m.w, m.slot) }).nwrAsk c asked
  else if m.prog = nwCredit then s.runWait c uMOV m
  else s.runWait c uMOV { m with prog := nwCredit, began := none }

/-- The most data that one packet of an operation carries: whole elements, at most 1,024 B (R117, R275). -/
def pieceSize (op : Nat) : Nat := if op = 4 then 1008 else 1024

/-- The owner has admitted the write: its source is read and its data leaves (R121). -/
def Chip.nwrSend (s : Chip) (c : Nat) (m : Cmd) (owner : Node) : Chip :=
  let n := dLEN m.w
  let data := s.tbytes (tunAddr c m.addr) n
  let sz := pieceSize (nOP m.w)
  let ps := pieces sz (n / sz + 1) data
  let s1 := s.copyRead c m.addr n
  let s2 := (List.range ps.length).foldl (fun (t : Chip) i =>
    t.inject ⟨s.coreNode c, owner, .nwrData m.id m.slot (wOFF m.w + i * sz) (nOP m.w) (nLAND m.w) (i + 1 = ps.length) ((ps[i]?).getD [])⟩) s1
  let s3 := s2.updCore c fun k => { k with due := k.due ++ m.uses }
  (s3.updCmd c uMOV { m with uses := [], prog := nwSent }).count (pgSYNC c) (if nLAND m.w then 8 else 7) 1

/-- The owner's answer arrives (R112, R121, R126, R242). (DEDUCED, log 45) -/
def Chip.nwrAnswer (s : Chip) (c : Nat) (p : Packet) : Chip :=
  match p.body with
  | .nwrAdmission id slot v =>
    (match s.cmdOf c uMOV id with
     | none => s
     | some m =>
       match v with
       | .admitted => s.nwrSend c m p.src
       | .retry => (s.updCmd c uMOV { m with prog := nwRetry }).count (pgSYNC c) 0x0A 1
       | .refused code =>
         let s1 := if code = eNW_REFUSED then s.put (pgSYNC c) fSyncNwRef 1 else s
         s1.faultNamed c (if code = eBAD_LEN then uMOV else uSYNC) code slot m.pc)
  | _ => s

/-- The data mover repeats a request, 64 cycles after its refusal (R112, R146). -/
def Chip.nwrRetry (s : Chip) (c id : Nat) : Chip :=
  match s.cmdOf c uMOV id with
  | some m => if opcode m.w = 0x42 && m.prog = nwRetry then (s.nwrAsk c { m with prog := nwAsked }).count (pgSYNC c) 0x0B 64 else s
  | none => s

/-- The owner's acknowledgement arrives: the command completes (R121). -/
def Chip.nwrAckIn (s : Chip) (c : Nat) (p : Packet) : Chip :=
  match p.body with
  | .nwrAck id =>
    (match s.cmdOf c uMOV id with
     | some m => if opcode m.w = 0x42 && m.prog = nwSent then (s.finish c uMOV m).count (pgMOV c) 6 1 else s
     | none => s)
  | _ => s

/-! ## The owner -/

/-- The owner's verdict on a request from the neighbour in direction `d` (R112, R118, R119, R122, R124, R126, R242). (DEDUCED, log 45) -/
def Chip.nwrVerdict (s : Chip) (c d slot off len op rank : Nat) (land : Bool) : NwVerdict :=
  let sl := s.slot c slot
  if (s.core c).inReset then .refused eNW_REFUSED
  else if sl.len = 0 then .refused eBAD_DESC
  else if sl.len < off + len then .refused eBAD_LEN
  else if op ≠ sl.acc then .refused eACC
  else if op ≠ 0 && decide ((sl.base + off) % (if op = 4 then 8 else 4) ≠ 0) then .refused eBAD_LEN
  else if land then (if sl.land then .admitted else .refused eNW_REFUSED)
  else if sl.unranked then .refused eACC
  else if sl.crdout = 0 || sget natReset (s.core c).granted d = 0 then .refused eNW_REFUSED
  else if sl.mayProduce true (some rank) then .admitted else .retry

/-- A request reaches the owner (R121). -/
def Chip.nwrRequestIn (s : Chip) (c : Nat) (p : Packet) : Chip :=
  match p.body, s.localCore p.src with
  | .nwrRequest id slot off len op rank land, some o =>
    (match s.dirTo c o with
     | none => s
     | some d =>
       let v := s.nwrVerdict c d slot off len op rank land
       let s1 := match v with
         | .admitted =>
           let t := if land then s else (s.admitProducer c slot true).updCore c fun k =>
             { k with granted := sset natReset k.granted d (sget natReset k.granted d - 1) }
           t.updCore c fun k => { k with nwIn := k.nwIn ++ [(⟨p.src, id, slot, land⟩ : NwIn)] }
         | _ => s
       s1.inject ⟨s.coreNode c, p.src, .nwrAdmission id slot v⟩)
  | _, _ => s

/-- The result of an accumulate on one element of 4 bytes (R117). -/
def accWord (op drnd : Nat) (ftz : Bool) (old new : Nat) : Nat :=
  if op = 1 then (old + new) % 2 ^ 32
  else if op = 2 then
    let a := ftzRead ftz 0 (f32 old)
    let b := ftzRead ftz 0 (f32 new)
    (convert 0 drnd false ftz (a.add b (drnd = 3)).1).1
  else
    let a := f32 old
    let b := f32 new
    if a.isNan || b.isNan then 0x7FC00000 else if a.ltz b then new else old

/-- One element accumulated at an address; the flag tells an LA576 sum out of range (R117, R120, R396). (DEDUCED, log 45) -/
def Chip.accElt (s : Chip) (c op a : Nat) (e : List TByte) : Chip × Bool :=
  let n := e.length
  let bad := e.any (·.2) || (wordsOf a n).any s.tagged
  let old := s.num a n
  let new := natOf (e.map (·.1))
  let la := sgn 576 old + sgn 576 new
  let v := if op = 4 then laBits la else accWord op (s.vecDrnd c) (s.vecFtz c) old new
  (s.storeTagged a ((bytesOf n v).map fun b => (b, bad)), op = 4 && !(laInRange la))

/-- Arriving elements, one after another. -/
def Chip.accAll (s : Chip) (c op sz a : Nat) : List (List TByte) → Chip × Bool
  | [] => (s, false)
  | e :: t =>
    let r := s.accElt c op a e
    let q := r.1.accAll c op sz (a + sz) t
    (q.1, r.2 || q.2)

/-- The data of an admitted write is performed (R117, R120, R124, R396). -/
def Chip.nwrPerform (s : Chip) (c slot off op : Nat) (data : List TByte) : Chip :=
  let a := tunAddr c ((s.slot c slot).base + off)
  if op = 0 then (s.noteMerge (pgSYNC c) (s.coreCtxw c) a data.length).storeTagged a data
  else
    let sz := accSize op
    let s0 := s.noteCorr (pgSYNC c) (s.coreCtxw c) a data.length
    let r := s0.accAll c op sz a (pieces sz (data.length / sz + 1) data)
    let s1 := r.1.count (pgSYNC c) 0x0F (data.length / sz)
    if r.2 then (s1.put (pgSYNC c) fSyncAccOvf 1).faultNamed c uSYNC eLA_OVF slot (s.pc c) else s1

/-- A landing write has been performed (R124). -/
def Chip.landed (s : Chip) (c slot : Nat) : Chip :=
  let k := (s.slot c slot).arr
  (s.put (pgSYNC c) (fArr k) (s.get (pgSYNC c) (fArr k) + 1)).count (pgSYNC c) 9 1

/-- Neighbour-write data arrives (R121, R124, R127). -/
def Chip.nwrDataIn (s : Chip) (c : Nat) (p : Packet) : Chip :=
  match p.body with
  | .nwrData id slot off op land last data =>
    let e : NwIn := ⟨p.src, id, slot, land⟩
    if (s.core c).inReset || !((s.core c).nwIn.contains e) then
      s.inject ⟨s.coreNode c, p.src, .nwrAdmission id slot (.refused eNW_REFUSED)⟩
    else
      let s1 := s.nwrPerform c slot off op data
      if last then
        let s2 := s1.updCore c fun k => { k with nwIn := k.nwIn.erase e }
        let s3 := if land then s2.landed c slot else s2.completeProducer c slot
        s3.inject ⟨s.coreNode c, p.src, .nwrAck id⟩
      else s1
  | _ => s

/-! ## Start of a command (R75, R242, R243) -/

/-- TCOPY's copy: code and poison travel with the data (R104, R396). (DEDUCED, log 80) -/
def Chip.tcopy (s : Chip) (c : Nat) (m : Cmd) : Chip :=
  let n := dLEN m.w
  ((s.copyRead c m.addr n).noteMerge (pgMOV c) (s.coreCtxw c) (tunAddr c m.val) n).storeTagged (tunAddr c m.val)
    (s.tbytes (tunAddr c m.addr) n)

/-- A command of the data mover in one of its four places: admitted to its slots, it goes on; else it waits. -/
def Chip.moverTry (s : Chip) (c : Nat) (m : Cmd) : Chip :=
  if m.prog = nwCredit then s.nwrCreditOrWait c m
  else if m.prog ≠ nwSlots then s
  else
    let uses := s.usesOf c m
    match s.accClash c uses with
    | some sl => s.faultNamed c uSYNC eACC sl m.pc
    | none =>
      if !(s.admits c (if m.began.isSome then m.ord else s.waitNo) uses) then s.runWait c uMOV m
      else
        let s1 := s.admitUses c uses
        let m1 := { m with uses := s.counted c uses, began := none }
        if opcode m.w = 0x43 then ((s1.tcopy c m1).finish c uMOV m1).count (pgMOV c) 7 1
        else s1.nwrCreditOrWait c m1

end Sys2Proof.Machine
end

