-- ==== Sys2Proof/Machine/Sequencer.lean ====
section
/-! DEFINITION. What the sequencer's own instructions do (R83 to R90, R97, R107, R238), and the sequencer's states. -/

namespace Sys2Proof.Machine

/-- BR taken: no level counts down; levels whose body does not hold the target close (R83, R87, R88). -/
def Chip.branch (s : Chip) (c t : Nat) : Chip :=
  let s1 := ((s.endWait c).count (pgSEQ c) 0 1).count (pgSEQ c) 0x0E 1
  -- a level that is left closes with every level inside it: what stays is the outer levels that all hold the target
  let keep := ((s.core c).loops.reverse.takeWhile fun l => decide (l.first ≤ t) && decide (t ≤ l.last)).reverse
  (s1.updCore c fun k => { k with loops := keep }).setPc c t

/-- LOOP (R84): the count is latched in a new level, or a count of zero skips the body. -/
def Chip.loop (s : Chip) (c n e : Nat) : Chip :=
  let i := s.pc c
  let s1 := (s.endWait c).count (pgSEQ c) 0 1
  if n = 0 then s1.after c e
  else (s1.updCore c fun k => { k with loops := ⟨i + 1, e, n - 1⟩ :: k.loops }).setPc c (i + 1)

/-- The remaining count of level `l`, counted from the outermost (R86). -/
def Chip.loopRem (s : Chip) (c l : Nat) : Nat :=
  match (s.core c).loops.reverse[l]? with
  | some x => x.rem
  | none => 0

/-- TDSET's field of a descriptor (R79, R238). -/
def tdSetField (d : IWord) (sel v : Nat) : IWord :=
  if sel = 0 then setBf d 0 22 v else if sel = 1 then setBf d 22 16 v else if sel = 2 then setBf d 38 16 v
  else if sel = 3 then setBf d 54 22 v else if sel = 4 then setBf d 76 22 v else if sel = 5 then setBf d 98 5 v
  else setBf d 103 2 v

/-- The slot that covers a tun offset, if any. -/
def Chip.slotAt (s : Chip) (c o : Nat) : Option Nat := (s.slotsOn c o 1).head?

/-- The slots of a sequencer read, as uses. -/
def Chip.readUses (s : Chip) (c o n : Nat) : List (Nat × Bool) := (s.slotsOn c o n).map fun m => (m, false)

/-- The sequencer's place in the order of waiting: behind everyone when it has not begun to wait (R114). -/
def Chip.seqOrd (s : Chip) (c : Nat) : Nat :=
  match (s.core c).wait with
  | some x => if x.code = 9 && x.val ≠ 0 then x.ord else s.waitNo
  | none => s.waitNo

/-- CLD issues (R80): it waits until the slot that covers its word is FULL, then its load is pending. -/
def Chip.cld (s : Chip) (c : Nat) (w : IWord) : Chip :=
  let o := s.cldAddr c w
  let uses := s.readUses c o 4
  if !(s.admits c (s.seqOrd c) uses) then s.hold c 9 (s.cmdTmo c) w (s.blocking c uses + 1)
  else
    let cu := s.counted c uses
    ((s.admitUses c uses).updCore c fun k =>
      { (k.supersede (sCA w)) with
        loadsPend := (k.supersede (sCA w)).loadsPend ++ [⟨sCA w, o, cu.head?.map (·.1), true, s.pc c⟩] }).retire c

/-- The oldest pending CLD of counter `n` completes: the word is read and its counted read completes (R80, R107, R396).  A
counter that a later instruction has written keeps that value (R97). -/
def Chip.cldComplete (s : Chip) (c n : Nat) : Chip :=
  match (s.core c).loadsPend.find? fun p => p.cnt = n with
  | none => s
  | some p =>
    match s.tunBad c p.addr 4 with
    | some code => s.faultCore c (pgSEQ c) code 0xFF p.pc
    | none =>
      let s1 := s.updCore c fun k => { k with loadsPend := k.loadsPend.erase p }
      let s0 := s1.noteCorr (pgSEQ c) (s.coreCtxw c) (tunAddr c p.addr) 4
      let s2 := if p.live then s0.setCnt c n (BitVec.ofNat 32 (s.seenNum c 0 p.addr 4)) else s0
      match p.slot with
      | some m => s2.completeRead c m
      | none => s2

/-- TDLOAD (R79): consecutive descriptors from tun words, read through the slot interlock. -/
def Chip.tdload (s : Chip) (c : Nat) (w : IWord) : Chip :=
  let o := bf w 0 22
  let n := bf w 32 5
  let uses := s.readUses c o (16 * n)
  if !(s.admits c (s.seqOrd c) uses) then s.hold c 9 (s.cmdTmo c) w (s.blocking c uses + 1)
  else match s.tunBad c o (16 * n) with
    -- the words that are corrected are logged and counted although another is bad (R394, R398)
    | some code => (s.noteCorr (pgSEQ c) (s.coreCtxw c) (tunAddr c o) (16 * n)).faultSeq c code 0xFF
    | none =>
      let s1 := (s.admitUses c uses).noteCorr (pgSEQ c) (s.coreCtxw c) (tunAddr c o) (16 * n)
      let s2 := s1.forEach (List.range n) fun t i => t.setDesc c (sTD w + i) (tdKeep (BitVec.ofNat 128 (s.seenNum c 0 (o + 16 * i) 16)))
      (((s.counted c uses).foldl (fun t u => t.completeRead c u.1) s2)).retire c

/-- The instruction-memory blocks of a load change state. -/
def Chip.setBlocks (s : Chip) (c first n v : Nat) : Chip :=
  s.updCore c fun k => (List.range n).foldl (fun a i => a.setBlock (first + i) v) k

/-- WAITB's target beat (R49). -/
def Chip.fenceTarget (s : Chip) (c : Nat) (w : IWord) : Nat :=
  (s.get64 (pgSEQ c) 0x118 + wIMM0 w + (if sCS w then (s.cnt c (sCA w)).toNat else 0)) % 2 ^ 64

/-- Overruns count towards the limit: not in interlock-governed mode (R65), nor frozen below the declared floor (R63). -/
def Chip.ovrFrozen (s : Chip) : Bool := s.belowFloor

/-- An overrun is recorded (R50, R51). -/
def Chip.overrun (s : Chip) (c t : Nat) : Chip :=
  let late := s.beat - t
  let s1 := s.inc (pgSEQ c) fSeqOvrCount 1
  let s2 := if s.ovrFrozen then s1 else s1.inc (pgSEQ c) fSeqOvrConsec 1
  let s3 := s2.updCore c fun k => { k with ovrPc := s.pc c }
  (s3.put64 (pgSEQ c) 0x138 s.beat).put (pgSEQ c) fSeqOvrMax (max (s.get (pgSEQ c) fSeqOvrMax) (min late (2 ^ 32 - 1)))

/-- WAITB arrives at its fence (R49 to R51). -/
def Chip.waitb (s : Chip) (c : Nat) (w : IWord) : Chip :=
  let t := s.fenceTarget c w
  if s.beat < t then s.hold c 1 (s.waitTmo c) w t else (s.overrun c t).retire c

/-- A fence is met (R49, R51): the beat copy has reached the target. -/
def Chip.fenceMet (s : Chip) (c : Nat) : Chip :=
  match (s.core c).wait with
  | some x =>
    if x.code = 1 && decide (x.val ≤ s.beat) && s.seqIn c [sqRUNNING, sqHELD] then
      let s1 := if s.ovrFrozen then s else s.put (pgSEQ c) fSeqOvrConsec 0
      (s1.count (pgSEQ c) 2 1).retire c
    else s
  | none => s

/-- Every queue is empty and every engine idle (R71, R238). -/
def Core.enginesIdle (k : Core) : Bool :=
  (k.q.all fun p => p.2.isEmpty) && (k.run.all fun p => p.2.isEmpty) && k.due.isEmpty && k.loadsPend.isEmpty && k.loads.isEmpty

/-- END waits for the gather buffer and the engines (R106, R238). -/
def Chip.endIssue (s : Chip) (c : Nat) (w : IWord) : Chip :=
  (s.gatherAll c).hold c 14 (s.waitTmo c) w 0

/-- END completes: HALTED, and the completion interrupt (R71, R472).  The narrow writes that engines made while it waited are
written, so that the gather buffer is empty (R106).  PC keeps END's own index, of which the spec says nothing. (DEDUCED, log 80) (DESIGN CHOICE, log 94) -/
def Chip.endComplete (s : Chip) (c : Nat) : Chip :=
  match (s.core c).wait with
  | some x =>
    if x.code = 14 && s.seqState c = sqRUNNING && (s.core c).enginesIdle then
      ((((s.gatherAll c).endWait c).count (pgSEQ c) 0 1).put (pgSEQ c) fSeqState sqHALTED).raise (pgSEQ c) 0
    else s
  | none => s

/-- OVERRUN_LIMIT (R52): more consecutive overruns than the limit, which 0 removes and interlock-governed mode does not
apply (R65).  The count is the field OVR_CONSEC, which saturates at 255 (R99), so that a limit of 255 is never exceeded.
(DESIGN CHOICE, log 93) -/
def Chip.overrunLimit (s : Chip) (c : Nat) : Chip :=
  let lim := s.get (pgSEQ c) fSeqOvrLimit
  if lim ≠ 0 && decide (lim < s.get (pgSEQ c) fSeqOvrConsec) && s.get (pgSEQ c) fSeqIgmAct = 0 && s.seqState c = sqRUNNING then
    s.faultCore c (pgSEQ c) eOVERRUN 0xFF (s.core c).ovrPc
  else s

/-- CST (R80, R107): a narrow write of the sequencer. -/
def Chip.cst (s : Chip) (c : Nat) (w : IWord) : Chip :=
  (s.narrow c 0 (s.cldAddr c w) (bytesOf 4 (s.cnt c (sCA w)).toNat)).retire c

/-- CMPCFG (R81, R99). -/
def Chip.cmpcfg (s : Chip) (c : Nat) (w : IWord) : Chip :=
  let k := pgSEQ c + 0x1A0 + 8 * sSEL w
  let r := setBf (setBf (setBf (s.reg k) 0 4 (sCA w)) 4 3 (sOP w)) 7 1 (if sCS w then 1 else 0)
  (if sCS w then s.setReg k (setBf r 8 4 (sCB w)) else (s.setReg k r).setReg (k + 4) (BitVec.ofNat 32 (wIMM0 w))).retire c

/-- The load of an overlay entry (R89): number of blocks, first block, cellar address. -/
def ovlNblk (e : IWord) : Nat := bf e 41 7
def ovlFirst (e : IWord) : Nat := bf e 34 7
def ovlSrc (e : IWord) : Nat := bf e 0 34

/-- OVL (R90): its entry is read through the slot interlock and checked, its blocks become LOADING, the load is queued. (DEDUCED, log 37) -/
def Chip.ovl (s : Chip) (c : Nat) (w : IWord) : Chip :=
  let o := s.get (pgSEQ c) fSeqOvlBase + 16 * bf w 0 8
  let uses := s.readUses c o 16
  if queueDepth uCEL ≤ ((s.core c).queue uCEL).length then s.hold c (stallOf uCEL) (s.waitTmo c) w 0
  else if !(s.admits c (s.seqOrd c) uses) then s.hold c 9 (s.cmdTmo c) w (s.blocking c uses + 1)
  else match s.tunBad c o 16 with
    | some code => (s.noteCorr (pgSEQ c) (s.coreCtxw c) (tunAddr c o) 16).faultSeq c code 0xFF
    | none =>
      let e : IWord := BitVec.ofNat 128 (s.seenNum c 0 o 16)
      let s1 := (s.counted c uses).foldl (fun t u => t.completeRead c u.1)
        ((s.admitUses c uses).noteCorr (pgSEQ c) (s.coreCtxw c) (tunAddr c o) 16)
      if 96 < ovlFirst e + ovlNblk e || ovlNblk e = 0 || ovlSrc e % 64 ≠ 0 then s1.faultSeq c eILLEGAL 0x07
      else if ovlFirst e ≤ s.pc c / 64 && s.pc c / 64 < ovlFirst e + ovlNblk e then s1.faultSeq c eILLEGAL 0x06
      else
        let m := { s.capture c w with tag := 16, addr := ovlSrc e, val := ovlNblk e * 1024 }
        let s2 := (s1.setBlocks c (ovlFirst e) (ovlNblk e) 1).updCore c fun k =>
          { k with loads := k.loads ++ [⟨m.id, ovlFirst e, ovlNblk e, ovlSrc e, true⟩] }
        s2.queueCmd c uCEL m

/-- The loader's image load from cellar address `src` is accepted while no program is armed (R67, R71): in IDLE, and in LOADING
beside the loads under way, on which the state table is silent. (DEDUCED, log 84) (DESIGN CHOICE, log 95) -/
def Chip.imageLoad (s : Chip) (c first nblk src : Nat) : Chip :=
  if s.present c && !(s.core c).inReset && s.seqIn c [sqIDLE, sqLOADING] && decide (nblk ≠ 0) && decide (first + nblk ≤ 96) then
    (((s.setBlocks c first nblk 1).updCore c fun k =>
      { k with loads := k.loads ++ [⟨k.nextId, first, nblk, src, false⟩], nextId := k.nextId + 1 })).put (pgSEQ c) fSeqState sqLOADING
  else s

/-- The controllers read the lines of an image load for the core's data mover (R67, R268). (DEDUCED, log 84) -/
def Chip.imageSee (s : Chip) (c src nblk : Nat) : Chip :=
  (List.range (16 * nblk)).foldl (fun t i => (t.celCount c (src + 64 * i) false 1).celRead (s.coreCtxw c) (src + 64 * i) 64) s

/-- Every block of an image load is written: the controllers correct what they read, poison travels with it (R67, R104, R268, R396);
LOADING ends with the last load (R71). (DEDUCED, log 44) -/
def Chip.imageLoadDone (s : Chip) (c id : Nat) : Chip :=
  match (s.core c).loads.find? fun l => l.id = id && !l.ovl with
  | none => s
  | some l =>
    -- a slice in reset keeps the read waiting (R269)
    if s.seqState c = sqLOADING && !(s.sliceWaits l.src (1024 * l.nblk)) then
      let s1 := (s.imageSee c l.src l.nblk).storeTagged (imAddr c (64 * l.first)) (s.tbytes (celAddr l.src) (1024 * l.nblk))
      let s2 := (s1.setBlocks c l.first l.nblk 2).updCore c fun k => { k with loads := k.loads.filter fun x => x.id ≠ id }
      if (s2.core c).loads.isEmpty then s2.put (pgSEQ c) fSeqState sqIDLE else s2
    else s

/-- The transfers outstanding under a tag (R239). -/
def Core.tagged (k : Core) (t : Nat) : List Nat :=
  ((k.queue uCEL ++ k.running uCEL).filter fun m => m.tag = t).map (·.id)

/-- CWAIT (R239). -/
def Chip.cwait (s : Chip) (c : Nat) (w : IWord) : Chip :=
  let ids := (s.core c).tagged (bf w 0 4)
  if ids = [] then s.retire c else s.setWait c ⟨11, s.edges, s.waitTmo c, s.waitNo, w, 0, ids⟩

/-- The wait of a CWAIT ends when none of the transfers it waits for is left (R239). -/
def Chip.cwaitComplete (s : Chip) (c : Nat) : Chip :=
  match (s.core c).wait with
  | some x =>
    if x.code = 11 && s.seqIn c [sqRUNNING, sqHELD] &&
       !(((s.core c).queue uCEL ++ (s.core c).running uCEL).any fun m => x.ids.contains m.id) then s.retire c
    else s
  | none => s

/-- The arrival counter and the number of a WAITARR (R125, R238). -/
def Chip.arrMet (s : Chip) (c k n : Nat) : Bool := decide (n ≤ s.get (pgSYNC c) (fArr k))

/-- WAITARR (R125). -/
def Chip.waitarr (s : Chip) (c : Nat) (w : IWord) : Chip :=
  let k := bf w 32 4
  let n := if sCS w then (s.cnt c (sCA w)).toNat else wIMM0 w
  if s.arrMet c k n then s.retire c else s.setWait c ⟨12, s.edges, s.waitTmo c, s.waitNo, w, n + k * 2 ^ 32, []⟩

def Chip.waitarrMet (s : Chip) (c : Nat) : Chip :=
  match (s.core c).wait with
  | some x =>
    if x.code = 12 && s.seqIn c [sqRUNNING, sqHELD] && s.arrMet c (x.val / 2 ^ 32) (x.val % 2 ^ 32) then s.retire c else s
  | none => s

/-! ## START and HOLD (R71 to R73) -/

/-- The counts of a core that START clears (R100, R146, R191, R193, R223, R304): every count of its pages but the router's. -/
def Chip.clearCoreCounts (s : Chip) (c : Nat) : Chip :=
  ((((((s.clearCounts (pgSEQ c) 0 0x200).clearCounts (pgMTX c) 0 0x200).clearCounts (pgVEC c) 0 0x200).clearCounts (pgMOV c) 0
    0x200).clearCounts (pgADJ c) 0 0x200).clearCounts (pgSYNC c) 0 0x200).clearCounts (pgCHAN c) 0 0x200

/-- START (R72, R399): from IDLE or HALTED, in an ACTIVE context, the program counter is loaded and the core is armed. (DEDUCED, log 28; DEDUCED, log 38) -/
def Chip.start (s : Chip) (c : Nat) : Chip :=
  if s.seqIn c [sqIDLE, sqHALTED] && s.ctxState (s.ctxOf c) = 1 then
    let p := pgSEQ c
    let late := if s.get64 p 0x110 ≤ s.beat then 1 else 0
    let s1 := (((s.setPc c (s.get p fSeqStartPc)).put p fSeqState sqARMED).put p fSeqLate late).put p fSeqIgmAct (s.get p fSeqIgm)
    let s2 := ((((s1.put p fSeqOvrConsec 0).put p fSeqOvrCount 0).put p fSeqOvrMax 0).put64 p 0x138 0)
    let s3 := (((s2.setReg (pgVEC c + 0x108) 0).put (pgSYNC c) fSyncEsc 0).put (pgSYNC c) fSyncEscCyc 0).put (pgSYNC c) fSyncProbes 0
    (((s3.put (pgADJ c) ⟨0x110, 0, 32⟩ 0).put (pgVEC c) ⟨0x104, 9, 1⟩ 0).clearCoreCounts c).updCore c fun k =>
      { k with loops := [], wait := none, adjMmul := 0, adjDone := 0, corr := [], splitIssued := false, chain := none,
               chainIssued := none, deferred := false, waitBase := s.waitNo }
  else s

/-- HOLD set: a RUNNING core stops at an instruction boundary; its own waits stop their timers (R71, R73). (DEDUCED, log 28) -/
def Chip.holdSet (s : Chip) (c : Nat) : Chip :=
  let s1 := s.put (pgSEQ c) fBlkCtrlHold 1
  if s.seqState c = sqRUNNING then
    (s1.updCore c fun k => { k with wait := k.wait.map fun x => { x with began := s.edges - x.began } }).put (pgSEQ c) fSeqState sqHELD
  else s1

/-- HOLD cleared: a HELD core issues again, and its waits' timers go on (R71, R73). -/
def Chip.holdClear (s : Chip) (c : Nat) : Chip :=
  let s1 := s.put (pgSEQ c) fBlkCtrlHold 0
  if s.seqState c = sqHELD then
    (s1.updCore c fun k => { k with wait := k.wait.map fun x => { x with began := s.edges - x.began } }).put (pgSEQ c) fSeqState sqRUNNING
  else s1

/-! ## The commands -/

/-- NOP: one issue slot and no effect (R238). -/
def execNop (c : Nat) (w : IWord) : State → Host.Outcome State Fault Refusal :=
  onCore c fun s => s.issue c w (· = 0x00) fun t => t.retire c

/-- END (R71, R238). -/
def execEndI (c : Nat) (w : IWord) : State → Host.Outcome State Fault Refusal :=
  onCore c fun s => s.issue c w (· = 0x01) fun t => t.endIssue c w

def execEndComplete (c : Nat) : State → Host.Outcome State Fault Refusal := onCore c fun s => s.endComplete c

/-- BR (R83, R88). -/
def execBr (c : Nat) (w : IWord) : State → Host.Outcome State Fault Refusal :=
  onCore c fun s => s.issue c w (· = 0x02) fun t => t.branch c (sIDX w)

/-- LOOP (R84 to R87). -/
def execLoop (c : Nat) (w : IWord) : State → Host.Outcome State Fault Refusal :=
  onCore c fun s => s.issue c w (· = 0x03) fun t => t.loop c (if sCS w then (t.cnt c (sCA w)).toNat else wIMM0 w) (sIDX w)

/-- LPREM (R86). -/
def execLprem (c : Nat) (w : IWord) : State → Host.Outcome State Fault Refusal :=
  onCore c fun s => s.issue c w (· = 0x04) fun t =>
    (t.writeCnt c (sCA w) (BitVec.ofNat 32 (t.loopRem c (bf w 103 2)))).retire c

/-- CSET (R238). -/
def execCset (c : Nat) (w : IWord) : State → Host.Outcome State Fault Refusal :=
  onCore c fun s => s.issue c w (· = 0x05) fun t => (t.writeCnt c (sCA w) (BitVec.ofNat 32 (wIMM0 w))).retire c

/-- CADD (R238). -/
def execCadd (c : Nat) (w : IWord) : State → Host.Outcome State Fault Refusal :=
  onCore c fun s => s.issue c w (· = 0x06) fun t =>
    (t.setCnt c (sCA w) (t.cnt c (sCA w) + if sCS w then t.cnt c (sCB w) else BitVec.ofNat 32 (wIMM0 w))).retire c

/-- CMOV (R238). -/
def execCmov (c : Nat) (w : IWord) : State → Host.Outcome State Fault Refusal :=
  onCore c fun s => s.issue c w (· = 0x07) fun t => (t.writeCnt c (sCA w) (t.cnt c (sCB w))).retire c

/-- CLD (R80). -/
def execCld (c : Nat) (w : IWord) : State → Host.Outcome State Fault Refusal :=
  onCore c fun s => s.issue c w (· = 0x08) fun t => t.cld c w

def execCldComplete (c k : Nat) : State → Host.Outcome State Fault Refusal := onCore c fun s => s.cldComplete c k

/-- CST (R80, R107). -/
def execCst (c : Nat) (w : IWord) : State → Host.Outcome State Fault Refusal :=
  onCore c fun s => s.issue c w (· = 0x09) fun t => t.cst c w

/-- CMPCFG (R81). -/
def execCmpcfg (c : Nat) (w : IWord) : State → Host.Outcome State Fault Refusal :=
  onCore c fun s => s.issue c w (· = 0x0A) fun t => t.cmpcfg c w

/-- TDSET (R79, R238). -/
def execTdset (c : Nat) (w : IWord) : State → Host.Outcome State Fault Refusal :=
  onCore c fun s => s.issue c w (· = 0x0B) fun t =>
    (t.setDesc c (sTD w) (tdSetField (t.desc c (sTD w)) (sSEL w) (wIMM0 w))).retire c

/-- TDADD (R79, R238): modulo 2^22. -/
def execTdadd (c : Nat) (w : IWord) : State → Host.Outcome State Fault Refusal :=
  onCore c fun s => s.issue c w (· = 0x0C) fun t =>
    let d := t.desc c (sTD w)
    (t.setDesc c (sTD w) (setBf d 0 22 (tdBase d + wIMM0 w + if sCS w then (t.cnt c (sCB w)).toNat else 0))).retire c

/-- TDLOAD (R79). -/
def execTdload (c : Nat) (w : IWord) : State → Host.Outcome State Fault Refusal :=
  onCore c fun s => s.issue c w (· = 0x0D) fun t => t.tdload c w

def execImageLoad (c first nblk src : Nat) : State → Host.Outcome State Fault Refusal :=
  onCore c fun s => s.imageLoad c first nblk src

def execImageLoadDone (c id : Nat) : State → Host.Outcome State Fault Refusal := onCore c fun s => s.imageLoadDone c id

/-- WAITB (R49 to R51). -/
def execWaitb (c : Nat) (w : IWord) : State → Host.Outcome State Fault Refusal :=
  onCore c fun s => s.issue c w (· = 0x0F) fun t => t.waitb c w

def execOverrunLimit (c : Nat) : State → Host.Outcome State Fault Refusal := onCore c fun s => s.overrunLimit c

def execFenceMet (c : Nat) : State → Host.Outcome State Fault Refusal := onCore c fun s => s.fenceMet c

/-- CWAIT (R239). -/
def execCwait (c : Nat) (w : IWord) : State → Host.Outcome State Fault Refusal :=
  onCore c fun s => s.issue c w (· = 0x10) fun t => t.cwait c w

def execCwaitComplete (c : Nat) : State → Host.Outcome State Fault Refusal := onCore c fun s => s.cwaitComplete c

/-- WAITARR (R125). -/
def execWaitarr (c : Nat) (w : IWord) : State → Host.Outcome State Fault Refusal :=
  onCore c fun s => s.issue c w (· = 0x11) fun t => t.waitarr c w

def execWaitarrMet (c : Nat) : State → Host.Outcome State Fault Refusal := onCore c fun s => s.waitarrMet c

/-- UNDEFINED_OPCODE (R98): any word whose opcode is undefined. -/
def execUndefinedOpcode (c : Nat) (w : IWord) : State → Host.Outcome State Fault Refusal :=
  onCore c fun s => s.issue c w (fun o => !(opDefined o)) fun t => t

def execStart (c : Nat) : State → Host.Outcome State Fault Refusal := onCore c fun s => s.toCore c (·.start c)

def execHoldSet (c : Nat) : State → Host.Outcome State Fault Refusal := onCore c fun s => s.toCore c (·.holdSet c)

def execHoldClear (c : Nat) : State → Host.Outcome State Fault Refusal := onCore c fun s => s.toCore c (·.holdClear c)

end Sys2Proof.Machine
end

