-- ==== Sys2Proof/Machine/CellarQ.lean ====
section
/-! DEFINITION. The cellar queue of a core (R258 to R260): CFETCH, CSTORE and overlay loads, line by line. -/

namespace Sys2Proof.Machine

/-- The cellar range of a transfer. -/
def celRange (m : Cmd) : Nat × Nat := (m.addr, if opcode m.w = 0x0E then m.val else dLEN m.w)

/-- The transfer stores to the cellar. -/
def celWrites (m : Cmd) : Bool := opcode m.w = 0x41

/-- The number of 64 B lines of a transfer. -/
def celLines (m : Cmd) : Nat := (m.addr + (celRange m).2 - 1) / 64 - m.addr / 64 + 1

/-- Line `i` of a transfer: its offset in the transfer and its bytes. -/
def celLine (m : Cmd) (i : Nat) : Nat × Nat :=
  let lo := max m.addr ((m.addr / 64 + i) * 64)
  let hi := min (m.addr + (celRange m).2) ((m.addr / 64 + i + 1) * 64)
  (lo - m.addr, hi - lo)

/-- A transfer may not start beside an earlier one whose cellar range it overlaps, when either stores (R259). -/
def celBlocked (m : Cmd) (run : List Cmd) : Bool :=
  run.any fun x => (celWrites m || celWrites x) && decide (m.addr < x.addr + (celRange x).2) && decide (x.addr < m.addr + (celRange m).2)

/-- The line requests of a core that are outstanding (R258). -/
def Core.linesOut (k : Core) : Nat := ((k.running uCEL).map fun m => m.sent - m.got.length).sum

/-- The packets of line `i` of a transfer to and from the slice of another cluster (R17, R261). -/
def Chip.linePacket (s : Chip) (c : Nat) (m : Cmd) (i : Nat) : Packet :=
  let l := celLine m i
  ⟨s.coreNode c, ⟨s.devId, .slice (sliceOf m.addr)⟩, .lineReq m.id (m.addr + l.1) l.2 (celWrites m)⟩

def Chip.lineAnswer (s : Chip) (c : Nat) (m : Cmd) (i : Nat) : Packet :=
  let l := celLine m i
  ⟨⟨s.devId, .slice (sliceOf m.addr)⟩, s.coreNode c, .lineAck m.id (m.addr + l.1) l.2 (celWrites m)⟩

/-- The slice of a transfer is the core's own, which it reaches without the mesh (R17). -/
def ownSlice (c : Nat) (m : Cmd) : Bool := sliceOf m.addr = clusterOf c

/-- A running transfer asks for its next lines, as far as 512 may be outstanding (R258). (DEDUCED, log 44) -/
def Chip.askLines (s : Chip) (c : Nat) (m : Cmd) : Chip :=
  let n := min (celLines m - m.sent) (512 - (s.core c).linesOut)
  if m.prog ≠ 1 || n = 0 then s
  else
    let t : Chip := if ownSlice c m then s else { s with net := s.net ++ (List.range n).map fun i => s.linePacket c m (m.sent + i) }
    t.updCmd c uCEL { m with sent := m.sent + n }

/-- Every running transfer of the core asks for lines, the earliest first (R258). -/
def Chip.celAsk (s : Chip) (c : Nat) : Chip := ((s.core c).running uCEL).foldl (fun t m => t.askLines c m) s

/-- A transfer in one of the queue's four places: admitted to its slots, its lines are asked for; else it waits (R258). -/
def Chip.celTry (s : Chip) (c : Nat) (m : Cmd) : Chip :=
  if m.prog ≠ 0 then s
  else
    let uses := s.usesOf c m
    match s.accClash c uses with
    | some sl => s.faultNamed c uSYNC eACC sl m.pc
    | none =>
      if !(s.admits c (if m.began.isSome then m.ord else s.waitNo) uses) then s.runWait c uCEL m
      else ((s.admitUses c uses).updCmd c uCEL { m with uses := s.counted c uses, began := none, prog := 1 }).celAsk c

/-- A line request reaches its slice's controller, which refuses it or serves it (R254, R255, R258, R268); one from another cluster
as its packet of the mesh, whose answer leaves (R17).  While the slice's cluster is in reset the request waits (R269). (DEDUCED, log 44) -/
def Chip.lineRequest (s : Chip) (c id i : Nat) : Chip :=
  match s.cmdOf c uCEL id with
  | none => s
  | some m =>
    let l := celLine m i
    let a := m.addr + l.1
    if m.prog ≠ 1 || m.sent ≤ i || m.asked.contains i || s.bit (pgCEL (sliceOf a)) fResetActive ||
       !(ownSlice c m || (s.arrive (s.linePacket c m i)).isSome) then s
    else
      let s0 : Chip := if ownSlice c m then s else s.netTake (s.linePacket c m i)
      if !(s.coreMay (s.ctxOf c) a (celWrites m)) then s0.refuseCore c a m.pc (celWrites m)
      else
        let s1 := (s0.celCount c a (celWrites m) 1).updCmd c uCEL { m with asked := m.asked ++ [i] }
        let s2 := if ownSlice c m then s1 else (s1.count (pgMOV c) 4 1).inject (s.lineAnswer c m i)
        if celWrites m then s2 else s2.celRead (s.coreCtxw c) a l.2

/-- The destination of a transfer's line is written; codes and poison travel with the data (R104, R396). (DEDUCED, log 44) -/
def Chip.linePerform (s : Chip) (c : Nat) (m : Cmd) (i : Nat) : Chip :=
  let l := celLine m i
  let a := celAddr (m.addr + l.1)
  if opcode m.w = 0x40 then
    (((s.count (pgMOV c) 8 (s.poisoned a l.2)).count (pgMOV c) 2 l.2).noteMerge (pgMOV c) (s.coreCtxw c) (tunAddr c (m.val + l.1))
      l.2).storeTagged (tunAddr c (m.val + l.1)) (s.tbytes a l.2)
  else if opcode m.w = 0x41 then
    (((s.copyRead c (m.val + l.1) l.2).count (pgMOV c) 3 l.2).celMerge (s.coreCtxw c) (m.addr + l.1) l.2).storeTagged a
      (s.tbytes (tunAddr c (m.val + l.1)) l.2)
  else
    match (s.core c).loads.find? fun x => x.id = m.id with
    | some x =>
      ((s.count (pgMOV c) 8 (s.poisoned a l.2)).count (pgMOV c) 2 l.2).storeTagged (imAddr c (64 * x.first) + l.1) (s.tbytes a l.2)
    | none => s

/-- A line is performed at its destination; a CFETCH or CSTORE whose last line this is completes, at its slots too (R111,
R258). (DEDUCED, log 44) -/
def Chip.lineReturn (s : Chip) (c id i : Nat) : Chip :=
  match s.cmdOf c uCEL id with
  | none => s
  | some m =>
    if !(m.asked.contains i) || m.got.contains i ||
       !(ownSlice c m || (s.arrive (s.lineAnswer c m i)).isSome) then s
    else
      let m1 := { m with got := m.got ++ [i] }
      let s0 : Chip := if ownSlice c m then s else s.netTake (s.lineAnswer c m i)
      let s1 := (s0.linePerform c m i).updCmd c uCEL m1
      if m1.got.length = celLines m && opcode m.w ≠ 0x0E then
        ((s1.finishNow c uCEL m1).count (pgMOV c) (if celWrites m then 1 else 0) 1).celAsk c
      else s1.celAsk c

/-- An overlay load has written its last instruction: its blocks are VALID (R67, R90). -/
def Chip.ovlDone (s : Chip) (c id : Nat) : Chip :=
  match s.cmdOf c uCEL id, (s.core c).loads.find? fun x => x.id = id with
  | some m, some x =>
    if opcode m.w = 0x0E && m.got.length = celLines m then
      (((s.setBlocks c x.first x.nblk 2).updCore c fun k => { k with loads := k.loads.filter fun y => y.id ≠ id }).finish c uCEL m).count
        (pgSEQ c) 0x0F 1
    else s
  | _, _ => s

end Sys2Proof.Machine
end

