-- ==== Sys2Proof/Machine/VectorVals.lean ====
section
/-! DEFINITION. The vector engine's functions of values: elementwise results (R204), transcendental functions (R211, R212),
the random-number generator (R216). -/

namespace Sys2Proof.Machine

/-! ## Elementwise -/

/-- VMIN and VMAX (R204): +0 above −0, NaN when an operand is NaN. -/
def minVal (a b : Val) : Val := if a.isNan || b.isNan then .nan else if b.ltz a then b else a
def maxVal (a b : Val) : Val := if a.isNan || b.isNan then .nan else if a.ltz b then b else a

/-- VCMP's condition (R204, R247). -/
def cmpVal (cond : Nat) (a b : Val) : Bool :=
  if a.isNan || b.isNan then cond = 1
  else if cond = 0 then a.eqv b
  else if cond = 1 then !(a.eqv b)
  else if cond = 2 then a.lt b
  else if cond = 3 then a.lt b || a.eqv b
  else if cond = 4 then b.lt a
  else b.lt a || a.eqv b

/-- The result of an elementwise command on exact values, with the flags of the operation itself (R204). -/
def eltOp (o : Nat) (rdn : Bool) (a b c : Val) : Val × Flags :=
  if o = 0xA1 then a.add b rdn
  else if o = 0xA2 then a.add b.neg rdn
  else if o = 0xA3 then a.mul b
  else if o = 0xA4 then
    let p := a.mul b
    let r := p.1.add c rdn
    (r.1, p.2 ||| r.2)
  else if o = 0xA5 then (minVal a b, 0)
  else if o = 0xA6 then (maxVal a b, 0)
  else if o = 0xA7 then (a.abs, 0)
  else if o = 0xA8 then (a.neg, 0)
  else (a, 0)

/-! ## Fixed-point constants and series, with `fxP` bits after the point -/

def fxP : Nat := 320
def fxOne : Nat := 2 ^ fxP

/-- ln 2 = Σ 1 ÷ (k 2^k). -/
def fxLn2 : Nat := (List.range 330).foldl (fun a k => a + fxOne / ((k + 1) * 2 ^ (k + 1))) 0

/-- e^r for 0 ≤ r < 1, by its power series. -/
def fxExp (r : Nat) : Nat :=
  ((List.range 90).foldl (fun (st : Nat × Nat) k => (st.1 + st.2, st.2 * r / fxOne / (k + 1))) (0, fxOne)).1

/-- ln x for 1 ≤ x < 2, by the series of 2 artanh ((x − 1) ÷ (x + 1)). -/
def fxLn (x : Nat) : Nat :=
  let z := (x - fxOne) * fxOne / (x + fxOne)
  let z2 := z * z / fxOne
  2 * ((List.range 110).foldl (fun (st : Nat × Nat) k => (st.1 + st.2 / (2 * k + 1), st.2 * z2 / fxOne)) (0, z)).1

/-- A magnitude known to be inexact: an odd one far below every format's precision. -/
def sticky (m : Nat) (e : Int) : Val := .fin false (2 * m + 1) (e - 1)

/-- e^(−t) for a positive t = m × 2^e, as a magnitude and an exponent. -/
def expNeg (m : Nat) (e : Int) : Nat × Int :=
  if 40 ≤ e + bitLen m then (1, -(2 ^ 30))
  else
    let t := shl m (e + fxP)
    let k := t / fxLn2
    let r := t % fxLn2
    (fxOne * fxOne / fxExp r, -(fxP : Int) - k)

/-- 2^a (R211) for a finite a: the value and whether it is an exact case. -/
def exp2Val (neg : Bool) (m : Nat) (e : Int) : Val × Bool :=
  if m = 0 then (.fin false 1 0, true)
  else if 20 ≤ e + bitLen m then (if neg then (.fin false 1 (-(2 ^ 20)), true) else (.fin false 1 (2 ^ 20), true))
  else if 0 ≤ e || m % 2 ^ (-e).toNat = 0 then
    let n : Int := shl m e
    (.fin false 1 (if neg then -n else n), true)
  else
    let t := shl m (e + fxP)
    let k := t / fxOne
    let f := t % fxOne
    if (e + fxP : Int) < 0 then
      -- an argument below the series' resolution: beside 1
      (if neg then .fin false (2 ^ 200 - 1) (-200) else .fin false (2 ^ 200 + 1) (-200), false)
    else if neg then (sticky (fxExp ((fxOne - f) * fxLn2 / fxOne)) (-(fxP : Int) - k - 1), false)
    else (sticky (fxExp (f * fxLn2 / fxOne)) (-(fxP : Int) + k), false)

/-- log₂ of a positive m × 2^e, and whether it is an exact case: a power of two. -/
def log2Val (m : Nat) (e : Int) : Val × Bool :=
  let n := bitLen m - 1
  let k : Int := e + n
  if m = 2 ^ n then (.ofInt k 0, true)
  else
    let l := fxLn (shl m ((fxP : Int) - n)) * fxOne / fxLn2
    let v : Int := k * fxOne + l
    (.fin (decide (v < 0)) (2 * v.natAbs + 1) (-(fxP : Int) - 1), false)

/-- 1 ÷ √(m × 2^e). -/
def rsqrtVal (m : Nat) (e : Int) : Val :=
  let m1 := if e % 2 = 0 then m else 2 * m
  let e1 := if e % 2 = 0 then e else e - 1
  let q := 2 ^ 320 / m1
  let r := Nat.sqrt q
  if r * r * m1 = 2 ^ 320 then .fin false r (-160 - e1 / 2) else sticky r (-160 - e1 / 2)

/-- tanh of a positive m × 2^e: (1 − y) ÷ (1 + y) with y = e^(−2a), and beside a or 1 where they cannot be told apart in FP32. -/
def tanhVal (m : Nat) (e : Int) : Val :=
  if e + bitLen m ≤ -30 then .fin false (m * 2 ^ 64 - 1) (e - 64)
  else if 7 ≤ e + bitLen m then .fin false (2 ^ 200 - 1) (-200)
  else
    let y := expNeg m (e + 1)
    let f := shl y.1 (y.2 + fxP)
    sticky ((fxOne - f) * fxOne / (fxOne + f)) (-(fxP : Int))

/-- 1 ÷ (1 + e^(−a)) for a finite a that is not 0. -/
def sigmVal (neg : Bool) (m : Nat) (e : Int) : Val :=
  let y := expNeg m e
  if neg then
    if y.2 < -(fxP : Int) - 300 then .fin false 1 (-(2 ^ 20))
    else
      -- y ÷ (1 + y), with y's own precision kept
      let k := (-(fxP : Int) - y.2).toNat
      let f := shl y.1 (y.2 + fxP)
      sticky (y.1 * fxOne / (fxOne + f)) (-(fxP : Int) - k)
  else if 8 ≤ e + bitLen m then .fin false (2 ^ 200 - 1) (-200)
  else if e + bitLen m ≤ -(fxP : Int) + 20 then .fin false (2 ^ 199 + 1) (-200)
  else
    let f := shl y.1 (y.2 + fxP)
    sticky (fxOne * fxOne / (fxOne + f)) (-(fxP : Int))

/-- What a function gives before rounding: a special value with its flags, or a value to be rounded with whether it is one of
the exact cases of R211's table and the fast-mode bound in ulp. -/
inductive Trans where
  | special (v : Val) (f : Flags)
  | value (v : Val) (exact : Bool) (ulp : Nat)
  deriving DecidableEq, Repr

/-- The transcendental commands by opcode, on FP32 values (R211). -/
def trans (o : Nat) (a b : Val) : Trans :=
  match o, a with
  | 0xC6, _ =>
    let r := a.div b
    match r.1 with
    | .fin n m e => if a.isZero || !(b.isFin) then .special r.1 r.2 else .value (.fin n m e) false 0
    | v => .special v r.2
  | _, .nan => .special .nan 0
  | 0xC1, .inf true => .special Val.zero 0
  | 0xC1, .inf false => .special (.inf false) 0
  | 0xC1, .fin n m e => let r := exp2Val n m e; .value r.1 r.2 1
  | 0xC2, .inf true => .special .nan flINVALID
  | 0xC2, .inf false => .special (.inf false) 0
  | 0xC2, .fin n m e =>
    if m = 0 then .special (.inf true) flDIVZERO else if n then .special .nan flINVALID
    else let r := log2Val m e; .value r.1 r.2 1
  | 0xC3, .inf n => .special (.fin n 0 0) 0
  | 0xC3, .fin n m e =>
    if m = 0 then .special (.inf n) flDIVZERO
    else let r := divMag 1 m; .value (.fin n r.1 (r.2 - e)) false 0
  | 0xC4, .inf true => .special .nan flINVALID
  | 0xC4, .inf false => .special Val.zero 0
  | 0xC4, .fin n m e =>
    if m = 0 then .special (.inf n) flDIVZERO else if n then .special .nan flINVALID else .value (rsqrtVal m e) false 1
  | 0xC5, .inf true => .special .nan flINVALID
  | 0xC5, .inf false => .special (.inf false) 0
  | 0xC5, .fin n m e =>
    if m = 0 then .special (.fin n 0 0) 0 else if n then .special .nan flINVALID
    else let r := sqrtMag m e; .value (.fin false r.1 r.2) false 0
  | 0xC7, .inf n => .special (.fin n 1 0) 0
  | 0xC7, .fin n m e =>
    if m = 0 then .value (.fin n 0 0) false 2
    else match tanhVal m e with
      | .fin _ p q => .value (.fin n p q) false 2
      | v => .value v false 2
  | 0xC8, .inf true => .special Val.zero 0
  | 0xC8, .inf false => .special (.fin false 1 0) 0
  | 0xC8, .fin n m e => .value (if m = 0 then .fin false 1 (-1) else sigmVal n m e) false 2
  | _, v => .special v 0

/-- A fast-mode result: the correctly rounded magnitude moved by a free error within the table's bound of `k` ulp (R211, R212;
DESIGN CHOICE, log 14); a subnormal or zero result is bounded by nothing the spec states and is free; one that overflows is
infinite (R161, R211). -/
def fastResult (o inBits k : Nat) (v : Val) : Nat :=
  let rn := (encodeFp 0 fp32 1 false false v).1
  let rz := (encodeFp 0 fp32 2 false false v).1
  let mag : Nat := rz % 2 ^ 31
  let sg : Nat := rz / 2 ^ 31
  let err := Config.fastError o inBits
  if 0x7F800000 ≤ rn % 2 ^ 31 then rn
  else if mag < 2 ^ 23 then sg * 2 ^ 31 + (err % (8388609 : Int)).toNat
  else
    let exact := v.eqv (f32 rz)
    let lo : Int := if exact then -(k : Int) else 1 - (k : Int)
    let width : Int := if exact then 2 * (k : Int) + 1 else 2 * (k : Int)
    let r := (mag : Int) + lo + err % width
    sg * 2 ^ 31 + (if r < 2 ^ 23 then 2 ^ 23 else min r.toNat 0x7F7FFFFF)

/-- A transcendental command on one element, as an FP32 value (R211, R212): under flush-to-zero the result is flushed (R162). (DESIGN CHOICE, log 14; DEDUCED, log 24) -/
def transElt (o : Nat) (exactMode ftz : Bool) (a b : Val) : Val × Flags :=
  match trans o a b with
  | .special v f => (v, f)
  | .value v ex k =>
    let r := encodeFp 0 fp32 1 false ftz v
    let fl := if ex then r.2 else r.2 ||| flINEXACT
    if exactMode || ex || k = 0 then (f32 r.1, fl)
    else
      let q := fastResult o (bits32 a) k v
      let p := encodeFp 0 fp32 1 false ftz (f32 q)
      -- a result is tiny only when it is not zero (R162, R165)
      let tiny : Flags := if q % 2 ^ 31 < 2 ^ 23 && !(v.isZero && q % 2 ^ 31 = 0) then flUNDERFLOW else 0
      (f32 p.1, p.2 ||| flINEXACT ||| tiny ||| (r.2 &&& flOVERFLOW))
where
  /-- the FP32 bits of a value -/
  bits32 (v : Val) : Nat := (encodeFp 0 fp32 1 false false v).1

/-! ## Random numbers (R216) -/

/-- One round of Philox-4x32. -/
def philoxRound (k0 k1 : Nat) (x : Nat × Nat × Nat × Nat) : Nat × Nat × Nat × Nat :=
  let (c0, c1, c2, c3) := x
  let p0 := 0xD2511F53 * c0
  let p1 := 0xCD9E8D57 * c2
  (((p1 / 2 ^ 32) ^^^ c1) ^^^ k0, p1 % 2 ^ 32, ((p0 / 2 ^ 32) ^^^ c3) ^^^ k1, p0 % 2 ^ 32)

/-- Philox-4x32-10 (R216): the four output words. -/
def philox (k0 k1 : Nat) (x : Nat × Nat × Nat × Nat) : Nat × Nat × Nat × Nat :=
  (List.range 10).foldl (fun st r =>
    philoxRound ((k0 + r * 0x9E3779B9) % 2 ^ 32) ((k1 + r * 0xBB67AE85) % 2 ^ 32) st) x

/-- A row record (R215). -/
structure RowRec where
  seed : Nat
  stream : Nat
  step : Nat
  pos : Nat
  temp : Nat
  topp : Nat
  topk : Nat
  deriving DecidableEq, Repr

/-- The record in a 32-byte number. -/
def rowRec (v : Nat) : RowRec :=
  ⟨v % 2 ^ 64, v / 2 ^ 64 % 2 ^ 32, v / 2 ^ 96 % 2 ^ 32, v / 2 ^ 128 % 2 ^ 32, v / 2 ^ 160 % 2 ^ 32, v / 2 ^ 192 % 2 ^ 32,
   v / 2 ^ 224 % 2 ^ 16⟩

/-- Draw number `e` of a row (R216). -/
def draw (r : RowRec) (e tag : Nat) : Nat :=
  let x := philox (r.seed % 2 ^ 32) (r.seed / 2 ^ 32) (e / 4, r.pos, r.step, r.stream % 2 ^ 20 * 4096 + tag)
  match e % 4 with
  | 0 => x.1
  | 1 => x.2.1
  | 2 => x.2.2.1
  | _ => x.2.2.2

/-- The FP32 uniform of an output word (R216). -/
def uniform (w : Nat) : Val := .fin false (w / 2 ^ 8) (-24)

end Sys2Proof.Machine
end

