-- ==== Sys2Proof/Machine/Vector.lean ====
section
/-! DEFINITION. The vector engine (R194 to R221): a command's rows, how they are written, hazards, completion. -/

namespace Sys2Proof.Machine

/-! ## Sources -/

/-- The format of a source as flush-to-zero sees it: a CB4 element counts as its entry (R153, R162). -/
def srcFmt (f : Nat) : Nat := if f = 8 then 3 else if f = 9 then 1 else f

/-- The command's source descriptors in order. -/
def srcDesc (m : Cmd) (i : Nat) : IWord := if i = 0 then m.dA else if i = 1 then m.dB else m.dC

/-- The command is a floating-point command (R199). -/
def vecFloat (m : Cmd) : Bool :=
  let o := opcode m.w
  let n := if o = 0xAB then 2 else (vecForms o).length
  let kinds : List Nat := (if o = 0xAA then [] else [tdFmt m.dD]) ++
    ((List.range n).filter fun i => (vecGiven m.w)[i]? ≠ some 3).map fun i => tdFmt (srcDesc m i)
  match kinds with
  | [] => true
  | f :: _ => fmtFloat f

/-- The immediate that source `i` reads: the first IMM source IMM0, the second IMM1 (R233). -/
def immOf (m : Cmd) (i : Nat) : Nat :=
  if ((vecGiven m.w).take i).any (· = 3) then wIMM1 m.w else wIMM0 m.w

/-- The values of a row of a tile as the vector engine reads it; `t` is the device at the command's start, whose CB4 tables it read before
its first line (R153). -/
def Chip.vecVals (s t : Chip) (c : Nat) (d : IWord) (i : Nat) : List Val := s.rowValsBy c uVEC d (t.cbEntry c uVEC d) i

/-- The values of source `i` for row `r` of D (R198, R199). -/
def Chip.srcRow (s t : Chip) (c : Nat) (m : Cmd) (ftz : Bool) (i r n : Nat) : List Val :=
  let d := srcDesc m i
  let form := ((vecGiven m.w)[i]?).getD 0
  let fz (v : Val) : Val := ftzRead ftz (srcFmt (tdFmt d)) v
  if form = 0 then (s.vecVals t c d r).map fz
  else if form = 1 then (s.vecVals t c d 0).map fz
  else if form = 2 then List.replicate n (fz ((s.vecVals t c d r).headD Val.zero))
  else List.replicate n (if vecFloat m then ftzRead ftz 0 (f32 (immOf m i)) else .ofInt (sgn 32 (immOf m i)) 0)

/-- What reading a source for element (i, j) of D meets. -/
def Chip.srcBad (s : Chip) (c : Nat) (m : Cmd) (k i j : Nat) : Option Nat :=
  let d := srcDesc m k
  let form := ((vecGiven m.w)[k]?).getD 0
  if form = 0 then s.eltBad c d i j else if form = 1 then s.eltBad c d 0 j else if form = 2 then s.eltBad c d i 0 else none

/-- The 32 bytes of row record `i` (R215). -/
def recAt (d : IWord) (i : Nat) : Nat := tdBase d + i * tdStride d

/-- What computing element (i, j) of D meets (R221). -/
def Chip.vecEltBad (s : Chip) (c : Nat) (m : Cmd) (i j : Nat) : Option Nat :=
  let o := opcode m.w
  if o = 0xA9 && tdScl m.dD = 1 then
    (span (j / 32 * 32) (min (j / 32 * 32 + 32) (tdCols m.dD))).foldl (fun a k => worse a (s.srcBad c m 0 i k)) none
  else if o = 0xAC then worse (s.srcBad c m 0 i j) (s.rowBad c m.dB 0)
  else if o = 0xC0 then
    if tFN m.w / 8 % 2 = 1 then
      let col := if 4 ≤ tFN m.w % 8 then j / 2 else j
      (List.range (tdRows m.dA)).foldl (fun a r => worse a (s.eltBad c m.dA r col)) none
    else s.rowBad c m.dA i
  else if o = 0xC9 then s.tunBad c (recAt m.dA i) 32
  else if o = 0xCA then s.rowBad c m.dA i
  else if o = 0xCB then worse (s.rowBad c m.dA i) (s.tunBad c (recAt m.dB i) 32)
  else (List.range (vecForms o).length).foldl (fun a k => worse a (s.srcBad c m k i j)) none

/-! ## Rows of results: each element's bits and flags -/

/-- How a command rounds: RND, SAT, flush-to-zero, exact mode and the lanes of a fast sum. -/
structure VecMode where
  rnd : Nat
  sat : Bool
  ftz : Bool
  exact : Bool
  lanes : Nat
  deriving DecidableEq, Repr

def Chip.vecMode (s : Chip) (c : Nat) (m : Cmd) : VecMode :=
  ⟨s.rnd c (tRND m.w), tSAT m.w, s.vecFtz c, s.vecExact c, if m.split then 64 else 256⟩

/-- The format holds a NaN (R151). -/
def fmtNan (f : Nat) : Bool := match fpOf f with
  | some p => p.nan.isSome
  | none => false

/-- A row of an elementwise command (R204, R205).  VABS and VNEG raise no flag into a format that has a NaN. -/
def eltRow (m : Cmd) (v : VecMode) (as bs cs : List Val) : List (Nat × Flags) :=
  let o := opcode m.w
  let fmt := tdFmt m.dD
  (as.zip (bs.zip cs)).map fun x =>
    let (a, b, c) := x
    if o = 0xAA then (if cmpVal (tFN m.w % 8) a b then 1 else 0, 0)
    else if o = 0xAB then convert fmt v.rnd v.sat v.ftz (if c.isZero then b else a)
    else
      let r := eltOp o (v.rnd = 3) a b c
      let q := convert fmt v.rnd v.sat v.ftz r.1
      if (o = 0xA7 || o = 0xA8) && fmtNan fmt then (q.1, 0) else (q.1, r.2 ||| q.2)

/-- VPOLY by Horner's rule (R205). -/
def polyElt (m : Cmd) (v : VecMode) (cs : List Val) (a : Val) : Nat × Flags :=
  let r := (cs.reverse.drop 1).foldl (fun (st : Val × Flags) k =>
    let p := st.1.mul a
    let q := p.1.add k false
    let z := rne32 v.ftz q.1
    (z.1, st.2 ||| p.2 ||| q.2 ||| z.2)) (cs.getLastD Val.zero, 0)
  let z := convert (tdFmt m.dD) v.rnd v.sat v.ftz r.1
  (z.1, r.2 ||| z.2)

/-- The exponent of the largest finite value of a microscaled element format (R156). -/
def mxEmax (f : Nat) : Int := if f = 3 then 8 else if f = 4 then 15 else if f = 5 then 4 else if f = 6 then 2 else if f = 7 then 2 else 0

/-- One block of a microscaled destination (R156): its scale byte, its elements and their flags. (DEDUCED, log 32) -/
def mxBlock (f rnd : Nat) (vs : List Val) : Nat × List (Nat × Flags) :=
  let put (x : Int) (v : Val) : Nat × Flags :=
    match v with
    | .inf neg =>
      ((match fpOf f with
        | some q => signBit q neg + q.max
        | none => (convert f rnd true false v).1), flSATURATION ||| flINEXACT)
    | .fin n p e => convert f rnd true false (.fin n p (if f = 0x0C then e - x + 127 + 6 else e - x + 127))
    | .nan => (0, 0)
  if vs.any Val.isNan then (255, vs.map fun _ => (0, 0))
  else if vs.any fun v => !(v.isFin) then (254, vs.map (put 254))
  else
    let mags := vs.filterMap fun v => match v with
      | .fin _ p e => if p = 0 then none else some (e + bitLen p - 1)
      | _ => none
    match mags with
    | [] => (0, vs.map (put 0))
    | k :: t =>
      let x := max 0 (min 254 (t.foldl max k - mxEmax f + 127))
      (x.toNat, vs.map (put x))

/-- The elements of a tile's row run through VCVT: the bits with their flags, and the scale bytes when D has SCL 1. -/
def cvtRow (m : Cmd) (v : VecMode) (as : List Val) : List (Nat × Flags) × List Nat :=
  let f := tdFmt m.dD
  let rnd := if tdFmt m.dA = 0x11 then 1 else v.rnd
  if tdScl m.dD = 1 then
    let bl := (runs 32 (as.length + 1) as).map (mxBlock f rnd)
    (bl.flatMap (·.2), bl.map (·.1))
  else (as.map (convert f rnd v.sat v.ftz), [])

/-! ## Reductions (R206 to R209) -/

/-- One step of a fast sum: v + x, or x × x + v with one rounding. -/
def sumStep (ftz sq : Bool) (st : Val × Flags) (x : Val) : Val × Flags :=
  let p := if sq then x.mul x else (x, 0)
  let q := p.1.add st.1 false
  let z := rne32 ftz q.1
  (z.1, st.2 ||| p.2 ||| q.2 ||| z.2)

/-- A tree level adds adjacent pairs (R206). -/
def treeLevel (ftz : Bool) (f : Flags) : List Val → List Val × Flags
  | a :: b :: t =>
    let z := sumStep ftz false (a, f) b
    let r := treeLevel ftz z.2 t
    (z.1 :: r.1, r.2)
  | l => (l, f)

/-- A fast sum over a row: lanes, then a tree (R206). -/
def laneSum (ftz sq : Bool) (lanes : Nat) (l : List Val) : Val × Flags :=
  let passes := runs lanes (l.length + 1) l
  let ls := (List.range lanes).map fun i =>
    passes.foldl (fun st p => match p[i]? with
      | some x => sumStep ftz sq st x
      | none => st) ((.fin true 0 0 : Val), (0 : Flags))
  let f0 := ls.foldl (fun f p => f ||| p.2) 0
  let r := (List.range (if lanes = 64 then 6 else 8)).foldl (fun (st : List Val × Flags) _ => treeLevel ftz st.2 st.1) (ls.map (·.1), f0)
  (r.1.headD Val.zero, r.2)

/-- The exact sum in LA576 (R208). -/
def exactSum (sq : Bool) (l : List Val) : Int × Bool :=
  l.foldl (fun st x => if x.isFin then (st.1 + laOf (if sq then (x.mul x).1 else x), st.2) else (st.1, true)) (0, false)

/-- ARGMAX and ARGMIN (R209): the value's FP32 bits, with the flags of that conversion (R162, R165), and the index among the
elements that are not NaN; of the two zeros +0 counts as the larger. (DESIGN CHOICE, log 101) -/
def argBest (min ftz : Bool) (base : Nat) (l : List Val) : (Nat × Flags) × Nat :=
  let best := ((List.range l.length).zip l).foldl (fun (st : Option (Nat × Val)) p =>
    if p.2.isNan then st else
      match st with
      | none => some p
      | some q => if (if min then p.2.ltz q.2 else q.2.ltz p.2) then some p else st) none
  match best with
  | some p => (encodeFp 0 fp32 1 false ftz p.2, (base + p.1) % 2 ^ 32)
  | none => ((if min then 0x7F800000 else 0xFF800000, 0), 0xFFFFFFFF)

/-- One reduction (R206 to R209): the words it writes into D.  `tree` says that the row direction's lanes and tree apply.  The
terms of a sum are the elements' exact values, integers and microscaled integers too (R155): every addition of a fast sum rounds
to FP32 (R206, R207), and an exact sum adds in LA576 (R208). -/
def redElts (m : Cmd) (v : VecMode) (tree : Bool) (l : List Val) : List (Nat × Flags) :=
  let fn := tFN m.w % 8
  let fmt := tdFmt m.dD
  if 4 ≤ fn then
    let r := argBest (fn = 5) v.ftz (wIMM0 m.w) l
    [r.1, (r.2, 0)]
  else if fn = 2 || fn = 3 then
    let r := match l with
      | [] => Val.zero
      | x :: t => t.foldl (fun a b => if fn = 2 then maxVal a b else minVal a b) x
    [convert fmt v.rnd v.sat v.ftz r]
  else if fmt = 0x11 || v.exact then
    let r := exactSum (fn = 1) l
    if fmt = 0x11 then [(laBits r.1, if r.2 then flINVALID else 0)]
    else if r.2 then (let q := convert fmt 1 v.sat v.ftz .nan; [(q.1, q.2 ||| flINVALID)])
    else [convert fmt 1 v.sat v.ftz (.ofInt r.1 (-300))]
  else
    let r := if tree then laneSum v.ftz (fn = 1) v.lanes l else l.foldl (sumStep v.ftz (fn = 1)) (.fin true 0 0, 0)
    let q := convert fmt v.rnd v.sat v.ftz r.1
    [(q.1, r.2 ||| q.2)]

/-! ## Selection and sampling (R219, R220) -/

/-- A value with an index comes before another: larger value first, then lower index; +0 counts as the larger of the two zeros.
(DESIGN CHOICE, log 101) -/
def before (a b : Val × Nat) : Bool := b.1.ltz a.1 || (!(a.1.ltz b.1) && decide (a.2 < b.2))

/-- Insert into a list that is in order. -/
def insertBy (x : Val × Nat) : List (Val × Nat) → List (Val × Nat)
  | [] => [x]
  | y :: t => if before y x then y :: insertBy x t else x :: y :: t

/-- The k largest elements with their indices (R219). -/
def topk (k : Nat) (l : List (Val × Nat)) : List (Val × Nat) :=
  ((l.filter fun p => !p.1.isNan).foldl (fun a x => (insertBy x a).take k) [])

/-- A row of VTOPK: the pairs as words, padded (R219). -/
def topkRow (ftz : Bool) (k : Nat) (l : List (Val × Nat)) : List (Nat × Flags) :=
  let t := topk k l
  (t.flatMap fun p => [encodeFp 0 fp32 1 false ftz p.1, (p.2, 0)]) ++
  (List.replicate (k - t.length) [((0xFF800000 : Nat), (0 : Flags)), (0xFFFFFFFF, 0)]).flatten

/-- An FP32 step by RNE (R220, R162). -/
def step32 (ftz : Bool) (r : Val × Flags) : Val × Flags :=
  let z := rne32 ftz r.1
  (z.1, r.2 ||| z.2)

/-- ln x = log₂ x × FP32 ln 2 (R220). -/
def ln32 (exact ftz : Bool) (x : Val) : Val × Flags :=
  let l := transElt 0xC2 exact ftz x x
  let p := step32 ftz (l.1.mul (f32 0x3F317218))
  (p.1, l.2 ||| p.2)

/-- A sum in increasing order from −0 (R220). -/
def seqSum (ftz : Bool) (l : List Val) : Val × Flags :=
  l.foldl (fun (st : Val × Flags) x => let r := step32 ftz (st.1.add x false); (r.1, st.2 ||| r.2)) (.fin true 0 0, 0)

/-- VSAMPLE on one row (R220): the chosen index, its probability's bits, the flags, and the random words it drew (R223). -/
def sampleRow (exact ftz : Bool) (tag : Nat) (r : RowRec) (pairs : List (Val × Nat)) : Nat × Nat × Flags × Nat :=
  let ps := (pairs.filter fun p => p.2 ≠ 0xFFFFFFFF).map fun p => (ftzRead ftz 0 p.1, p.2)
  let n := ps.length
  match ps with
  | [] => (0xFFFFFFFF, 0x7FC00000, flINVALID, 0)
  | p0 :: _ =>
    let k := if r.topk = 0 || n < r.topk then n else r.topk
    let temp := ftzRead ftz 0 (f32 r.temp)
    if !(!temp.isNan && Val.zero.lt temp) then (p0.2, 0x3F800000, 0, 0)
    else
      let zs := (ps.take k).map fun p =>
        let d := step32 ftz (p.1.add p0.1.neg false)
        let q := step32 ftz (d.1.div temp)
        (q.1, d.2 ||| q.2)
      let es := zs.map fun z =>
        let x := step32 ftz (z.1.mul (f32 0x3FB8AA3B))
        let y := transElt 0xC1 exact ftz x.1 x.1
        (y.1, x.2 ||| y.2)
      let e := es.map (·.1)
      let sum := seqSum ftz e
      let topp := ftzRead ftz 0 (f32 r.topp)
      let lim := step32 ftz (topp.mul sum.1)
      let scan := (List.range k).find? fun j =>
        let q := (seqSum ftz (e.take (j + 1))).1
        !q.isNan && !(q.lt lim.1)
      let full := topp.isNan || !(topp.lt (.fin false 1 0))
      let keep := if full then k else if !(Val.zero.lt topp) then 1 else if !sum.1.isFin then k else match scan with
        | some j => j + 1
        | none => k
      let gs := (List.range keep).map fun i =>
        let u := step32 ftz ((uniform (draw r ((ps[i]?).getD p0).2 tag)).add (.fin false 1 (-25)) false)
        let a := ln32 exact ftz u.1
        let b := ln32 exact ftz a.1.neg
        let z := step32 ftz ((((zs.map (·.1))[i]?).getD Val.zero).add b.1.neg false)
        (z.1, u.2 ||| a.2 ||| b.2 ||| z.2)
      let best := ((List.range keep).zip gs).foldl (fun (st : Option (Nat × Val)) p =>
        if p.2.1.isNan then st else
          match st with
          | none => some (p.1, p.2.1)
          | some q => if q.2.lt p.2.1 then some (p.1, p.2.1) else st) none
      let i := match best with
        | some p => p.1
        | none => 0
      let tot := seqSum ftz (e.take keep)
      let pr := step32 ftz (((e[i]?).getD Val.zero).div tot.1)
      let fl := (zs.map (·.2) ++ es.map (·.2) ++ gs.map (·.2)).foldl (fun a b => a ||| b)
        (sum.2 ||| tot.2 ||| pr.2 ||| (if full || !(Val.zero.lt topp) then 0 else lim.2))
      (((ps[i]?).getD p0).2, (encodeFp 0 fp32 1 false false pr.1).1, fl, keep)

/-! ## A command's rows -/

/-- VSAMPLE on row `i` of the candidate list (R220). -/
def Chip.sampleAt (s : Chip) (c : Nat) (m : Cmd) (v : VecMode) (i : Nat) : Nat × Nat × Flags × Nat :=
  let ps := (List.range (tdCols m.dA / 2)).map fun j =>
    (f32 (s.eltBits c uVEC m.dA i (2 * j)), s.eltBits c uVEC m.dA i (2 * j + 1))
  sampleRow v.exact v.ftz (bf m.w 32 12) (rowRec (s.seenNum c uVEC (recAt m.dB i) 32)) ps

/-- The random words that row `i` of D takes (R216, R220, R223). -/
def Chip.vecWords (s : Chip) (c : Nat) (m : Cmd) (v : VecMode) (i : Nat) : Nat :=
  if opcode m.w = 0xCB then (s.sampleAt c m v i).2.2.2 else if opcode m.w = 0xC9 then tdCols m.dD else 0

/-- Row `i` of D: the bits and flags of its elements, and its scale bytes. (DEDUCED, log 32) -/
def Chip.vecRow (s t : Chip) (c : Nat) (m : Cmd) (v : VecMode) (i : Nat) : List (Nat × Flags) × List Nat :=
  let o := opcode m.w
  let n := tdCols m.dD
  let src (k : Nat) : List Val := s.srcRow t c m v.ftz k i n
  if o = 0xA9 then cvtRow m v (src 0)
  else if o = 0xAC then
    let cs := ((s.vecVals t c m.dB 0).map (ftzRead v.ftz 0)).take (tFN m.w % 16 + 1)
    ((src 0).map (polyElt m v cs), [])
  else if o = 0xC0 then
    let col := tFN m.w / 8 % 2 = 1
    if col then
      let rows := (List.range (tdRows m.dA)).map fun r => (s.vecVals t c m.dA r).map (ftzRead v.ftz (srcFmt (tdFmt m.dA)))
      ((List.range (tdCols m.dA)).flatMap fun j => redElts m v false (rows.map fun r => (r[j]?).getD Val.zero), [])
    else (redElts m v true ((s.vecVals t c m.dA i).map (ftzRead v.ftz (srcFmt (tdFmt m.dA)))), [])
  else if 0xC1 ≤ o && o ≤ 0xC8 then
    let bs := if o = 0xC6 then src 1 else src 0
    (((src 0).zip bs).map fun x =>
      let a := rne32 v.ftz x.1
      let b := rne32 v.ftz x.2
      let r := transElt o v.exact v.ftz a.1 b.1
      let q := convert (tdFmt m.dD) v.rnd v.sat v.ftz r.1
      (q.1, a.2 ||| (if o = 0xC6 then b.2 else 0) ||| r.2 ||| q.2), [])
  else if o = 0xC9 then
    let r := rowRec (s.seenNum c uVEC (recAt m.dA i) 32)
    ((List.range n).map fun j =>
      let w := draw r (wIMM0 m.w + j) (bf m.w 32 12)
      (if tdFmt m.dD = 0 then (encodeFp 0 fp32 1 false false (uniform w)).1 else w, 0), [])
  else if o = 0xCA then
    let k := bf m.w 32 7
    if tMODE m.w / 2 = 1 then
      let ws := (List.range (tdCols m.dA / 2)).map fun j => (s.eltBits c uVEC m.dA i (2 * j), s.eltBits c uVEC m.dA i (2 * j + 1))
      (topkRow v.ftz k ((ws.filter fun p => p.2 ≠ 0xFFFFFFFF).map fun p => (ftzRead v.ftz 0 (f32 p.1), p.2)), [])
    else
      let int := fmtInt (tdFmt m.dA)
      let cs := (s.vecVals t c m.dA i).map fun x => if int then rne32 v.ftz x else (ftzRead v.ftz (srcFmt (tdFmt m.dA)) x, 0)
      let fl := cs.foldl (fun f x => f ||| x.2) 0
      -- the conversion of every element reports (R165)
      ((topkRow v.ftz k (((List.range cs.length).zip cs).map fun p => (p.2.1, (wIMM0 m.w + p.1) % 2 ^ 32))).map
        fun x => (x.1, x.2 ||| fl), [])
  else if o = 0xCB then
    let x := s.sampleAt c m v i
    ([(x.1, x.2.2.1), (x.2.1, 0)], [])
  else
    let as := src 0
    let bs := if 2 ≤ (vecForms o).length then src 1 else as
    let cs := if 3 ≤ (vecForms o).length then src 2 else as
    (eltRow m v as bs cs, [])

/-- A fault at element (i, j) of D (R221): the lines of the row before the one that holds it are written. -/
def Chip.vecFault (s : Chip) (c : Nat) (m : Cmd) (row : List (BitVec 8)) (i j code : Nat) : Chip :=
  let b := fmtBits (tdFmt m.dD)
  let line := j * b / 8 / 64 * 64
  let s1 := if line = 0 then s else s.engineWrite c uVEC (tdBase m.dD + i * tdStride m.dD) (row.take line)
  ((s1.put (pgVEC c) ⟨0x110, 0, 16⟩ i).put (pgVEC c) ⟨0x110, 16, 16⟩ (line * 8 / b)).faultUnit c uVEC code m.pc

/-- The rows of D from `i` on, `n` of them (R203): the device, the flags, and whether the command goes on; the command with its
flags and the random words it drew, unless it faulted.  `t` is the device at the command's start.  Where D overlaps a source, a row reads what
the earlier rows of D have written (R202). (DESIGN CHOICE, log 99) -/
def Chip.vecRows (s t : Chip) (c : Nat) (m : Cmd) (v : VecMode) (i : Nat) : Nat → Chip × Option Cmd
  | 0 => (s, some m)
  | n + 1 =>
    let bad := if s.clean then none else
      (List.range (tdCols m.dD)).findSome? fun j => (s.vecEltBad c m i j).map fun code => (j, code)
    let r := s.vecRow t c m v i
    let bytes := packRow (fmtBits (tdFmt m.dD)) (r.1.map (·.1))
    match bad with
    | some (j, code) => (s.vecFault c m bytes i j code, none)
    | none =>
      let s1 := s.engineWrite c uVEC (tdBase m.dD + i * tdStride m.dD) bytes
      let s2 := if r.2 = [] then s1 else s1.engineWrite c uVEC (scaleAt m.dD i 0) (r.2.map (BitVec.ofNat 8))
      s2.vecRows t c { m with flags := m.flags ||| orFlags r.1, words := m.words + s.vecWords c m v i } v (i + 1) n

/-- The ranges of the CB4 tables that a command reads (R153). -/
def vecTables (m : Cmd) : List (Nat × Nat) :=
  (List.range (vecForms (opcode m.w)).length).flatMap fun k =>
    if (vecGiven m.w)[k]? = some 3 || tdScl (srcDesc m k) ≠ 2 then [] else [(tdScale (srcDesc m k), tdScaleBytes (srcDesc m k))]

/-- The rows of a command, with its flags kept until it completes. -/
def Chip.vecBegin (s : Chip) (c : Nat) (m : Cmd) : Chip :=
  let o := opcode m.w
  if o = 0xA0 || o = 0xAD || o = 0xAE then s
  else
    let tables := (List.range (vecForms o).length).foldl (fun a k =>
      if (vecGiven m.w)[k]? = some 3 then a else worse a (s.tableBad c (srcDesc m k))) none
    match tables with
    | some code =>
      (((s.noteRanges c uVEC (vecTables m)).put (pgVEC c) ⟨0x110, 0, 16⟩ 0).put (pgVEC c) ⟨0x110, 16, 16⟩ 0).faultUnit c uVEC code m.pc
    | none =>
      let r := (s.noteRanges c uVEC (vecReads m)).vecRows s c { m with flags := 0, words := 0 } (s.vecMode c m) 0 (tdRows m.dD)
      match r.2 with
      | some m1 => r.1.updCmd c uVEC { m1 with prog := 1 }
      | none => r.1

/-- Two lists of ranges overlap. -/
def rangesMeet (a b : List (Nat × Nat)) : Bool :=
  a.any fun x => b.any fun y => decide (x.1 < y.1 + y.2) && decide (y.1 < x.1 + x.2)

/-- A command's bytes overlap the destination of an earlier vector command that has not completed (R201). -/
def vecHazard (m : Cmd) (run : List Cmd) : Bool := run.any fun x => rangesMeet (vecReads m ++ vecWrites m) (vecWrites x)

/-- A command that uses no sub-engine (R197). -/
def noSub (m : Cmd) : Bool := let o := opcode m.w; o = 0xA0 || o = 0xAD || o = 0xAE

/-- A command's start waits for an earlier vector command: for its completion (R196, R201), or for its sub-engine (R197). (DEDUCED, log 88) -/
def vecBusy (m : Cmd) (run : List Cmd) : Bool :=
  vecHazard m run || run.any fun x =>
    opcode x.w = 0xA0 || opcode m.w = 0xA0 ||
    (m.split && x.split && decide (tSUB x.w = tSUB m.w) && !noSub m && !noSub x)

/-- The elements a command processes, and the multiply-adds of its lanes (R195, R223). -/
def vecWork (m : Cmd) : Nat × Nat :=
  let o := opcode m.w
  let d := tdRows m.dD * tdCols m.dD
  let a := tdRows m.dA * tdCols m.dA
  if o = 0xA0 || o = 0xAD || o = 0xAE then (0, 0)
  else if o = 0xC0 then (a, if tFN m.w % 8 ≤ 1 then a else 0)
  else if o = 0xCA || o = 0xCB then (a, 0)
  else if o = 0xAC then (d, d * (tFN m.w % 16))
  else (d, if 0xA1 ≤ o && o ≤ 0xA4 then d else 0)

/-- VECTOR_CMD_COMPLETE: the oldest command completes (R75, R197, R213, R214). -/
def Chip.vecComplete (s : Chip) (c : Nat) : Chip :=
  match ((s.core c).running uVEC).head? with
  | none => s
  | some m =>
    let o := opcode m.w
    let p := pgVEC c
    let s1 := s.mergeFlags c m.flags
    let s2 := if o = 0xAD then s1.engineWrite c uVEC (bf m.w 0 22) (bytesOf 4 (s1.get p ⟨0x108, 0, 6⟩))
              else if o = 0xAE then s1.setReg (p + 0x108) 0
              else if o = 0xA0 then (s1.put p ⟨0x104, 9, 1⟩ (tFN m.w % 2)).count p 0x0A 1
              else s1
    let k := vecWork m
    let s3 := ((s2.count p 0 1).count p 2 k.1).count p 3 k.2
    let s4 := if 0xC1 ≤ o && o ≤ 0xC8 then s3.count p 7 k.1
              else if o = 0xC9 then s3.count p 8 m.words
              else if o = 0xCB then (s3.count p 8 m.words).count p 9 (tdRows m.dD)
              else s3
    s4.finishNow c uVEC m

end Sys2Proof.Machine
end

