-- ==== Sys2Proof/Machine/Engines.lean ====
section
/-! DEFINITION. How queued commands start (R74, R75, R110, R114): each engine takes its commands in order, and a command that
its slots do not take waits.  Then one meaning for each engine command, and the completions at slots. -/

namespace Sys2Proof.Machine

/-! ## Starting commands -/

/-- The head of the matrix, vector or adjunct queue has been admitted and starts. -/
def Chip.beginAt (s : Chip) (c u : Nat) (m : Cmd) : Chip :=
  if u = uMTX then s.mtxBegin c m
  else if u = uVEC then s.vecBegin c m
  else if opcode m.w = 0x84 then s.abindBegin c m
  else s.acorrBegin c m

/-- The engine is free for the command at the head of its queue (R75, R196, R197, R201). -/
def Chip.engineFree (s : Chip) (c u : Nat) (m : Cmd) : Bool :=
  if u = uVEC then !(vecBusy m ((s.core c).running uVEC)) else ((s.core c).running u).isEmpty

/-- The head of the matrix, vector or adjunct queue: it faults, starts, or waits on its slots (R110, R113, R118). -/
def Chip.admitHead (s : Chip) (c u : Nat) (m : Cmd) : Chip :=
  let uses := s.usesOf c m
  match s.accClash c uses with
  | some sl => s.faultNamed c uSYNC eACC sl m.pc
  | none =>
    if !(s.admits c (if m.began.isSome then m.ord else s.waitNo) uses) then s.waitHead c u m 0
    else
      let m1 := { m with uses := s.counted c uses, began := none }
      ((s.admitUses c uses).toRun c u m1).beginAt c u m1

/-- A unit goes as far as it can by itself; a command that waits on slots is left to SLOT_ADMISSION. (DEDUCED, log 12; DESIGN CHOICE, log 46) -/
def Chip.pumpUnit (s : Chip) (c u : Nat) : Chip :=
  let k := s.core c
  if u = uSYNC then
    (match (k.running uSYNC).head?, (k.queue uSYNC).head? with
     | some m, _ => if opcode m.w = 0x23 then s.slsetTry c m else s
     | none, some m => (s.toRun c uSYNC m).syncBegin c m
     | none, none => s)
  else
    match (k.queue u).head? with
    | none => s
    | some m =>
      if u = uCHAN then s.chanHead c m false
      else if u = uMOV then (if (k.running uMOV).length < 4 then (s.toRun c uMOV m).moverTry c m else s)
      else if u = uCEL then
        (if (k.running uCEL).length < 4 && !(celBlocked m (k.running uCEL)) then (s.toRun c uCEL m).celTry c m else s)
      else if m.began.isNone && s.engineFree c u m then s.admitHead c u m
      else s

/-- The units of a core in the order of R114, which names neither the cellar queue nor the synchronisation unit: they come last.
(DESIGN CHOICE, log 96) -/
def unitOrder : List Nat := [uMTX, uVEC, uADJ, uMOV, uCHAN, uCEL, uSYNC]

/-- Every unit once. -/
def Chip.pumpOnce (s : Chip) (c : Nat) : Chip := unitOrder.foldl (fun t u => t.pumpUnit c u) s

/-- The number of commands that wait in queues. -/
def Core.queued (k : Core) : Nat := (k.q.map fun p => p.2.length).sum

def Chip.pumpN (s : Chip) (c : Nat) : Nat → Chip
  | 0 => s
  | n + 1 => (s.pumpOnce c).pumpN c n

/-- The engines of core `c` go on: as often as commands are queued, and once for what waits for quiet. (DESIGN CHOICE, log 46) -/
def Chip.pump (s : Chip) (c : Nat) : Chip := s.pumpN c ((s.core c).queued + 1)

/-- A credit has arrived: the data mover's oldest command that waits for one tries again (R122). -/
def Chip.pumpCredit (s : Chip) (c : Nat) : Chip :=
  match ((s.core c).running uMOV).find? fun m => opcode m.w = 0x42 && m.prog = nwCredit &&
      (s.core c).creds.contains (nDIR m.w, m.slot) with
  | some m => s.moverTry c m
  | none => s

/-- SLOT_ADMISSION: the command numbered `id` of a unit, which waits on its slots, is admitted and starts when it may be
(R110, R112 to R114). (DESIGN CHOICE, log 46) -/
def Chip.slotAdmission (s : Chip) (c u id : Nat) : Chip :=
  let k := s.core c
  match ((k.queue u).head?).toList.find? (fun m => m.id = id && onSlots true m), (k.running u).find? (fun m => m.id = id && onSlots false m) with
  | some m, _ =>
    if u = uCHAN then (s.chanHead c m true).pump c
    else if (u = uMTX || u = uVEC || u = uADJ) && s.engineFree c u m then (s.admitHead c u m).pump c
    else s
  | none, some m =>
    if u = uMOV then (s.moverTry c m).pump c
    else if u = uCEL then (s.celTry c m).pump c
    else if u = uADJ then (s.adjunctGroupDone c).pump c
    else if u = uSYNC then (s.relDeliver c).pump c
    else s
  | none, none => s

/-- A stalled issue resumes when the queue it waits for has room (R74, R93). -/
def Chip.queueResume (s : Chip) (c : Nat) : Chip :=
  match (s.core c).wait with
  | some x =>
    let o := opcode x.w
    let u := if o = 0x0E then uCEL else if o = 0x22 then uSYNC else (unitOf o).getD 0
    if 2 ≤ x.code && x.code ≤ 8 && s.seqState c = sqRUNNING && decide (((s.core c).queue u).length < queueDepth u) then
      (s.issueWord c x.w fun t => if o = 0x0E then t.ovl c x.w else if o = 0x22 then t.acqIssue c x.w else t.toUnit c x.w).pump c
    else s
  | none => s

/-! ## Completions at slots (R111) -/

/-- A finished command's producer completes at a slot. -/
def Chip.producerDone (s : Chip) (c n : Nat) : Chip :=
  if (s.core c).due.contains (n, true) then
    ((s.updCore c fun k => { k with due := k.due.erase (n, true) }).completeProducer c n).pump c
  else s

/-- A finished command's counted read completes at a slot. -/
def Chip.countedReadDone (s : Chip) (c n : Nat) : Chip :=
  if (s.core c).due.contains (n, false) then
    ((s.updCore c fun k => { k with due := k.due.erase (n, false) }).completeRead c n).pump c
  else s

/-! ## The waits' timers (R93, R94, R133, R144, R189) -/

/-- What the sequencer's wait waits for has come, so that the wait ends and its timer raises no fault (R94). -/
def Chip.waitOver (s : Chip) (c : Nat) (x : SeqWait) : Bool :=
  let k := s.core c
  let o := opcode x.w
  if x.code = 1 then decide (x.val ≤ s.beat)
  else if x.code ≤ 8 then
    let u := if o = 0x0E then uCEL else if o = 0x22 then uSYNC else (unitOf o).getD 0
    decide ((k.queue u).length < queueDepth u)
  else if x.code = 9 then
    (if x.val = 0 then !(s.pendingIn c (s.predCounters c x.w ++ readsCounters x.w)) else s.admits c x.ord (s.seqUses c x.w))
  else if x.code = 10 then s.fetch c ≠ .loading
  else if x.code = 11 then !((k.queue uCEL ++ k.running uCEL).any fun m => x.ids.contains m.id)
  else if x.code = 12 then s.arrMet c (x.val / 2 ^ 32) (x.val % 2 ^ 32)
  else if x.code = 13 then
    (match k.acq with
     | some a => a.phase = 0 && !a.cellar && (s.tunBad c a.addr 8).isNone &&
         tkReached (BitVec.ofNat 64 (s.seenNum c uSYNC a.addr 8)) a.expect &&
         s.seeToken c (BitVec.ofNat 64 (s.seenNum c uSYNC a.addr 8)) = .done
     | none => false)
  else k.enginesIdle

/-- A wait of the sequencer that is timed by the wait timeout has expired. (DEDUCED, log 28) -/
def Chip.waitTimeout (s : Chip) (c : Nat) : Chip :=
  match (s.core c).wait with
  | some x =>
    if x.code ≠ 9 && s.seqState c = sqRUNNING && s.expired x.began x.tmo && !(s.waitOver c x) then s.faultSeq c eCMD_TIMEOUT 0xFF
    else s
  | none => s

/-- The sequencer's slot wait has expired: SLOT_TIMEOUT, with the slot recorded when it waited on one (R93, R113, R144). -/
def Chip.seqSlotTimeout (s : Chip) (c : Nat) : Chip :=
  match (s.core c).wait with
  | some x =>
    if x.code = 9 && s.seqState c = sqRUNNING && s.expired x.began x.tmo && !(s.waitOver c x) then
      let s1 := if x.val = 0 then s else (s.put (pgSYNC c) fSyncFaultSlot (x.val - 1)).put (pgSYNC c) fSyncFaultUnit 0
      s1.faultSeq c eSLOT_TIMEOUT 0xFF
    else s
  | none => s

/-- The fault that the expiry of a command's wait raises, and whether a slot is recorded. -/
def Chip.expiry (s : Chip) (c u : Nat) (m : Cmd) : Nat × Option Nat :=
  let o := opcode m.w
  if u = uCHAN then
    (if m.prog = wtSlot then (eSLOT_TIMEOUT, some (s.blocking c (s.usesOf c m)))
     else if o = 0x62 || o = 0x63 then (eSEND_TIMEOUT, none) else (eCMD_TIMEOUT, none))
  else if u = uSYNC then
    (if o = 0x23 || o = 0x24 then (eSLOT_TIMEOUT, some (sySlot m)) else (eCMD_TIMEOUT, none))
  else if u = uMOV && o = 0x42 && m.prog ≠ nwSlots then (eSLOT_TIMEOUT, some m.slot)
  else if u = uADJ && m.prog = 1 then (eSLOT_TIMEOUT, some m.slot)
  else if u = uMTX && (((s.core c).running uMTX).any fun x => x.id = m.id) then (eCMD_TIMEOUT, none)
  else (eSLOT_TIMEOUT, some (s.blocking c (s.usesOf c m)))

/-- What a waiting command waits for has come, so that its wait ends (R94): its slots admit it, its credit or message is there,
its slot is quiet, the writes before a release have been performed.  A wait for another core's answer ends with that answer. -/
def Chip.unitOver (s : Chip) (c u : Nat) (m : Cmd) : Bool :=
  let k := s.core c
  let o := opcode m.w
  let queued := ((k.queue u).head?).any fun h => h.id = m.id
  if u = uCHAN then
    (if m.prog = wtSlot then s.admits c m.ord (s.usesOf c m)
     else if m.prog = wtCredit then
       (if o = 0x64 then (s.oldestOf c (cCH m.w)).isSome else s.hasCredit c (cCH m.w) (cMLEN m.w))
     else false)
  else if u = uSYNC then
    (if o = 0x23 then !(s.slotBusy c (sySlot m)) && decide ((s.slot c (sySlot m)).crdout = 0)
     else if o = 0x24 then s.mayGrant c (sySlot m) (syDir m)
     else if o = 0x21 then
       !(s.writesLeft c m.id (relScope m)) &&
       (if sSEL m.w = 0 then (s.slot c (sySlot m)).land || s.admits c (if m.prog = 1 then m.ord else s.waitNo) [(sySlot m, true)]
        else if sSEL m.w = 4 then decide (0 < s.get (pgCHAN c) (fChQcred (sIDX m.w % 64)))
        -- a slice in reset, and an answer that the mesh has not brought, keep the release waiting (R269)
        else if sSEL m.w = 3 then
          (s.ownFlag c m && !(s.bit (pgCEL (sliceOf (flagCell m))) fResetActive)) ||
          (s.arrive (s.wordAck c (.slice (sliceOf (flagCell m))) m.id (flagCell m) true)).isSome
        else if sSEL m.w = 2 then
          ((s.neighbour c (bf m.w 48 2)).bind fun nb => s.arrive (s.wordAck c (.core nb) m.id (relAddr m) true)).isSome
        else true)
     else false)
  else if u = uMOV && m.prog = nwCredit then k.creds.contains (nDIR m.w, m.slot)
  else if u = uMOV && m.prog ≠ nwSlots then false
  -- a matrix command that runs waits for its corrections (R189)
  else if u = uMTX && !queued then s.corrReady c m.prog
  else if queued then s.engineFree c u m && s.admits c m.ord (s.usesOf c m)
  else s.admits c m.ord (s.usesOf c m)

/-- The wait of the command numbered `id` of a unit has expired. -/
def Chip.unitTimeout (s : Chip) (c u id : Nat) : Chip :=
  let k := s.core c
  match (((k.queue u).head?).toList ++ k.running u).find? fun m => m.id = id with
  | none => s
  | some m =>
    match m.began with
    | none => s
    | some b =>
      if !(s.expired b m.tmo) || s.unitOver c u m then s
      else
        let s1 := if u = uCHAN then s.put (pgCHAN c) fFaultCh (cCH m.w) else s
        match s.expiry c u m with
        | (code, some sl) => s1.faultSlot c u code sl m.pc
        | (code, none) => s1.faultUnit c u code m.pc

/-- The drain's wait for the adjunct unit has expired: CMD_TIMEOUT (R189). -/
def Chip.drainTimeout (s : Chip) (c : Nat) : Chip :=
  match ((s.core c).running uMTX).head? with
  | some m =>
    (match m.began with
     | some b => if s.expired b m.tmo && !(s.corrReady c m.prog) then s.faultUnit c uMTX eCMD_TIMEOUT m.pc else s
     | none => s)
  | none => s

/-! ## One meaning per engine command (R240 to R247) -/

/-- Core `c` issues the engine command `w` of opcode `op`: it is queued to its engine, and the engines go on. -/
def issueUnit (op c : Nat) (w : IWord) : State → Host.Outcome State Fault Refusal :=
  onCore c fun s => s.issue c w (· = op) fun t => (t.toUnit c w).pump c

/-- OVL (R90). -/
def execOvl (c : Nat) (w : IWord) : State → Host.Outcome State Fault Refusal :=
  onCore c fun s => s.issue c w (· = 0x0E) fun t => (t.ovl c w).pump c

/-- FLUSH (R108). -/
def execFlush (c : Nat) (w : IWord) : State → Host.Outcome State Fault Refusal := issueUnit 0x20 c w
/-- REL (R133, R241). -/
def execRel (c : Nat) (w : IWord) : State → Host.Outcome State Fault Refusal := issueUnit 0x21 c w
/-- ACQ (R137). -/
def execAcq (c : Nat) (w : IWord) : State → Host.Outcome State Fault Refusal :=
  onCore c fun s => s.issue c w (· = 0x22) fun t => (t.acqIssue c w).pump c
/-- SLSET (R115). -/
def execSlset (c : Nat) (w : IWord) : State → Host.Outcome State Fault Refusal := issueUnit 0x23 c w
/-- GRANT (R122). -/
def execGrant (c : Nat) (w : IWord) : State → Host.Outcome State Fault Refusal := issueUnit 0x24 c w
/-- REVOKE (R123). -/
def execRevoke (c : Nat) (w : IWord) : State → Host.Outcome State Fault Refusal := issueUnit 0x25 c w
/-- ARRSET (R125). -/
def execArrset (c : Nat) (w : IWord) : State → Host.Outcome State Fault Refusal := issueUnit 0x26 c w
/-- CFETCH (R243). -/
def execCfetch (c : Nat) (w : IWord) : State → Host.Outcome State Fault Refusal := issueUnit 0x40 c w
/-- CSTORE (R243). -/
def execCstore (c : Nat) (w : IWord) : State → Host.Outcome State Fault Refusal := issueUnit 0x41 c w
/-- NWR (R121, R244). -/
def execNwr (c : Nat) (w : IWord) : State → Host.Outcome State Fault Refusal := issueUnit 0x42 c w
/-- TCOPY (R243). -/
def execTcopy (c : Nat) (w : IWord) : State → Host.Outcome State Fault Refusal := issueUnit 0x43 c w
/-- OPEN with ROLE 1 (R283). -/
def execOpenReceiveEnd (c : Nat) (w : IWord) : State → Host.Outcome State Fault Refusal :=
  onCore c fun s => if cROLE w then s.issue c w (· = 0x60) fun t => (t.toUnit c w).pump c else s
/-- OPEN with ROLE 0 (R284). -/
def execOpenSendEnd (c : Nat) (w : IWord) : State → Host.Outcome State Fault Refusal :=
  onCore c fun s => if cROLE w then s else s.issue c w (· = 0x60) fun t => (t.toUnit c w).pump c
/-- CLOSE (R287). -/
def execClose (c : Nat) (w : IWord) : State → Host.Outcome State Fault Refusal := issueUnit 0x61 c w
/-- SEND (R294). -/
def execSend (c : Nat) (w : IWord) : State → Host.Outcome State Fault Refusal := issueUnit 0x62 c w
/-- SENDT (R295). -/
def execSendt (c : Nat) (w : IWord) : State → Host.Outcome State Fault Refusal := issueUnit 0x63 c w
/-- RECV (R296). -/
def execRecv (c : Nat) (w : IWord) : State → Host.Outcome State Fault Refusal := issueUnit 0x64 c w
/-- MMUL (R171, R246). -/
def execMmul (c : Nat) (w : IWord) : State → Host.Outcome State Fault Refusal := issueUnit 0x80 c w
/-- MDRAIN (R181). -/
def execMdrain (c : Nat) (w : IWord) : State → Host.Outcome State Fault Refusal := issueUnit 0x81 c w
/-- ABIND (R187). -/
def execAbind (c : Nat) (w : IWord) : State → Host.Outcome State Fault Refusal := issueUnit 0x84 c w
/-- ACORR (R187). -/
def execAcorr (c : Nat) (w : IWord) : State → Host.Outcome State Fault Refusal := issueUnit 0x85 c w
/-- VCFG (R196). -/
def execVcfg (c : Nat) (w : IWord) : State → Host.Outcome State Fault Refusal := issueUnit 0xA0 c w
/-- VADD (R204). -/
def execVadd (c : Nat) (w : IWord) : State → Host.Outcome State Fault Refusal := issueUnit 0xA1 c w
/-- VSUB (R204). -/
def execVsub (c : Nat) (w : IWord) : State → Host.Outcome State Fault Refusal := issueUnit 0xA2 c w
/-- VMUL (R204). -/
def execVmul (c : Nat) (w : IWord) : State → Host.Outcome State Fault Refusal := issueUnit 0xA3 c w
/-- VFMA (R204). -/
def execVfma (c : Nat) (w : IWord) : State → Host.Outcome State Fault Refusal := issueUnit 0xA4 c w
/-- VMIN (R204). -/
def execVmin (c : Nat) (w : IWord) : State → Host.Outcome State Fault Refusal := issueUnit 0xA5 c w
/-- VMAX (R204). -/
def execVmax (c : Nat) (w : IWord) : State → Host.Outcome State Fault Refusal := issueUnit 0xA6 c w
/-- VABS (R204). -/
def execVabs (c : Nat) (w : IWord) : State → Host.Outcome State Fault Refusal := issueUnit 0xA7 c w
/-- VNEG (R204). -/
def execVneg (c : Nat) (w : IWord) : State → Host.Outcome State Fault Refusal := issueUnit 0xA8 c w
/-- VCVT (R166, R204). -/
def execVcvt (c : Nat) (w : IWord) : State → Host.Outcome State Fault Refusal := issueUnit 0xA9 c w
/-- VCMP (R204). -/
def execVcmp (c : Nat) (w : IWord) : State → Host.Outcome State Fault Refusal := issueUnit 0xAA c w
/-- VSEL (R204). -/
def execVsel (c : Nat) (w : IWord) : State → Host.Outcome State Fault Refusal := issueUnit 0xAB c w
/-- VPOLY (R205). -/
def execVpoly (c : Nat) (w : IWord) : State → Host.Outcome State Fault Refusal := issueUnit 0xAC c w
/-- VFST (R214). -/
def execVfst (c : Nat) (w : IWord) : State → Host.Outcome State Fault Refusal := issueUnit 0xAD c w
/-- VFCLR (R214). -/
def execVfclr (c : Nat) (w : IWord) : State → Host.Outcome State Fault Refusal := issueUnit 0xAE c w
/-- VRED (R206 to R210). -/
def execVred (c : Nat) (w : IWord) : State → Host.Outcome State Fault Refusal := issueUnit 0xC0 c w
/-- VEXP2 (R211). -/
def execVexp2 (c : Nat) (w : IWord) : State → Host.Outcome State Fault Refusal := issueUnit 0xC1 c w
/-- VLOG2 (R211). -/
def execVlog2 (c : Nat) (w : IWord) : State → Host.Outcome State Fault Refusal := issueUnit 0xC2 c w
/-- VRCP (R211). -/
def execVrcp (c : Nat) (w : IWord) : State → Host.Outcome State Fault Refusal := issueUnit 0xC3 c w
/-- VRSQRT (R211). -/
def execVrsqrt (c : Nat) (w : IWord) : State → Host.Outcome State Fault Refusal := issueUnit 0xC4 c w
/-- VSQRT (R211). -/
def execVsqrt (c : Nat) (w : IWord) : State → Host.Outcome State Fault Refusal := issueUnit 0xC5 c w
/-- VDIV (R211). -/
def execVdiv (c : Nat) (w : IWord) : State → Host.Outcome State Fault Refusal := issueUnit 0xC6 c w
/-- VTANH (R211). -/
def execVtanh (c : Nat) (w : IWord) : State → Host.Outcome State Fault Refusal := issueUnit 0xC7 c w
/-- VSIGM (R211). -/
def execVsigm (c : Nat) (w : IWord) : State → Host.Outcome State Fault Refusal := issueUnit 0xC8 c w
/-- VRNG (R217). -/
def execVrng (c : Nat) (w : IWord) : State → Host.Outcome State Fault Refusal := issueUnit 0xC9 c w
/-- VTOPK (R219). -/
def execVtopk (c : Nat) (w : IWord) : State → Host.Outcome State Fault Refusal := issueUnit 0xCA c w
/-- VSAMPLE (R220). -/
def execVsample (c : Nat) (w : IWord) : State → Host.Outcome State Fault Refusal := issueUnit 0xCB c w

/-! ## Events of the engines -/

def execWaitTimeout (c : Nat) : State → Host.Outcome State Fault Refusal := onCore c fun s => s.waitTimeout c

def execQueueFullResume (c : Nat) : State → Host.Outcome State Fault Refusal := onCore c fun s => s.queueResume c

def execSlotAdmission (c unit id : Nat) : State → Host.Outcome State Fault Refusal := onCore c fun s => s.slotAdmission c unit id

def execProducerDone (c slot : Nat) : State → Host.Outcome State Fault Refusal := onCore c fun s => s.producerDone c slot

def execCountedReadDone (c slot : Nat) : State → Host.Outcome State Fault Refusal := onCore c fun s => s.countedReadDone c slot

def execColumnGroupDrain (c : Nat) : State → Host.Outcome State Fault Refusal := onCore c fun s => (s.columnGroupDrain c).pump c

def execAdjunctGroupDone (c : Nat) : State → Host.Outcome State Fault Refusal := onCore c fun s => (s.adjunctGroupDone c).pump c

def execVectorCmdComplete (c : Nat) : State → Host.Outcome State Fault Refusal := onCore c fun s => (s.vecComplete c).pump c

def execRelTokenDelivery (c : Nat) : State → Host.Outcome State Fault Refusal := onCore c fun s => (s.relDeliver c).pump c

def execAcqCellarPoll (c : Nat) : State → Host.Outcome State Fault Refusal := onCore c fun s => (s.acqPoll c).pump c

def execAcquireComplete (c : Nat) (reply : Option Packet) : State → Host.Outcome State Fault Refusal :=
  onCore c fun s => (s.acquireComplete c reply).pump c

def execDrainProbeArrive (p : Packet) : State → Host.Outcome State Fault Refusal :=
  onFabric fun s => s.atCore 13 p fun c t =>
    match p.body with
    | .probe seq scope => t.probeIn c p.src seq scope
    | _ => s

def execDrainProbeReply (c i : Nat) : State → Host.Outcome State Fault Refusal := onCore c fun s => s.probeReply c i

def execCreditGranted (c : Nat) : State → Host.Outcome State Fault Refusal := onCore c fun s => (s.creditGranted c).pump c

def execNwCreditArrive (p : Packet) : State → Host.Outcome State Fault Refusal :=
  onFabric fun s => s.atCore 4 p fun c t => (t.creditIn c p).pumpCredit c

def execRevokeRequestArrive (p : Packet) : State → Host.Outcome State Fault Refusal :=
  onFabric fun s => s.atCore 5 p fun c t => t.revokeIn c p

def execNwCreditReturn (p : Packet) : State → Host.Outcome State Fault Refusal :=
  onFabric fun s => s.atCore 6 p fun c t => (t.creditsBack c p).pump c

def execNwrRequestArrive (p : Packet) : State → Host.Outcome State Fault Refusal :=
  onFabric fun s => s.atCore 0 p fun c t => (t.nwrRequestIn c p).pump c

def execNwrAdmissionArrive (p : Packet) : State → Host.Outcome State Fault Refusal :=
  onFabric fun s => s.atCore 1 p fun c t => t.nwrAnswer c p

def execNwrRankRetry (c id : Nat) : State → Host.Outcome State Fault Refusal := onCore c fun s => s.nwrRetry c id

def execNwrDataArrive (p : Packet) : State → Host.Outcome State Fault Refusal :=
  onFabric fun s => s.atCore 2 p fun c t => (t.nwrDataIn c p).pump c

def execNwrAck (p : Packet) : State → Host.Outcome State Fault Refusal :=
  onFabric fun s => s.atCore 3 p fun c t => (t.nwrAckIn c p).pump c

def execCellarLineRequest (c id line : Nat) : State → Host.Outcome State Fault Refusal := onCore c fun s => s.lineRequest c id line

def execCellarLineReturn (c id line : Nat) : State → Host.Outcome State Fault Refusal :=
  onCore c fun s => (s.lineReturn c id line).pump c

def execOvlLoadDone (c id : Nat) : State → Host.Outcome State Fault Refusal := onCore c fun s => (s.ovlDone c id).pump c

def execOpenRequestArrive (p : Packet) : State → Host.Outcome State Fault Refusal :=
  onFabric fun s => s.atCore 7 p fun c t => t.openRequest c p

def execOpenReplyArrive (p : Packet) : State → Host.Outcome State Fault Refusal :=
  onFabric fun s => s.atCore 8 p fun c t => (t.openReply c p).pump c

def execOpenRetry (c id : Nat) : State → Host.Outcome State Fault Refusal := onCore c fun s => s.openRetry c id

/-- A close notice reaches the other end: here, or on another device when it has left this one (R286, R287). -/
def execCloseNoticeArrive (p : Packet) : State → Host.Outcome State Fault Refusal :=
  onFabric fun s =>
    if p.dst.dev = s.devId then s.atCore 9 p fun c t => (t.closeNotice c p).pump c
    else match s.localCore p.src with
      | some c => (s.noticeAway p).pump c
      | none => s

/-- A send that waits for credit and holds it now starts (R294). -/
def execSendStart (c : Nat) : State → Host.Outcome State Fault Refusal :=
  onCore c fun s =>
    match ((s.core c).queue uCHAN).head? with
    | some m => if (opcode m.w = 0x62 || opcode m.w = 0x63) && m.prog = wtCredit then (s.sendHead c m true).pump c else s
    | none => s

def execMessageArrive (p : Packet) : State → Host.Outcome State Fault Refusal :=
  onFabric fun s => s.atCore 10 p fun c t => (t.messageIn c p).pump c

def execDeliveryAckArrive (p : Packet) : State → Host.Outcome State Fault Refusal :=
  onFabric fun s => s.atCore 11 p fun c t => (t.deliveryAck c p).pump c

/-- The receive at the head of the queue takes its message (R296). -/
def execRecvTake (c id : Nat) : State → Host.Outcome State Fault Refusal :=
  onCore c fun s =>
    match ((s.core c).queue uCHAN).head? with
    | some m => if opcode m.w = 0x64 && m.id = id then (s.recvHead c m true).pump c else s
    | none => s

def execChannelCreditReturn (p : Packet) : State → Host.Outcome State Fault Refusal :=
  onFabric fun s => s.atCore 12 p fun c t => t.creditReturn c p

/-- FLUSH_ALL (R144): ignored while the core is in reset (R408). -/
def execFlushAll (c : Nat) : State → Host.Outcome State Fault Refusal :=
  onCore c fun s => s.toCore c (·.flushAll c)

/-- KPROBE_GO (R142). -/
def execKprobeGo (c : Nat) (v : BitVec 32) : State → Host.Outcome State Fault Refusal :=
  onCore c fun s => s.toCore c (·.kprobe c v)

end Sys2Proof.Machine
end

