-- ==== Sys2Proof/Machine/Links.lean ====
section
/-! DEFINITION. The Qoreog ports (R309 to R333): training, cells, credits and retry, degrade, transit, DOWN. -/

namespace Sys2Proof.Machine

def fTrainEn : Fld := ⟨0x100, 0, 1⟩
def fDegradeEn : Fld := ⟨0x100, 1, 1⟩
def fLanes : Fld := ⟨0x104, 3, 3⟩
def fLaneUse : Fld := ⟨0x104, 6, 4⟩
def fRestoreFail : Fld := ⟨0x104, 10, 1⟩
def fDownCause : Fld := ⟨0x104, 11, 4⟩
def fPeerDev : Fld := ⟨0x108, 0, 10⟩
def fPeerPort : Fld := ⟨0x108, 10, 4⟩
def fDelay : Fld := ⟨0x10C, 0, 32⟩
def fConsec : Fld := ⟨0x110, 0, 4⟩
def fCredS : Fld := ⟨0x110, 4, 9⟩
def fCredU : Fld := ⟨0x110, 13, 9⟩
def fReplayUsed : Fld := ⟨0x110, 22, 10⟩
def fDevIdValid : Fld := ⟨0x130, 31, 1⟩

/-! ## Widths -/

/-- The widest width within a set of lanes: all four, lanes 0 and 1, lanes 2 and 3, or the lowest single lane (R308). -/
def widest (l : BitVec 4) : BitVec 4 :=
  if l = 15 then 15 else if l &&& 3 = 3 then 3 else if l &&& 12 = 12 then 12
  else if l &&& 1 = 1 then 1 else if l &&& 2 = 2 then 2 else if l &&& 4 = 4 then 4 else l &&& 8

def laneCount (l : BitVec 4) : Nat := ((List.range 4).filter fun i => l.getLsbD i).length

def Chip.setWidth (s : Chip) (p : Nat) (l : BitVec 4) : Chip :=
  (s.put (pgLNK p) fLanes (laneCount l)).put (pgLNK p) fLaneUse l.toNat

def Chip.setPortState (s : Chip) (p v : Nat) : Chip := s.put (pgLNK p) fPortState v

/-! ## DOWN and DISABLED -/

/-- The transit cells that other ports hold in the receive buffers of a port (R320, R329). -/
def Chip.arrived (s : Chip) (p : Nat) : Nat :=
  (((List.range 16).filter (· ≠ p)).map fun q => ((s.port q).transit.filter fun e => e.2.inPort = some p).length).sum

/-- The packets that a port holds in whole or in part: those of flows in its static buffer, and the oldest one of each way that is partly
sent (R318, R329). -/
def Chip.torn (s : Chip) (p : Nat) : List Packet :=
  let k := s.port p
  let l := s.outPackets p
  let way (q : Packet) : Nat := partKey (k.localFlow q) q.dst.dev
  l.filter fun q => (s.inStatic p).contains q || (k.partSent.any (fun e => decide (e.1 = way q)) && l.find? (fun z => way z = way q) = some q)

/-- The cells that a port holds: its replay buffer, its send buffers and its receive buffers (R329). -/
def Chip.heldCells (s : Chip) (p : Nat) : Nat :=
  let k := s.port p
  k.replay.length + k.transit.length + k.ctl.length + k.cellsIn (s.torn p) + s.arrived p

/-- The credit of a received cell is due back (R320). -/
def Chip.dueBack (s : Chip) (p : Nat) (unassigned : Bool) : Chip :=
  s.updPort p fun k => if unassigned then { k with retU := k.retU + 1 } else { k with retS := k.retS + 1 }

/-- A transit cell leaves: the port at which it arrived gets its credit back (R320). -/
def Chip.transitLeft (s : Chip) (x : LinkCell) : Chip :=
  match x.inPort with
  | some i => s.dueBack i (decide (x.flow = 63))
  | none => s

/-- Every cell and part of a packet that a port holds is lost (R329): its buffers, the packets of flows in its static buffer, those
partly sent, and the cells received at it that wait elsewhere; cells of other ports' receive buffers give their credit back. (DEDUCED, log 54) -/
def Chip.emptyPort (s : Chip) (p : Nat) : Chip :=
  let k := s.port p
  let t := (s.torn p).foldl Chip.netTake s
  let t1 := k.transit.foldl (fun (u : Chip) e => if e.2.inPort = some p then u else u.transitLeft e.2) t
  let t2 := t1.forEach (List.range 16) fun u q =>
    if (u.port q).transit.any fun e => e.2.inPort = some p then
      u.updPort q fun j => { j with transit := j.transit.filter fun e => e.2.inPort ≠ some p } else u
  ((((t2.setPort p { Port.reset with tables := k.tables, ran := k.ran }).put (pgLNK p) fConsec 0).put (pgLNK p) fCredS 0).put (pgLNK p) fCredU 0).put
    (pgLNK p) fReplayUsed 0

/-- The link still works for a down notice (R329): cells pass, and neither the lanes nor the peer are the cause. (DEDUCED, log 54) -/
def Chip.linkWorks (s : Chip) (p cause : Nat) : Bool :=
  decide (psMEASURE ≤ s.portState p) && decide (s.portState p ≤ psDEGRADING) && !([2, 3, 6].contains cause)

/-- The down notice of a port that leaves its link, sequenced as a CONTROL cell is: `n` is the number of its next cell (R309, R329). (DEDUCED, log 54) -/
def Chip.downNotice (s : Chip) (p n : Nat) (works : Bool) : Chip :=
  if works then s.updPort p fun k => k.start { s.ctlCell .down with lseq := n } else s

/-- The port enters DOWN with a cause (R326, R329). -/
def Chip.goDown (s : Chip) (p cause : Nat) : Chip :=
  let s1 := ((s.count (pgLNK p) 0x0F (s.heldCells p)).emptyPort p).downNotice p (s.port p).txSeq (s.linkWorks p cause)
  (((((s1.setPortState p psDOWN).setWidth p 0).put (pgLNK p) fDownCause cause).logErr (pgLNK p) eLINK_DOWN 0)).raise (pgLNK p) 0

/-- The port goes to DISABLED (R326, R330, R419). (DEDUCED, log 54) -/
def Chip.disablePort (s : Chip) (p : Nat) : Chip := ((s.emptyPort p).setPortState p psDISABLED).setWidth p 0

/-- A DISABLED port whose TRAIN_EN is 1 trains while the module is in IDLE or ACTIVE (R326). -/
def Chip.trainPort (s : Chip) (p : Nat) : Chip :=
  if s.portPresent p && s.bit (pgLNK p) fTrainEn && decide (2 ≤ s.get pgGOV fPstate) && decide (s.portState p = psDISABLED) then
    (s.updPort p fun k => { k with trained := 0, ran := true }).setPortState p psTRAINING
  else s

/-! ## Training to UP (R326) -/

def Chip.toAlign (s : Chip) (p : Nat) (l : BitVec 4) : Chip := (s.setPortState p psALIGN).setWidth p l

/-- The port enters UP (R332). -/
def Chip.enterUp (s : Chip) (p : Nat) : Chip := (s.setPortState p psUP).raise (pgLNK p) 1

/-- The port enters UP from training, with which its receivers have adapted (R326, R431). -/
def Chip.toUp (s : Chip) (p : Nat) : Chip :=
  (s.updPort p fun k => { k with measured := s.edges, adTemp := s.linkTemp p, adEdge := s.edges }).enterUp p

/-- A port in PEER compares the identities: it waits until it has its own (R326, R479). (DEDUCED, log 55) -/
def Chip.peerCheck (s : Chip) (p : Nat) : Chip :=
  if s.portState p = psPEER then
    match (s.port p).peer with
    | some (dev, _, ver) =>
      if ver ≠ 3 then s.goDown p 4
      else if !(s.bit pgID fDevIdValid) then s
      else if dev = s.devId then s.goDown p 5
      else s.toUp p
    | none => s
  else s

/-- A port in PEER sends its identity once the device has one (R326, R479). (DEDUCED, log 55) -/
def Chip.sendIdentity (s : Chip) (p : Nat) : Chip :=
  if s.portState p = psPEER && s.bit pgID fDevIdValid then
    s.updPort p fun k => { k with ctl := k.ctl ++ [.peer s.devId p 3 (s.get pgBEAT fBeatPeriod)] }
  else s

/-- The port enters MEASURE (R326): its buffers are empty, so that it holds every credit of the peer's (R320), and it sends an echo
request (R314). (DEDUCED, log 53) -/
def Chip.toMeasure (s : Chip) (p : Nat) : Chip :=
  (((s.setPortState p psMEASURE).put (pgLNK p) fCredS 256).put (pgLNK p) fCredU 256).updPort p fun k => { k with ctl := k.ctl ++ [.echo] }

/-- The delay exchange completes (R314). (DESIGN CHOICE, log 82) -/
def Chip.delayMeasured (s : Chip) (p t1 t2 t3 t4 : Nat) : Chip :=
  let d := ((((t4 - t1 - (t3 - t2)) / 2 : Nat) : Int) + Config.delayFix p).toNat
  let t := (s.put (pgLNK p) fDelay d).updPort p fun k => { k with measured := s.edges, remeasured := true }
  if s.portState p = psMEASURE then ((t.setPortState p psPEER).sendIdentity p).peerCheck p
  else if s.portState p = psUP || s.portState p = psDEGRADING then t
  else s

/-! ## Width changes (R322, R326 to R328) -/

/-- A new width is proposed to the peer or agreed with it (R326): a CONTROL cell says so. -/
def Chip.offerWidth (s : Chip) (p : Nat) (l : BitVec 4) (agreed : Bool) : Chip :=
  s.updPort p fun k => { k with goal := l, agreed := agreed, ctl := k.ctl ++ [.width l] }

/-- Both ends go to a new width through DEGRADING, say so in CONTROL cells, and measure the delay again (R314, R326). (DEDUCED, log 55) -/
def Chip.changeWidth (s : Chip) (p : Nat) (l : BitVec 4) (agreed : Bool) : Chip :=
  ((s.offerWidth p l agreed).updPort p fun k =>
    { k with degradeDue := none, remeasured := false, ctl := k.ctl ++ [.echo] }).setPortState p psDEGRADING

/-- The port degrades. -/
def Chip.degrade (s : Chip) (p : Nat) (l : BitVec 4) (agreed : Bool) : Chip := ((s.changeWidth p l agreed).count (pgLNK p) 0x15 1).raise (pgLNK p) 2

/-- DEGRADING ends (R326): the peer agrees, the delay has been measured again, the new width is in force, and the consecutive-retry
count is zero (R322). -/
def Chip.degradeDone (s : Chip) (p : Nat) : Chip :=
  let k := s.port p
  if s.portState p = psDEGRADING && k.agreed && k.remeasured then
    let s1 := (((s.setWidth p k.goal).put (pgLNK p) fConsec 0).updPort p fun j =>
      { j with restoring := false, ackedRun := 0 }).enterUp p
    if k.restoring then s1.raise (pgLNK p) 4 else s1
  else s

/-! ## Retry (R321, R322) -/

/-- A retry: every unacknowledged cell is sent again, and the retry is counted. (DEDUCED, log 53) -/
def Chip.retry (s : Chip) (p : Nat) (off : Option (BitVec 4)) : Chip :=
  let n := min (s.get (pgLNK p) fConsec + 1) 8
  let s1 := (s.put (pgLNK p) fConsec n).updPort p fun k => { k with resend := k.replay.length, ackedRun := 0 }
  let s2 := if n = 4 then s1.raise (pgLNK p) 3 else s1
  let s3 := match off with
    | some l =>
      if n = 4 && s.bit (pgLNK p) fDegradeEn && decide (laneCount (widest l) < s.get (pgLNK p) fLanes) then
        s2.updPort p fun k => { k with degradeDue := some (widest l) }
      else s2
    | none => s2
  if n = 8 then s3.updPort p fun k => { k with downDue := some 1 } else s3

/-- Cells before a sequence number, or up to and including it, are acknowledged; a NAK that names the next cell to be sent
acknowledges them all (R321). (DEDUCED, log 53) -/
def Chip.acknowledge (s : Chip) (p lseq : Nat) (incl : Bool) : Chip :=
  let k := s.port p
  let rest := k.replay.dropWhile fun x => decide (x.lseq ≠ lseq)
  let keep := if rest = [] then (if !incl && decide (lseq = k.txSeq) then [] else k.replay) else if incl then rest.drop 1 else rest
  let n := k.replay.length - keep.length
  let run := k.ackedRun + n
  let s1 := (s.updPort p fun j => { j with replay := keep, resend := min j.resend keep.length, ackedRun := run }).put (pgLNK p)
    fReplayUsed keep.length
  if 1024 ≤ run then s1.put (pgLNK p) fConsec 0 else s1

/-- A received cell is discarded for retry: one NAK, naming the expected cell, is sent, and no further one during the hold-off. -/
def Chip.sendNak (s : Chip) (p : Nat) : Chip :=
  if (s.port p).nakHold then s
  else (s.updPort p fun k => { k.start (s.cell 3 (k.rxSeq + 2 ^ 12)) with nakHold := true }).count (pgLNK p) 4 1

/-- A cell is bad: it is counted by its fault (R309, R333); one of the faults that R321 names makes the receiver send a NAK. -/
def Chip.badIn (s : Chip) (p : Nat) (why : BadCell) : Chip :=
  match why with
  | .fec l => ((s.count (pgLNK p) 6 1).forEach (List.range 4) fun t i => t.count (pgLNK p) (7 + i) ((l[i]?).getD 0)).sendNak p
  | .hcrc => (s.count (pgLNK p) 0x0B 1).sendNak p
  | .reservedType => s.count (pgLNK p) 0x0B 1

/-- A cumulative ACK leaves: it names the last cell accepted (R310, R321). -/
def Chip.sendAck (s : Chip) (p : Nat) : Chip :=
  s.updPort p fun k => { k.start (s.cell 3 ((k.rxSeq + 4095) % 4096)) with rxRun := 0 }

/-- A sequenced cell of the expected number is accepted, and the 64th since the last ACK is acknowledged at once; any other is discarded
(R321). -/
def Chip.accept (s : Chip) (p lseq : Nat) (f : Chip → Chip) : Chip :=
  if (s.port p).rxSeq = lseq then
    let t := s.updPort p fun k => { k with rxSeq := (k.rxSeq + 1) % 4096, rxRun := k.rxRun + 1, nakHold := false }
    f (if 64 ≤ (t.port p).rxRun then t.sendAck p else t)
  else s.sendNak p

/-- A cell of a sequenced kind arrives with its header (R309, R310, R321). -/
def Chip.cellIn (s : Chip) (p type : Nat) (h : BitVec 128) (f : Chip → Chip) : Chip :=
  if !(hcGood h) then s.badIn p .hcrc
  else if 6 ≤ hcType h then s.badIn p .reservedType
  else if hcType h ≠ type then s
  else s.accept p (hcLseq h) f

/-! ## Sending (R311, R316, R318) -/

/-- Bytes of packets put into a cell: bytes taken, packets that end in it, bytes sent of the packet after them. -/
def fillCell : List Packet → Nat → Nat → Nat × List Packet × Nat
  | [], _, _ => (0, [], 0)
  | q :: rest, sent, room =>
    let n := packetBytes q - sent
    if room < n then (room, [], sent + room)
    else
      let r := fillCell rest 0 (room - n)
      (n + r.1, q :: r.2.1, r.2.2)

/-- The most cells of assigned flows in a group: ⌊G × W × 25 ÷ 272⌋ with G = 0.2 ns × the period in ticks (R316). -/
def Chip.groupCap (s : Chip) (p g : Nat) : Nat :=
  let c := s.get pgBEAT fBeatPeriod * s.get (pgLNK p) fLanes * 5 / 272
  if g = 0 then c - 1 else c

/-- A sequenced cell is sent for the first time: it takes a credit and a place in the replay buffer (R320, R321).  One that leaves while
older cells are still to be sent again is sent again behind them, since the receiver takes cells in order only. -/
def Chip.firstSend (s : Chip) (p : Nat) (static : Bool) (x : LinkCell) : Chip :=
  let k := s.port p
  let fc := if static then fCredS else fCredU
  let y := { x with lseq := k.txSeq }
  let s1 := (s.put (pgLNK p) fc (s.get (pgLNK p) fc - 1)).updPort p fun j =>
    { j.start y with replay := j.replay ++ [y], txSeq := (j.txSeq + 1) % 4096, resend := if j.resend = 0 then 0 else j.resend + 1 }
  let s2 := s1.put (pgLNK p) fReplayUsed (k.replay.length + 1)
  if x.type = 0 then (s2.count (pgLNK p) 0 1).count (pgLNK p) 2 x.len else s2

/-- A credit and a place in the replay buffer are free. -/
def Chip.maySend (s : Chip) (p : Nat) (static : Bool) : Bool :=
  s.bit (pgLNK p) (if static then fCredS else fCredU) && decide ((s.port p).replay.length < 512)

/-- A word leaves the mesh for a cell with `e` bit errors: up to two are corrected, more are logged and counted (R104, R312, R393). -/
def Chip.leaveWord (s : Chip) (p e : Nat) : Chip :=
  if e = 0 then s
  else if e ≤ 2 then s.logErr (pgLNK p) e 0
  else (s.logErr (pgLNK p) eUNCORR 0).count (pgLNK p) 0x16 1

/-- POISON of a cell (R310, R312): a word any of whose bytes is poisoned, or that cannot be corrected. -/
def poisonOf (tags : List Bool) (errs : List Nat) : BitVec 32 :=
  BitVec.ofNat 32 (packBits ((List.range 32).map fun k =>
    ((tags.drop (8 * k)).take 8).any id || (decide (8 * k < tags.length) && decide (3 ≤ (errs[k]?).getD 0))))

/-- PKT_START (R310): where the first packet header of the cell begins. -/
def pktStart (l : List Packet) (sent : Nat) : Nat :=
  match l with
  | q :: _ :: _ => if sent = 0 then 0 else if packetBytes q - sent < 256 then packetBytes q - sent else 0x1FF
  | _ => if sent = 0 then 0 else 0x1FF

/-- The next cell of a flow is sent: a transit cell before a cell made here; `errs` are the bit errors of the words that leave the mesh
for it. (DESIGN CHOICE, log 75) (DESIGN CHOICE, log 19) -/
def Chip.sendFlow (s : Chip) (p : Nat) (fl : Option Nat) (errs : List Nat) : Chip :=
  let k := s.port p
  match k.transit.find? fun e => e.1 = fl with
  | some e =>
    let s1 := (s.updPort p fun j => { j with transit := j.transit.erase e }).firstSend p fl.isSome { e.2 with flow := fl.getD 63 }
    (s1.count (pgLNK p) 0x14 1).transitLeft e.2
  | none =>
    match s.flowPackets p fl with
    | [] => s
    | q :: _ =>
      let key := partKey fl q.dst.dev
      let l := (s.flowPackets p fl).filter fun z => z.dst.dev = q.dst.dev
      let sent := sget natReset k.partSent key
      let r := fillCell l sent 256
      let tags := ((l.flatMap packetTags).drop sent).take r.1
      let x : LinkCell := { s.cell 0 (pktStart l sent) with
        dst := q.dst.dev, flow := fl.getD 63, len := r.1, pkts := r.2.1, poison := poisonOf tags errs }
      let t := r.2.1.foldl Chip.netTake s
      -- errors that reach the port together are logged the lowest code first (R394)
      let t1 := (lowFirst (((errs.take ((r.1 + 7) / 8)).map fun e => (0, e)))).foldl (fun u e => u.leaveWord p e.2) t
      (t1.updPort p fun j => { j with partSent := sset natReset j.partSent key r.2.2 }).firstSend p fl.isSome x

/-- What is bound for a port that is DOWN is discarded there, and counted in cells (R323). -/
def Chip.discardBound (s : Chip) (p : Nat) : Chip :=
  let l := s.outPackets p
  (l.foldl Chip.netTake s).count (pgLNK p) 0x0E ((s.port p).cellsIn l)

/-- A cell of no flow (R318, R320): a resent cell, returned credits, a CONTROL cell, unassigned traffic of a port that is UP, and IDLE
when nothing else waits (R315; DESIGN CHOICE, log 19). (DEDUCED, log 54) -/
def Chip.sendOther (s : Chip) (p : Nat) (errs : List Nat) : Chip :=
  let k := s.port p
  if k.resend ≠ 0 then
    (match k.replay[k.replay.length - k.resend]? with
     | some x => (s.updPort p fun j => { j.start x with resend := j.resend - 1 }).count (pgLNK p) 3 1
     | none => s)
  else if k.retS ≠ 0 then s.updPort p fun j => { j.start (s.cell 2 j.retS) with retS := 0 }
  else if k.retU ≠ 0 then s.updPort p fun j => { j.start (s.cell 2 (j.retU + 2 ^ 12)) with retU := 0 }
  else match k.ctl with
    | c :: t =>
      if s.maySend p false then (s.updPort p fun j => { j with ctl := t }).firstSend p false (s.ctlCell c)
      else s.updPort p fun j => j.start (s.cell 5 0)
    | [] =>
      if s.portState p = psUP && s.flowWaits p none && s.maySend p false then s.sendFlow p none errs
      else s.updPort p fun j => j.start (s.cell 5 0)

/-- The port starts its next cell (R318): an IDLE cell when 4,095 others have left since the last (R315); cells of flows that are slot
misses, cells of the group's owner, both within the group's capacity (R316); then, when another cell has room, a cell of no flow. (DEDUCED, log 54) (DESIGN CHOICE, log 19) -/
def Chip.transmit (s : Chip) (p g : Nat) (room : Bool) (errs : List Nat) : Chip :=
  let st := s.portState p
  if st = psDOWN then s.discardBound p
  else if st < psMEASURE then s
  else
    let s0 := (if (s.port p).group = g then s else s.updPort p fun k => { k with group := g, inGroup := 0 }).noteMisses p
    let k := s0.port p
    let fits := decide (k.inGroup < s0.groupCap p g) && s0.maySend p true
    if 4095 ≤ k.idleRun then s0.updPort p fun j => j.start (s.cell 5 0)
    else if st ≠ psUP then s0.sendOther p errs
    else
      match k.missed.find? fun e => s0.flowWaits p (some e.1) && fits with
      | some (f, n) =>
        let t := s0.sendFlow p (some f) errs
        t.updPort p fun j => { j.setMisses f (if t.flowWaits p (some f) then n - 1 else 0) with inGroup := j.inGroup + 1 }
      | none =>
        let own := match k.owner g with
          | some f => if s0.flowWaits p (some f) && fits then some f else none
          | none => none
        match own with
        | some f => ((s0.sendFlow p (some f) errs).updPort p fun j => { j with inGroup := j.inGroup + 1 }).count (pgLNK p) 0x0D 1
        | none => if room then s0.sendOther p errs else s0

/-- The end of a slot group (R54): when it is the last of its flow in the beat, the flow's cells still unsent are misses. (DEDUCED, log 56) -/
def Chip.groupEnd (s : Chip) (p g : Nat) : Chip :=
  let k := s.port p
  match k.owner g with
  | some f =>
    if ((List.range 32).any fun h => decide (g < h) && decide (k.owner h = some f)) || s.portState p ≠ psUP || k.ended.contains f then s
    else (s.updPort p fun j => { j with ended := j.ended ++ [f] }).noteMisses p
  | none => s

/-! ## Receiving (R311, R320, R323, R324) -/

/-- A packet whose bytes take a poison bit given by their place in it (R312). -/
def retag (q : Packet) (g : Nat → Bool → Bool) : Packet :=
  let each (d : List TByte) : List TByte := ((List.range d.length).zip d).map fun e => (e.2.1, g (16 + e.1) e.2.2)
  match q.body with
  | .message h o pad pos d => { q with body := .message h o pad pos (each d) }
  | .nwrData id n off op land last d => { q with body := .nwrData id n off op land last (each d) }
  | _ => q

/-- Packets that begin in a cell at payload offset `o`, one behind another: their poison is POISON's (R311, R312). -/
def taggedFrom (poison : BitVec 32) : Nat → List Packet → List Packet
  | _, [] => []
  | o, q :: t => retag q (fun i _ => poison.getLsbD ((o + i) / 8)) :: taggedFrom poison (o + packetBytes q) t

/-- The packets that end in a received DATA cell, each word's poison set from POISON (R310 to R312); the bytes of the first one that came
in earlier cells keep the poison that those gave them. (DESIGN CHOICE, log 75) -/
def unpack (h : BitVec 128) (pkts : List Packet) : List Packet :=
  let start := hcInfo h % 512
  let tail := if start = 0x1FF then hcLen h else start
  match pkts with
  | [] => []
  | q :: t =>
    if start = 0 then taggedFrom (hcPoison h) 0 (q :: t)
    else
      let early := packetBytes q - tail
      retag q (fun i b => if early ≤ i then (hcPoison h).getLsbD ((i - early) / 8) else b) :: taggedFrom (hcPoison h) tail t

/-- A DATA cell has been accepted: delivered when its destination's entry is LOCAL, else forwarded, or discarded by routing (R323). -/
def Chip.dataIn (s : Chip) (p : Nat) (h : BitVec 128) (pkts : List Packet) : Chip :=
  let s1 := s.count (pgLNK p) 1 1
  let back (t : Chip) : Chip := t.dueBack p (decide (hcFlow h = 63))
  let r := s.route (hcDst h)
  if r.testBit 5 then
    let t : Chip := { s1 with net := s1.net ++ unpack h pkts }
    back t
  else
    let q := r % 16
    if !(r.testBit 4) || !(s.portPresent q) || decide (s.portState q = psDOWN) || decide (hcTtl h ≤ 1) then
      back (s1.count (pgLNK p) 0x0E 1)
    else
      s1.updPort q fun k =>
        { k with transit := k.transit ++ [(k.transitFlow p (hcFlow h),
            { type := 0, dst := hcDst h, src := hcSrc h, flow := hcFlow h, lseq := 0, len := hcLen h, ttl := hcTtl h - 1,
              poison := hcPoison h, info := hcInfo h, pkts := pkts, ctl := none, mark := none, inPort := some p })] }

/-- A peer's width in DEGRADING (R326): equal to the own proposal it is agreement; a narrower one is taken over. (DEDUCED, log 54) -/
def Chip.widthIn (s : Chip) (p : Nat) (l : BitVec 4) : Chip :=
  let k := s.port p
  if l = k.goal then s.updPort p fun j => { j with agreed := true }
  else if laneCount l < laneCount k.goal then s.offerWidth p l true
  else s

/-- What a CONTROL cell carries takes effect (R314, R326, R329). -/
def Chip.controlIn (s : Chip) (p : Nat) (k : Control) : Chip :=
  let s1 := s.dueBack p true
  match k with
  | .echo => s1.updPort p fun j => { j with ctl := j.ctl ++ [.echoReply] }
  | .echoReply => s1
  | .peer dev port ver _ =>
    (((s1.put (pgLNK p) fPeerDev dev).put (pgLNK p) fPeerPort port).updPort p fun j => { j with peer := some (dev, port, ver) }).peerCheck p
  | .width l =>
    if s.portState p = psUP then
      (if laneCount l < s.get (pgLNK p) fLanes then s1.degrade p l true else s1.changeWidth p l true)
    else if s.portState p = psDEGRADING then s1.widthIn p l
    else s1
  | .down => if s.portState p = psUP then s1.goDown p 6 else s1

/-- Signal or FEC lock is lost on some lanes (R322). (DEDUCED, log 56) -/
def Chip.lossOfSignal (s : Chip) (p : Nat) (lost : BitVec 4) : Chip :=
  let use : BitVec 4 := BitVec.ofNat 4 (s.get (pgLNK p) fLaneUse)
  let rest := use &&& ~~~lost
  if s.portState p ≠ psUP || rest = use then s
  else if rest = 0 || !(s.bit (pgLNK p) fDegradeEn) then s.updPort p fun k => { k with downDue := some 2 }
  else s.updPort p fun k => { k with degradeDue := some (widest rest) }

/-! ## The commands -/

/-- TRAIN_EN (R326, R330). -/
def Chip.trainEn (s : Chip) (p : Nat) (v : Bool) : Chip :=
  let t := s.put (pgLNK p) fTrainEn (if v then 1 else 0)
  if v then t.trainPort p else t.disablePort p

/-- RESTORE (R328). -/
def Chip.restoreGo (s : Chip) (p : Nat) : Chip :=
  if s.portState p = psUP && decide (s.get (pgLNK p) fLanes < 4) && !((s.port p).restoring) then
    s.updPort p fun k => { k with restoring := true }
  else (s.put (pgLNK p) fRestoreFail 1).raise (pgLNK p) 4

/-- A command at a port of this part (R4). (DESIGN CHOICE, log 1) -/
def onPort (p : Nat) (f : Chip → Chip) : State → Host.Outcome State Fault Refusal :=
  onUnit 16 p fun s => if s.portPresent p && !(s.bit (pgLNK p) fResetActive) then f s else s

/-- A write to a register of a port that acts: one to an absent port is R3's, and a port in reset takes none (R408). -/
def onPortWrite (p : Nat) (f : Chip → Chip) : State → Host.Outcome State Fault Refusal :=
  onUnit 16 p fun s => if !(s.portPresent p) then s.absentWrite else if s.bit (pgLNK p) fResetActive then s else f s

def execTrainEnWrite (p : Nat) (v : Bool) : State → Host.Outcome State Fault Refusal := onPortWrite p fun s => s.trainEn p v

def execRestore (p : Nat) : State → Host.Outcome State Fault Refusal := onPortWrite p fun s => s.restoreGo p

def execRestoreTrainTimeout (p : Nat) : State → Host.Outcome State Fault Refusal :=
  onPort p fun s =>
    if (s.port p).restoring && decide (s.portState p = psUP) then
      ((s.updPort p fun k => { k with restoring := false }).put (pgLNK p) fRestoreFail 1).raise (pgLNK p) 4
    else s

def execRestoreLanesTrained (p : Nat) : State → Host.Outcome State Fault Refusal :=
  onPort p fun s => if (s.port p).restoring && decide (s.portState p = psUP) then s.changeWidth p 15 false else s

/-- Lanes have trained; four of them end TRAINING (R326). -/
def execLaneTrainingDone (p : Nat) (lanes : BitVec 4) : State → Host.Outcome State Fault Refusal :=
  onPort p fun s =>
    if s.portState p = psTRAINING then
      let l := (s.port p).trained ||| lanes
      let t := s.updPort p fun k => { k with trained := l }
      if l = 15 then t.toAlign p 15 else t
    else s

def execNarrowWidthTimeout (p : Nat) : State → Host.Outcome State Fault Refusal :=
  onPort p fun s =>
    if s.portState p = psTRAINING && s.bit (pgLNK p) fDegradeEn && decide ((s.port p).trained ≠ 0) then
      s.toAlign p (widest (s.port p).trained)
    else s

def execTrainingTimeout (p : Nat) : State → Host.Outcome State Fault Refusal :=
  onPort p fun s =>
    if s.portState p = psTRAINING && !(s.bit (pgLNK p) fDegradeEn && decide ((s.port p).trained ≠ 0)) then s.goDown p 3 else s

def execAlignLock (p : Nat) : State → Host.Outcome State Fault Refusal :=
  onPort p fun s => if s.portState p = psALIGN then s.toMeasure p else s

def execAlignTimeout (p : Nat) : State → Host.Outcome State Fault Refusal :=
  onPort p fun s => if s.portState p = psALIGN then s.goDown p 3 else s

def execDelayMeasured (p t1 t2 t3 t4 : Nat) : State → Host.Outcome State Fault Refusal :=
  onPort p fun s => s.delayMeasured p t1 t2 t3 t4

/-- The periodic measurement: an echo request is due (R314). -/
def execDelayRemeasure (p : Nat) : State → Host.Outcome State Fault Refusal :=
  onPort p fun s =>
    if s.portState p = psUP && decide ((s.port p).measured + 4096 ≤ s.edges) then
      s.updPort p fun k => { k with ctl := k.ctl ++ [.echo], measured := s.edges }
    else s

/-- Cells pass on the link: from MEASURE to DEGRADING (R314, R326, R327). (DEDUCED, log 54) -/
def Chip.cellsPass (s : Chip) (p : Nat) : Bool := decide (psMEASURE ≤ s.portState p) && decide (s.portState p ≤ psDEGRADING)

/-- A CONTROL cell arrives, whose code in INFO names what it carries (R310). -/
def execControlCellReceive (p : Nat) (hdr : BitVec 128) (k : Control) : State → Host.Outcome State Fault Refusal :=
  onPort p fun s =>
    -- a sound CONTROL header and the operand name the same kind
    let named := !(hcGood hdr) || decide (hcType hdr ≠ 4) || decide (hcInfo hdr % 256 = (Config.ctlCode (controlKind k)).toNat)
    if s.cellsPass p && named then s.cellIn p 4 hdr fun t => t.controlIn p k else s

/-- A DATA cell that was on its way when the port entered DEGRADING is taken as well (R327). -/
def execDataCellReceive (p : Nat) (hdr : BitVec 128) (pkts : List Packet) : State → Host.Outcome State Fault Refusal :=
  onPort p fun s =>
    if s.portState p = psUP || s.portState p = psDEGRADING then s.cellIn p 0 hdr fun t => t.dataIn p hdr pkts else s

def execBadCellReceive (p : Nat) (why : BadCell) : State → Host.Outcome State Fault Refusal :=
  onPort p fun s => if s.cellsPass p then s.badIn p why else s

/-- Credits come back (R320). -/
def execCreditCellReceive (p : Nat) (unassigned : Bool) (n : Nat) : State → Host.Outcome State Fault Refusal :=
  onPort p fun s =>
    let f := if unassigned then fCredU else fCredS
    if s.cellsPass p then s.put (pgLNK p) f (min (s.get (pgLNK p) f + n) 256) else s

def execAckReceive (p lseq : Nat) : State → Host.Outcome State Fault Refusal :=
  onPort p fun s => if s.cellsPass p then s.acknowledge p lseq true else s

/-- A NAK acknowledges what comes before the cell that it names (R321). -/
def execNakReceive (p lseq : Nat) (offLanes : Option (BitVec 4)) : State → Host.Outcome State Fault Refusal :=
  onPort p fun s => if s.cellsPass p then (s.acknowledge p lseq false).retry p offLanes else s

/-- An IDLE cell takes no credit and is not counted (R315). -/
def execIdleCellReceive (p : Nat) : State → Host.Outcome State Fault Refusal := onPort p fun s => s

def execCellTransmit (p group : Nat) (room : CellStart) : State → Host.Outcome State Fault Refusal :=
  onPort p fun s => s.transmit p group room.room room.errs

def execSlotGroupEnd (p group : Nat) : State → Host.Outcome State Fault Refusal := onPort p fun s => s.groupEnd p group

/-- The receiver's cumulative ACK leaves (R321). (DESIGN CHOICE, log 74) -/
def execAckTimer (p : Nat) : State → Host.Outcome State Fault Refusal :=
  onPort p fun s => if s.cellsPass p then s.sendAck p else s

def execNakHoldoffExpire (p : Nat) : State → Host.Outcome State Fault Refusal :=
  onPort p fun s => s.updPort p fun k => { k with nakHold := false }

def execAckTimeout (p : Nat) (offLanes : Option (BitVec 4)) : State → Host.Outcome State Fault Refusal :=
  onPort p fun s => if s.cellsPass p && (s.port p).replay ≠ [] then s.retry p offLanes else s

def execDegrade (p : Nat) (lanes : BitVec 4) : State → Host.Outcome State Fault Refusal :=
  onPort p fun s => if s.portState p = psUP && (s.port p).degradeDue = some lanes then s.degrade p lanes false else s

def execDegradeDone (p : Nat) : State → Host.Outcome State Fault Refusal := onPort p fun s => s.degradeDone p

def execLossOfSignal (p : Nat) (lost : BitVec 4) : State → Host.Outcome State Fault Refusal := onPort p fun s => s.lossOfSignal p lost

def execPortDown (p cause : Nat) : State → Host.Outcome State Fault Refusal :=
  onPort p fun s => if (s.port p).downDue = some cause && decide (s.portState p ≠ psDOWN) then s.goDown p cause else s

def execDownHoldExpire (p : Nat) : State → Host.Outcome State Fault Refusal :=
  onPort p fun s => if s.portState p = psDOWN && s.bit (pgLNK p) fTrainEn then s.setPortState p psTRAINING else s

/-- A route-table entry (R323, R331): its reserved bits stay zero. -/
def execRouteTableWrite (n : Nat) (v : BitVec 16) : State → Host.Outcome State Fault Refusal :=
  onUnit 1024 n fun s => s.put pgLKC ⟨0x800 + n / 2 * 4, n % 2 * 16, 16⟩ (v.toNat % 64)

end Sys2Proof.Machine
end

