-- ==== Sys2Proof/Machine/Cellar.lean ====
section
/-! DEFINITION. The cellar controllers (R253 to R256, R263 to R267), the kiln's apertures and windows (R70, R102, R145, R251,
R403, R410, R471) and a packet's hop through a router (R275, R276, R281). -/

namespace Sys2Proof.Machine

/-! ## Owner entries and scrubs (R255, R256) -/

/-- A byte is written to the owner entry of extent `e` of slice `n` (R255); KIND 5 queues a scrub (R256). -/
def Chip.ownWrite (s : Chip) (n e b : Nat) : Chip :=
  let old := s.extKind n e
  let kind := b / 16 % 8
  if old = 3 || old = 4 || old = 5 || kind = 3 || kind = 4 || kind = 6 || kind = 7 then s
  else
    let t := s.put (pgCEL n) (fExtOwn e) (b % 128)
    if kind = 5 then { t with scrubQ := t.scrubQ ++ [(n, e)] } else t

/-- A write of an EXT_OWN register: four entries, each by itself (R255, R272). -/
def Chip.extOwnWrite (s : Chip) (n idx : Nat) (v : Word) : Chip :=
  if s.bit (pgCEL n) fResetActive then s
  else s.forEach (List.range 4) fun t i => t.ownWrite n (4 * idx + i) (bf v (8 * i) 8)

/-- Step 4 of the RELEASE of context `x` is under way, so that steps 1 to 3 act on its cores no more (R409, R475). (DEDUCED, log 67) -/
def Chip.coresScrubbed (s : Chip) (x : Nat) : Chip :=
  match s.clearing.find? fun e => e.1 = x with
  | some e => if s.ctxState x = 3 then s.forEach e.2 fun t c => t.updCore c fun k => { k with scrubbing := false } else s
  | none => s

/-- The oldest scrub of slice `n` has written its last word (R256). (DEDUCED, log 59) -/
def Chip.scrubDone (s : Chip) (n : Nat) : Chip :=
  match s.scrubQ.find? fun q => q.1 = n with
  | none => s
  | some q =>
    let t := ({ s with scrubQ := s.scrubQ.erase q } : Chip).coresScrubbed (s.extCtx q.1 q.2)
    (((t.zero (celAddr (n * 2 ^ 28 + q.2 * 2 ^ 21)) (2 ^ 21)).put (pgCEL n) (fExtOwn q.2) 0).count (pgCEL n) 0x0A 32768).raise
      (pgCEL n) 2

/-! ## Refresh and patrol (R263 to R267) -/

/-- A word that the patrol rewrites: corrected, or stored with its poison bit set (R267). (DEDUCED, log 59) -/
def Chip.patrolWord (s : Chip) (w : Nat) : Chip :=
  let e := s.errOf w
  let a := 8 * w - celAddr 0
  let own := if s.extKind (sliceOf a) (extOf a) = 1 then s.ctxw (s.extCtx (sliceOf a) (extOf a)) else 0
  if e = 0 then s
  else
    let bad := decide (3 ≤ e)
    let t := if bad && s.poison.contains w then s else s.celWord true (if bad then own else 0) w e
    { t with errs := sdel t.errs w, poison := if bad then nput t.poison w else t.poison }

/-- A burst of tier `t` of slice `n`: the next sixty-fourth of the tier is rewritten, here its next extent. (DEDUCED, log 59) -/
def Chip.burst (s : Chip) (n t : Nat) : Chip :=
  let k := sget natReset s.bursts (2 * n + t)
  let a := celAddr (n * 2 ^ 28 + t * 2 ^ 27 + k % 64 * 2 ^ 21)
  let s1 := ((s.errs.filter fun q => inWords a (2 ^ 21) q.1).map (·.1)).foldl Chip.patrolWord s
  let s2 : Chip := { s1 with bursts := sset natReset s1.bursts (2 * n + t) (k + 1) }
  let passes := min (sget natReset s2.bursts (2 * n)) (sget natReset s2.bursts (2 * n + 1)) / 64
  (s2.count (pgCEL n) 0x04 1).put (pgCEL n) ⟨0x10C, 0, 32⟩ (min passes (2 ^ 32 - 1))

/-- No burst starts `off` after the edge of the cluster's beat copy: the quiet window is open, or opens within 20 ns, 800 units of fine
time (R266). (DEDUCED, log 59) -/
def Chip.quietAt (s : Chip) (n off : Nat) : Bool :=
  let p := pgCEL n
  let g := s.finePeriod / 32
  let len := g * s.get p ⟨0x100, 8, 5⟩
  s.bit p ⟨0x100, 2, 1⟩ && decide (len ≠ 0) &&
    decide ((off + 800 + (s.finePeriod - g * s.get p ⟨0x100, 3, 5⟩)) % s.finePeriod < len + 800)

def Chip.postponedOf (s : Chip) (n t : Nat) : Nat := sget natReset s.postponed (2 * n + t)

def Chip.setPostponed (s : Chip) (n t k : Nat) : Chip := { s with postponed := sset natReset s.postponed (2 * n + t) k }

/-- A burst falls due (R263): the quiet window postpones it; outside the window it runs, and those postponed run with it (R266). (DEDUCED, log 59) -/
def Chip.dueBurst (s : Chip) (n t off : Nat) : Chip :=
  let k := s.postponedOf n t
  if s.quietAt n off then (s.setPostponed n t (k + 1)).count (pgCEL n) 0x06 1
  else (s.setPostponed n t 0).forEach (List.range (k + 1)) fun u _ => u.burst n t

/-- A burst that the quiet window has postponed for too long runs at once (R266). (DEDUCED, log 59) -/
def Chip.forcedBurst (s : Chip) (n t : Nat) : Chip :=
  let k := s.postponedOf n t
  if k = 0 then s else (((s.setPostponed n t (k - 1)).burst n t).count (pgCEL n) 0x05 1).raise (pgCEL n) 1

/-! ## Accesses of the kiln -/

/-- The answer to a request from outside (DESIGN CHOICE, log 6): the bytes read, one zero byte for a write, nothing for an access fault. -/
def Chip.answer (s : Chip) (l : List (BitVec 8)) : Chip := { s with resp := l }

/-- An access fault of the kiln. (DESIGN CHOICE, log 6) -/
def Chip.accessFault (s : Chip) : Chip := s.answer []

/-- A write of the kiln has been accepted, or discarded without a fault. (DESIGN CHOICE, log 6) -/
def Chip.written (s : Chip) : Chip := s.answer [0]

def kaOff : KilnAccess → Nat
  | .read o _ => o
  | .write o _ => o

def kaSize : KilnAccess → Nat
  | .read _ n => n
  | .write _ l => l.length

/-- A chip reset that keeps the kiln up is under way (R482). (DEDUCED, log 61) -/
def Chip.rstBusy (s : Chip) : Bool := s.bit pgRST ⟨0x104, 3, 1⟩

/-- The data of context `x` is closed to the kiln (R403). (DEDUCED, log 61) -/
def Chip.closed (s : Chip) (x : Nat) : Bool := decide (s.ctxState x = 2) && !(s.bit pgFLT (fFltCaptureOk x))

/-- The context whose data core `c` holds: the one that a CLEAR or RELEASE under way works for, since the core function reset has cleared
the core's CTX, else the one that CTX names (R403, R410). (DEDUCED, log 61) -/
def Chip.ownerOf (s : Chip) (c : Nat) : Nat :=
  match s.clearing.find? fun e => e.2.contains c with
  | some e => e.1
  | none => s.ctxOf c

/-- A kiln read refused under R403. -/
def Chip.refuseRead (s : Chip) : Chip := (s.count pgFLT 0x05 1).accessFault

/-- The extent is PRIVATE to a context whose data is closed (R403). -/
def Chip.extClosed (s : Chip) (n e : Nat) : Bool := decide (s.extKind n e = 1) && s.closed (s.extCtx n e)

/-- The extent belongs to a partition that is SCRUBBING (R410). -/
def Chip.extScrubbing (s : Chip) (n e : Nat) : Bool :=
  (decide (s.extKind n e = 1) || decide (s.extKind n e = 5)) && decide (s.ctxState (s.extCtx n e) = 3)

/-- The runs of a range that lie in one extent each. -/
def extPieces (a n : Nat) : List (Nat × Nat) :=
  (extsOf a n).map fun e => (max a (e * 2 ^ 21), min (a + n) ((e + 1) * 2 ^ 21) - max a (e * 2 ^ 21))

/-- The lines that a run touches. -/
def linesIn (a n : Nat) : Nat := (a + n - 1) / 64 - a / 64 + 1

/-- The cellar address of an offset in a window: the full aperture, or the kiln cellar region (R251). -/
def windowAddr (full : Bool) (o : Nat) : Nat := if full then o else carveAddr o - celAddr 0

/-- Runs of a list of bytes written at their cellar addresses. -/
def Chip.celPut (s : Chip) (full : Bool) (l : List (BitVec 8)) (o : Nat) (ps : List (Nat × Nat)) : Chip :=
  ps.foldl (fun (t : Chip) q =>
    let a := windowAddr full q.1
    (((t.count (pgCEL (sliceOf a)) 1 (linesIn a q.2)).count (pgCEL (sliceOf a)) 3 (linesIn a q.2)).celMerge 0 a q.2).store (celAddr a)
      ((l.drop (q.1 - o)).take q.2)) s

/-- Runs read by the controllers for the kiln (R268). (DEDUCED, log 61) -/
def Chip.celSee (s : Chip) (full : Bool) (ps : List (Nat × Nat)) : Chip :=
  ps.foldl (fun (t : Chip) q =>
    let a := windowAddr full q.1
    ((t.count (pgCEL (sliceOf a)) 0 (linesIn a q.2)).count (pgCEL (sliceOf a)) 3 (linesIn a q.2)).celRead 0 a q.2) s

/-- The kiln's access to the cellar (R251, R254, R403, R410, R482).  A request to a slice whose cluster is in reset waits
(R269), so that nothing happens. (DESIGN CHOICE, log 36; DEDUCED, log 61) -/
def Chip.cellarAccess (s : Chip) (full machine : Bool) (k : KilnAccess) : Chip :=
  let top := if full then 36 * 2 ^ 28 else 2 ^ 28 * s.get pgKLN fKlnCarve
  let ps := extPieces (kaOff k) (kaSize k)
  let exts := ps.map fun q => (sliceOf (windowAddr full q.1), extOf (windowAddr full q.1))
  if (full && !machine) || kaSize k = 0 || top < kaOff k + kaSize k then s.accessFault
  else if s.rstBusy && (exts.any fun e => !(s.inCarve e.1 e.2)) then s.accessFault
  else if exts.any fun e => s.bit (pgCEL e.1) fResetActive then s
  else match k with
    | .read o n =>
      if exts.any fun e => s.extClosed e.1 e.2 then s.refuseRead
      else
        let bad := ps.any fun q => (s.rangeBad (celAddr (windowAddr full q.1)) q.2).isSome
        let t := s.celSee full ps
        if bad then t.accessFault else t.answer ((List.range n).map fun i => t.byte (celAddr (windowAddr full (o + i))))
    | .write o l =>
      if exts.any fun e => s.extScrubbing e.1 e.2 then s.accessFault
      else (s.celPut full l o ps).written

/-- The kiln's access to the tun of core `c` (R102, R396, R403, R410, R482). (DESIGN CHOICE, log 36; DEDUCED, log 61) -/
def Chip.tunAccess (s : Chip) (c : Nat) (k : KilnAccess) : Chip :=
  if kaSize k = 0 || !(tunOk (kaOff k) (kaSize k)) || s.rstBusy then s.accessFault
  else if !(s.present c) then
    -- an absent core's aperture stays in the map and behaves as R3 says (R19)
    match k with
    | .read _ n => s.answer (List.replicate n 0)
    | .write _ _ => s.absentWrite.written
  else match k with
    | .read o n =>
      if s.closed (s.ownerOf c) then s.refuseRead
      else
        let t := (s.noteCorr pgKLN 0 (tunAddr c o) n).noteUncorr pgKLN 0 (tunAddr c o) n
        if (s.rangeBad (tunAddr c o) n).isSome then t.accessFault else t.answer (t.bytes (tunAddr c o) n)
    | .write o l =>
      if decide (s.ctxState (s.ownerOf c) = 3) then s.accessFault else ((s.noteMerge pgKLN 0 (tunAddr c o) l.length).store (tunAddr c o) l).written

/-! ## The windows of a core block (R70, R145, R470, R471) -/

/-- The sequencer takes writes to its windows. (DEDUCED, log 61) -/
def Chip.windowOpen (s : Chip) (c : Nat) : Bool := s.seqIn c [sqIDLE, sqHELD, sqHALTED, sqFAULTED]

/-- A window write of core `c`: 4 or 8 bytes, aligned, within the window, to a core that is present and not in reset. -/
def Chip.windowWrite (s : Chip) (c off size len : Nat) (f : Chip → Chip) : Chip :=
  if (size ≠ 4 && size ≠ 8) || off % size ≠ 0 || len < off + size then s.accessFault
  else if !(s.present c) then s.absentWrite.written
  else if (s.core c).inReset || s.rstBusy then s.written
  else (f s).written

/-- A write of 4 or 8 bytes into a 128-bit word. -/
def mergeWord (w : IWord) (off size : Nat) (v : BitVec 64) : IWord := setBf w (8 * (off % 16)) (8 * size) (v.toNat % 2 ^ (8 * size))

/-- A write to the instruction memory, which makes its block VALID (R70). -/
def Chip.imWrite (s : Chip) (c off size : Nat) (v : BitVec 64) : Chip :=
  if s.windowOpen c then (s.store (imAddr c 0 + off) (bytesOf size v.toNat)).setBlocks c (off / 1024) 1 2
  else s.put (pgSEQ c) fSeqImRej 1

/-- A write to a tile descriptor, whose reserved bits keep nothing (R14, R77). -/
def Chip.tdWrite (s : Chip) (c off size : Nat) (v : BitVec 64) : Chip :=
  if s.windowOpen c then s.setDesc c (off / 16) (tdKeep (mergeWord (s.desc c (off / 16)) off size v)) else s.put (pgSEQ c) fSeqImRej 1

/-- A write to a slot descriptor: bits [127:64] are not written, bits [63:0] are checked (R110, R145). -/
def Chip.sdWrite (s : Chip) (c off size : Nat) (v : BitVec 64) : Chip :=
  let n := off / 16
  let sl := s.slot c n
  let d := slotKeep (setBf sl.desc (8 * (off % 8)) (8 * size) (v.toNat % 2 ^ (8 * size)))
  if !(s.windowOpen c) then s.put (pgSYNC c) fSyncSdRej 1
  else if 8 ≤ off % 16 then s
  else if slotFits d && s.slotApart c n d then s.setSlot c n { sl with desc := d }
  else s.put (pgSYNC c) fSyncSdRej 1

/-! ## A hop of a packet (R20, R275, R276, R281) -/

/-- The router, as (x, y), of a link port (R20). -/
def portRouter (p : Nat) : Nat × Nat :=
  if p < 4 then (1 + 3 * p, 0) else if p < 8 then (11, 1 + 3 * (p - 4)) else if p < 12 then (10 - 3 * (p - 8), 11)
  else (0, 10 - 3 * (p - 12))

/-- The router through which the kiln reaches an address: by the core's column or by offset bits [13:12] for a register, and any of the
four for another access (R20, R276). -/
def kilnRouters (addr : Nat) : List (Nat × Nat) :=
  let all : List (Nat × Nat) := [(5, 5), (6, 5), (5, 6), (6, 6)]
  let one (k : Nat) : List (Nat × Nat) := [(all[k % 4]?).getD (5, 5)]
  if 0x40000000 ≤ addr && addr < 0x44000000 then
    let o := addr - 0x40000000
    if 0x1000000 ≤ o && o < 0x3400000 then one (xOf ((o - 0x1000000) / 0x40000)) else one (o / 0x1000)
  else all

/-- The routers at which an endpoint of this device is attached, for a packet (R18, R20, R261, R276).  The four routers of a cluster
are numbered by the positions of R18. (DEDUCED, log 60) -/
def routersOf (ep : Endpoint) (p : Packet) : List (Nat × Nat) :=
  match ep with
  | .core c => [(xOf c, yOf c)]
  | .slice k => let j := packetAddr p / 64 % 4; [(2 * (k % 6) + j % 2, 2 * (k / 6) + j / 2)]
  | .kiln => kilnRouters (packetAddr p)
  | .streamEngine => [(5, 4), (6, 4)]
  | .vane => [(5, 4), (6, 4)]
  | .port q => [portRouter q]

/-- Where a packet leaves the mesh: at its destination, or at the port of its route to another device (R20, R323). -/
def Chip.outRouters (s : Chip) (p : Packet) : List (Nat × Nat) :=
  if p.dst.dev = s.devId then routersOf p.dst.ep p
  else if (s.route p.dst.dev).testBit 4 then [portRouter (s.route p.dst.dev % 16)] else []

/-- Where a packet enters the mesh: at its source, or from another device at the router of its destination (R311). (DEDUCED, log 60) -/
def Chip.inRouters (s : Chip) (p : Packet) : List (Nat × Nat) :=
  if p.src.dev = s.devId then routersOf p.src.ep p else s.outRouters p

/-- `v` lies between `a` and `b`. -/
def between (a b v : Nat) : Bool := (decide (a ≤ v) && decide (v ≤ b)) || (decide (b ≤ v) && decide (v ≤ a))

/-- The output (north, east, south, west, local) that a packet from router `a` to router `b` takes at (x, y): along its row,
then along its column; none where it does not pass (R276). (DEDUCED, log 60) -/
def hopOut (a b : Nat × Nat) (x y : Nat) : Option Nat :=
  if y = a.2 && between a.1 b.1 x && x ≠ b.1 then some (if x < b.1 then 1 else 3)
  else if x = b.1 && between a.2 b.2 y then
    some (if y = b.2 then 4 else if y < b.2 then 2 else 0)
  else none

/-- A packet of this device that is a unit's attached at device level (R20). -/
def deviceLevel : Endpoint → Bool
  | .core _ => false
  | .slice _ => false
  | _ => true

/-- A packet's path passes the router at (x, y). -/
def Chip.passes (s : Chip) (p : Packet) (x y : Nat) : Bool :=
  (s.inRouters p).any fun a => (s.outRouters p).any fun b => (hopOut a b x y).isSome

/-- A packet's path crosses the border of cluster `n`, by a link between routers or from a device-level attachment (R22): it passes one
of the cluster's routers and does not stay among them. (DEDUCED, log 57) -/
def Chip.crosses (s : Chip) (n : Nat) (p : Packet) : Bool :=
  let own (r : Nat × Nat) : Bool := decide (6 * (r.2 / 2) + r.1 / 2 = n)
  ((List.range 144).any fun c => decide (clusterOf c = n) && s.passes p (xOf c) (yOf c)) &&
  !((s.inRouters p ++ s.outRouters p).all own && !(deviceLevel p.src.ep) && !(deviceLevel p.dst.ep))

/-- The crossings of cluster `n` are emptied (R46, R407): a packet that has flits in one is lost.  Which packets stand in a crossing is
timing, and open. (DESIGN CHOICE, log 2; DEDUCED, log 57) -/
def Chip.emptyCrossings (s : Chip) (n : Nat) : Chip :=
  let l := s.net.zip (List.range s.net.length)
  if s.net.any (s.crosses n) then
    ((l.filter fun e => s.crosses n e.1 && decide (Config.freeNat (s.fresh + e.2) % 2 = 1)).map (·.1)).foldl Chip.netTake
      { s with fresh := s.fresh + s.net.length }
  else s

/-! ### The routers' buffers (R275, R301) -/

/-- The packets in a router's input, or at a place outside the routers, the first the oldest (State's `routers`). -/
def heldReset (_ : Nat) : List Packet := []
def Chip.held (s : Chip) (k : Nat) : List Packet := sget heldReset s.routers k
def Chip.setHeld (s : Chip) (k : Nat) (l : List Packet) : Chip := { s with routers := sset heldReset s.routers k l }

/-- The flits of a packet (R275). -/
def flitsOf (p : Packet) : Nat := (packetBytes p + 127) / 128

/-- The flits that an input holds. -/
def Chip.heldFlits (s : Chip) (k : Nat) : Nat := ((s.held k).map flitsOf).sum

/-- An input of 16 flits has room for the packet (R275). -/
def Chip.roomAt (s : Chip) (k : Nat) (p : Packet) : Bool := decide (s.heldFlits k + flitsOf p ≤ 16)

/-- The outputs that a packet may take at (x, y): one, but where more than one attachment could be meant. -/
def Chip.outsAt (s : Chip) (x y : Nat) (p : Packet) : List Nat :=
  once ((s.inRouters p).flatMap fun a => (s.outRouters p).filterMap fun b => hopOut a b x y)

/-- Where output `o` of the router at (x, y) leads: the input of the next router, a link port, or the unit attached there. -/
def Chip.nextPlace (s : Chip) (x y o : Nat) (p : Packet) : Nat :=
  if o = 0 then 8 * (12 * (y - 1) + x) + 2
  else if o = 1 then 8 * (12 * y + x + 1) + 3
  else if o = 2 then 8 * (12 * (y + 1) + x)
  else if o = 3 then 8 * (12 * y + x - 1) + 1
  else if p.dst.dev = s.devId then 1168 else 1152 + s.route p.dst.dev % 16

/-- The next place takes the packet.  A unit of this device holds room for all that comes to it (R279); a link port takes the packets of
flows that its static buffer has room for, and of the others as much as an input of a router (R301, R318). (DEDUCED, log 60) -/
def Chip.takes (s : Chip) (k : Nat) (p : Packet) : Bool :=
  if k = 1168 then true
  else if 1152 ≤ k then s.roomAt k p || ((s.port (k - 1152)).localFlow p).isSome && (s.held k).all fun q => ((s.port (k - 1152)).localFlow q).isSome
  else s.roomAt k p

/-- An output takes the inputs in rotation (R275): the next one after the last served whose oldest packet wants it. -/
def Chip.serves (s : Chip) (x y o inPort : Nat) : Bool :=
  let r := 12 * y + x
  let wants (i : Nat) : Bool := match (s.held (8 * r + i)).head? with
    | some q => (s.outsAt x y q).contains o
    | none => false
  ((List.range 5).map fun i => (sget natReset s.turn (8 * r + o) + i) % 5).find? wants = some inPort

/-- The context that a packet's travel belongs to, as ERR_CTX names it: that of the core that asks, which for an answer is the core that it
goes to; none for the kiln's and the other units' (R281, R393). (DEDUCED, log 60) -/
def Chip.packetCtx (s : Chip) (p : Packet) : Nat :=
  let answer := [1, 3, 6, 8, 11, 12, 14, 18].contains (bodyKind p.body)
  match s.localCore (if answer then p.dst else p.src) with
  | some c => s.coreCtxw c
  | none => 0

/-- A header is found with no error or one, which is corrected and logged (R281, R303). -/
def Chip.headerSeen (s : Chip) (pg bitErrors : Nat) (p : Packet) : Chip :=
  if bitErrors = 1 then (s.inc pg ⟨0xC00, 0, 32⟩ 1).logErr pg 1 (s.packetCtx p) else s

/-- A packet has passed output `o` of the router: its flits are counted, and its way to or from a device-level attachment (R304). -/
def Chip.passed (s : Chip) (pg o inPort : Nat) (p : Packet) : Chip :=
  let s2 := s.count pg (0x200 + o) (flitsOf p)
  let leaves := o = 4 && (p.dst.dev ≠ s.devId || deviceLevel p.dst.ep)
  let enters := inPort = 4 && p.src.dev = s.devId && deviceLevel p.src.ep
  if leaves || enters then s2.count pg 0x20A 1 else s2

/-- The packet stands last in an input, whose peak follows (R303). -/
def Chip.putHeld (s : Chip) (k : Nat) (p : Packet) : Chip :=
  let t := s.setHeld k (s.held k ++ [p])
  if k < 1152 then t.put (pgCHAN (k / 8)) ⟨0xC08, 8, 5⟩ (max (s.get (pgCHAN (k / 8)) ⟨0xC08, 8, 5⟩) (t.heldFlits k)) else t

/-- A packet that stands nowhere yet enters at the local input of the router where its way begins, behind those sent before it (R276), when
that input has room; otherwise it waits outside. (DESIGN CHOICE, log 43) (DEDUCED, log 60) -/
def Chip.enterMesh (s : Chip) (x y inPort : Nat) (p : Packet) : Chip :=
  let k := 8 * (12 * y + x) + inPort
  let next := s.net.find? fun q => sameWay p q && !(s.routers.any fun e => e.2.contains q)
  if inPort = 4 && (s.inRouters p).contains (x, y) && next = some p && s.roomAt k p then s.putHeld k p else s

/-- A packet of other traffic, whose effect is a command of its own, passes: it stands nowhere in the model, and acts at once. (DESIGN CHOICE, log 43) (DESIGN CHOICE, log 2) -/
def Chip.hopOther (s : Chip) (x y inPort : Nat) (p : Packet) (bitErrors : Nat) : Chip :=
  let pg := pgCHAN (12 * y + x)
  let outs := s.outsAt x y p
  if 1040 < packetBytes p || outs.isEmpty then s
  else if 2 ≤ bitErrors then (s.inc pg ⟨0xC04, 0, 32⟩ 1).logErr pg eMESH_HDR 0
  else
    let s0 := ({ s with fresh := s.fresh + 1 } : Chip).put pg ⟨0xC08, 8, 5⟩
      (max (s.get pg ⟨0xC08, 8, 5⟩) (min 16 (s.heldFlits (8 * (12 * y + x) + inPort) + flitsOf p)))
    (s0.headerSeen pg bitErrors p).passed pg ((outs[Config.freeNat s.fresh % outs.length]?).getD 0) inPort p

/-- A packet passes the router at (x, y), or its header is found uncorrectable there (R281).  It stands in the input named, oldest there;
it leaves by its output when that output's rotation has come to the input and the next place has room for the whole of it (R275, R301),
and waits otherwise.  Where more than one attachment could be meant, which output it takes is open (DESIGN CHOICE, log 2). (DEDUCED, log 60) (DESIGN CHOICE, log 43) -/
def Chip.hop (s : Chip) (x y inPort : Nat) (p : Packet) (bitErrors : Nat) : Chip :=
  let r := 12 * y + x
  let pg := pgCHAN r
  if 12 ≤ x || 12 ≤ y || 5 ≤ inPort then s
  else if bodyKind p.body = 16 then s.hopOther x y inPort p bitErrors
  else if !(s.net.contains p) then s
  else
    let t := if s.routers.any fun e => e.2.contains p then s else s.enterMesh x y inPort p
    let outs := t.outsAt x y p
    if (t.held (8 * r + inPort)).head? ≠ some p || outs.isEmpty then t
    else if 2 ≤ bitErrors then ((t.netTake p).inc pg ⟨0xC04, 0, 32⟩ 1).logErr pg eMESH_HDR 0
    else
      let o := (outs[Config.freeNat t.fresh % outs.length]?).getD 0
      let k := t.nextPlace x y o p
      if !(t.serves x y o inPort) || !(t.takes k p) then t
      else
        let u := (t.setHeld (8 * r + inPort) ((t.held (8 * r + inPort)).drop 1)).putHeld k p
        let v : Chip := { u with fresh := u.fresh + 1, turn := sset natReset u.turn (8 * r + o) ((inPort + 1) % 5) }
        (v.headerSeen pg bitErrors p).passed pg o inPort p

/-! ## The commands -/

def execExtOwnWrite (n idx : Nat) (v : BitVec 32) : State → Host.Outcome State Fault Refusal :=
  onUnit 36 n fun s => if idx < 32 then s.extOwnWrite n idx v else s

/-- A write of KIND 5 to one entry, which keeps its CTX. -/
def execExtentScrubStart (n ext : Nat) : State → Host.Outcome State Fault Refusal :=
  onUnit 36 n fun s =>
    if s.bit (pgCEL n) fResetActive || 128 ≤ ext then s else s.ownWrite n ext (5 * 16 + s.extCtx n ext)

def execExtentScrubDone (n : Nat) : State → Host.Outcome State Fault Refusal := onUnit 36 n fun s => s.scrubDone n

def execRefreshBurst (n : Nat) (tier : BurstTime) : State → Host.Outcome State Fault Refusal :=
  onUnit 36 n fun s => if tier.tier < 2 then s.dueBurst n tier.tier tier.off else s

def execForcedBurst (n tier : Nat) : State → Host.Outcome State Fault Refusal :=
  onUnit 36 n fun s => if tier < 2 then s.forcedBurst n tier else s

/-- A write of 2 or 3 is ignored; the change shows at the next edge (R264, R272). -/
def execRefPolicyWrite (n : Nat) (v : BitVec 2) : State → Host.Outcome State Fault Refusal :=
  onUnit 36 n fun s => if 2 ≤ v.toNat || s.bit (pgCEL n) fResetActive then s else s.put (pgCEL n) ⟨0x100, 0, 2⟩ v.toNat

def execTunApertureAccess (c : Nat) (k : KilnAccess) : State → Host.Outcome State Fault Refusal :=
  onUnitChip 144 c fun s => s.tunAccess c k

def execImDebugWrite (c off size : Nat) (v : BitVec 64) : State → Host.Outcome State Fault Refusal :=
  onCore c fun s => s.windowWrite c off size 0x18000 fun t => t.imWrite c off size v

def execTileDescWindowWrite (c off size : Nat) (v : BitVec 64) : State → Host.Outcome State Fault Refusal :=
  onCore c fun s => s.windowWrite c off size 0x1000 fun t => t.tdWrite c off size v

def execSlotDescWindowWrite (c off size : Nat) (v : BitVec 64) : State → Host.Outcome State Fault Refusal :=
  onCore c fun s => s.windowWrite c off size 0x10000 fun t => t.sdWrite c off size v

def execPacketHop (x y inPort : Nat) (p : Packet) (bitErrors : Nat) : State → Host.Outcome State Fault Refusal :=
  onFabric fun s => s.hop x y inPort p bitErrors

end Sys2Proof.Machine
end

