-- ==== Sys2Proof/Machine/Streams.lean ====
section
/-! DEFINITION. The stream engine: its contexts, the stream table's entries, KV pages, adjunct versions and commands (R334 to
R345, R358 to R364). -/

namespace Sys2Proof.Machine

/-! ## Fields of a context page (R372) -/

def fSpecEn : Fld := ⟨0x100, 1, 1⟩
def fCfgReject : Fld := ⟨0x100, 2, 1⟩
def fCmdDrop : Fld := ⟨0x100, 3, 1⟩
def fStepPeriod : Fld := ⟨0x10C, 0, 16⟩
def fDepth : Fld := ⟨0x10C, 16, 5⟩
def fMaxStreams : Fld := ⟨0x110, 0, 15⟩
def fRowsMax : Fld := ⟨0x114, 0, 17⟩
def fSubb : Fld := ⟨0x118, 0, 13⟩
def fChunk : Fld := ⟨0x118, 16, 13⟩
def fResSlots : Fld := ⟨0x11C, 0, 15⟩
def fQuota : Fld := ⟨0x120, 0, 21⟩
def fNpt : Fld := ⟨0x124, 0, 16⟩
def fPtlen : Fld := ⟨0x124, 16, 16⟩
def fNpages : Fld := ⟨0x128, 0, 24⟩
def fStopToken : Fld := ⟨0x12C, 0, 32⟩
def fDlyPeriod : Fld := ⟨0x130, 0, 8⟩
def fNtile : Fld := ⟨0x130, 8, 16⟩
def fBodyStride : Fld := ⟨0x158, 0, 22⟩
def fResStride : Fld := ⟨0x15C, 0, 22⟩
def fStepNext : Fld := ⟨0x1C0, 0, 32⟩
def fTgtCore (t : Nat) : Fld := ⟨0x180 + 4 * t, 0, 8⟩
def fTgtSlot (t : Nat) : Fld := ⟨0x180 + 4 * t, 8, 12⟩
def fTgtValid (t : Nat) : Fld := ⟨0x180 + 4 * t, 31, 1⟩

/-- A field of context `x`'s page. -/
def Chip.cx (s : Chip) (x : Nat) (f : Fld) : Nat := s.get (pgCTX x) f

/-- A cellar address in a context page, as _LO and _HI. -/
def Chip.cxAddr (s : Chip) (x off : Nat) : Nat := (s.reg (pgCTX x + off)).toNat + s.cx x ⟨off + 4, 0, 2⟩ * 2 ^ 32

def Chip.workBase (s : Chip) (x : Nat) : Nat := s.cxAddr x 0x138
def Chip.bodyBase (s : Chip) (x : Nat) : Nat := s.cxAddr x 0x140
def Chip.resBase (s : Chip) (x : Nat) : Nat := s.cxAddr x 0x148
def Chip.rflagAddr (s : Chip) (x : Nat) : Nat := s.cxAddr x 0x150

/-- An event count of a context (R374). -/
def Chip.seCount (s : Chip) (x e n : Nat) : Chip := s.count pgSE (16 * x + e) n

/-- The valid targets of a context. -/
def Chip.targetsOf (s : Chip) (x : Nat) : List Nat := (List.range 16).filter fun t => s.get (pgCTX x) (fTgtValid t) = 1

/-- Contexts enabled. -/
def Chip.enabled (s : Chip) : List Nat := (List.range 16).filter fun x => s.cx x fCtxEn = 1

/-! ## Enable and disable (R334 to R336) -/

/-- The address lies in an extent PRIVATE to the context on this device. -/
def Chip.privateAt (s : Chip) (x a : Nat) : Bool :=
  decide (sliceOf a < 36) && decide (s.extKind (sliceOf a) (extOf a) = 1) && decide (s.extCtx (sliceOf a) (extOf a) = x)

/-- The conditions of R334. -/
def Chip.ctxOk (s : Chip) (x : Nat) : Bool :=
  let m := s.cx x fMaxStreams
  s.bit pgSE fSeTableOn &&
  decide (1 ≤ m) && decide (m ≤ 16384) && decide (m ≤ s.cx x fRowsMax) && decide (s.cx x fRowsMax ≤ 65536) &&
  decide (((s.enabled.filter (· ≠ x)).map fun y => s.cx y fMaxStreams).sum + m ≤ 65536) &&
  decide (s.cx x fResSlots ≤ m) && decide (s.cx x fChunk ≤ s.cx x fSubb) && decide (1 ≤ s.cx x fSubb) && decide (s.cx x fSubb ≤ 4096) &&
  (decide (s.cx x fSpecEn = 0) || decide (64 ≤ s.cx x fSubb)) &&
  decide (1 ≤ s.cx x fDepth) && decide (s.cx x fDepth ≤ 16) && decide (s.cx x fStepPeriod ≠ 0) &&
  s.privateAt x (s.workBase x) && s.privateAt x (s.bodyBase x) && s.privateAt x (s.resBase x) && s.privateAt x (s.rflagAddr x) &&
  !((s.targetsOf x).isEmpty) && (s.targetsOf x).all fun t => s.present (s.get (pgCTX x) (fTgtCore t))

/-- A write of CTX_EN = 1 (R334 to R336): it clears the context's counts in every case (R374); a context already enabled stays as it
is. (DEDUCED, log 62) -/
def Chip.ctxEnable (s : Chip) (x : Nat) : Chip :=
  let t := s.clearCounts pgSE (16 * x) 16
  if s.cx x fCtxEn = 1 then t
  else if !(s.ctxOk x) then t.put (pgCTX x) fCfgReject 1
  else
    let b0 := s.get64 (pgCTX x) 0x104
    let k := if s.beat < b0 then 0 else (s.beat - b0) / s.cx x fStepPeriod + 1
    ((t.put (pgCTX x) fCtxEn 1).put (pgCTX x) fStepNext 0).updSeCtx x fun c => { c with nextK := k, due := false }

/-! ## Requests to the cellar for a context (R254) -/

/-- The first address of a range that a controller refuses to the engine acting for context `x`. -/
def Chip.seDenied (s : Chip) (x a n : Nat) (wr : Bool) : Option Nat :=
  ((extsOf a n).find? fun e => !(decide (e < 36 * 128) && s.streamMay x (e * 2 ^ 21) wr)).map fun e => max a (e * 2 ^ 21)

/-- A refused request faults the context with BAD_ADDR (R254). -/
def Chip.seRefuse (s : Chip) (x a : Nat) (wr : Bool) : Chip :=
  if sliceOf a < 36 then (s.refuse a x 0xFD wr).faultCtx (pgCEL (sliceOf a)) x eBAD_ADDR else s.faultCtx pgSE x eBAD_ADDR

/-- The part of a range that lies in slice `n`: its first byte and its length. -/
def inSlice (a n k : Nat) : Nat × Nat := (max a (k * 2 ^ 28), min (a + n) ((k + 1) * 2 ^ 28) - max a (k * 2 ^ 28))

/-- Lines of a range are counted by their controllers, which read or write them for the engine, each slice its own (R274). -/
def Chip.seLines (s : Chip) (a n : Nat) (wr : Bool) : Chip :=
  (List.range (if n = 0 then 0 else sliceOf (a + n - 1) - sliceOf a + 1)).foldl (fun t i =>
    let r := inSlice a n (sliceOf a + i)
    let k := (r.1 + r.2 - 1) / 64 - r.1 / 64 + 1
    (t.count (pgCEL (sliceOf a + i)) (if wr then 1 else 0) k).count (pgCEL (sliceOf a + i)) 3 k) s

/-- A request of the operation under way goes to a range, whose slice keeps it waiting while it is in reset (R269). -/
def Chip.seAsk (s : Chip) (x a n : Nat) : Chip := if s.sliceWaits a n then s.updSeCtx x fun k => { k with held := true } else s

/-- A range is read for the engine (R268). -/
def Chip.seSee (s : Chip) (x a n : Nat) : Chip := ((s.seAsk x a n).seLines a n false).celRead (s.ctxw x) a n

/-- A request of the operation under way is refused (R254): the first one is kept until the operation settles. -/
def Chip.noteRefused (s : Chip) (x a : Nat) (wr : Bool) : Chip :=
  s.updSeCtx x fun k => { k with refused := match k.refused with
    | none => some (a, wr)
    | r => r }

/-- A range is read for the engine, or refused (R254, R268). -/
def Chip.seRead (s : Chip) (x a n : Nat) : Chip :=
  match s.seDenied x a n false with
  | some b => s.noteRefused x b false
  | none => s.seSee x a n

/-- Bytes are written for the engine, or refused, which changes no byte (R254). -/
def Chip.seWrite (s : Chip) (x a : Nat) (l : List (BitVec 8)) : Chip :=
  match s.seDenied x a l.length true with
  | some b => s.noteRefused x b true
  | none => ((s.seAsk x a l.length).store (celAddr a) l).seLines a l.length true

/-- The line of stream `i`'s entry is read, and written (R254, R268, R274, R338). (DEDUCED, log 65) -/
def Chip.seeEntry (s : Chip) (x i : Nat) : Chip := s.seSee x (tableAddr (64 * i) - celAddr 0) 64
def Chip.putEntry (s : Chip) (i : Nat) : Chip := s.seLines (tableAddr (64 * i) - celAddr 0) 64 true

/-! ## Page tables and pages (R358, R359, R361) -/

/-- Where word `k` of page table `slot` stands. -/
def Chip.ptAddr (s : Chip) (x slot k : Nat) : Nat := s.workBase x + 4 * (s.cx x fPtlen * slot + k)

/-- The page of positions 16k to 16k + 15, where one is mapped. -/
def Chip.pageAt (s : Chip) (x slot k : Nat) : Option Nat :=
  let p := s.num (celAddr (s.ptAddr x slot k)) 4
  if p = 0xFFFFFFFF then none else some p

/-- Page table `slot` is read (R254, R268). (DEDUCED, log 65) -/
def Chip.seePt (s : Chip) (x slot : Nat) : Chip := s.seRead x (s.ptAddr x slot 0) (4 * s.cx x fPtlen)

/-- Page table `slot` lies where the engine may read it for the context. -/
def Chip.ptOpen (s : Chip) (x slot : Nat) : Bool := (s.seDenied x (s.ptAddr x slot 0) (4 * s.cx x fPtlen) false).isNone

/-- The lists that the engine keeps in the work area (R358). (DESIGN CHOICE, log 83) -/
def SeCtx.lists (k : SeCtx) : Nat × List Nat × List (Nat × List Nat) := (k.pageNext, k.pageFree, k.trees)

/-- The free page list and the tree-set list are kept behind the page tables in the work area (R358).  Their form is the engine's own:
when a list has changed, the bytes of that area are free values. (DESIGN CHOICE, log 2; DESIGN CHOICE, log 83) -/
def Chip.keepLists (s : Chip) (x : Nat) (old : SeCtx) : Chip :=
  let a := s.ptAddr x (s.cx x fNpt) 0
  let n := s.workBase x + (s.reg (pgCTX x + 0x134)).toNat - a
  if (s.seCtx x).lists = old.lists || n = 0 then s
  else
    let t := s.seWrite x a ((List.range n).map fun i => BitVec.ofNat 8 (Config.freeNat (s.fresh + i)))
    { t with fresh := t.fresh + n }

/-- The end of an operation of the engine for a context: a refused request faults the context (R254). (DESIGN CHOICE, log 83) -/
def Chip.settle (s : Chip) (x : Nat) : Chip :=
  match (s.seCtx x).refused with
  | some (a, wr) => (s.updSeCtx x fun k => { k with refused := none }).seRefuse x a wr
  | none => s

/-- An operation of the engine for context `x`: it begins with no request refused, and its lists are kept at its end.  While one of its
requests goes to a slice in reset it waits as a whole (R269). (DESIGN CHOICE, log 83; DEDUCED, log 44) (DEDUCED, log 62) -/
def Chip.seTry (s : Chip) (x : Nat) (f : Chip → Chip) : Option Chip :=
  let t := (f (s.updSeCtx x fun k => { k with refused := none, held := false })).keepLists x (s.seCtx x)
  if (t.seCtx x).held then none else some (t.settle x)

def Chip.seOp (s : Chip) (x : Nat) (f : Chip → Chip) : Chip := (s.seTry x f).getD s

/-- The pages that a stream's page table maps. -/
def Chip.mainPages (s : Chip) (x slot : Nat) : List Nat := (List.range (s.cx x fPtlen)).filterMap fun k => s.pageAt x slot k

/-- Pages that can be allocated. -/
def Chip.freePages (s : Chip) (x : Nat) : Nat := s.cx x fNpages - (s.seCtx x).pageNext + (s.seCtx x).pageFree.length

/-- A page is allocated: those never used come first, then those released, in order (DESIGN CHOICE, log 22). -/
def Chip.takePage (s : Chip) (x : Nat) : Nat × Chip :=
  let k := s.seCtx x
  if k.pageNext < s.cx x fNpages then (k.pageNext, s.setSeCtx x { k with pageNext := k.pageNext + 1 })
  else (k.pageFree.headD 0, s.setSeCtx x { k with pageFree := k.pageFree.drop 1 })

/-- The tree set of a stream: its number, where it has one. -/
def Chip.treeOf (s : Chip) (i : Nat) : Option Nat := if s.st i 54 2 = 0xFFFF then none else some (s.st i 54 2)

/-- The pages of a tree set. -/
def Chip.treePages (s : Chip) (x : Nat) (t : Option Nat) : List Nat :=
  match t with
  | none => []
  | some n => (((s.seCtx x).trees.find? fun e => e.1 = n).map (·.2)).getD []

/-- The lowest number that a list does not hold. (DESIGN CHOICE, log 22) -/
def lowestFree (l : List Nat) : Nat := ((List.range (l.length + 1)).find? fun n => !(l.contains n)).getD 0

/-! ## Adjunct versions (R362 to R364) -/

def Chip.version (s : Chip) (v : Nat) : AdjVersion := sget (fun _ => AdjVersion.reset) s.se.vers v

def Chip.setVers (s : Chip) (l : List (Nat × AdjVersion)) : Chip := { s with se := { s.se with vers := l } }

/-- The latest version of identifier `a` of context `x`. -/
def Chip.latestOf (s : Chip) (x a : Nat) : Option Nat :=
  match sget natReset s.se.latest (x * 65536 + a) with
  | 0 => none
  | n + 1 => some n

def Chip.setLatest (s : Chip) (x a : Nat) (v : Option Nat) : Chip :=
  { s with se := { s.se with latest := sset natReset s.se.latest (x * 65536 + a) ((v.map (· + 1)).getD 0) } }

/-- A version whose count is 0 and which is not the latest of its identifier is freed and reported (R362). -/
def Chip.sweepVersion (s : Chip) (v : Nat) : Chip :=
  let a := s.version v
  if (s.se.vers.any fun e => e.1 = v) && decide (a.refs = 0) && decide (s.latestOf a.ctx a.adj ≠ some v) then
    (s.setVers (sdel s.se.vers v)).report a.ctx { Entry.plain 0 0x31 with ver := some v }
  else s

/-- The count of a version changes, up or down. -/
def Chip.bindVersion (s : Chip) (v : Nat) : Chip :=
  let a := s.version v
  s.setVers (sput s.se.vers v { a with refs := a.refs + 1 })

def Chip.unbindVersion (s : Chip) (v : Nat) : Chip :=
  let a := s.version v
  (s.setVers (sput s.se.vers v { a with refs := a.refs - 1 })).sweepVersion v

/-! ## Streams -/

/-- The streams that a context holds. -/
def Chip.streamsOf (s : Chip) (x : Nat) : List Nat := s.se.used.filter fun i => s.stCtx i = x

/-- A stream is freed (R339, R359): its pages wait for the zero list, its version is unbound, GEN increments. -/
def Chip.freeStream (s : Chip) (x i : Nat) : Chip :=
  let slot := s.st i 52 2
  let t := s.treeOf i
  let pages := (if s.ptOpen x slot then s.mainPages x slot else []) ++ s.treePages x t
  let ver := s.stVer i
  let s0 := ((s.seeEntry x i).seePt x slot).putEntry i
  let k := s0.seCtx x
  let s1 := s0.setSeCtx x { k with zeroDue := k.zeroDue ++ pages, ptUsed := ndel k.ptUsed slot,
                                   trees := k.trees.filter fun e => some e.1 ≠ t }
  let s2 : Chip := { s1 with se := { s1.se with used := ndel s1.se.used i, entryFreed := s1.se.entryFreed ++ [i],
                                                drafts := sdel s1.se.drafts i, commits := sdel s1.se.commits i,
                                                delays := sdel s1.se.delays i, closing := sdel s1.se.closing i } }
  let s3 := (s2.setSt i 0 1 0).setSt i 2 2 ((s.stGen i + 1) % 4096)
  match ver with
  | some v => s3.unbindVersion v
  | none => s3

/-- An entry about a stream: its handle, version, length and client tag. -/
def Chip.streamEntry (s : Chip) (i status : Nat) : Entry :=
  { Entry.plain (s.handleOf i) status with ver := s.stVer i, len := some (s.st i 28 4), tag := some (s.st i 4 4) }

/-- A stream is preempted (R347). -/
def Chip.preempt (s : Chip) (x i : Nat) : Chip := ((s.report x (s.streamEntry i 0x12)).freeStream x i).seCount x 5 1

/-- A stream ends by CLOSE. -/
def Chip.closeStream (s : Chip) (x i : Nat) : Chip := (s.report x (s.streamEntry i 0x13)).freeStream x i

/-- The youngest of some streams. -/
def Chip.youngest (s : Chip) (l : List Nat) : Option Nat :=
  l.foldl (fun a i => match a with
    | none => some i
    | some j => if s.st j 60 4 < s.st i 60 4 then some i else some j) none

/-- The context's youngest SPOT stream that is not IN_STEP. -/
def Chip.spotVictim (s : Chip) (x : Nat) : Option Nat :=
  s.youngest ((s.streamsOf x).filter fun i => s.stClass i = 2 && s.stState i ≠ 2)

/-! ## Commands (R341 to R343) -/

/-- Bytes `o` to `o + n - 1` of a command. -/
def cmdF (m : BitVec 512) (o n : Nat) : Nat := bf m (8 * o) (8 * n)

/-- The reserved bytes of a command, as first byte and number (R343). -/
def cmdResv (op : Nat) : List (Nat × Nat) :=
  if op = 1 then [(26, 2), (44, 20)]
  else if op = 2 then [(1, 3), (12, 16), (44, 20)]
  else if op = 3 then [(1, 3), (12, 52)]
  else if op = 4 then [(1, 1), (8, 20), (36, 28)]
  else [(1, 1), (8, 56)]

/-- The command is malformed: a reserved OP, a reserved byte that is not zero, or an adjunct identifier that does not exist
(R343, R362). (DEDUCED, log 63) -/
def cmdBad (m : BitVec 512) : Bool :=
  let op := cmdF m 0 1
  op = 0 || decide (5 < op) || ((cmdResv op).any fun r => cmdF m r.1 r.2 ≠ 0) || (decide (4 ≤ op) && decide (cmdF m 2 2 = 0xFFFF))

/-- The engine takes the command at the head of an enabled context's FIFO, when it is of kind `op` (0: malformed). (DEDUCED, log 62) -/
def Chip.takeCmd (s : Chip) (x op : Nat) (f : BitVec 512 → Chip → Chip) : Chip :=
  match (s.seCtx x).fifo with
  | [] => s
  | m :: rest =>
    if s.cx x fCtxEn = 1 && decide ((if cmdBad m then 0 else cmdF m 0 1) = op) then
      s.seOp x fun t => f m ((t.updSeCtx x fun k => { k with fifo := rest }).seCount x 0xD 1)
    else s

/-- The write of CMD_W15 completes a command (R341). -/
def Chip.submit (s : Chip) (x : Nat) (w15 : Word) : Chip :=
  let s1 := s.setReg (pgCTX x + 0x23C) w15
  let m : BitVec 512 := BitVec.ofNat 512 (((List.range 16).map fun w => (s1.reg (pgCTX x + 0x200 + 4 * w)).toNat * 2 ^ (32 * w)).sum)
  if (s.seCtx x).fifo.length < 128 then s1.updSeCtx x fun k => { k with fifo := k.fifo ++ [m] }
  else ((s1.put (pgCTX x) fCmdDrop 1).raise pgSE 1).report x (Entry.plain 0 0x33)

/-- A refusal of a command: its status, the handle it names, its client tag. -/
def Chip.refuseCmd (s : Chip) (x handle status : Nat) (m : BitVec 512) : Chip :=
  s.report x { Entry.plain handle status with tag := some (cmdF m 4 4) }

/-- Check 1 of R344 on the input of ADMIT and APPEND. -/
def Chip.inputOk (s : Chip) (x : Nat) (m : BitVec 512) : Bool :=
  let n := cmdF m 32 4
  decide (1 ≤ n) && decide (n ≤ 2 ^ 24) &&
    (extsOf (4 * cmdF m 28 4) (4 * n)).all fun e => decide (e < 36 * 128) && s.coreMay x (e * 2 ^ 21) false

/-- The stream that a handle names, where it is not stale (R337). -/
def Chip.streamNamed (s : Chip) (x h : Nat) : Option Nat :=
  let i := h % 2 ^ 20
  if s.se.used.contains i && s.stCtx i = x && s.stGen i = h / 2 ^ 20 then some i else none

/-! ## ADMIT (R339, R344, R345) -/

/-- Check 4 fails. -/
def Chip.tableFull (s : Chip) : Bool := decide (2 ^ 20 ≤ s.se.entryNext) && s.se.entryFreed.isEmpty

/-- Check 5 fails. -/
def Chip.overQuota (s : Chip) (x : Nat) : Bool :=
  decide (s.cx x fQuota ≤ (s.streamsOf x).length) || decide (s.cx x fNpt ≤ (s.seCtx x).ptUsed.length)

/-- SPOT streams are preempted while an admission of class RESERVED fails check 4 or 5 (R345). -/
def Chip.makeRoom (s : Chip) (x : Nat) : Nat → Chip
  | 0 => s
  | n + 1 =>
    if s.tableFull || s.overQuota x then
      match s.spotVictim x with
      | some i => (s.preempt x i).makeRoom x n
      | none => s
    else s

/-- The free entry that admission takes: the one that has been free longest (R339). (DESIGN CHOICE, log 22) -/
def Chip.takeEntry (s : Chip) : Nat × Chip :=
  if s.se.entryNext < 2 ^ 20 then
    (s.se.entryNext, { s with se := { s.se with entryNext := s.se.entryNext + 1, used := nput s.se.used s.se.entryNext } })
  else
    let i := s.se.entryFreed.headD 0
    (i, { s with se := { s.se with entryFreed := s.se.entryFreed.drop 1, used := nput s.se.used i } })

/-- The entry of an admitted stream (R338, R345), but its GEN. (DEDUCED, log 63) -/
def admitEntry (x slot seq : Nat) (ver : Option Nat) (m : BitVec 512) : List (BitVec 8) × List (BitVec 8) :=
  (bytesOf 1 (1 + 16 * x) ++ bytesOf 1 (cmdF m 1 1 % 64 + (if ver.isNone then 64 else 0)),
   bytesOf 4 (cmdF m 4 4) ++ bytesOf 8 (cmdF m 8 8) ++ bytesOf 4 (cmdF m 16 4) ++ bytesOf 4 (cmdF m 20 4) ++ bytesOf 2 (cmdF m 24 2) ++
   bytesOf 2 (ver.getD 0xFFFF) ++ bytesOf 4 0 ++ bytesOf 4 0 ++ bytesOf 4 (cmdF m 28 4) ++ bytesOf 4 (cmdF m 32 4) ++ bytesOf 4 0 ++
   bytesOf 4 (cmdF m 36 4) ++ bytesOf 2 slot ++ bytesOf 2 0xFFFF ++ bytesOf 4 (cmdF m 40 4) ++ bytesOf 4 seq)

/-- A stream is admitted: it takes an entry, a page table with nothing mapped, and its version. (DEDUCED, log 63) -/
def Chip.admitStream (s : Chip) (x : Nat) (ver : Option Nat) (m : BitVec 512) : Chip :=
  let k := s.seCtx x
  let slot := lowestFree k.ptUsed
  let len := 4 * s.cx x fPtlen
  match s.seDenied x (s.ptAddr x slot 0) len true with
  | some a => s.noteRefused x a true
  | none =>
    let e := s.takeEntry
    let s1 := e.2.setSeCtx x { k with ptUsed := nput k.ptUsed slot, admitSeq := k.admitSeq + 1 }
    let s2 := ((s1.seWrite x (s.ptAddr x slot 0) (List.replicate len 0xFF)).seeEntry x e.1).putEntry e.1
    let b := admitEntry x slot k.admitSeq ver m
    let s3 := (s2.store (tableAddr (64 * e.1)) b.1).store (tableAddr (64 * e.1) + 4) b.2
    let s4 := match ver with
      | some v => s3.bindVersion v
      | none => s3
    s4.report x (s4.streamEntry e.1 0x10)

/-- ADMIT. (DEDUCED, log 63) -/
def Chip.admitCmd (s : Chip) (x : Nat) (m : BitVec 512) : Chip :=
  let cls := cmdF m 1 1 % 4
  let adj := cmdF m 2 2
  let no (t : Chip) (status : Nat) : Chip := (t.refuseCmd x 0 status m).seCount x 6 1
  if !(s.inputOk x m) || cls = 3 || decide (64 < cmdF m 24 2) || ((cmdF m 1 1).testBit 3 && decide (s.cx x fSpecEn = 0)) then no s 0x23
  else if adj ≠ 0xFFFF && (s.latestOf x adj).isNone then no s 0x22
  else
    let t := if cls = 0 then s.makeRoom x (s.streamsOf x).length else s
    if t.tableFull then no t 0x20
    else if t.overQuota x then no t 0x21
    else t.admitStream x (if adj = 0xFFFF then none else t.latestOf x adj) m

/-! ## APPEND, CLOSE (R340, R343, R344) -/

/-- The entry that a handle names is read (R337, R268). -/
def Chip.seeNamed (s : Chip) (x h : Nat) : Chip := if h % 2 ^ 20 < s.se.entryNext then s.seeEntry x (h % 2 ^ 20) else s

def Chip.appendCmd (s0 : Chip) (x : Nat) (m : BitVec 512) : Chip :=
  let h := cmdF m 8 4
  let s := s0.seeNamed x h
  if !(s.inputOk x m) then s.refuseCmd x h 0x23 m
  else match s.streamNamed x h with
    | none => s.refuseCmd x h 0x25 m
    | some i =>
      if s.stState i ≠ 3 then s.refuseCmd x h 0x24 m
      else
        let s1 := (((((s.putEntry i).setStState i 1).setSt i 36 4 (cmdF m 28 4)).setSt i 40 4 (cmdF m 32 4)).setSt i 44 4 0).setSt i 56 4 (cmdF m 40 4)
        if cmdF m 36 4 = 0 then s1 else s1.setSt i 48 4 (cmdF m 36 4)

/-- CLOSE; one that names an IN_STEP stream takes effect when the step's result is processed. (DEDUCED, log 63) -/
def Chip.closeCmd (s0 : Chip) (x : Nat) (m : BitVec 512) : Chip :=
  let s := s0.seeNamed x (cmdF m 8 4)
  match s.streamNamed x (cmdF m 8 4) with
  | none => s.refuseCmd x (cmdF m 8 4) 0x25 m
  | some i =>
    if s.stState i = 2 then { s with se := { s.se with closing := sput s.se.closing i 1 } } else s.closeStream x i

/-! ## ADJLOAD, ADJDROP (R363) -/

/-- The extents of an image, its header included. -/
def Chip.imageOk (s : Chip) (x a n : Nat) : Bool :=
  (extsOf a (max n 16)).all fun e => decide (e < 36 * 128) && s.coreMay x (e * 2 ^ 21) false

def Chip.adjloadCmd (s : Chip) (x : Nat) (m : BitVec 512) : Chip :=
  let a := 4 * cmdF m 28 4
  let adj := cmdF m 2 2
  let reject (t : Chip) (cause : Nat) : Chip :=
    t.report x { Entry.plain 0 0x32 with cause := cause, tag := some (cmdF m 4 4) }
  if !(s.imageOk x a (cmdF m 32 4)) then reject s 1
  else
    let s1 := s.seSee x a 16
    if s1.num (celAddr a) 4 ≠ s.cx x fNtile then reject s1 2
    else if 65536 ≤ s.se.vers.length then reject s1 3
    else
      let v := lowestFree (s.se.vers.map (·.1))
      let old := s.latestOf x adj
      let s2 := (s1.setVers (sput s1.se.vers v { image := a, ctx := x, adj := adj, refs := 0 })).setLatest x adj (some v)
      let s3 := s2.report x { Entry.plain 0 0x30 with ver := some v, tag := some (cmdF m 4 4) }
      match old with
      | some o => s3.sweepVersion o
      | none => s3

def Chip.adjdropCmd (s : Chip) (x : Nat) (m : BitVec 512) : Chip :=
  match s.latestOf x (cmdF m 2 2) with
  | some v => (s.setLatest x (cmdF m 2 2) none).sweepVersion v
  | none => s

/-! ## When a context recovers or is released (R404, R409) -/

/-- The context's streams that were IN_STEP return to READY (R404). -/
def Chip.unstep (s : Chip) (x : Nat) : Chip :=
  s.forEach ((s.streamsOf x).filter fun i => s.stState i = 2) fun t i => (t.putEntry i).setStState i 1

/-- Step 5 of R409: every stream, command and identifier of the context goes, and no record is written. -/
def Chip.releaseStreams (s : Chip) (x : Nat) : Chip :=
  let s1 := s.forEach (s.streamsOf x) fun t i => t.freeStream x i
  let mine (e : Nat × AdjVersion) : Bool := decide (e.2.ctx = x)
  let s2 : Chip := { s1 with se := { s1.se with vers := s1.se.vers.filter fun e => !(mine e),
                                                latest := s1.se.latest.filter fun e => e.1 / 65536 ≠ x } }
  s2.setSeCtx x SeCtx.reset

/-! ## The commands -/

def execCtxEnable (x : Nat) : State → Host.Outcome State Fault Refusal :=
  onUnit 16 x fun s => if s.bit pgSE fResetActive then s else s.ctxEnable x

def execCtxDisable (x : Nat) : State → Host.Outcome State Fault Refusal :=
  onUnit 16 x fun s => if s.bit pgSE fResetActive then s else s.put (pgCTX x) fCtxEn 0

def execCommandSubmit (x : Nat) (w15 : BitVec 32) : State → Host.Outcome State Fault Refusal :=
  onUnit 16 x fun s => if s.bit pgSE fResetActive then s else s.submit x w15

def execStreamAdmit (x : Nat) : State → Host.Outcome State Fault Refusal := onUnit 16 x fun s => s.takeCmd x 1 fun m t => t.admitCmd x m

def execAppend (x : Nat) : State → Host.Outcome State Fault Refusal := onUnit 16 x fun s => s.takeCmd x 2 fun m t => t.appendCmd x m

def execStreamClose (x : Nat) : State → Host.Outcome State Fault Refusal := onUnit 16 x fun s => s.takeCmd x 3 fun m t => t.closeCmd x m

def execAdjload (x : Nat) : State → Host.Outcome State Fault Refusal := onUnit 16 x fun s => s.takeCmd x 4 fun m t => t.adjloadCmd x m

def execAdjdrop (x : Nat) : State → Host.Outcome State Fault Refusal := onUnit 16 x fun s => s.takeCmd x 5 fun m t => t.adjdropCmd x m

/-- A malformed command is taken, changes nothing and is reported (R343). -/
def execCmdBad (x : Nat) : State → Host.Outcome State Fault Refusal :=
  onUnit 16 x fun s => s.takeCmd x 0 fun m t => t.refuseCmd x 0 0x34 m

end Sys2Proof.Machine
end

