-- ==== Sys2Proof/Machine/Resets.lean ====
section
/-! DEFINITION. Function resets (R127, R288, R389, R407, R408, R476), and what a chip reset leaves of the device (R269, R468,
R482). -/

namespace Sys2Proof.Machine

/-! ## Pages -/

/-- A function reset of a page: block-specific fields and HOLD take their reset values; LOCK and the registers at 0x010 to
0x034 stay (R467, R476). `keep` names further offsets that stay. (DEDUCED, log 57) -/
def Chip.resetPage (s : Chip) (page : Nat) (keep : Nat → Bool) : Chip :=
  let lock := s.get page fLock
  let stays (e : Nat × Word) : Bool :=
    !(decide (page ≤ e.1) && decide (e.1 < page + 0x1000)) || (decide (page + 0x010 ≤ e.1) && decide (e.1 < page + 0x038)) ||
    keep (e.1 - page)
  let t : Chip := { s with regs := s.regs.filter stays }
  (t.setReg (page + 0x008) 0).put page fLock lock

/-- Nothing beyond what every function reset keeps. -/
def keepNone (_ : Nat) : Bool := false

/-- The router's registers and DISCARDS stay in the channel page (R280, R303). -/
def keepChan (o : Nat) : Bool := decide (o = 0x10C) || decide (0xC00 ≤ o)

/-! ## Cores and their engines -/

/-- Blocks of abandoned loads are INVALID (R67, R92). -/
def Core.dropLoads (k : Core) : Core :=
  k.loads.foldl (fun (a : Core) l => (List.range l.nblk).foldl (fun a i => a.setBlock (l.first + i) 0) a) { k with loads := [] }

/-- The neighbours of core `c` lose the credits that they hold for its slots (R127). -/
def Chip.dropCredits (s : Chip) (c : Nat) : Chip :=
  let t := s.forEach (List.range 4) fun t d =>
    match t.neighbour c d with
    | some m => t.updCore m fun k => { k with creds := k.creds.filter fun e => decide (e.1 ≠ oppDir d) }
    | none => t
  let v := t.netKeep fun p => !(decide (p.src = t.coreNode c) && decide (bodyKind p.body = 4))
  let u : Chip := { v with slots := v.slots.map fun e => if e.1 / 4096 = c then (e.1, { e.2 with crdout := 0 }) else e }
  { u with slots := u.slots.filter fun e => decide (e.2 ≠ Slot.reset) }

/-- The lines, polls and releases of core `c` that no command of it waits for any more are given up (R269). -/
def Chip.dropLines (s : Chip) (c : Nat) : Chip :=
  let live := (((s.core c).running uCEL) ++ (s.core c).running uSYNC).map (·.id)
  s.netKeep fun p => !(lineOf (s.coreNode c) p) || (match p.body with
    | .lineReq id _ _ _ => live.contains id
    | .lineAck id _ _ _ => live.contains id
    | _ => true)

/-- The function reset of one engine (R407): what is queued and what runs is abandoned, the buffers are zeroed. -/
def Chip.engineReset (s : Chip) (c u : Nat) : Chip :=
  let s1 := (s.updCore c fun k => (k.setQueue u []).setRunning u []).resetPage (unitPage c u) (if u = uCHAN then keepChan else keepNone)
  if u = uMTX then s1.updCore c fun k => { k with chain := none, chainIssued := none }
  else if u = uVEC then s1.updCore c fun k => { k with splitIssued := false }
  else if u = uMOV then (s1.updCore c fun k => ((k.setQueue uCEL []).setRunning uCEL []).dropLoads).dropLines c
  else if u = uADJ then s1.updCore c fun k => { k with rowMap := none, adjMmul := 0, adjDone := 0, corr := [] }
  else if u = uSYNC then
    ((s1.updCore c fun k => { k with rels := [], probes := [], acq := none, creds := [], granted := [], nwIn := [] }).dropCredits c).dropLines c
  else
    let t : Chip := { s1 with chans := s1.chans.filter fun e => decide (e.1 / 64 ≠ c),
                              rqs := s1.rqs.filter fun e => decide (e.1 / 16 ≠ c) }
    t.updCore c fun k => { k with cntPend := [] }

/-- Every slot of core `c` becomes EMPTY with its counts at 0 and GEN incremented; bits [63:0] stay (R407). -/
def Chip.resetSlots (s : Chip) (c : Nat) : Chip :=
  let l := s.slots.map fun e =>
    if e.1 / 4096 = c then (e.1, { Slot.reset with desc := e.2.desc, gen := e.2.gen }) else e
  let t : Chip := { s with slots := l.filter fun e => decide (e.2 ≠ Slot.reset) }
  t.updCore c fun k => { k with genBase := (k.genBase + 1) % 256 }

/-- Reports that waited at the port of a core in reset are lost to their occurrences (R389). -/
def Chip.dropReports (s : Chip) (l : List Packet) : Chip :=
  l.foldl (fun t p => match p.body with
    | .vaneReport entry occ _ _ => t.lostReport entry occ
    | _ => t) s

/-- A core function reset (R407): the sequencer is IDLE, every block INVALID, the gather buffer and the vane port's
accumulators and waiting reports are discarded. (DEDUCED, log 57) -/
def Chip.coreReset (s : Chip) (c : Nat) : Chip :=
  let k := s.core c
  let s1 := (s.forEach [uMTX, uVEC, uMOV, uADJ, uSYNC, uCHAN] fun t u => t.engineReset c u).resetPage (pgSEQ c) keepNone
  let s2 := s1.setCore c { Core.reset with nextId := k.nextId, vane := k.vane.map (fun e => (e.1, e.2.1, 0)),
                                           genBase := k.genBase, inReset := true, scrubbing := k.scrubbing }
  let t := s2.netKeep fun p => !(isReportOf (s2.coreNode c) p)
  let lost := s2.net.filter (isReportOf (s2.coreNode c))
  (t.resetSlots c).dropReports lost

/-- A reset of a core whose sequencer is RUNNING or HELD first faults its context with KILLED (R400). -/
def Chip.kill (s : Chip) (c page : Nat) : Chip :=
  if s.seqIn c [sqRUNNING, sqHELD] then
    let x := s.ctxOf c
    (s.logErr pgFLT eKILLED (s.ctxw x)).contextFault x eKILLED page
  else s

/-- A reset starts (R407, R408): a narrower one under way is absorbed. (DEDUCED, log 57) -/
def Chip.beginReset (s : Chip) (t : ResetTarget) (absorbs : ResetTarget → Bool) : Chip :=
  { s with resets := s.resets.filter (fun r => !(absorbs r)) ++ [t] }

/-- The reset targets inside core `c`. -/
def insideCore (c : Nat) : ResetTarget → Bool
  | .engine d _ => decide (d = c)
  | .core d => decide (d = c)
  | _ => false

/-- ENGINE_FRESET (R407). -/
def Chip.engineFreset (s : Chip) (c u : Nat) : Chip :=
  if !(s.present c) then s.absentWrite
  else if (s.core c).inReset || s.bit (unitPage c u) fResetActive || !([uMTX, uVEC, uMOV, uADJ, uSYNC, uCHAN].contains u) then s
  else
    (((s.kill c (unitPage c u)).engineReset c u).put (unitPage c u) fResetActive 1).beginReset (.engine c u) fun _ => false

/-- CORE_FRESET (R407). -/
def Chip.coreFreset (s : Chip) (c : Nat) : Chip :=
  if !(s.present c) then s.absentWrite
  else if (s.core c).inReset then s
  else ((s.kill c (pgSEQ c)).coreReset c).beginReset (.core c) (insideCore c)

/-- The cores of cluster `n` that are present (R18). -/
def Chip.clusterCores (s : Chip) (n : Nat) : List Nat := s.presentCores.filter fun c => clusterOf c = n

/-- The cellar controller's fields that a cluster reset keeps: refresh, patrol and owner entries (R407). -/
def keepCel (o : Nat) : Bool := (decide (0x108 ≤ o) && decide (o < 0x110)) || decide (0x200 ≤ o)

/-- CLUSTER_FRESET (R407). -/
def Chip.clusterFreset (s : Chip) (n : Nat) : Chip :=
  if s.bit (pgCEL n) fResetActive then s
  else
    let cs := s.clusterCores n
    let s1 := cs.foldl (fun t c => (t.kill c (pgCEL n)).coreReset c) s
    ((((s1.emptyCrossings n).resetPage (pgCEL n) keepCel).put (pgCEL n) fResetActive 1).beginReset (.cluster n) fun r =>
      cs.any fun c => insideCore c r)

/-- PORT_FRESET (R329, R407): the port's counts are cleared (R333), every cell is discarded, DOWN_CAUSE is 7. -/
def Chip.portFreset (s : Chip) (p : Nat) : Chip :=
  let pg := pgLNK p
  let n := s.heldCells p
  let rws := s.get pg ⟨0x100, 0, 2⟩
  let s1 := ((s.emptyPort p).clearCounts pg 0 0x200).resetPage pg keepNone
  let s2 := (((s1.setPort p Port.reset).downNotice p (s.port p).txSeq (s.linkWorks p 7)).put pg ⟨0x100, 0, 2⟩ rws).put pg fDownCause 7
  ((((s2.count pg 0x0F n).logErr pg eLINK_DOWN 0).raise pg 0).put pg fResetActive 1).beginReset (.port p) fun _ => false

/-- STREAM_ENGINE_FRESET (R407): every entry in use is freed and its GEN increments; no record is written. -/
def Chip.streamReset (s : Chip) : Chip :=
  let on := s.get pgSE ⟨0x100, 0, 1⟩
  let s1 := s.forEach s.se.used fun t i => ((t.putEntry i).setSt i 0 1 0).setSt i 2 2 ((t.stGen i + 1) % 4096)
  let s2 : Chip := { s1 with se := { SE.reset with entryNext := s.se.entryNext, entryFreed := s.se.entryFreed ++ s.se.used } }
  let s3 := (s2.resetPage pgSE keepNone).put pgSE ⟨0x100, 0, 1⟩ on
  s3.forEach (List.range 16) fun t x => t.resetPage (pgCTX x) keepNone

/-- The ring registers stay over a vane function reset, DROPPED not among them (R389, R467). (DEDUCED, log 57) -/
def keepVan (o : Nat) : Bool := decide (0x118 ≤ o) && decide (o < 0x12C)

/-- VANE_FRESET (R389). (DEDUCED, log 57) -/
def Chip.vaneReset (s : Chip) : Chip :=
  let u := s.netKeep fun p => decide (bodyKind p.body ≠ 15)
  let t : Chip := { u with vaneOpen := [], vaneCnt := [], vaneHigh := [] }
  (t.forEach s.presentCores fun u c => if (u.core c).vane = [] then u else u.updCore c fun k => { k with vane := [] }).resetPage pgVAN keepVan

def fLinkUp : Fld := ⟨0x100, 1, 1⟩

/-- A reset of a device unit that is not under way starts. -/
def Chip.unitReset (s : Chip) (page : Nat) (t : ResetTarget) (f : Chip → Chip) : Chip :=
  if s.bit page fResetActive then s else ((f s).put page fResetActive 1).beginReset t fun _ => false

/-- A reset completes: RESET_ACTIVE clears (R407), and a port trains (R326). (DEDUCED, log 57) -/
def Chip.fresetDone (s : Chip) (t : ResetTarget) : Chip :=
  if !(s.resets.contains t) then s
  else
    let s1 : Chip := { s with resets := s.resets.filter (· ≠ t) }
    let off (u : Chip) (c : Nat) : Chip := u.updCore c fun k => { k with inReset := false }
    match t with
    | .engine c u => s1.put (unitPage c u) fResetActive 0
    | .core c => off s1 c
    | .cluster n => ((s1.clusterCores n).foldl off s1).put (pgCEL n) fResetActive 0
    | .port p => (s1.put (pgLNK p) fResetActive 0).trainPort p
    | .streamEngine => s1.put pgSE fResetActive 0
    | .vane => s1.put pgVAN fResetActive 0
    | .mgmt => s1.put pgMGT fResetActive 0
    | .kiln => s1.put pgKLN fResetActive 0

/-! ## Chip reset -/

/-- Pages of the kiln domain (R468). -/
def kilnPage (page : Nat) : Bool :=
  [pgID, pgRST, pgGERP, pgKLN, pgMGT, pgSEC, pgOTP].contains page

/-- A byte of the flash (R442). -/
def inFlash (a : Nat) : Bool := decide (0x20000000 ≤ a) && decide (a < 0x30000000)

/-- A byte of the kiln's memories (R442): SRAM, buffers, mailbox and flash. -/
def inKilnMem (a : Nat) : Bool := decide (a < 0x40000000)

/-- A byte of the carve-out (R251). -/
def Chip.inCarveMem (s : Chip) (a : Nat) : Bool :=
  decide (0x1000000000 ≤ a) && decide (a < 0x2000000000) && s.inCarve (sliceOf (a - celAddr 0)) (extOf (a - celAddr 0))

/-- The device after a reset of the fabric: the pages and memory bytes that `page` and `byte` name stay, beside what lies
outside the fabric. -/
def Chip.afterReset (s : Chip) (page : Nat → Bool) (byte : Nat → Bool) : Chip :=
  { Chip.reset with
    ident := s.ident, regs := s.regs.filter fun e => page (e.1 / 0x1000 * 0x1000),
    counts := s.counts.filter fun e => page (e.1 / 0x1000 * 0x1000), mem := s.mem.filter fun e => byte e.1,
    poison := s.poison.filter fun w => byte (8 * w), errs := s.errs.filter fun e => byte (8 * e.1),
    edges := s.edges, waitNo := s.waitNo, fresh := s.fresh, sec := s.sec, board := s.board, wdogHit := s.wdogHit,
    latch := s.latch.filter fun e => page (e.1 / 0x1000 * 0x1000), resets := s.resets.filter fun r => r = .mgmt || r = .kiln }

/-- VDD_SET takes V(1,600), which the part's own offset moves (R421, R467). (DEDUCED, log 29) -/
def Chip.resetVdd (s : Chip) : Chip :=
  if sgn 4 s.ident.voff = 0 then s else s.put pgGOV fVddSet (680 + 5 * sgn 4 s.ident.voff).toNat

/-- DEV_ID is cleared by every chip reset (R468). -/
def Chip.clearDevId (s : Chip) : Chip := (s.put pgID ⟨0x130, 0, 10⟩ 0).put pgID fDevIdValid 0

/-- Every port that does not stand in DISABLED or DOWN logs LINK_DOWN, in its page and in the global log, which the kiln keeps (R329, R482).
(DEDUCED, log 56) -/
def Chip.portsLost (s : Chip) : Chip :=
  s.forEach ((List.range 16).filter fun p => s.portPresent p && decide (s.portState p ≠ psDISABLED) && decide (s.portState p ≠ psDOWN))
    fun t p => t.logErr (pgLNK p) eLINK_DOWN 0

/-- Every port enters DOWN; in STANDBY the ports stay DISABLED (R418, R482). (DEDUCED, log 56) -/
def Chip.portsDown (s : Chip) : Chip :=
  if s.get pgGOV fPstate = 1 then s else s.forEach ((List.range 16).filter s.portPresent) fun t p => t.setPortState p psDOWN

/-- A chip reset that keeps the kiln up (R269, R482): the fabric is reset, the carve-out and the kiln stay. -/
def Chip.resetKeepKiln (s : Chip) : Chip :=
  let ps := if s.get pgGOV fPstate = 1 then 1 else 2
  let t := (s.portsLost.afterReset kilnPage fun a => inKilnMem a || s.inCarveMem a).resetVdd.clearDevId
  ((((t.put pgGOV fPstate ps).put pgKLN ⟨0x100, 8, 1⟩ 0).put pgRST ⟨0x104, 0, 3⟩ 3).put pgRST ⟨0x104, 3, 1⟩ 1).portsDown

/-- The carve-out in force, KLN CARVE_SIZE, and the chip resets counted stay over a restart of the kiln until the boot ROM
fixes them (R447, R481). -/
def Chip.resetAll (s : Chip) (cause : Nat) : Chip :=
  let n := s.get pgRST ⟨0x108, 0, 32⟩
  let t := (s.afterReset (fun _ => false) inFlash).resetVdd
  let u : Chip := { t with sec := Sec.reset, wdogHit := [], resets := [], resp := [],
                           board := { s.board with held := true, bootDue := true, celReady := false, smbCame := false } }
  (u.put pgRST ⟨0x108, 0, 32⟩ n).put pgRST ⟨0x104, 0, 3⟩ cause

/-- The rails other than VSB33 and VDD_AON are off: every memory content but the flash is lost (R418, R427, R501). -/
def Chip.powerOff (s : Chip) : Chip :=
  let t := (s.afterReset (fun _ => false) inFlash).resetVdd
  { t with sec := Sec.reset, wdogHit := [], resets := [], resp := [],
           board := { s.board with rails := 0, held := true, bootDue := true, celReady := false, smbCame := false } }

/-! ## The commands -/

def execEngineFreset (c unit : Nat) : State → Host.Outcome State Fault Refusal := onCore c fun s => s.engineFreset c unit

def execCoreFreset (c : Nat) : State → Host.Outcome State Fault Refusal := onCore c fun s => s.coreFreset c

def execClusterFreset (n : Nat) : State → Host.Outcome State Fault Refusal := onUnit 36 n fun s => s.clusterFreset n

def execPortFreset (p : Nat) : State → Host.Outcome State Fault Refusal := onPortWrite p fun s => s.portFreset p

def execStreamEngineFreset : State → Host.Outcome State Fault Refusal :=
  onFabric fun s => s.unitReset pgSE .streamEngine Chip.streamReset

def execVaneFreset : State → Host.Outcome State Fault Refusal := onFabric fun s => s.unitReset pgVAN .vane Chip.vaneReset

/-- The management port's own reset (R407, R467, R468): its link goes down, the page's fields take their Reset values, and OS_OWNS stays. (DEDUCED, log 57) -/
def Chip.mgmtReset (s : Chip) : Chip :=
  let t := if s.bit pgMGT fLinkUp then s.raise pgMGT 0 else s
  (t.resetPage pgMGT keepNone).put pgMGT ⟨0x100, 0, 1⟩ (s.get pgMGT ⟨0x100, 0, 1⟩)

def execMgmtPortFreset : State → Host.Outcome State Fault Refusal :=
  onChip fun s => s.unitReset pgMGT .mgmt Chip.mgmtReset

def execFresetDone (t : ResetTarget) : State → Host.Outcome State Fault Refusal := onChip fun s => s.fresetDone t

/-- A keyed request for a chip reset (R482); any other KEY, and a request while one is under way, is ignored. -/
def Chip.chipReset (s : Chip) (key : BitVec 8) (f : Chip → Chip) : Chip :=
  if key ≠ 0x5A || s.bit pgRST ⟨0x104, 3, 1⟩ then s.put pgRST ⟨0x104, 4, 1⟩ 1
  else f (s.inc pgRST ⟨0x108, 0, 32⟩ 1)

def execChipResetKeepKiln (key : BitVec 8) : State → Host.Outcome State Fault Refusal :=
  onChip fun s => s.chipReset key Chip.resetKeepKiln

def execChipResetRestartKiln (key : BitVec 8) : State → Host.Outcome State Fault Refusal :=
  onChip fun s => s.chipReset key fun t => t.resetAll 4

/-- A port leaves the DOWN of a chip reset, and trains (R326). (DEDUCED, log 56) -/
def Chip.leaveReset (s : Chip) (p : Nat) : Chip :=
  (if s.portState p = psDOWN then s.setPortState p psDISABLED else s).trainPort p

/-- The generators are locked, the cellar is recalibrated and every fabric page has left reset: the ports train (R44, R326, R482).
(DEDUCED, log 56) -/
def execChipResetDone : State → Host.Outcome State Fault Refusal :=
  onChip fun s =>
    if s.bit pgRST ⟨0x104, 3, 1⟩ then
      (({ s with pow := { s.pow with locked := true } } : Chip).put pgRST ⟨0x104, 3, 1⟩ 0).forEach (List.range 16) Chip.leaveReset
    else s

end Sys2Proof.Machine
end

