-- ==== Sys2Proof/Machine/Security.lean ====
section
/-! DEFINITION. The OTP map (R453, R454), the attestation of a boot (R457, R458), the debug policy (R459) and the commands of the
security engine (R460).  What a command burns is burnt when it starts; its status shows when it ends (DESIGN CHOICE, log 30). -/

namespace Sys2Proof.Machine

/-! ## The OTP (R453, R454): the burnt bits, by number, rising -/

def otpBit (otp : List Nat) (n : Nat) : Bool := otp.contains n

/-- A run of bits as a number, the lowest bit first. -/
def otpNum (otp : List Nat) (lo len : Nat) : Nat := ((otp.filter fun b => decide (lo ≤ b) && decide (b < lo + len)).map fun b => 2 ^ (b - lo)).sum

/-- How many bits of a run are burnt. -/
def otpCount (otp : List Nat) (lo len : Nat) : Nat := (otp.filter fun b => decide (lo ≤ b) && decide (b < lo + len)).length

/-- Bits are burnt; one burnt before stays burnt. -/
def otpBurn (otp : List Nat) (l : List Nat) : List Nat := l.foldl nput otp

/-- The lowest unburnt bits of a run. -/
def otpFree (otp : List Nat) (lo len : Nat) : List Nat := ((List.range len).map (lo + ·)).filter fun b => !(otpBit otp b)

/-- The bits of a number that are 1, from a place on. -/
def onesOf (v lo len : Nat) : List Nat := ((List.range len).filter fun b => v.testBit b).map (lo + ·)

/-- Where the generations of the vendor's and the owner's root key hash start. -/
def vendorBase : Nat := 1088
def ownerBase : Nat := 2144

def genStarted (otp : List Nat) (base g : Nat) : Bool := otpBit otp (base + 264 * g + 256)
def genWritten (otp : List Nat) (base g : Nat) : Bool := otpBit otp (base + 264 * g + 257)
def genRevoked (otp : List Nat) (base g : Nat) : Bool := otpBit otp (base + 264 * g + 258)

/-- The active generation of a key group: the lowest that is WRITTEN and not REVOKED (R454). -/
def activeGen (otp : List Nat) (base : Nat) : Option Nat :=
  (List.range 4).find? fun g => genWritten otp base g && !(genRevoked otp base g)

/-- The next generation to write: the lowest that was never started (R454). (DEDUCED, log 70) -/
def nextGen (otp : List Nat) (base : Nat) : Option Nat :=
  (List.range 4).find? fun g => !(genStarted otp base g) && !(genWritten otp base g) && !(genRevoked otp base g)

/-- The 32 B of a generation's hash. -/
def genHash (otp : List Nat) (base g : Nat) : List (BitVec 8) := bytesOf 32 (otpNum otp (base + 264 * g) 256)

/-- The bits that write a generation: STARTED, the hash, WRITTEN (R454). -/
def genBits (base g hash : Nat) : List Nat :=
  [base + 264 * g + 256] ++ onesOf hash (base + 264 * g) 256 ++ [base + 264 * g + 257]

/-- Majority of three bits. -/
def majority (otp : List Nat) (b : Nat) : Bool := decide (2 ≤ otpCount otp b 3)

/-- The debug policy: 0 OPEN, 1 OWNER_UNLOCKABLE, 2 SEALED (R453, R463). -/
def otpPolicy (otp : List Nat) : Nat := if majority otp 3203 then 2 else if majority otp 3200 then 1 else 0

/-- The anti-rollback counter (R453). -/
def otpSvn (otp : List Nat) : Nat := otpCount otp 3216 64

/-- The active kiln-memory generation's size, 1 GiB when none is written (R447, R454). -/
def otpCarve (otp : List Nat) : Nat :=
  if otpBit otp 3292 then otpNum otp 3288 4 else if otpBit otp 3284 then otpNum otp 3280 4 else 4

/-- Leaf ranges left (R453, R458). -/
def otpRanges (otp : List Nat) : Nat := 4096 - otpCount otp 5120 4096

/-! ## Registers of the SEC page (R463) -/

def fSecBusy : Fld := ⟨0x104, 0, 1⟩
def fSecOverrun : Fld := ⟨0x104, 1, 1⟩
def fSecResult : Fld := ⟨0x104, 8, 3⟩
def fVndGen : Fld := ⟨0x108, 4, 3⟩
def fOwnGen : Fld := ⟨0x108, 8, 3⟩
def fSvnCtr : Fld := ⟨0x108, 12, 7⟩
def fAttestRange : Fld := ⟨0x10C, 0, 12⟩
def fAttestLeft : Fld := ⟨0x10C, 16, 13⟩
def fLeavesLeft : Fld := ⟨0x110, 0, 9⟩

/-- The 32 B of a measurement. -/
def Chip.meas (s : Chip) (i : Nat) : List (BitVec 8) :=
  (List.range 8).flatMap fun k => bytesOf 4 (s.reg (pgSEC + 0x140 + 32 * i + 4 * k)).toNat

def Chip.setMeas (s : Chip) (i : Nat) (l : List (BitVec 8)) : Chip :=
  s.forEach (List.range 8) fun t k => t.setReg (pgSEC + 0x140 + 32 * i + 4 * k) (BitVec.ofNat 32 (natOf ((l.drop (4 * k)).take 4)))

def sha (l : List (BitVec 8)) : List (BitVec 8) := Config.shake256 l 32

/-! ## The settings fingerprint (R377) -/

/-- SETTINGS_FP as the settings make it. -/
def Chip.settingsFp (s : Chip) : Nat :=
  let w := s.reg (pgSET + 0x108)
  0x31 * 2 ^ 56 + (if w.getLsbD 4 then 0x81 else 0x01) * 2 ^ 48 + 0x01 * 2 ^ 40 + 0x01 * 2 ^ 32 +
  (if w.getLsbD 4 then 16 else 0) + (if w.getLsbD 3 then 8 else 0) + bf w 0 3

/-! ## The image header (R446, R455) -/

/-- A run of bytes of a list of bytes. -/
def bytesAt (h : List (BitVec 8)) (o n : Nat) : List (BitVec 8) := (h.drop o).take n

def numAt (h : List (BitVec 8)) (o n : Nat) : Nat := natOf (bytesAt h o n)

/-- The form of the header holds, section 0 included (R446). -/
def headerFormed (h : List (BitVec 8)) : Bool :=
  decide (h.length = 5956) && decide (numAt h 0 4 = 0x4A334657) && decide (numAt h 4 2 = 1) && decide (numAt h 7 1 ≤ 8) &&
  decide (1 ≤ numAt h 8 4) && decide (numAt h 8 4 ≤ 60) &&
  decide (natOf (bytesAt h (80 + 48 * numAt h 8 4) (3136 - (80 + 48 * numAt h 8 4))) = 0) &&
  decide (numAt h 88 8 = 0x01040000) && decide (numAt h 84 4 ≤ 0x1C0000)

/-- The code of a header that fails its checks (R445, R455), none where it passes. (DESIGN CHOICE, log 15) -/
def headerError (otp : List Nat) (h : List (BitVec 8)) : Option Nat :=
  match activeGen otp vendorBase with
  | none => some 0xE1
  | some g =>
    if headerFormed h && decide (sha (bytesAt h 12 68) = genHash otp vendorBase g) &&
       Config.xmssVerify (genHash otp vendorBase g) (sha (bytesAt h 0 3136)) (bytesAt h 3136 2820)
    then (if numAt h 6 1 < otpSvn otp || 64 < numAt h 6 1 then some 0xE3 else none)
    else some 0xE2

/-! ## A command of the engine (R460) -/

/-- The engine is free: the command runs, and its status waits for its end; otherwise it is ignored. (DESIGN CHOICE, log 30) -/
def State.secGo (s : State) (f : State → Nat × State) : State :=
  if !s.chip.up then s
  else if s.chip.bit pgSEC fSecBusy then { s with chip := s.chip.put pgSEC fSecOverrun 1 }
  else
    let r := f s
    let c := r.2.chip.put pgSEC fSecBusy 1
    { r.2 with chip := { c with sec := { c.sec with status := some r.1 } } }

/-- A command of the engine, submitted. (DESIGN CHOICE, log 30) -/
def secRun (f : State → Nat × State) (s : State) : Host.Outcome State Fault Refusal := .next (s.secGo f)

/-- What a command that leaves the OTP as it is does to the machine. -/
def overChip (f : Chip → Nat × Chip) (s : State) : Nat × State := let r := f s.chip; (r.1, { s with chip := r.2 })

/-- What a command that burns bits and changes nothing else does to the machine. -/
def overOtp (f : State → Nat × List Nat) (s : State) : Nat × State := let r := f s; (r.1, { s with otp := otpBurn s.otp r.2 })

/-- A command that leaves the OTP as it is. (DESIGN CHOICE, log 30) -/
def secChip (f : Chip → Nat × Chip) : State → Host.Outcome State Fault Refusal := secRun (overChip f)

/-- A command that burns bits and changes nothing else. (DESIGN CHOICE, log 30) -/
def secBurn (f : State → Nat × List Nat) : State → Host.Outcome State Fault Refusal := secRun (overOtp f)

/-- The message that a signed request of a command signs: the command's code and its arguments (DESIGN CHOICE, log 23). -/
def reqMessage (code : Nat) (args : List (BitVec 8)) : List (BitVec 8) := sha (bytesOf 1 code ++ args)

/-- A request signed with the active key of a group; none where no generation is active (R454). (DESIGN CHOICE, log 15) -/
def signedBy (otp : List Nat) (base code : Nat) (args sig : List (BitVec 8)) : Option Bool :=
  (activeGen otp base).map fun g => Config.xmssVerify (genHash otp base g) (reqMessage code args) sig

/-- QUOTE (R457, R458). (DEDUCED, log 70) -/
def Chip.quote (s : Chip) (nonce : BitVec 256) : Nat × Chip :=
  match s.sec.range with
  | none => (4, s)
  | some r =>
    if s.sec.ready then
      let msg := sha (bytesOf 32 nonce.toNat ++ (List.range 8).flatMap s.meas)
      let n := s.sec.spent + 1
      let t : Chip := { s with sec := { s.sec with spent := n, ready := decide (n < 1024) } }
      (0, t.answer (Config.xmssSign (1 + 256 * r + (s.sec.keys - 1)) s.sec.spent msg))
    else if s.get pgSEC fLeavesLeft = 0 then (4, s)
    else (2, s)

/-- CERT (R458). (DEDUCED, log 70) -/
def Chip.certify (s : Chip) : Nat × Chip :=
  if s.sec.range.isNone then (4, s) else if s.sec.cert.isEmpty then (2, s) else (0, s.answer s.sec.cert)

/-- EXTEND. -/
def Chip.extend (s : Chip) (i : Nat) (d : BitVec 256) : Nat × Chip :=
  if 2 ≤ i && i ≤ 7 then (0, s.setMeas i (sha (s.meas i ++ bytesOf 32 d.toNat))) else (1, s)

def Chip.serialBytes (s : Chip) : List (BitVec 8) := bytesOf 16 s.ident.serial.toNat

/-- CHALLENGE: the nonce is free (DESIGN CHOICE, log 2). -/
def Chip.challenge (s : Chip) : Nat × Chip :=
  let n : BitVec 256 := BitVec.ofNat 256 (Config.freeNat s.fresh)
  let t : Chip := { s with fresh := s.fresh + 1, sec := { s.sec with nonce := some n } }
  (0, t.answer (bytesOf 32 n.toNat ++ s.serialBytes ++ bytesOf 2 (s.get pgSEC fAttestRange)))

/-- UNLOCK (R459); the nonce is spent either way. (DESIGN CHOICE, log 23; DEDUCED, log 70) -/
def Chip.unlock (s : Chip) (otp : List Nat) (key : List (BitVec 8)) (scope : Nat) (sig : List (BitVec 8)) : Nat × Chip :=
  let t : Chip := { s with sec := { s.sec with nonce := none } }
  if s.get pgSEC fSecDbg = 2 then (3, t)
  else match activeGen otp ownerBase, s.sec.nonce with
    | some g, some n =>
      let h := genHash otp ownerBase g
      let msg := sha (bytesOf 32 n.toNat ++ s.serialBytes ++ bytesOf 2 (s.get pgSEC fAttestRange) ++ bytesOf 4 scope)
      if decide (sha key = h) && Config.xmssVerify h msg sig then
        let u := t.put pgSEC fSecUnlocked 1
        (0, { u with sec := { u.sec with scope := scope } })
      else (1, t)
    | _, _ => (1, t)

/-- SET_DEBUG (R459): the policy only advances. (DEDUCED, log 70) -/
def setDebugBits (otp : List Nat) (step : Nat) (sig : List (BitVec 8)) : Nat × List Nat :=
  if step ≠ 1 && step ≠ 2 then (1, [])
  else if signedBy otp ownerBase 0x11 (bytesOf 1 step) sig = some false then (1, [])
  else if step ≤ otpPolicy otp then (2, [])
  else (0, if step = 1 then [3200, 3201, 3202] else [3203, 3204, 3205])

/-- CLAIM_OWNER: generation 0, and no other; one that a burn cut short has spoiled is used up (R454). (DEDUCED, log 70) -/
def claimOwnerBits (otp : List Nat) (hash : Nat) : Nat × List Nat :=
  if (List.range 4).any fun g => genWritten otp ownerBase g then (2, [])
  else if genStarted otp ownerBase 0 then (4, [])
  else (0, genBits ownerBase 0 hash)

/-- ROTATE_OWNER and ROTATE_VENDOR (R454): the next generation, then REVOKED of the old one. -/
def rotateBits (otp : List Nat) (base code hash : Nat) (sig : List (BitVec 8)) : Nat × List Nat :=
  match activeGen otp base with
  | none => (2, [])
  | some a =>
    if signedBy otp base code (bytesOf 32 hash) sig ≠ some true then (1, [])
    else match nextGen otp base with
      | none => (4, [])
      | some g => (0, genBits base g hash ++ [base + 264 * a + 258])

/-- SET_SVN (R456): from the counter up to the SVN of the image that runs. (DEDUCED, log 70) -/
def setSvnBits (otp : List Nat) (booted : Bool) (svn v : Nat) : Nat × List Nat :=
  if !booted then (2, [])
  else if v < otpSvn otp || svn < v then (1, [])
  else (0, (otpFree otp 3216 64).take (v - otpSvn otp))

/-- SET_KILN_MEM (R454). (DEDUCED, log 70) -/
def setKilnMemBits (otp : List Nat) (code : Nat) (sig : List (BitVec 8)) : Nat × List Nat :=
  if code = 0 || 8 < code then (1, [])
  else match signedBy otp ownerBase 0x23 (bytesOf 1 code) sig with
    | none => (2, [])
    | some false => (1, [])
    | some true =>
      if otpBit otp 3292 then (4, [])
      else if otpBit otp 3284 then (0, onesOf code 3288 4 ++ [3292])
      else (0, onesOf code 3280 4 ++ [3284])

/-- UPDATE_BEGIN: the header passes R455, and writes to the image region are open. -/
def State.updateBegin (header : List (BitVec 8)) (s : State) : Nat × State :=
  if headerError s.otp header = none then (0, { s with chip := { s.chip with sec := { s.chip.sec with session := true } } })
  else (1, s)

/-- UPDATE_END closes them. -/
def Chip.updateEnd (s : Chip) : Nat × Chip :=
  if s.sec.session then (0, { s with sec := { s.sec with session := false } }) else (2, s)

/-- UNLOCK, with the OTP's owner key. -/
def State.unlock (key : List (BitVec 8)) (scope : Nat) (sig : List (BitVec 8)) (s : State) : Nat × State :=
  overChip (fun c => c.unlock s.otp key scope sig) s

/-- Argument `k` of the command of a code, as the mailbox buffer holds it: `n` bytes, where the spec does not say (DESIGN CHOICE, log 31). -/
def Chip.mailArg (s : Chip) (code k n : Nat) : List (BitVec 8) := s.bytes (0x03100000 + Config.mailOff code k % 0x10000) n

/-- The command of a code with the arguments that the mailbox buffer holds (R460): a key is 68 B, a signature 2,820 B, a header 5,956 B
(R446); a code that names no command does nothing. (DESIGN CHOICE, log 31) -/
def Chip.mailCommand (s : Chip) (code : Nat) : Option (State → Nat × State) :=
  let arg (k n : Nat) : List (BitVec 8) := s.mailArg code k n
  let num (k n : Nat) : Nat := natOf (arg k n)
  match code with
  | 0x01 => some (overChip fun c => c.quote (BitVec.ofNat 256 (num 0 32)))
  | 0x02 => some (overChip Chip.certify)
  | 0x03 => some (overChip fun c => c.extend (num 0 1) (BitVec.ofNat 256 (num 1 32)))
  | 0x10 => some (overChip Chip.challenge)
  | 0x11 => some (overOtp fun t => setDebugBits t.otp (num 0 1) (arg 1 2820))
  | 0x12 => some (State.unlock (arg 0 68) (num 1 4) (arg 2 2820))
  | 0x20 => some (overOtp fun t => claimOwnerBits t.otp (num 0 32))
  | 0x21 => some (overOtp fun t => rotateBits t.otp ownerBase 0x21 (num 0 32) (arg 1 2820))
  | 0x22 => some (overOtp fun t => setSvnBits t.otp t.chip.sec.booted t.chip.sec.svn (num 0 1))
  | 0x23 => some (overOtp fun t => setKilnMemBits t.otp (num 0 1) (arg 1 2820))
  | 0x24 => some (overOtp fun t => rotateBits t.otp vendorBase 0x24 (num 0 32) (arg 1 2820))
  | 0x30 => some (State.updateBegin (arg 0 5956))
  | 0x31 => some (overChip Chip.updateEnd)
  | _ => none

/-- A write of SEC_CMD (R460). (DESIGN CHOICE, log 31) -/
def State.secWrite (s : State) (code : Nat) : State :=
  match s.chip.mailCommand code with
  | some f => s.secGo f
  | none => if s.chip.bit pgSEC fSecBusy then { s with chip := s.chip.put pgSEC fSecOverrun 1 } else s

/-- A command ends (R460, R507). (DESIGN CHOICE, log 30) -/
def Chip.secEnd (s : Chip) : Chip :=
  match s.sec.status with
  | none => s
  | some r =>
    let t : Chip := { s with sec := { s.sec with status := none } }
    ((t.put pgSEC fSecBusy 0).put pgSEC fSecResult r).raise pgSEC 0

/-- The per-boot key is ready and certified with the next leaf of range r (R457); its public key is free (DESIGN CHOICE, log 2). (DESIGN CHOICE, log 23) -/
def Chip.certifyKey (s : Chip) : Chip :=
  match s.sec.range with
  | none => s
  | some r =>
    if !(s.sec.booted) || s.sec.ready || s.get pgSEC fLeavesLeft = 0 then s
    else
      let key := bytesOf 64 (Config.freeNat s.fresh)
      let body := s.serialBytes ++ bytesOf 2 r ++ key ++ s.meas 0 ++ s.meas 1 ++ bytesOf 8 s.settingsFp ++
        bytesOf 1 (bf (s.reg (pgSEC + 0x108)) 0 3)
      let t : Chip := { s with
        fresh := s.fresh + 1,
        sec := { s.sec with ready := true, spent := 0, keys := s.sec.keys + 1,
                            cert := body ++ Config.xmssSign 0 (256 * r + s.sec.keys) (sha body) } }
      t.put pgSEC fLeavesLeft (s.get pgSEC fLeavesLeft - 1)

/-! ## The commands -/

def execQuote (nonce : BitVec 256) : State → Host.Outcome State Fault Refusal := secChip fun s => s.quote nonce

def execCert : State → Host.Outcome State Fault Refusal := secChip Chip.certify

def execExtend (i : Nat) (data : BitVec 256) : State → Host.Outcome State Fault Refusal := secChip fun s => s.extend i data

def execChallenge : State → Host.Outcome State Fault Refusal := secChip Chip.challenge

def execUnlock (key : List (BitVec 8)) (scope : Nat) (sig : List (BitVec 8)) : State → Host.Outcome State Fault Refusal :=
  secRun (State.unlock key scope sig)

def execSetDebug (step : Nat) (sig : List (BitVec 8)) : State → Host.Outcome State Fault Refusal :=
  secBurn fun s => setDebugBits s.otp step sig

def execClaimOwner (hash : BitVec 256) : State → Host.Outcome State Fault Refusal :=
  secBurn fun s => claimOwnerBits s.otp hash.toNat

def execRotateOwner (hash : BitVec 256) (sig : List (BitVec 8)) : State → Host.Outcome State Fault Refusal :=
  secBurn fun s => rotateBits s.otp ownerBase 0x21 hash.toNat sig

def execRotateVendor (hash : BitVec 256) (sig : List (BitVec 8)) : State → Host.Outcome State Fault Refusal :=
  secBurn fun s => rotateBits s.otp vendorBase 0x24 hash.toNat sig

def execSetSvn (v : Nat) : State → Host.Outcome State Fault Refusal :=
  secBurn fun s => setSvnBits s.otp s.chip.sec.booted s.chip.sec.svn v

def execSetKilnMem (code : Nat) (sig : List (BitVec 8)) : State → Host.Outcome State Fault Refusal :=
  secBurn fun s => setKilnMemBits s.otp code sig

def execUpdateBegin (header : List (BitVec 8)) : State → Host.Outcome State Fault Refusal := secRun (State.updateBegin header)

def execUpdateEnd : State → Host.Outcome State Fault Refusal := secChip Chip.updateEnd

def execSecCommandEnd : State → Host.Outcome State Fault Refusal := onChip Chip.secEnd

def execPerBootKeyCertified : State → Host.Outcome State Fault Refusal := onChip Chip.certifyKey

end Sys2Proof.Machine
end

