-- ==== Sys2Proof/Machine/Boot.lean ====
section
/-! DEFINITION. The boot ROM (R444 to R448, R455, R457), the restarts of the kiln (R407, R468), its watchdogs (R441) and the
calibration of the cellar (R269). -/

namespace Sys2Proof.Machine

def fBootStage : Fld := ⟨0x100, 0, 8⟩
def fModReady : Fld := ⟨0x100, 8, 1⟩
def fBootSelS : Fld := ⟨0x100, 9, 1⟩
def fRecovery : Fld := ⟨0x100, 10, 1⟩
def fCarveMismatch : Fld := ⟨0x100, 11, 1⟩
def fWdogResetEn : Fld := ⟨0x128, 8, 1⟩
def fWdogTrip : Fld := ⟨0x128, 9, 1⟩
def fWdogLoad (k : Nat) : Fld := ⟨0x108 + 4 * k, 0, 32⟩

/-! ## Images (R446, R449): `get` reads bytes at a flash offset -/

/-- Where the image region of the flash starts, and its length (R449). -/
def imageBase : Nat := 0x10000
def imageLen : Nat := 192 * 2 ^ 20

/-- The header of an image. -/
def imageHeader (get : Nat → Nat → List (BitVec 8)) : List (BitVec 8) := get imageBase 5956

/-- The contents of section `k`. (DEDUCED, log 71) -/
def imageSection (get : Nat → Nat → List (BitVec 8)) (k : Nat) : List (BitVec 8) :=
  let h := imageHeader get
  get (numAt h (80 + 48 * k) 4) (numAt h (84 + 48 * k) 4)

/-- Section `k` has the hash that the header gives. -/
def sectionOk (get : Nat → Nat → List (BitVec 8)) (k : Nat) : Bool :=
  decide (sha (imageSection get k) = bytesAt (imageHeader get) (96 + 48 * k) 32)

/-- The code of an image that fails: at its header, or at the hash of its first section, or of any section (R445, R448, R455). -/
def imageError (otp : List Nat) (get : Nat → Nat → List (BitVec 8)) (every : Bool) : Option Nat :=
  match headerError otp (imageHeader get) with
  | some e => some e
  | none =>
    if (List.range (if every then numAt (imageHeader get) 8 4 else 1)).all (sectionOk get) then none else some 0xE4

/-- Bytes of the flash (R442). -/
def Chip.flashBytes (s : Chip) (o n : Nat) : List (BitVec 8) := s.bytes (0x20000000 + o) n

/-- Bytes of the recovery image as received, at their flash offsets. (DEDUCED, log 71) -/
def Chip.stagedBytes (s : Chip) (o n : Nat) : List (BitVec 8) :=
  (List.range n).map fun i => if o + i < imageBase then 0 else sget memReset s.sec.staged (o + i - imageBase)

/-! ## The ROM -/

/-- A stage cannot be completed (R445): the ROM enters recovery but at 0xE1. (DEDUCED, log 71) -/
def Chip.romFail (s : Chip) (code : Nat) : Chip :=
  ((s.put pgKLN fBootStage code).put pgGERP fModFault 1).put pgKLN fRecovery (if code = 0xE1 then 0 else 1)

/-- The image has passed (R444, stage 0x04; R455): its first section is in the SRAM, the measurements are taken, the carve-out
is fixed (R447), and the ROM jumps to the loader. (DEDUCED, log 71) -/
def Chip.startImage (s : Chip) (otp : List Nat) (get : Nat → Nat → List (BitVec 8)) : Chip :=
  let h := imageHeader get
  let s1 := ((s.store 0x01040000 (imageSection get 0)).setMeas 0 (sha (bytesAt h 0 3136))).setMeas 1 (sha (imageSection get 0))
  let size := if numAt h 7 1 = 0 then otpCarve otp else numAt h 7 1
  let s2 := if s.sec.whole then s1.put pgKLN fKlnCarve size
            else s1.put pgKLN fCarveMismatch (if size = s.get pgKLN fKlnCarve then 0 else 1)
  let s3 := (s2.put pgKLN fBootStage 4).put pgKLN fRecovery 0
  { s3 with sec := { s3.sec with svn := numAt h 6 1, booted := true, staged := [] } }

/-- Stage 0x02: what the SEC page takes from the OTP, with the leaf range of this boot (R457, R458, R463). (DESIGN CHOICE, log 3; DESIGN CHOICE, log 30) -/
def Chip.sense (s : Chip) (otp : List Nat) (leaf : Option Nat) : Chip :=
  let s1 := ((s.put pgSEC fSecDbg (otpPolicy otp)).put pgSEC fVndGen ((activeGen otp vendorBase).getD 7)).put pgSEC fOwnGen
    ((activeGen otp ownerBase).getD 7)
  let s2 := (s1.put pgSEC fSvnCtr (otpSvn otp)).put pgSEC fAttestLeft (otpRanges otp)
  let s3 : Chip := { s2 with sec := { s2.sec with range := leaf } }
  match leaf with
  | some r => (s3.put pgSEC fAttestRange r).put pgSEC fLeavesLeft 256
  | none => s3

/-- A run of the boot ROM (R444 to R448); the leaf-range fuse burnt is the lowest unburnt one that reads back burnt (R457). `whole` tells a power-up or chip reset from a restart of the kiln alone. (DEDUCED, log 71) (DESIGN CHOICE, log 30) -/
def State.rom (s : State) (b : BootInputs) (whole : Bool) : State :=
  let leaf := (otpFree s.otp 5120 4096).find? fun f => !(b.weak.contains (f - 5120))
  let otp := otpBurn s.otp leaf.toList
  let c0 := s.chip.put pgKLN fBootSelS (if b.bootSel then 1 else 0)
  let c1 : Chip := { c0 with sec := { c0.sec with whole := whole } }
  let c2 := (c1.sense otp (leaf.map (· - 5120))).put pgKLN fBootStage 2
  let c3 := if whole then c2.put pgKLN fKlnCarve (otpCarve otp) else c2
  { s with
    otp := otp
    chip :=
      if (activeGen otp vendorBase).isNone then c3.romFail 0xE1
      else if b.bootSel || b.forceRecovery then (c3.put pgKLN fBootStage 0xF0).put pgKLN fRecovery 1
      else if !b.flashOk then c3.romFail 0xE5
      else match imageError otp c3.flashBytes false with
        | some e => c3.romFail e
        | none => c3.startImage otp c3.flashBytes }

/-! ## Restarts of the kiln -/

/-- What a restart of the kiln alone keeps of its pages: DEV_ID (R468), the carve-out in force (R447), the last chip reset
(R481). (DEDUCED, log 72) -/
def keepKilnReg (k : Nat) : Bool :=
  !(kilnPage (k / 0x1000 * 0x1000)) || decide (k = pgID + 0x130) || decide (k = pgKLN + 0x104) ||
  decide (k = pgRST + 0x104) || decide (k = pgRST + 0x108)

/-- A kiln function reset (R407, R468): the kiln's pages and the security engine start anew and the ROM runs; one under way is
not begun again (R408). -/
def State.kilnRestart (s : State) (b : BootInputs) : State :=
  if s.chip.bit pgKLN fResetActive then s
  else
    let c : Chip := { s.chip with
      regs := s.chip.regs.filter fun e => keepKilnReg e.1
      latch := s.chip.latch.filter fun e => keepKilnReg e.1
      sec := Sec.reset, wdogHit := [], board := { s.chip.board with smbCame := false }
      resets := s.chip.resets.filter (fun r => decide (r ≠ .mgmt)) ++ [.kiln] }
    ({ s with chip := (c.put pgRST ⟨0x104, 4, 1⟩ 0).put pgKLN fResetActive 1 }).rom b false

/-- A command of the whole machine that needs the device's power. -/
def onState (f : State → State) (s : State) : Host.Outcome State Fault Refusal := .next (if s.chip.up then f s else s)

/-! ## Watchdogs (R441) -/

def Chip.wdogKick (s : Chip) (mask : BitVec 8) : Chip :=
  { s with wdogHit := s.wdogHit.filter fun k => !(mask.getLsbD k) }

/-- The second expiry of watchdog `k`: whether it counts, and what it does before any restart. (DEDUCED, log 72) -/
def Chip.wdogTrips (s : Chip) (k : Nat) : Bool := s.wdogHit.contains k && s.get pgKLN (fWdogLoad k) ≠ 0

def Chip.wdogTrip (s : Chip) : Chip :=
  let t := ((s.logErr pgKLN eKILN_WDOG 0).put pgGERP fModFault 1).put pgKLN fWdogTrip 1
  { t with board := { t.board with alert := true, answered := false } }

/-! ## Recovery (R448, R451) -/

/-- The whole image has come: it is verified, written to the flash unless BOOT_SEL was high, and booted. (DEDUCED, log 71) -/
def Chip.recover (s : Chip) (otp : List Nat) : Chip :=
  match imageError otp s.stagedBytes true with
  | some e => { s.romFail e with sec := { s.sec with staged := [] } }
  | none =>
    let t := s.startImage otp s.stagedBytes
    if s.bit pgKLN fBootSelS then t
    else s.sec.staged.foldl (fun (u : Chip) e => u.store (0x20000000 + imageBase + e.1) [e.2]) (t.zero (0x20000000 + imageBase) imageLen)

/-- The ROM serves the management port (R451): it has run, has not stopped, and the operating system has not taken over. (DEDUCED, log 72) -/
def Chip.romServes (s : Chip) : Bool :=
  !(s.board.bootDue) && decide (s.get pgKLN fBootStage ≠ 0xE1) && !(s.bit pgMGT ⟨0x100, 0, 1⟩) && s.bit pgMGT fLinkUp &&
  !(s.bit pgMGT fResetActive)

/-- A reply frame: the request's sequence number, a status, data (DESIGN CHOICE, log 6). -/
def rapReply (sn : BitVec 32) (status : Nat) (data : List (BitVec 8)) : List (BitVec 8) :=
  bytesOf 4 sn.toNat ++ bytesOf 1 status ++ data

/-- A block of a recovery image; outside recovery, or beyond the image region, it is refused with a status that the spec leaves
open (DESIGN CHOICE, log 2). (DEDUCED, log 72) -/
def Chip.recoveryBlock (s : Chip) (otp : List Nat) (sn : BitVec 32) (off : Nat) (data : List (BitVec 8)) (last : Bool) : Chip :=
  if !s.romServes then s
  else if !(s.bit pgKLN fRecovery) || imageLen < off + data.length then
    ({ s with fresh := s.fresh + 1 } : Chip).answer (rapReply sn (Config.freeNat s.fresh) [])
  else
    let st := ((List.range data.length).zip data).foldl (fun l e => sset memReset l (off + e.1) e.2) s.sec.staged
    let t := ({ s with sec := { s.sec with staged := st } } : Chip).answer (rapReply sn 0 [])
    if last then t.recover otp else t

/-! ## The commands -/

def execKilnFreset (inp : BootInputs) : State → Host.Outcome State Fault Refusal := onState fun s => s.kilnRestart inp

/-- The internal reset is released: the generators lock (R44), the straps are sampled and the ROM runs (R448, R500). -/
def execInternalResetRelease (b : BootInputs) (s : State) : Host.Outcome State Fault Refusal :=
  .next (
    let d := s.chip.board
    if d.rails = 2 && (d.held || d.bootDue) then
      ({ s with chip := { s.chip with board := { d with held := false, bootDue := false },
                                      pow := { s.chip.pow with locked := true } } }).rom b true
    else s)

def execWdogKick (mask : BitVec 8) : State → Host.Outcome State Fault Refusal :=
  onChip fun s => if s.bit pgKLN fResetActive then s else s.wdogKick mask

def execWdogFirstExpiry (k : Nat) : State → Host.Outcome State Fault Refusal :=
  onUnitChip 8 k fun s =>
    if s.get pgKLN (fWdogLoad k) = 0 || s.wdogHit.contains k then s else { s with wdogHit := nput s.wdogHit k }

def execWdogSecondExpiry (k : Nat) (b : BootInputs) (s : State) : Host.Outcome State Fault Refusal :=
  if k < 8 then
    onState (fun s =>
      if s.chip.wdogTrips k then
        let t : State := { s with chip := s.chip.wdogTrip }
        if s.chip.bit pgKLN fWdogResetEn then t.kilnRestart b else t
      else s) s
  else .fault .noSuchUnit

/-- The cellar is calibrated and zeroed (R269). -/
def execCellarCalibrationDone : State → Host.Outcome State Fault Refusal :=
  onChip fun s =>
    if s.board.celReady || s.board.bootDue then s
    else
      let t := s.zero (celAddr 0) (36 * 2 ^ 28)
      { t with board := { t.board with celReady := true } }

def execRecoveryImageBlock (sn : BitVec 32) (off : Nat) (data : List (BitVec 8)) (last : Bool) :
    State → Host.Outcome State Fault Refusal :=
  onState fun s => { s with chip := s.chip.recoveryBlock s.otp sn off data last }

end Sys2Proof.Machine
end

