-- ==== Sys2Proof/Machine/Board.lean ====
section
/-! DEFINITION. The module at the board: its supply and pins (R418, R427, R495 to R503) and its SMBus (R452). -/

namespace Sys2Proof.Machine

def Chip.updBoard (s : Chip) (f : Board → Board) : Chip := { s with board := f s.board }

/-! ## Supply and pins -/

/-- The rails of STANDBY start to rise when nothing holds them off (R427, R495, R500, R501). (DEDUCED, log 73) -/
def Chip.raiseRails (s : Chip) : Chip :=
  let b := s.board
  if b.input && b.pwrEn && b.trip.isNone && !b.railFault && !b.offTime && decide (b.rails = 0) then
    s.updBoard fun b => { b with rails := 1 }
  else s

/-- The input rises: VSB33 and VDD_AON come up and SLOT_ID is latched. -/
def Chip.inputOn (s : Chip) (slot : BitVec 4) : Chip :=
  if s.board.input then s else (s.updBoard fun b => { b with input := true, slotId := slot }).raiseRails

/-- The input is removed: the always-on domain loses its latches too. -/
def Chip.inputOff (s : Chip) : Chip :=
  if s.board.input then
    s.powerOff.updBoard fun b =>
      { b with input := false, slotId := 0, trip := none, railFault := false, refLost := false, alert := false, answered := false,
               offTime := false }
  else s

/-- PWR_EN falls (R495, R502): the rails go off, and every latched fault clears. (DEDUCED, log 73) -/
def Chip.pwrOff (s : Chip) : Chip :=
  let s0 := s.updBoard fun b => { b with pwrEn := false }
  if s.board.pwrEn && s.board.input then
    (if s.board.rails = 0 then s0 else s0.powerOff).updBoard fun b =>
      { b with trip := none, railFault := false, refLost := false, offTime := true }
  else s0

/-! ## What the tray controller reads (R452, R492) -/

/-- MOD_FAULT_N is asserted (R441, R445, R483, R497, R501). -/
def Chip.faultPin (s : Chip) : Bool := s.board.railFault || s.board.refLost || (s.up && s.bit pgGERP fModFault)

/-- THERMTRIP_N is asserted (R427). -/
def Chip.tripPin (s : Chip) : Bool := s.board.trip.isSome

/-- MOD_READY reads high (R461, R492). -/
def Chip.readyPin (s : Chip) : Bool := s.up && s.bit pgKLN fModReady

/-- MOD_READY as the module drives it: tri-stated without power and in reset (R492, R502). -/
def Chip.readyDrive (s : Chip) : Option Bool := if s.up then some (s.bit pgKLN fModReady) else none

/-- PRESENT_N is tied to the module's ground: low whether the module is powered or not (R492). -/
def presentPin : Bool := false

/-- The lanes of port `p` are driven: the port is present, the module is powered and out of reset, and the port stands in neither DISABLED nor
DOWN (R326, R492, R493, R502). -/
def Chip.laneDriven (s : Chip) (p : Nat) : Bool :=
  s.up && s.portPresent p && decide (s.portState p ≠ psDISABLED) && decide (s.portState p ≠ psDOWN)

/-- The TAP runs: PWR_EN is asserted and the rails of STANDBY are up, whatever MOD_RESET_N; it serves boundary scan under every debug policy
(R459, R493). -/
def Chip.tapRuns (s : Chip) : Bool := s.board.pwrEn && decide (s.board.rails = 2)

/-- The debug policy admits JTAG debug of the kiln and fabric (R459, R493). -/
def Chip.jtagDebug (s : Chip) : Bool :=
  s.tapRuns && (decide (s.get pgSEC fSecDbg = 0) || (decide (s.get pgSEC fSecDbg = 1) && decide (s.get pgSEC fSecUnlocked = 1)))

/-- TDO: no command of the block shifts the TAP, so that it is tri-stated (R492, R502). (DESIGN CHOICE, log 36) -/
def Chip.tdoDrive (_ : Chip) : Option Bool := none

/-- The power state of R418 as STATUS shows it. -/
def Chip.powerState (s : Chip) : Nat := if s.board.rails = 2 then s.get pgGOV fPstate else 0

def Chip.statusBytes (s : Chip) : List (BitVec 8) :=
  let flags := (if s.tripPin then 1 else 0) + (if s.bit pgKLN fWdogTrip then 2 else 0) + (if s.faultPin then 4 else 0) +
    (if s.readyPin then 8 else 0) + (if s.board.slotId.getLsbD 3 then 16 else 0)
  bytesOf 1 s.powerState ++ bytesOf 1 (s.get pgKLN fBootStage) ++ bytesOf 1 flags ++ bytesOf 1 (s.board.trip.getD 0xFF) ++ bytesOf 4 0

def Chip.latencyId (s : Chip) : Nat := if s.ident.rev = 0 then 0xA0 else 0xB0

def Chip.identityBytes (s : Chip) (otp : List Nat) : List (BitVec 8) :=
  s.serialBytes ++ bytesOf 1 s.ident.part ++ bytesOf 1 s.latencyId ++ bytesOf 2 (otpRanges otp) ++ bytesOf 12 0

/-- The kiln answers its commands: powered, out of reset, and at BOOT_STAGE 0x08 or later. -/
def Chip.kilnAnswers (s : Chip) : Bool :=
  s.up && decide (8 ≤ s.get pgKLN fBootStage) && decide (s.get pgKLN fBootStage < 0xE0)

/-- A tray controller command has arrived, which the kiln's interrupt source shows while the kiln has power; the spec names nothing that
takes it back but a reset of the kiln (R443). (DESIGN CHOICE, log 85) -/
def Chip.smbNote (s : Chip) : Chip := if s.up then s.updBoard fun b => { b with smbCame := true } else s

/-- An SMBus transfer; without input power nobody answers. -/
def onSmbusRaw (f : Chip → Chip) : State → Host.Outcome State Fault Refusal :=
  onBoard fun s => if s.board.input then f s else s

/-- An SMBus command of R452. -/
def onSmbus (f : Chip → Chip) : State → Host.Outcome State Fault Refusal := onSmbusRaw fun s => f s.smbNote

/-- A command marked "kiln" (R452). -/
def onSmbusKiln (f : Chip → Chip) : State → Host.Outcome State Fault Refusal :=
  onSmbus fun s => if s.kilnAnswers then f s else s.answer [0xFF]

/-- The address of the module (R452). -/
def Chip.smbAddress (s : Chip) : Nat := 0x50 + s.board.slotId.toNat % 8

/-- The alert response (R452): the address in bits 7 to 1; bit 0 is open (DESIGN CHOICE, log 2). -/
def Chip.alertAnswer (s : Chip) : Chip :=
  if s.board.alert then
    let t := ({ s with fresh := s.fresh + 1 } : Chip).answer (bytesOf 1 (2 * s.smbAddress + Config.freeNat s.fresh % 2))
    t.updBoard fun b => { b with answered := true }
  else s.answer []

/-! ## The commands -/

def execInputPowerApplied (slotId : BitVec 4) : State → Host.Outcome State Fault Refusal := onBoard fun s => s.inputOn slotId
def execInputPowerRemoved : State → Host.Outcome State Fault Refusal := onBoard Chip.inputOff

def execPwrEnAssert : State → Host.Outcome State Fault Refusal :=
  onBoard fun s => (s.updBoard fun b => { b with pwrEn := true }).raiseRails

def execPwrEnDeassert : State → Host.Outcome State Fault Refusal := onBoard Chip.pwrOff

def execRailsPowerGood : State → Host.Outcome State Fault Refusal :=
  onBoard fun s => if s.board.rails = 1 then s.updBoard fun b => { b with rails := 2 } else s

def execRailFault : State → Host.Outcome State Fault Refusal :=
  onBoard fun s =>
    if s.board.pwrEn && s.board.input then
      (if s.board.rails = 0 then s else s.powerOff).updBoard fun b => { b with railFault := true }
    else s

def execModResetAssert : State → Host.Outcome State Fault Refusal :=
  onBoard fun s => if s.board.rails = 2 then s.resetAll 2 else s

def execRefclkLoss : State → Host.Outcome State Fault Refusal :=
  onBoard fun s =>
    if s.board.pwrEn && s.board.input then
      ({ s with pow := { s.pow with locked := false } } : Chip).updBoard fun b => { b with refLost := true }
    else s

def execRailsOffTimeExpire : State → Host.Outcome State Fault Refusal :=
  onBoard fun s => (s.updBoard fun b => { b with offTime := false }).raiseRails

def execStatus : State → Host.Outcome State Fault Refusal := onSmbus fun s => s.answer s.statusBytes

def execIdentity (s : State) : Host.Outcome State Fault Refusal := onSmbus (fun c => c.answer (c.identityBytes s.otp)) s

def execReadFru (off : BitVec 16) : State → Host.Outcome State Fault Refusal :=
  onSmbus fun s => s.answer ((List.range 32).map fun i => Config.fruByte (off.toNat + i))

def execTemp : State → Host.Outcome State Fault Refusal := onSmbusKiln fun s => s.answer (bytesOf 2 (s.get pgTHM fTmax))

def execPower : State → Host.Outcome State Fault Refusal :=
  onSmbusKiln fun s => s.answer (bytesOf 2 (s.get pgGOV fVinMv) ++ bytesOf 2 (s.get pgGOV fIinMa / 16) ++ bytesOf 2 (s.get pgGOV fPinW))

/-- The global first-error log in 12 B, whose layout is open (R452, R483). (DESIGN CHOICE, log 92) -/
def Chip.firstErrBytes (s : Chip) : List (BitVec 8) :=
  (List.range 12).map (Config.firstErr [s.get pgGERP fGfeCode, s.get pgGERP fGfeCtx, s.get pgGERP fGfeSrc, s.get64 pgGERP 0x10C,
    s.get pgGERP fGfeMore])

def execFirstErr : State → Host.Outcome State Fault Refusal := onSmbusKiln fun s => s.answer s.firstErrBytes

def execClearAlert : State → Host.Outcome State Fault Refusal :=
  onSmbus fun s => if s.board.answered then s.updBoard fun b => { b with alert := false, answered := false } else s

def execAlertResponse : State → Host.Outcome State Fault Refusal := onSmbusRaw Chip.alertAnswer

/-- KILN_RESTART: any byte but 0xA5 is ignored. -/
def execKilnRestart (b : BitVec 8) (inp : BootInputs) : State → Host.Outcome State Fault Refusal :=
  onState fun s =>
    let t : State := { s with chip := s.chip.smbNote }
    if b = 0xA5 then t.kilnRestart inp else t

end Sys2Proof.Machine
end

