-- ==== Sys2Proof/Machine/Steps.lean ====
section
/-! DEFINITION. The stream engine's steps (R335, R336, R346 to R361, R365 to R370): formation, the batch descriptor, results,
step records, and the engine's timeouts (R93, R353, R354). -/

namespace Sys2Proof.Machine

/-! ## Draft trees (R346, R350, R355) -/

/-- The parent of node `n` in a tree of (token, parent) pairs for nodes 1 on. -/
def treeParent (dr : List (Nat × Nat)) (n : Nat) : Nat := ((dr[n - 1]?).map (·.2)).getD 0

def treeToken (dr : List (Nat × Nat)) (n : Nat) : Nat := ((dr[n - 1]?).map (·.1)).getD 0

/-- The nodes on the path from node 0 to node `n`, the last first; the first argument bounds its length. -/
def treePath (dr : List (Nat × Nat)) : Nat → Nat → List Nat
  | 0, _ => []
  | f + 1, n => n :: (if n = 0 then [] else treePath dr f (treeParent dr n))

/-- The node and its ancestors as a mask. -/
def treeMask (dr : List (Nat × Nat)) (n : Nat) : Nat := ((treePath dr (dr.length + 1) n).map fun m => 2 ^ m).sum

def treeDepth (dr : List (Nat × Nat)) (n : Nat) : Nat := (treePath dr (dr.length + 1) n).length - 1

/-- The draft tree in the 64 words of a record, where it is valid (R355). -/
def draftTree (ws : List Nat) : Option (List (Nat × Nat)) :=
  let d := ws.headD 0
  let dr := ((ws.drop 1).take d).map fun w => (w % 2 ^ 24, w / 2 ^ 24 % 64)
  if 63 < d || ((ws.drop 1).take d).any (fun w => decide (2 ^ 30 ≤ w)) ||
      (List.range d).any (fun k => decide (k + 1 ≤ treeParent dr (k + 1))) ||
      (List.range d).any (fun k => decide (16 ≤ treeDepth dr (k + 1)))
  then none else some dr

/-! ## Formation (R346, R347) -/

def Chip.draftsOf (s : Chip) (i : Nat) : List (Nat × Nat) := sget (fun _ => ([] : List (Nat × Nat))) s.se.drafts i

/-- The pending commit of a stream: first position, nodes (R357). -/
def Chip.commitOf (s : Chip) (i : Nat) : Option (Nat × List Nat) :=
  match sget (fun _ => ([] : List Nat)) s.se.commits i with
  | [] => none
  | p :: l => some (p, l)

/-- How a stream steps: 0 prefill, 1 tree, 2 decode (R346). -/
def Chip.stepKind (s : Chip) (i : Nat) : Nat :=
  if s.st i 40 4 ≠ 0 then 0 else if s.stFlag i 3 && !((s.draftsOf i).isEmpty) then 1 else 2

/-- The rows that a stream needs (R346). -/
def Chip.rowsOf (s : Chip) (x i : Nat) : Nat :=
  if s.stepKind i = 0 then min (s.cx x fChunk) (s.st i 40 4) else if s.stepKind i = 1 then 1 + (s.draftsOf i).length else 1

/-- The words of its page table that a stream's rows and its pending commit use and that map no page (R346). -/
def Chip.pagesWanted (s : Chip) (x i : Nat) : List Nat :=
  let len := s.st i 28 4
  let main := if s.stepKind i = 0 then (List.range (s.rowsOf x i)).map (len + ·) else [len]
  let com := match s.commitOf i with
    | some (p, l) => (List.range l.length).map (p + ·)
    | none => []
  ((com ++ main).map (· / 16)).eraseDups.filter fun k => decide (k < s.cx x fPtlen) && (s.pageAt x (s.st i 52 2) k).isNone

/-- A tree set is wanted. -/
def Chip.treeWanted (s : Chip) (i : Nat) : Bool := decide (s.stepKind i = 1) && (s.treeOf i).isNone

def Chip.pagesOf (s : Chip) (x i : Nat) : Nat := (s.pagesWanted x i).length + (if s.treeWanted i then 4 else 0)

/-- The version that a stream steps with when it is placed (R364). -/
def Chip.stepVersion (s : Chip) (i : Nat) : Option Nat :=
  match s.stVer i with
  | none => none
  | some v =>
    if s.stFlag i 2 then some ((s.latestOf (s.version v).ctx (s.version v).adj).getD v) else some v

/-- What a formation has gathered. -/
structure Form where
  placed : List Placed
  rows : Nat
  /-- sub-batches: first row, rows, versions in order of first use -/
  subs : List (Nat × Nat × List Nat)
  zero : List Nat
  rank : Nat
  delayed : List (BitVec 256)
  deriving DecidableEq, Repr

def Form.start : Form := { placed := [], rows := 0, subs := [], zero := [], rank := 0, delayed := [] }

/-- Released pages enter the zero list and can be allocated (R359). -/
def Chip.pullZero (s : Chip) (x : Nat) (f : Form) : Form × Chip :=
  let k := s.seCtx x
  let z := k.zeroDue.take (65536 - f.zero.length)
  ({ f with zero := f.zero ++ z }, s.setSeCtx x { k with pageFree := k.pageFree ++ z, zeroDue := k.zeroDue.drop z.length })

/-- A version joins those of a sub-batch. -/
def withVer (l : List Nat) : Option Nat → List Nat
  | none => l
  | some v => if l.contains v then l else l ++ [v]

/-- The sub-batches with `n` rows of a stream of this version added, where it is placeable (R352). -/
def placeIn (subs : List (Nat × Nat × List Nat)) (subb rows n : Nat) (ver : Option Nat) : Option (List (Nat × Nat × List Nat)) :=
  let fresh := if subs.length < 256 then some (subs ++ [(rows, n, withVer [] ver)]) else none
  match subs.getLast? with
  | none => fresh
  | some (a, r, l) =>
    if r + n ≤ subb && (withVer l ver).length ≤ 64 then some (subs.dropLast ++ [(a, r + n, withVer l ver)]) else fresh

/-- SPOT streams are preempted while pages lack for a stream with a guaranteed place (R347). -/
def Chip.preemptFor (x i : Nat) : Nat → Form × Chip → Form × Chip
  | 0, a => a
  | n + 1, a =>
    if a.2.pagesOf x i ≤ a.2.freePages x then a
    else match a.2.spotVictim x with
      | some v => Chip.preemptFor x i n ((a.2.preempt x v).pullZero x a.1)
      | none => a

/-- A word of a page table is mapped to a new page (R254, R358). -/
def Chip.mapPage (s : Chip) (x slot k : Nat) : Chip :=
  let p := s.takePage x
  p.2.seWrite x (s.ptAddr x slot k) (bytesOf 4 p.1)

/-- A tree set of four pages is given to a stream (R361). (DESIGN CHOICE, log 22) -/
def Chip.giveTree (s : Chip) (x i : Nat) : Chip :=
  let r := (List.range 4).foldl (fun (a : List Nat × Chip) _ => (a.1 ++ [(a.2.takePage x).1], (a.2.takePage x).2)) ([], s)
  let n := lowestFree ((s.seCtx x).trees.map (·.1))
  (r.2.updSeCtx x fun k => { k with trees := k.trees ++ [(n, r.1)] }).setSt i 54 2 n

/-- A placed stream moves to the version that it steps with (R364). -/
def Chip.moveVersion (s : Chip) (x i : Nat) : Chip :=
  match s.stVer i, s.stepVersion i with
  | some a, some b => if a = b then s else (((s.bindVersion b).setSt i 26 2 b).unbindVersion a).seCount x 0xF 1
  | _, _ => s

/-- A stream is placed: it gets its pages, its version, its rows, and is IN_STEP. -/
def Chip.place (s : Chip) (x i : Nat) (f : Form) (subs : List (Nat × Nat × List Nat)) : Form × Chip :=
  let n := s.rowsOf x i
  let kind := s.stepKind i
  let s1 := s.forEach (s.pagesWanted x i) fun t k => t.mapPage x (s.st i 52 2) k
  let s2 := if s.treeWanted i then s1.giveTree x i else s1
  let s3 := ((s2.putEntry i).moveVersion x i).setStState i 2
  let s4 := if kind = 1 then s3.seCount x 7 (n - 1) else s3
  ({ f with placed := f.placed ++ [⟨i, f.rows, n, kind, s.stFlag i 3⟩], rows := f.rows + n, subs := subs },
   { s4 with se := { s4.se with delays := sdel s4.se.delays i } })

/-- A stream is delayed, and reported subject to R369. (DEDUCED, log 64) -/
def Chip.delay (s : Chip) (x i cause : Nat) (f : Form) : Form × Chip :=
  let n := sget natReset s.se.delays i
  let per := s.cx x fDlyPeriod
  let t := ({ s with se := { s.se with delays := sput s.se.delays i (n + 1) } } : Chip).seCount x 3 1
  let f1 := { f with rank := f.rank + 1 }
  if n = 0 || (per ≠ 0 && n % per = 0) then
    let e : Entry := { s.streamEntry i 0x11 with cause := cause, len := some (f.rank + 1) }
    ({ f1 with delayed := f1.delayed ++ [e.word s.fresh] }, { t with fresh := t.fresh + 3 })
  else (f1, t)

/-- The turn of one READY stream (R347); `first` tells whether it has a guaranteed place. -/
def Chip.formOne (x : Nat) (first : List Nat) (a0 : Form × Chip) (i : Nat) : Form × Chip :=
  -- the entry and, for a stream that needs pages, its page table are read (R268)
  let a := (a0.1, a0.2.seeEntry x i)
  let f := a.1
  let s := a.2
  -- a refused request ends the formation: nothing that it was to bring decides anything (R254)
  if (a0.2.seCtx x).refused.isSome then a0
  else if s.stCtx i ≠ x || s.stState i ≠ 1 || !(s.se.used.contains i) then a
  else if s.cx x fMaxStreams ≤ f.placed.length then s.delay x i 1 f
  else if s.cx x fRowsMax < f.rows + s.rowsOf x i then s.delay x i 2 f
  else match placeIn f.subs (s.cx x fSubb) f.rows (s.rowsOf x i) (s.stepVersion i) with
    | none => s.delay x i 4 f
    | some subs =>
      let c := (f, s.seePt x (s.st i 52 2))
      if (c.2.seCtx x).refused.isSome then c
      else
      let b := if first.contains i then Chip.preemptFor x i (s.streamsOf x).length c else c
      if b.2.freePages x < b.2.pagesOf x i then b.2.delay x i 3 b.1 else b.2.place x i b.1 subs

/-- A list put in order by two keys, the first one foremost. -/
def insertKey (k : Nat → Nat × Nat) (i : Nat) : List Nat → List Nat
  | [] => [i]
  | j :: t => if (k i).1 < (k j).1 || ((k i).1 = (k j).1 && (k i).2 < (k j).2) then i :: j :: t else j :: insertKey k i t

def orderBy (k : Nat → Nat × Nat) (l : List Nat) : List Nat := l.foldr (insertKey k) []

/-- A stream's deadline, as a number that orders deadlines: NODL sorts after every one (R347). -/
def Chip.deadlineKey (s : Chip) (i : Nat) : Nat :=
  if s.stFlag i 5 then 2 ^ 33 else (2 ^ 31 + sgn 32 (s.st i 56 4 + 2 ^ 32 - s.beat % 2 ^ 32)).toNat

/-- The READY streams with a guaranteed place, and all of them in the order of R347. -/
def Chip.formOrder (s : Chip) (x : Nat) : List Nat × List Nat :=
  let ready := (s.streamsOf x).filter fun i => s.stState i = 1
  let age (i : Nat) : Nat × Nat := (s.st i 60 4, i)
  let res := orderBy age (ready.filter fun i => s.stClass i = 0)
  let first := res.take (s.cx x fResSlots)
  let rest := (ready.filter fun i => decide (s.stClass i ≤ 1)).filter fun i => !(first.contains i)
  let mid := orderBy (fun i => (s.deadlineKey i, s.st i 60 4)) rest
  (first, first ++ mid ++ orderBy age (ready.filter fun i => s.stClass i = 2))

/-! ## The batch descriptor (R349 to R352, R357) -/

/-- A list of bytes with nothing poisoned. -/
def plain (l : List (BitVec 8)) : List TByte := l.map fun b => (b, false)

/-- The record of row `j` of a placed stream (R215, R350); its TOKEN travels with its poison (R396). (DESIGN CHOICE, log 2) -/
def Chip.rowRecord (s : Chip) (x step : Nat) (p : Placed) (j : Nat) : List TByte :=
  let i := p.idx
  let dr := s.draftsOf i
  let len := s.st i 28 4
  let slot := s.st i 52 2
  let src := celAddr (4 * (s.st i 36 4 + j))
  let pos := if p.kind = 0 then len + j else if p.kind = 1 then len + treeDepth dr j else len
  let tok := if p.kind = 0 then s.num src 4 else if j = 0 then s.st i 32 4 else treeToken dr j
  let bad := decide (p.kind = 0) && s.tagged (src / 8)
  let inTree := p.kind = 1 && j ≠ 0
  let page := if inTree then (((s.treePages x (s.treeOf i))[j / 16]?).getD 0)
              else (s.pageAt x slot (pos / 16)).getD (Config.freeNat (s.fresh + p.first + j))
  let known := if pos / 16 < s.cx x fPtlen || inTree then page else Config.freeNat (s.fresh + p.first + j)
  let last := if p.kind = 0 then decide (j + 1 = s.st i 40 4) else true
  let fl := (if j = 0 then 1 else 0) + (if last then 2 else 0) + (if p.kind = 0 then 4 else 0) + (if p.kind = 1 then 8 else 0)
  plain (bytesOf 8 (s.st i 8 8) ++ bytesOf 4 (s.handleOf i) ++ bytesOf 4 step ++ bytesOf 4 pos ++ bytesOf 4 (s.st i 16 4) ++
    bytesOf 4 (s.st i 20 4) ++ bytesOf 2 (s.st i 24 2) ++ bytesOf 2 0) ++
  (bytesOf 4 (s.handleOf i) ++ bytesOf 4 tok).map (fun b => (b, bad)) ++
  plain (bytesOf 4 known ++ bytesOf 1 ((if inTree then j else pos) % 16) ++ bytesOf 1 (if p.kind = 1 then j else 0) ++ bytesOf 1 fl ++
    bytesOf 1 0 ++ bytesOf 8 (if p.kind = 1 then treeMask dr j else 0) ++ bytesOf 2 slot ++ bytesOf 2 0 ++ bytesOf 4 len)

/-- Zeros up to a multiple of 64 B. -/
def pad64 (l : List (BitVec 8)) : List (BitVec 8) := l ++ List.replicate ((64 - l.length % 64) % 64) 0

/-- The row map of a sub-batch (R351). -/
def Chip.rowMapOf (s : Chip) (placed : List Placed) (sub : Nat × Nat × List Nat) : List (BitVec 8) :=
  let mine := placed.filter fun p => decide (sub.1 ≤ p.first) && decide (p.first < sub.1 + sub.2.1)
  pad64 (mine.flatMap fun p => List.replicate p.rows (match s.stVer p.idx with
    | some v => BitVec.ofNat 8 (sub.2.2.idxOf v)
    | none => 0xFF))

/-- The segment table of a sub-batch (R351). -/
def Chip.segTable (s : Chip) (sub : Nat × Nat × List Nat) : List (BitVec 8) :=
  pad64 (sub.2.2.flatMap fun v => bytesOf 8 (s.version v).image ++ bytesOf 2 v ++ bytesOf 6 0)

/-- The commit record of a placed stream, where it has one (R357). -/
def Chip.commitRecord (s : Chip) (x : Nat) (p : Placed) : List (BitVec 8) :=
  match s.commitOf p.idx with
  | none => []
  | some (pos, l) =>
    let t := s.treePages x (s.treeOf p.idx)
    bytesOf 4 (s.handleOf p.idx) ++ bytesOf 2 (s.st p.idx 52 2) ++ bytesOf 1 l.length ++ bytesOf 1 0 ++ bytesOf 4 pos ++
    ((List.range 4).flatMap fun k => bytesOf 4 ((t[k]?).getD 0)) ++
    ((List.range 15).flatMap fun k => bytesOf 1 ((l[k]?).getD 0)) ++ bytesOf 21 0

/-- The body and the head of a step: the rows, then row maps, segment tables, commit records and the zero list in this order,
each at a multiple of 64 B (DESIGN CHOICE, log 23). -/
def Chip.descriptor (s : Chip) (x step : Nat) (f : Form) : List TByte × List (BitVec 8) :=
  let rows := f.placed.flatMap fun p => (List.range p.rows).flatMap fun j => s.rowRecord x step p j
  let tabs := f.subs.foldl (fun (a : List (BitVec 8) × List (Nat × Nat)) sub =>
    let m := s.rowMapOf f.placed sub
    let t := s.segTable sub
    let o := rows.length + a.1.length
    (a.1 ++ m ++ t, a.2 ++ [(o, o + m.length)])) ([], [])
  let com := f.placed.flatMap fun p => s.commitRecord x p
  let offC := rows.length + tabs.1.length
  let offZ := offC + com.length
  let zero := f.zero.flatMap fun p => bytesOf 4 p
  let base := s.bodyBase x + step % s.cx x fDepth * s.cx x fBodyStride
  let head := bytesOf 4 step ++ bytesOf 4 f.placed.length ++ bytesOf 4 f.rows ++ bytesOf 2 f.subs.length ++ bytesOf 2 (com.length / 64) ++
    bytesOf 4 f.zero.length ++ bytesOf 4 0 ++ bytesOf 8 base ++ bytesOf 8 s.beat ++ bytesOf 4 offC ++ bytesOf 4 offZ ++ bytesOf 16 0 ++
    ((f.subs.zip tabs.2).flatMap fun e => bytesOf 4 e.1.1 ++ bytesOf 2 e.1.2.1 ++ bytesOf 1 e.1.2.2.length ++ bytesOf 1 0 ++
      bytesOf 4 e.2.1 ++ bytesOf 4 e.2.2)
  (rows ++ plain (tabs.1 ++ com ++ zero), head)

/-- The input tokens that a formation reads and the body that it writes, each with its direction. -/
def Chip.formRanges (s : Chip) (x step bodyLen : Nat) (f : Form) : List (Nat × Nat × Bool) :=
  (f.placed.flatMap fun p => if p.kind = 0 then [(4 * s.st p.idx 36 4, 4 * p.rows, false)] else []) ++
  [(s.bodyBase x + step % s.cx x fDepth * s.cx x fBodyStride, bodyLen, true)]

/-- The first range of a list that a controller refuses: its address and direction. -/
def Chip.firstDenied (s : Chip) (x : Nat) (l : List (Nat × Nat × Bool)) : Option (Nat × Bool) :=
  l.findSome? fun r => (s.seDenied x r.1 r.2.1 r.2.2).map fun a => (a, r.2.2)

/-- A valid target whose slot is shorter than the head (R353). -/
def Chip.shortTarget (s : Chip) (x n : Nat) : Bool :=
  (s.targetsOf x).any fun t => decide ((s.slot (s.get (pgCTX x) (fTgtCore t)) (s.get (pgCTX x) (fTgtSlot t))).len < n)

/-- The context's step is formed at this beat (R336, R346 to R353). (DEDUCED, log 65) -/
def Chip.formStep (s : Chip) (x : Nat) : Chip :=
  let step := s.cx x fStepNext
  let o := s.formOrder x
  let a := o.2.foldl (Chip.formOne x o.1) (s.pullZero x Form.start)
  let f := a.1
  let s1 := a.2
  let d := s1.descriptor x step f
  let body := s1.bodyBase x + step % s1.cx x fDepth * s1.cx x fBodyStride
  let rs := s1.formRanges x step d.1.length f
  let denied := s1.firstDenied x rs
  let st : Step := { no := step, beat := s1.beat, nrows := f.rows, placed := f.placed, delayed := f.delayed, head := d.2,
                     targets := s1.targetsOf x, waits := [], began := s1.edges, cmdTmo := s1.get pgFLT (fFltCmdTmo x),
                     waitTmo := 0, body := (body, d.1.length) }
  let s2 := (s1.updSeCtx x fun k => { k with steps := k.steps ++ [st] }).put (pgCTX x) fStepNext (step + 1)
  let s3 : Chip := { s2 with fresh := s2.fresh + f.rows }
  let s4 := ((s3.seCount x 0 1).seCount x 2 f.rows).seCount x 9 f.zero.length
  match (s4.seCtx x).refused, denied with
  | some _, _ => s4
  | none, some r => s4.noteRefused x r.1 r.2
  | none, none =>
    let s5 := rs.foldl (fun (t : Chip) r => if r.2.2 then t.seLines r.1 r.2.1 true else t.seSee x r.1 r.2.1) s4
    let s6 := s5.storeTagged (celAddr body) d.1
    if s6.shortTarget x d.2.length then s6.faultCtx pgSE x eBAD_LEN else s6

/-- The buffer of the step to be formed is not free, or the outlet ring waits for room (R335). -/
def Chip.stepBarred (s : Chip) (x : Nat) : Bool :=
  let depth := s.cx x fDepth
  ((s.seCtx x).steps.any fun p => p.no % depth = s.cx x fStepNext % depth) || s.bit pgSE fOutWait

/-- A step beat (R335): a step is formed, or the beat is skipped.  A formation whose requests a slice in reset keeps waiting (R269) is
due from then on, and the step beats that pass before it are skipped. (DEDUCED, log 62) -/
def Chip.stepBeat (s : Chip) (x : Nat) : Chip :=
  let b0 := s.get64 (pgCTX x) 0x104
  let per := s.cx x fStepPeriod
  let k := (s.beat - b0) / per
  let due := (s.seCtx x).due
  let comes := !(decide (s.beat < b0) || decide ((s.beat - b0) % per ≠ 0) || decide (k < (s.seCtx x).nextK))
  if s.cx x fCtxEn = 0 || !(comes || due) then s
  else
    let t := if comes then s.updSeCtx x fun c => { c with nextK := k + 1 } else s
    let t1 := if comes && (due || s.stepBarred x) then t.seCount x 1 1 else t
    if s.stepBarred x then t1
    else (t1.updSeCtx x fun c => { c with due := false }).seTry x (fun u => u.formStep x) |>.getD
      (t1.updSeCtx x fun c => { c with due := true })

/-! ## The head (R353) -/

/-- The place in the order of waiting of a head that waits for its slot (R114). -/
def Step.place (p : Step) (t : Nat) : Option Nat := (p.waits.find? fun w => w.1 = t).map (·.2)

/-- The wait for the result flag begins, with the wait timeout as it is now (R354, R405). -/
def Chip.flagWait (s : Chip) (x : Nat) (p : Step) : Step := { p with began := s.edges, waitTmo := s.get pgFLT (fFltWaitTmo x) }

/-- The head is written into a target slot as one producer, when the body has been performed and the slot admits it in the order of
waiting (R114); in slots with an accumulate operation a plain write is refused (R118). (DEDUCED, log 65) (DESIGN CHOICE, log 46) -/
def Chip.headWrite (s : Chip) (x t : Nat) : Chip :=
  match (s.seCtx x).steps.find? fun p => p.targets.contains t with
  | none => s
  | some p =>
    let c := s.get (pgCTX x) (fTgtCore t)
    let n := s.get (pgCTX x) (fTgtSlot t)
    let sl := s.slot c n
    if sl.acc ≠ 0 then (s.put (pgSYNC c) fSyncFaultSlot n).faultCtx (pgSYNC c) x eACC
    else if (s.core c).inReset || s.sliceWaits p.body.1 p.body.2 then s
    else if !(s.admits c (p.place t |>.getD s.waitNo) [(n, true)]) then
      if (p.place t).isSome then s
      else (s.updSeCtx x fun k => { k with steps := k.steps.map fun q =>
        if q = p then { p with waits := p.waits ++ [(t, s.waitNo)] } else q }).bumpWait
    else
      let s1 := ((s.admitUses c [(n, true)]).noteMerge pgSE (s.ctxw x) (tunAddr c sl.base) p.head.length).store (tunAddr c sl.base) p.head
      let s2 := if sl.land then s1 else s1.completeProducer c n
      let left := p.targets.filter (· ≠ t)
      let p0 := { p with targets := left, waits := p.waits.filter fun w => decide (w.1 ≠ t) }
      let p1 := if left.isEmpty then s.flagWait x p0 else p0
      (s2.updSeCtx x fun k => { k with steps := k.steps.map fun q => if q = p then p1 else q }).pump c

/-! ## Results (R354 to R357) -/

/-- The path that a walk of the draft tree accepts from node `n` on, given each node's sample (R356). -/
def walk (dr : List (Nat × Nat)) (tok : Nat → Nat) : Nat → Nat → List Nat
  | 0, _ => []
  | f + 1, n =>
    match (List.range dr.length).find? fun k => treeParent dr (k + 1) = n && treeToken dr (k + 1) = tok n with
    | some k => (k + 1) :: walk dr tok f (k + 1)
    | none => []

/-- The tokens of a list up to its first stop token. -/
def untilStop (stop : Nat) : List Nat → List Nat
  | [] => []
  | t :: l => if t = stop then [t] else t :: untilStop stop l

/-- Where the result of row `r` and the draft record of the `k`th SPEC stream stand (R354). -/
def Chip.resRow (s : Chip) (x : Nat) (p : Step) (r : Nat) : Nat :=
  s.resBase x + p.no % s.cx x fDepth * s.cx x fResStride + 8 * r

def Chip.resDraft (s : Chip) (x : Nat) (p : Step) (k : Nat) : Nat :=
  s.resBase x + p.no % s.cx x fDepth * s.cx x fResStride + (8 * p.nrows + 63) / 64 * 64 + 256 * k

/-- The SPEC streams of a step that stand before stream `i`. -/
def Step.draftIndex (p : Step) (i : Nat) : Nat := ((p.placed.filter (·.spec)).takeWhile fun e => e.idx ≠ i).length

/-- The ranges of the result block that the engine reads: the rows whose results it uses, and the draft records. (DEDUCED, log 64) -/
def Chip.resRanges (s : Chip) (x : Nat) (p : Step) : List (Nat × Nat) :=
  p.placed.flatMap fun e =>
    (if e.kind = 0 then
       (if s.st e.idx 40 4 = e.rows && e.rows ≠ 0 then [(s.resRow x p (e.first + e.rows - 1), 8)] else [])
     else [(s.resRow x p e.first, 8 * e.rows)]) ++
    (if e.spec then [(s.resDraft x p (p.draftIndex e.idx), 256)] else [])

/-- A stream's tokens, status and commit after its result. -/
structure Outcome where
  emit : List Nat
  path : List Nat
  status : Nat
  prob : Option Nat
  deriving DecidableEq, Repr

/-- What the samples of a placed stream come to, cut at the stop token and the generation limit (R356). (DEDUCED, log 64) -/
def Chip.outcome (s : Chip) (x : Nat) (p : Step) (e : Placed) : Outcome :=
  let i := e.idx
  let dr := s.draftsOf i
  let row (j : Nat) : Nat := s.resRow x p (e.first + j)
  let tok (j : Nat) : Nat := s.num (celAddr (row j)) 4
  let path := if e.kind = 1 then walk dr tok dr.length 0 else []
  let at0 := if e.kind = 0 then e.rows - 1 else 0
  let lastNode := path.getLast?.getD at0
  let t := tok lastNode
  let all := path.map (treeToken dr) ++ [t]
  let stop := s.cx x fStopToken
  let room := s.st i 48 4 - s.st i 44 4
  let cut0 := untilStop stop all
  let cut1 := if s.st i 48 4 = 0 then cut0 else cut0.take room
  -- a failed sample that no cut has taken off emits nothing (R356), and its status has no token (R368)
  let fail := decide (t = 0xFFFFFFFF) && decide (cut1.length = all.length)
  let cut := if fail then [] else cut1
  let whole := decide (cut.length = all.length)
  let nodes := at0 :: path
  let status := if fail then 0x05 else if cut.getLast? = some stop then 0x02
                else if s.st i 48 4 ≠ 0 && s.st i 44 4 + cut.length = s.st i 48 4 then 0x03 else 0x01
  { emit := cut, path := if whole then path else path.take (cut.length - 1), status := status,
    prob := if cut.isEmpty then none else some (s.num (celAddr (row ((nodes[cut.length - 1]?).getD 0)) + 4) 4) }

/-- The draft tree that came with a stream's result: kept, dropped when it is not valid (R355). (DEDUCED, log 64) -/
def Chip.takeDraft (s : Chip) (x : Nat) (p : Step) (e : Placed) : Bool × Chip :=
  if e.spec then
    match draftTree ((List.range 64).map fun w => s.num (celAddr (s.resDraft x p (p.draftIndex e.idx) + 4 * w)) 4) with
    | some dr =>
      (false, { s with se := { s.se with drafts := if dr.isEmpty then sdel s.se.drafts e.idx else sput s.se.drafts e.idx dr } })
    | none => (true, { s with se := { s.se with drafts := sdel s.se.drafts e.idx } })
  else (false, s)

/-- The entries of a record that a stream's outcome comes to. -/
def Chip.resultWords (s : Chip) (i : Nat) (o : Outcome) (status : Nat) : List (BitVec 256) :=
  let before := o.emit.dropLast
  let e : Entry := { s.streamEntry i status with token := o.emit.getLast?.getD 0xFFFFFFFF, prob := o.prob, accepted := o.path.length,
                                                 ncont := (before.length + 5) / 6 }
  e.word s.fresh :: contWords (s.handleOf i) before

/-- A CLOSE that waited for the step takes effect (R340). -/
def Chip.lateClose (s : Chip) (x i : Nat) : Chip :=
  if sget natReset s.se.closing i ≠ 0 then s.closeStream x i else s

/-- The result of one placed stream is processed (R356); the entries gathered so far go with it. -/
def Chip.resultOne (x : Nat) (p : Step) (a : List (BitVec 256) × Chip) (e : Placed) : List (BitVec 256) × Chip :=
  let s := (a.2.seeEntry x e.idx).putEntry e.idx
  let i := e.idx
  let len := s.st i 28 4
  let bump (t : Chip) : Chip := { t with fresh := t.fresh + 3 }
  let clear (t : Chip) : Chip := { t with se := { t.se with commits := sdel t.se.commits i } }
  let fed := if e.kind = 0 then
      clear (((s.setSt i 28 4 (len + e.rows)).setSt i 40 4 (s.st i 40 4 - e.rows)).setSt i 36 4 (s.st i 36 4 + e.rows))
    else s
  if e.kind = 0 && s.st i 40 4 ≠ e.rows then
    let t := (fed.takeDraft x p e).2.setStState i 1
    let w := ({ t.streamEntry i 0x00 with } : Entry).word t.fresh
    (a.1 ++ [w], (bump t).lateClose x i)
  else
    let o := s.outcome x p e
    let s1 := if e.kind = 0 then fed else clear (s.setSt i 28 4 (len + 1 + o.path.length))
    let s2 := if o.path.isEmpty then s1
      else { s1 with se := { s1.se with commits := sput s1.se.commits i ((len + 1) :: o.path) } }
    let s3 := s2.setSt i 44 4 (s.st i 44 4 + o.emit.length)
    let s4 := match o.emit.getLast? with
      | some t => s3.setSt i 32 4 t
      | none => s3
    let dr := s4.takeDraft x p e
    let s5 := (dr.2.seCount x 0xE o.emit.length).seCount x 8 o.path.length
    let idle := decide (o.status ≠ 0x01)
    let full := decide (16 * s.cx x fPtlen < s5.st i 28 4 + 1)
    let gone := full || ((o.status = 0x02 || o.status = 0x03) && s.stFlag i 4)
    let status := if full then 0x04 else if o.status = 0x01 && dr.1 then 0x06 else o.status
    let ws := s5.resultWords i o status
    let s6 := bump (s5.setStState i (if idle then 3 else 1))
    (a.1 ++ ws, if gone then s6.freeStream x i else s6.lateClose x i)

/-- The step's result is processed, and its record waits for the ring (R366); DELAYED reports that it has no room for are left out and
counted, and other entries beyond 65,535 wait for the next record (R369). (DEDUCED, log 64) -/
def Chip.processStep (s : Chip) (x : Nat) (p : Step) : Chip :=
  let r := p.placed.foldl (Chip.resultOne x p) ([], s)
  let s1 := r.2
  let rest := r.1 ++ (s1.seCtx x).out
  let room := 65535 - rest.length
  let ws := (r.1 ++ p.delayed.take room ++ (s1.seCtx x).out).take 65535
  let s2 := (s1.seCount x 4 (p.delayed.length - room)).updSeCtx x fun k =>
    { k with out := k.out.drop (65535 - r.1.length), steps := match k.steps.drop 1 with
      | [] => []
      | q :: l => (if q.targets.isEmpty then s.flagWait x q else q) :: l }
  s2.addRecord ⟨x, 1, recordBytes 1 x p.no p.beat s.beat ws⟩

/-- The result block of the oldest step is read (R354, R396). -/
def Chip.readResult (s : Chip) (x : Nat) (p : Step) : Chip :=
  let rs := s.resRanges x p
  if rs.any fun r => s.sliceWaits r.1 r.2 then s
  else match s.firstDenied x (rs.map fun r => (r.1, r.2, false)) with
  | some r => s.noteRefused x r.1 false
  | none =>
    let bad := rs.any fun r => (s.rangeBad (celAddr r.1) r.2).isSome
    let s1 := rs.foldl (fun (t : Chip) r => t.seSee x r.1 r.2) s
    if bad then s1.faultCtx pgSE x ePOISON else s1.processStep x p

/-- The engine reads RFLAG (R354): it waits until it sees a token that has reached the step. (DEDUCED, log 64) -/
def Chip.rflagPoll (s : Chip) (x : Nat) : Chip :=
  match (s.seCtx x).steps with
  | [] => s
  | p :: _ =>
    let a := s.rflagAddr x / 8 * 8
    if !(p.targets.isEmpty) || !(s.se.records.isEmpty) || s.bit pgSE fOutWait || s.sliceWaits a 8 then s
    else match s.seDenied x a 8 false with
      | some b => s.noteRefused x b false
      | none =>
        let s1 := s.seSee x a 8
        match s.rangeBad (celAddr a) 8 with
        | some code => s1.faultCtx pgSE x code
        | none => if tkReached (BitVec.ofNat 64 (s.num (celAddr a) 8)) p.no then s1.readResult x p else s1

/-! ## The outlet ring (R365) -/

/-- The oldest waiting record, when it is the context's, is written once the ring has room. -/
def Chip.stepRecord (s : Chip) (x : Nat) : Chip :=
  match s.se.records with
  | r :: _ => if r.ctx = x then s.drainRecord else s
  | [] => s

/-- Software advances OUT_TAIL; the engine's wait ends when the ring has room. -/
def Chip.outTail (s : Chip) (v : Word) : Chip :=
  let t := s.put pgSE fOutTail v.toNat
  if t.bit pgSE fOutWait then t.waitRoom else t

/-! ## Timeouts (R93, R353, R354) -/

/-- The wait of a head for admission to a target slot has expired: each step's by the timeout with which it began (R353, R405). -/
def Chip.streamTimeout (s : Chip) (x : Nat) : Chip :=
  if (s.seCtx x).steps.any fun p => !(p.targets.isEmpty) && s.expired p.began p.cmdTmo then s.faultCtx pgSE x eSLOT_TIMEOUT else s

/-- The wait for the result flag of the oldest step has expired. -/
def Chip.flagTimeout (s : Chip) (x : Nat) : Chip :=
  match (s.seCtx x).steps with
  | p :: _ => if p.targets.isEmpty && s.expired p.began p.waitTmo then s.faultCtx pgSE x eCMD_TIMEOUT else s
  | [] => s

/-! ## The commands -/

def execStepFormation (x : Nat) : State → Host.Outcome State Fault Refusal := onUnit 16 x fun s => s.stepBeat x

def execHeadWrite (x t : Nat) : State → Host.Outcome State Fault Refusal := onUnit 16 x fun s => s.headWrite x t

def execRflagPoll (x : Nat) : State → Host.Outcome State Fault Refusal := onUnit 16 x fun s => s.seOp x fun t => t.rflagPoll x

def execStepRecordWrite (x : Nat) : State → Host.Outcome State Fault Refusal := onUnit 16 x fun s => s.stepRecord x

def execOutTailWrite (v : BitVec 32) : State → Host.Outcome State Fault Refusal :=
  onFabric fun s => if s.bit pgSE fResetActive then s else s.outTail v

/-- A wait reaches its timeout (R93, R94): that of the sequencer, of a unit's command, of the drain, of the stream engine. -/
def execCommandTimeout (w : WaitRef) : State → Host.Outcome State Fault Refusal :=
  match w with
  | .seq c => onCore c fun s => s.seqSlotTimeout c
  | .command c u id => onCore c fun s => s.unitTimeout c u id
  | .drain c => onCore c fun s => s.drainTimeout c
  | .streamWrite x => onUnit 16 x fun s => s.streamTimeout x
  | .stepFlag x => onUnit 16 x fun s => s.flagTimeout x

end Sys2Proof.Machine
end

