-- ==== Sys2Proof/Machine/FaultUnit.lean ====
section
/-! DEFINITION. Writes to a page (R3, R408, R464, R466), the fault unit (R399 to R415), the logs' clears and set bits (R472, R483),
identity and settings (R479, R480), power states (R418, R419) and the sensors (R425 to R427). -/

namespace Sys2Proof.Machine

/-! ## Writes to a page -/

/-- The unit of a page is present on this part (R466). -/
def Chip.pageThere (s : Chip) (page : Nat) : Bool :=
  match pageType page with
  | some (t, i) => if 0x30 ≤ t && t ≤ 0x36 then s.present i else if t = 0x10 then s.portPresent i else true
  | none => false

/-- The block of a page is in reset (R407, R408, R482). -/
def Chip.pageInReset (s : Chip) (page : Nat) : Bool :=
  match pageType page with
  | some (t, i) =>
    (s.rstBusy && !(kilnPage page)) ||
    (if 0x30 ≤ t && t ≤ 0x36 then (s.core i).inReset || s.bit page fResetActive
     else if t = 0x41 then s.bit pgSE fResetActive else s.bit page fResetActive)
  | none => false

/-- A write to a page: none where no page lies (R464); one to an absent unit is discarded and logged (R466); a block in reset
ignores it (R408). -/
def Chip.toPage (s : Chip) (page : Nat) (f : Chip → Chip) : Chip :=
  if (pageType page).isNone then s
  else if !(s.pageThere page) then s.absentWrite
  else if s.pageInReset page then s
  else f s

/-! ## Power states (R418, R419) -/

/-- PSTATE follows the contexts between IDLE and ACTIVE (R418). (DEDUCED, log 66) -/
def Chip.settlePstate (s : Chip) : Chip :=
  let p := s.get pgGOV fPstate
  if p = 2 && s.anyActive then s.put pgGOV fPstate 3 else if p = 3 && s.allFree then s.put pgGOV fPstate 2 else s

/-- PS_REQ = 1 (R419). (DEDUCED, log 66) -/
def Chip.reqStandby (s : Chip) : Chip :=
  if s.bit pgGOV fPsBusy then s
  else if !s.allFree then s.put pgGOV fPsReject 1
  else if s.get pgGOV fPstate = 1 then s
  else s.put pgGOV fPsBusy 1

/-- PS_REQ = 2 (R419): in STANDBY the rails rise; in any other state nothing is left to do. (DEDUCED, log 66) -/
def Chip.reqIdle (s : Chip) : Chip :=
  if s.bit pgGOV fPsBusy || s.get pgGOV fPstate ≠ 1 then s else s.put pgGOV fPsBusy 1

/-- The memories of core `c` are zeroed with valid codes: tun, instruction memory, descriptors, slots (R409, R419). -/
def Chip.zeroCore (s : Chip) (c : Nat) : Chip :=
  let t := (s.zero (tunAddr c 0) tunSize).zero (imAddr c 0) 0x18000
  let u : Chip := { t with descs := sclear t.descs (256 * c) 256, slots := sclear t.slots (4096 * c) 4096 }
  u.updCore c fun k => { k with blk := [], gather := [], genBase := 0 }

/-- The state change under way completes: to STANDBY, or from STANDBY to IDLE (R419). (DEDUCED, log 66) -/
def Chip.powerDone (s : Chip) : Chip :=
  if !(s.bit pgGOV fPsBusy) then s
  else if s.get pgGOV fPstate = 1 then
    let t := ((s.forEach s.presentCores Chip.zeroCore).put pgGOV fPstate 2).settlePstate
    ((t.put pgGOV fPsBusy 0).forEach (List.range 16) Chip.trainPort).raise pgGOV 0
  else
    let t := s.forEach ((List.range 16).filter s.portPresent) Chip.disablePort
    -- the cluster regions run at 1.6 GHz in STANDBY (R418)
    (((t.put pgGOV fPstate 1).put pgCLK fCurFreq 0).put pgGOV fPsBusy 0).raise pgGOV 0

/-! ## The fault unit (R399, R400, R404, R409, R413) -/

/-- A command in a wrong state is ignored and counted (R399, R415). -/
def Chip.ignored (s : Chip) : Chip := s.count pgFLT 4 1

/-- ACTIVATE. (DEDUCED, log 66; DEDUCED, log 67) -/
def Chip.activate (s : Chip) (x : Nat) : Chip :=
  if s.ctxState x = 0 then
    let t := (((s.put pgFLT (fFltState x) 1).put pgFLT (fFltCaptureOk x) 0).put pgFLT (fFltFirst x) 0).put64 pgFLT (0x214 + 0x40 * x) 0
    (t.put pgFLT (fFltCount x) 0).settlePstate
  else s.ignored

/-- STOP. -/
def Chip.stopCtx (s : Chip) (x : Nat) : Chip := if s.ctxState x = 1 then s.faultCtx pgFLT x eKILLED else s.ignored

/-- The cores of a context: those that CLEAR is resetting, or those whose SEQ CTX names it (R404, R412). -/
def Chip.partition (s : Chip) (x : Nat) : List Nat :=
  match s.clearing.find? fun e => e.1 = x with
  | some e => e.2
  | none => s.coresOf x

/-- Every core of a list is in reset. -/
def Chip.resetCores (s : Chip) (cs : List Nat) : Chip :=
  s.forEach cs fun t c => if (t.core c).inReset then t else t.coreReset c

/-- CLEAR (R404). (DEDUCED, log 67) -/
def Chip.clearCtx (s : Chip) (x : Nat) : Chip :=
  if s.ctxState x ≠ 2 then s.ignored
  else if s.clearing.any fun e => e.1 = x then s
  else
    let cs := s.coresOf x
    let t := (s.resetCores cs).unstep x
    { t with clearing := t.clearing ++ [(x, cs)] }

/-- No reset of its own or of its cluster holds core `c`. -/
def Chip.coreReleased (s : Chip) (c : Nat) : Bool := !(s.resets.contains (.core c)) && !(s.resets.contains (.cluster (clusterOf c)))

/-- CLEAR completes once every core is IDLE (R404). (DEDUCED, log 67) (DEDUCED, log 66) -/
def Chip.clearDone (s : Chip) (x : Nat) : Chip :=
  match s.clearing.find? fun e => e.1 = x with
  | none => s
  | some e =>
    if s.ctxState x = 2 && e.2.all s.coreReleased then
      let s0 : Chip := { s with clearing := s.clearing.filter fun e => e.1 ≠ x }
      let t := s0.forEach e.2 fun t c => t.updCore c fun k => { k with inReset := false }
      ((((t.put pgFLT (fFltState x) 1).put pgFLT (fFltCaptureOk x) 0).count pgFLT 2 1).raise pgFLT 2).settlePstate
    else s

/-- The extents PRIVATE to a context, as slice and extent. (DEDUCED, log 59) -/
def Chip.extentsOf (s : Chip) (x : Nat) : List (Nat × Nat) :=
  (List.range 36).flatMap fun n => ((List.range 128).filter fun e => s.extKind n e = 1 && s.extCtx n e = x).map fun e => (n, e)

/-- RELEASE: the scrub of R409 starts. (DEDUCED, log 67) -/
def Chip.releaseCtx (s : Chip) (x : Nat) : Chip :=
  if s.ctxState x ≠ 2 then s.ignored
  else
    let cs := s.partition x
    let t := ((s.resetCores cs).put pgFLT (fFltState x) 3).put pgFLT (fFltCaptureOk x) 0
    let u := t.forEach cs fun t c => (t.zeroCore c).updCore c fun k => { k with inReset := true, scrubbing := true }
    let v := (s.extentsOf x).foldl (fun (t : Chip) e => t.ownWrite e.1 e.2 (5 * 16 + x)) u
    let w := v.releaseStreams x
    { w with clearing := w.clearing.filter (fun e => e.1 ≠ x) ++ [(x, cs)] }

/-- Every step of the scrub is complete: the context is FREE (R409). (DEDUCED, log 67) -/
def Chip.scrubFinished (s : Chip) (x : Nat) : Chip :=
  match s.clearing.find? fun e => e.1 = x with
  | none => s
  | some e =>
    if s.ctxState x = 3 && e.2.all s.coreReleased && !(s.scrubQ.any fun q => s.extCtx q.1 q.2 = x) then
      let s0 : Chip := { s with clearing := s.clearing.filter fun e => e.1 ≠ x }
      let t := s0.forEach e.2 fun t c => t.updCore c fun k => { k with inReset := false, scrubbing := false }
      (((t.put pgFLT (fFltState x) 0).count pgFLT 3 1).raise pgFLT 1).settlePstate
    else s

/-! ## Logs, interrupts, counts -/

/-- ERR_CLR (R472). -/
def Chip.errClr (s : Chip) (page : Nat) : Chip :=
  if hasErrRegs page then ((s.put page fErrFirst 0).put page fErrCtx 0).put64 page 0x020 0 else s

/-- GFE_CLR (R483). -/
def Chip.gfeClr (s : Chip) : Chip :=
  ((((s.put pgGERP fGfeCode 0).put pgGERP fGfeCtx 0).put pgGERP fGfeSrc 0).put64 pgGERP 0x10C 0).put pgGERP fGfeMore 0

/-- The bits of INT_STAT that a page has (R71, R273, R332, R373, R391, R414, R438, R472, R483, R486, R506, R507). (DEDUCED, log 68) -/
def intBits (page : Nat) : Nat :=
  match pageType page with
  | some (t, _) =>
    let own := if t = 0x30 || t = 4 then 1 else if t = 0x20 || t = 0x40 then 15 else if t = 0x10 then 31
               else if t = 0xA || t = 6 || t = 7 || t = 8 || t = 5 then 7 else if t = 9 then 3 else if t = 0xC then 15
               else if t = 0xD then 1 else 0
    if hasErrRegs page then own + 2 ^ 31 else 0
  | none => 0

/-- INT_SET (R472): bits that the page does not have are reserved. (DEDUCED, log 68) -/
def Chip.intSet (s : Chip) (page : Nat) (mask : Word) : Chip :=
  s.setReg (page + 0x028) (s.reg (page + 0x028) ||| (mask &&& BitVec.ofNat 32 (intBits page)))

/-- The code counts cycles or other time that the model leaves out: R100, R146, R191, R193, R223, R274, R304, R333, R374, R488.
(DESIGN CHOICE, log 35) -/
def timedCount (t sel : Nat) : Bool :=
  if t = 0x30 then sel = 1 || (decide (3 ≤ sel) && decide (sel ≤ 0xD))
  else if t = 0x31 then [2, 5, 6, 7, 9].contains sel
  else if t = 0x34 then [5, 6].contains sel
  else if t = 0x32 then [1, 4, 5, 6, 0xB].contains sel
  else if t = 0x33 then sel = 5
  else if t = 0x35 then [5, 6].contains sel
  else if t = 0x36 then (decide (sel < 0x200) && (sel % 8 = 2 || sel % 8 = 3)) || (decide (0x205 ≤ sel) && decide (sel ≤ 0x209))
  else if t = 0x20 then sel = 7
  else if t = 0x10 then sel = 0x12 || sel = 0x13
  else if t = 0x40 then decide (sel < 0x100) && [0xA, 0xB, 0xC].contains (sel % 16)
  else false

/-- The code counts line errors that the FEC corrects, in cells that arrive well: no command tells of them (R305, R333). (DESIGN CHOICE, log 35) -/
def lineCount (t sel : Nat) : Bool := t = 0x10 && (sel = 5 || (decide (7 ≤ sel) && decide (sel ≤ 10)))

/-- Something of what such a code counts can have come since its count was last cleared: the core has run (and, for a wait on slots, some
wait has begun), the port has trained, the context of the stream engine has been enabled (R146, R333, R374). (DESIGN CHOICE, log 35) -/
def Chip.ticked (s : Chip) (page sel : Nat) : Bool :=
  match pageType page with
  | none => false
  | some (t, i) =>
    if 0x30 ≤ t && t ≤ 0x36 && decide (sel < 0x200) then
      s.seqIn i [sqRUNNING, sqHELD, sqHALTED, sqFAULTED] && (t ≠ 0x35 || decide ((s.core i).waitBase < s.waitNo))
    else if t = 0x10 then (s.port i).ran
    else if t = 0x40 then s.cx (sel / 16) fCtxEn = 1 || !((s.seCtx (sel / 16)).steps.isEmpty)
    else true

/-- The selected count of a page.  One that the model does not count in full has grown by a free number since it was last read; the
count keeps it, so that no later read gives less (DESIGN CHOICE, log 2). (DESIGN CHOICE, log 35) -/
def Chip.selected (s : Chip) (page : Nat) : Nat × Chip :=
  let sel := s.get page fCntSel
  let t := ((pageType page).map (·.1)).getD 0
  if (lineCount t sel || timedCount t sel) && s.ticked page sel then
    let s1 := ({ s with fresh := s.fresh + 1 } : Chip).count page sel (Config.freeNat s.fresh)
    (s1.countOf page sel, s1)
  else (s.countOf page sel, s)

def latchReset (k : Nat) : Word := regReset k

/-- A read of a _LO register leaves the high half of its pair in the _HI register (R477). -/
def Chip.setLatch (s : Chip) (off : Nat) (v : Word) : Chip := { s with latch := sset latchReset s.latch off v }

/-- A read of CNT_VAL_LO (R477). -/
def Chip.cntRead (s : Chip) (page : Nat) : Chip :=
  if (pageType page).isNone then s.accessFault
  else if !(s.pageThere page) || s.pageInReset page || !(hasErrRegs page) then s.answer (bytesOf 4 0)
  else
    let r := s.selected page
    (r.2.setLatch (page + 0x03C) (BitVec.ofNat 32 (r.1 / 2 ^ 32))).answer (bytesOf 4 r.1)

/-! ## Identity, settings, pins -/

/-- The first write of DEV_ID after a chip reset (R13, R479); ports that wait in PEER go on (R326). -/
def Chip.devIdWrite (s : Chip) (v : Word) : Chip :=
  if s.bit pgID fDevIdValid then s
  else ((s.put pgID ⟨0x130, 0, 10⟩ v.toNat).put pgID fDevIdValid 1).forEach ((List.range 16).filter s.portPresent) fun t p =>
    (t.sendIdentity p).peerCheck p

/-- A write of the settings (R480). (DESIGN CHOICE, log 27) -/
def Chip.settingsWrite (s : Chip) (v : Word) : Chip :=
  let d := bf v 0 3
  if d = 0 || 5 ≤ d then s else s.put pgSET ⟨0x108, 0, 5⟩ (bf v 0 5)

/-! ## The sensors (R425 to R427, R431) -/

/-- The hottest of the sensors below 158 and its index (R437). (DEDUCED, log 52) -/
def hottest (l : List Nat) : Nat × Nat :=
  ((l.take 158).zip (List.range 158)).foldl (fun a e => if a.1 < e.1 then (e.1, e.2) else a) (0, 0)

/-- The sensors have converted. -/
def Chip.convert (s : Chip) (l : List Nat) : Chip :=
  let r := (List.range 160).map fun n => ((l[n]?).getD (s.get pgTHM (fTemp n))) % 1024
  let s1 := s.forEach (List.range 160) fun t n => t.put pgTHM (fTemp n) ((r[n]?).getD 0)
  let h := hottest r
  let s2 := (s1.put pgTHM fTmax h.1).put pgTHM fTmaxIdx h.2
  let s3 := s2.forEach (List.range 36) fun t n => t.put (pgCEL n) ⟨0x108, 8, 8⟩ ((((r.drop (4 * n)).take 4).foldl max 0) / 4)
  let hot := decide (4 * s.get pgTHM fTEmerg ≤ h.1)
  let cool := decide (h.1 + 4 * s.get pgTHM fThrHyst < 4 * s.get pgTHM fTThrot)
  let s4 := if s.bit pgTHM fEmerg then (if cool then (s3.put pgTHM fEmerg 0).raise pgTHM 1 else s3)
            else if hot then (((s3.logErr pgTHM eTHERMAL 0).put pgTHM fEmerg 1).raise pgTHM 0).emergencySwitch
            else s3
  s4.adaptStart

/-- A sensor at 110 °C or above trips the module (R427). (DEDUCED, log 52; DEDUCED, log 77) -/
def Chip.sensors (s : Chip) (l : List Nat) : Chip :=
  match (List.range 160).find? fun n => decide (440 ≤ (l[n]?).getD 0) with
  | some n =>
    if s.board.rails = 0 then s
    else
      let t := s.powerOff
      { t with board := { t.board with trip := some n } }
  | none => if s.fabricUp then s.convert l else s

/-! ## The commands -/

def execActivate (x : Nat) : State → Host.Outcome State Fault Refusal := onUnit 16 x fun s => s.activate x
def execStop (x : Nat) : State → Host.Outcome State Fault Refusal := onUnit 16 x fun s => s.stopCtx x
def execClear (x : Nat) : State → Host.Outcome State Fault Refusal := onUnit 16 x fun s => s.clearCtx x
def execClearDone (x : Nat) : State → Host.Outcome State Fault Refusal := onUnit 16 x fun s => s.clearDone x
def execRelease (x : Nat) : State → Host.Outcome State Fault Refusal := onUnit 16 x fun s => s.releaseCtx x
def execPartitionScrubDone (x : Nat) : State → Host.Outcome State Fault Refusal := onUnit 16 x fun s => s.scrubFinished x

def execErrClr (page : Nat) : State → Host.Outcome State Fault Refusal := onChip fun s => s.toPage page fun t => t.errClr page

def execGfeClr : State → Host.Outcome State Fault Refusal := onChip Chip.gfeClr

def execIntSet (page : Nat) (mask : BitVec 32) : State → Host.Outcome State Fault Refusal :=
  onChip fun s => s.toPage page fun t => t.intSet page mask

def execCntValLoRead (page : Nat) : State → Host.Outcome State Fault Refusal := onChip fun s => s.cntRead page

def execModFaultWrite (v : Bool) : State → Host.Outcome State Fault Refusal :=
  onChip fun s => s.put pgGERP fModFault (if v then 1 else 0)

def execModReadyWrite (v : Bool) : State → Host.Outcome State Fault Refusal :=
  onChip fun s => s.toPage pgKLN fun t => t.put pgKLN ⟨0x100, 8, 1⟩ (if v then 1 else 0)

def execDevIdWrite (v : BitVec 32) : State → Host.Outcome State Fault Refusal := onChip fun s => s.devIdWrite v

def execSettingsWrite (v : BitVec 32) : State → Host.Outcome State Fault Refusal := onFabric fun s => s.settingsWrite v

def execOsOwnsWrite (v : Bool) : State → Host.Outcome State Fault Refusal :=
  onChip fun s => s.toPage pgMGT fun t => t.put pgMGT ⟨0x100, 0, 1⟩ (if v then 1 else 0)

def execPsReqStandby : State → Host.Outcome State Fault Refusal := onFabric Chip.reqStandby
def execPsReqIdle : State → Host.Outcome State Fault Refusal := onFabric Chip.reqIdle
def execPowerStateDone : State → Host.Outcome State Fault Refusal := onFabric Chip.powerDone

def execSensorConversion (readings : List Nat) : State → Host.Outcome State Fault Refusal := onBoard fun s => s.sensors readings

end Sys2Proof.Machine
end

