-- ==== Sys2Proof/Machine/Vane.lean ====
section
/-! DEFINITION. The vane collector (R383 to R392): its tag table, the occurrences that it adds up, the records in its ring. -/

namespace Sys2Proof.Machine

/-! ## The tag table (R383, R384) -/

/-- Two valid entries name the same core and slot. -/
def sameTarget : List (Nat × IWord) → Bool
  | [] => false
  | e :: t => (t.any fun f => decide (tagCore e.2 = tagCore f.2) && decide (tagSlot e.2 = tagSlot f.2)) || sameTarget t

/-- The enable is refused (R384); a reserved field of an entry that is not valid counts too. (DEDUCED, log 69) -/
def Chip.tagsBad (s : Chip) : Bool :=
  let v := s.validTags
  (v.any fun e => !(s.present (tagCore e.2))) ||
  (s.vaneTab.any fun e => decide (e.1 < 1024) && decide (bf e.2 64 2 ≠ 0)) ||
  ((List.range 144).any fun c => decide (16 < (v.filter fun e => decide (tagCore e.2 = c)).length)) || sameTarget v

/-- EN = 1 (R383, R384, R390, R392): the counts and DROPPED are cleared; when EN was 0, the valid entries go to the ports and
every occurrence count starts from 0, or the enable is refused. (DEDUCED, log 69) -/
def Chip.vaneEnable (s : Chip) : Chip :=
  let s1 := (s.clearCounts pgVAN 0 16).put pgVAN fDropped 0
  if s.bit pgVAN fVanEn then s1
  else if s.tagsBad then s1.put pgVAN fTabReject 1
  else
    let v := s.validTags
    let s2 := (s1.put pgVAN fVanEn 1).put pgVAN fNValid v.length
    let s3 : Chip := { s2 with vaneCnt := [], vaneOpen := [], vaneHigh := [] }
    s3.forEach s3.presentCores fun t c =>
      let mine := (v.filter fun e => decide (tagCore e.2 = c)).map fun e => (e.1, e.2, (0 : BitVec 64))
      if mine = (t.core c).vane then t else t.updCore c fun k => { k with vane := mine }

/-- EN = 0 (R386): every open occurrence closes, the ports stop, and what they have sent is discarded. (DEDUCED, log 69) -/
def Chip.vaneDisable (s : Chip) : Chip :=
  if s.bit pgVAN fVanEn then
    let s1 := (s.put pgVAN fVanEn 0).closeAll s.vaneOpen
    let s2 := s1.netKeep fun p => decide (bodyKind p.body ≠ 15)
    s2.forEach s2.presentCores fun t c => if (t.core c).vane = [] then t else t.updCore c fun k => { k with vane := [] }
  else s

/-! ## Reports (R385, R386) -/

/-- A report joins its occurrence: occurrences four or more behind it close, and so does its own when it is complete (R386).  A report
for an occurrence that has closed in this way is not added. (DEDUCED, log 69) -/
def Chip.addReport (s : Chip) (entry occ ctx : Nat) (d : BitVec 64) : Chip :=
  let layer := tagLayer (s.tagEntry entry)
  if s.vanePast layer occ then s
  else
    let t := s.closeOld layer occ
    let s1 : Chip := { t with vaneHigh := sset natReset t.vaneHigh layer (max (sget natReset t.vaneHigh layer) (occ + 1)) }
    let isIt (o : VaneOcc) : Bool := decide (o.layer = layer) && decide (o.occ = occ)
    let now : VaneOcc := match s1.vaneOpen.find? isIt with
      | some o => { o with digest := o.digest + d, nrep := o.nrep + 1, ctx := if o.nrep = 0 then ctx else o.ctx }
      | none => { layer := layer, occ := occ, digest := d, nrep := 1, ctx := ctx }
    let s2 : Chip := { s1 with vaneOpen :=
      (if s1.vaneOpen.any isIt then s1.vaneOpen.map (fun o => if isIt o then now else o) else s1.vaneOpen ++ [now]) }
    if s.vaneExpect layer ≤ now.nrep then s2.closeOcc now false else s2

/-- A report arrives at the collector. -/
def Chip.vaneReport (s : Chip) (p : Packet) : Chip :=
  match p.dst.ep, p.body, s.arrive p with
  | .vane, .vaneReport entry occ ctx d, some t =>
    if t.bit pgVAN fVanEn then (t.count pgVAN 1 1).addReport entry occ ctx d else t
  | _, _, _ => s

/-! ## The commands -/

def execVaneEnable : State → Host.Outcome State Fault Refusal :=
  onFabric fun s => if s.bit pgVAN fResetActive then s else s.vaneEnable

def execVaneDisable : State → Host.Outcome State Fault Refusal :=
  onFabric fun s => if s.bit pgVAN fResetActive then s else s.vaneDisable

def execVaneReportArrive (p : Packet) : State → Host.Outcome State Fault Refusal := onFabric fun s => s.vaneReport p

end Sys2Proof.Machine
end

