-- ==== Sys2Proof/Machine/RegWrites.lean ====
section
/-! DEFINITION. A write of a register through the window (R13, R14, R464 to R472): which fields of which page take it, within
which values and in which states, and what else it brings about. -/

namespace Sys2Proof.Machine

/-- A field that a write sets: lowest bit, width, the least and the greatest value that it takes; another is ignored. -/
structure RwField where
  lo : Nat
  len : Nat
  least : Nat
  most : Nat
  deriving DecidableEq, Repr

/-- A field that takes every value. -/
def rwAll (lo len : Nat) : RwField := ⟨lo, len, 0, 2 ^ len - 1⟩

/-- A field with a range of values. -/
def rwIn (lo len least most : Nat) : RwField := ⟨lo, len, least, most⟩

/-- An offset of a run of registers: `n` of them from `base`, `stride` apart. -/
def inRun (base stride n o : Nat) : Bool := decide (base ≤ o) && decide (o < base + stride * n) && decide ((o - base) % stride = 0)

/-- The sequencer of core `c` lets the fields of its pages be written (R99, R190, R222, R303). -/
def Chip.coreQuiet (s : Chip) (c : Nat) : Bool := s.seqIn c [sqIDLE, sqHELD, sqHALTED]

/-- No context of the stream engine is enabled (R371). -/
def Chip.noneEnabled (s : Chip) : Bool := (List.range 16).all fun x => decide (s.get (pgCTX x) fCtxEn = 0)

/-! ## Fields that hold what is written -/

/-- Fields of the core blocks' pages (R99, R144, R190, R222, R303). -/
def coreFields (t o : Nat) : List RwField :=
  if t = 0x30 then
    (if o = 0x100 then [rwAll 1 1]
     else if o = 0x10C then [rwAll 0 13]
     else if inRun 0x110 4 4 o then [rwAll 0 32]
     else if o = 0x120 then [rwAll 0 16]
     else if o = 0x124 then [rwAll 4 18]
     else if o = 0x128 then [rwAll 0 8]
     else if inRun 0x160 4 16 o || inRun 0x1A4 8 8 o then [rwAll 0 32]
     else if inRun 0x1A0 8 8 o then [rwAll 0 12]
     else [])
  else if t = 0x31 then (if o = 0x100 then [rwAll 0 1] else [])
  else if t = 0x32 then (if o = 0x100 then [rwAll 0 1, rwIn 1 3 1 4, rwAll 4 1] else [])
  else if t = 0x35 then (if inRun 0x120 4 16 o then [rwAll 0 32] else [])
  else if t = 0x36 then (if inRun 0x140 4 16 o then [rwIn 0 7 1 64] else [])
  else []

/-- Fields of the governor's page; a value outside the stated range is ignored (R435). -/
def govFields (o : Nat) : List RwField :=
  if o = 0x10C then [rwIn 0 11 16 1024]
  else if o = 0x110 then [rwIn 0 11 600 1300, rwIn 16 7 1 100]
  else if o = 0x114 then [rwIn 0 4 3 10, rwIn 8 5 10 25, rwIn 16 4 1 10]
  else if o = 0x118 then [rwIn 0 4 1 8, rwIn 4 4 1 8, rwIn 8 8 10 200, rwIn 16 4 1 8]
  else if o = 0x11C then [rwIn 0 5 5 25, rwAll 8 1, rwIn 16 10 64 1023]
  else if o = 0x120 then [rwIn 0 4 2 15, rwAll 8 24]
  else if o = 0x128 then [rwIn 8 3 0 6]
  else if inRun 0x300 4 16 o then [rwIn 0 5 0 16, rwAll 7 1]
  else if inRun 0x400 4 36 o then [rwAll 0 32]
  else []

/-- Fields of a context page of the stream engine (R372). -/
def ctxFields (o : Nat) : List RwField :=
  if o = 0x100 then [rwAll 1 1]
  else if o = 0x104 || o = 0x108 || o = 0x124 || o = 0x12C || o = 0x134 then [rwAll 0 32]
  else if o = 0x10C then [rwAll 0 16, rwIn 16 5 1 16]
  else if o = 0x110 || o = 0x11C then [rwAll 0 15]
  else if o = 0x114 then [rwAll 0 17]
  else if o = 0x118 then [rwAll 0 13, rwAll 16 13]
  else if o = 0x120 then [rwAll 0 21]
  else if o = 0x128 || o = 0x130 then [rwAll 0 24]
  else if inRun 0x138 8 4 o then [rwAll 0 32]
  else if inRun 0x13C 8 4 o then [rwAll 0 2]
  else if o = 0x158 || o = 0x15C then [rwAll 0 22]
  else if inRun 0x180 4 16 o then [rwAll 0 20, rwAll 31 1]
  else []

/-- The RW, RWS and RW-like fields of page type `t` at offset `o` of the page, as the state lets them be written now. (DESIGN CHOICE, log 27) -/
def Chip.rwFields (s : Chip) (t i o : Nat) : List RwField :=
  if o < 0x100 then
    (if t = 1 || t = 2 || t = 3 || t = 0xE || t = 0x41 then []
     else if o = 0x014 then [rwAll 0 26] else if o = 0x02C then [rwAll 0 32] else if o = 0x034 then [rwAll 0 12] else [])
  else if 0x30 ≤ t && t ≤ 0x36 then
    (if t = 0x35 then (if s.windowOpen i then coreFields t o else []) else if s.coreQuiet i then coreFields t o else [])
  else if t = 0x20 then
    (if o = 0x100 then [rwIn 0 2 0 1, rwAll 2 1, rwAll 3 5, rwIn 8 5 0 16] else [])
  else if t = 0x10 then
    (if o = 0x100 then [rwAll 1 1] else if inRun 0x200 4 32 o then [rwAll 0 7] else if inRun 0x300 4 63 o then [rwAll 0 26] else [])
  else if t = 0x11 then (if inRun 0x800 4 512 o then [rwAll 0 6, rwAll 16 6] else [])
  else if t = 0x40 then
    (if o = 0x110 || o = 0x114 then (if s.noneEnabled then [rwAll 0 32] else []) else if o = 0x118 then [rwIn 0 5 16 26] else [])
  else if t = 0x41 then
    (if inRun 0x200 4 15 o then [rwAll 0 32] else if s.bit (pgCTX i) fCtxEn then [] else ctxFields o)
  else if t = 4 then (if o = 0x118 then [rwAll 0 1] else [])
  else if t = 5 then
    (if o = 0x108 || o = 0x10C then [rwAll 0 32]
     else if decide (s.beatState ≠ bsDISABLED) then []
     else if o = 0x100 then [rwAll 1 1, rwAll 2 1, rwAll 5 1, rwAll 8 4, rwAll 12 4] else [])
  else if t = 6 then
    -- CAPTURE and JOB_TAG stand while the context is not FREE (R412)
    (if inRun 0x200 0x40 16 o then (if s.ctxState ((o - 0x200) / 0x40) = 0 then [rwAll 2 1, rwAll 4 12] else [])
     else if inRun 0x208 0x40 16 o || inRun 0x20C 0x40 16 o then [rwAll 0 32] else [])
  else if t = 7 then (if o = 0x108 then [rwIn 0 5 s.highFloor 16] else govFields o)
  else if t = 8 then
    (if o = 0x100 then [rwAll 0 5] else if o = 0x104 || o = 0x108 then [rwAll 0 32]
     else if o = 0x11C then [rwIn 0 6 15 60, rwAll 8 1] else [])
  else if t = 9 then (if o = 0x100 then [rwIn 0 8 80 95, rwIn 16 4 1 10] else [])
  else if t = 0xA then
    (if o = 0x104 then [rwAll 0 10]
     else if o = 0x118 || o = 0x11C then (if s.bit pgVAN fVanEn then [] else [rwAll 0 32])
     else if o = 0x120 then [rwIn 0 5 16 24] else if o = 0x128 then [rwAll 0 24] else [])
  else if t = 0xB then
    (if o = 0x100 then [rwAll 0 8, rwAll 8 1] else if inRun 0x108 4 8 o then [rwAll 0 32]
     else if o = 0x128 then [rwAll 8 1] else [])
  else if t = 0xC then
    (if o = 0x100 then [rwAll 0 1] else if o = 0x104 || o = 0x10C || o = 0x110 then [rwAll 0 32]
     else if o = 0x108 then [rwAll 0 16] else [])
  else []

/-- The bits that a 1 clears. -/
def w1cMask (t o : Nat) : Nat :=
  if o < 0x100 then
    (if t = 1 || t = 2 || t = 3 || t = 0xE || t = 0x41 then 0
     else if o = 0x010 then 2 ^ 26 - 1 else if o = 0x028 then 2 ^ 32 - 1 else 0)
  else if t = 0x30 then (if o = 0x104 then 2 ^ 13 else 0)
  else if t = 0x31 then (if o = 0x104 then 2 ^ 7 else 0)
  else if t = 0x32 then (if o = 0x108 then 0x3F else 0)
  else if t = 0x35 then (if o = 0x104 then 0x130 else if o = 0x174 then 2 else 0)
  else if t = 0x10 then (if o = 0x104 then 2 ^ 10 else 0)
  else if t = 0x41 then (if o = 0x100 then 0xC else 0)
  else if t = 3 then (if o = 0x104 then 16 else 0)
  else if t = 7 then (if o = 0x104 then 8 else if o = 0x124 then 2 ^ 12 else 0)
  else if t = 8 then (if o = 0x10C then 4 else if inRun 0x204 8 42 o then 2 ^ 7 else 0)
  else if t = 0xA then (if o = 0x100 then 2 else 0)
  else if t = 0xB then (if o = 0x128 then 2 ^ 9 else 0)
  else if t = 0xD then (if o = 0x104 then 2 else 0)
  else 0

/-- A field takes its bits of the word when their value is in its range. -/
def putField (old v : Word) (f : RwField) : Word :=
  if f.least ≤ bf v f.lo f.len && bf v f.lo f.len ≤ f.most then setBf old f.lo f.len (bf v f.lo f.len) else old

/-- What a write leaves in the register: W1C bits cleared, fields set. -/
def Chip.mergeReg (s : Chip) (t i o : Nat) (k : Nat) (v : Word) : Chip :=
  let old := s.reg k &&& ~~~(v &&& BitVec.ofNat 32 (w1cMask t o))
  let new := (s.rwFields t i o).foldl (fun w f => putField w v f) old
  if new = s.reg k then s else s.setReg k new

/-! ## What else a write brings about -/

/-- BLK_CTRL (R71, R407, R472): LOCK sets, HOLD of a sequencer, FRESET of the block's domain but the kiln's. -/
def Chip.ctrlWrite (s : Chip) (t i page : Nat) (v : Word) : Chip :=
  let s1 := if v.getLsbD 3 then s.put page fLock 1 else s
  let s2 := if t = 0x30 then (if v.getLsbD 2 then s1.holdSet i else s1.holdClear i) else s1
  if !(v.getLsbD 1) then s2
  else if t = 0x30 then s2.coreFreset i
  else if t = 0x31 then s2.engineFreset i uMTX
  else if t = 0x32 then s2.engineFreset i uVEC
  else if t = 0x33 then s2.engineFreset i uMOV
  else if t = 0x34 then s2.engineFreset i uADJ
  else if t = 0x35 then s2.engineFreset i uSYNC
  else if t = 0x36 then s2.engineFreset i uCHAN
  else if t = 0x20 then s2.clusterFreset i
  else if t = 0x10 then s2.portFreset i
  else if t = 0x40 then s2.unitReset pgSE .streamEngine Chip.streamReset
  else if t = 0xA then s2.unitReset pgVAN .vane Chip.vaneReset
  else if t = 0xC then s2.unitReset pgMGT .mgmt Chip.mgmtReset
  else s2

/-- The commands of a context's group in the FLT page (R399, R413). -/
def Chip.fltCommand (s : Chip) (x : Nat) (v : Word) : Chip :=
  match bf v 0 4 with
  | 0 => s
  | 1 => s.activate x
  | 2 => s.stopCtx x
  | 4 => s.clearCtx x
  | 8 => s.releaseCtx x
  | _ => s.ignored

/-- BEAT EN, START and CLR_FAULT (R40, R484, R485). -/
def Chip.beatCtrl (s : Chip) (v : Word) : Chip :=
  let s1 := if v.getLsbD 0 then s.beatEnable else s.beatDisable
  let s2 := if v.getLsbD 3 then s1.beatStart else s1
  if v.getLsbD 4 then s2.clrFault else s2

/-- HOT_ON is at most 85 and HOT_OFF below it: a write that would make it otherwise is ignored (R264, R272). -/
def Chip.hotWrite (s : Chip) (page : Nat) (v : Word) : Chip :=
  if bf v 0 8 ≤ 85 && bf v 8 8 < bf v 0 8 then (s.put page ⟨0x104, 0, 8⟩ (bf v 0 8)).put page ⟨0x104, 8, 8⟩ (bf v 8 8) else s

/-- T_EMERG is 96 to 100 and at least T_THROT + 1 (R437, DESIGN CHOICE, log 27). -/
def Chip.emergWrite (s : Chip) (v : Word) : Chip :=
  if 96 ≤ bf v 8 8 && bf v 8 8 ≤ 100 && s.get pgTHM fTThrot + 1 ≤ bf v 8 8 then s.put pgTHM fTEmerg (bf v 8 8) else s

/-- A request for a chip reset (R481, R482); a write without CHIP_RST requests nothing. -/
def Chip.rstWrite (s : Chip) (v : Word) : Chip :=
  if v.getLsbD 0 then
    s.chipReset (BitVec.ofNat 8 (bf v 8 8)) (if v.getLsbD 1 then Chip.resetKeepKiln else fun t => t.resetAll 4)
  else s


/-- A word of the tag table's window (R384, R390). -/
def Chip.tabWrite (s : Chip) (k : Nat) (v : Word) : Chip :=
  if s.bit pgVAN fVanEn then s
  else
    let i := s.get pgVAN fTabSel
    { s with vaneTab := sset descReset s.vaneTab i (setBf (s.tagEntry i) (32 * k) 32 v.toNat) }

/-- What a write brings about beside what it leaves in its register. -/
def Chip.sideWrite (s : Chip) (t i page o : Nat) (v : Word) : Chip :=
  if o = 0x008 then s.ctrlWrite t i page v
  else if o < 0x100 then
    (if o = 0x018 && v.getLsbD 31 then s.errClr page
     else if o = 0x030 && hasErrRegs page then s.intSet page v else s)
  else if t = 0x30 then (if o = 0x100 && v.getLsbD 0 then s.start i else s)
  else if t = 0x35 then
    (if o = 0x100 && v.getLsbD 0 then s.flushAll i else if o = 0x170 then s.kprobe i v else s)
  else if t = 0x20 then
    (if o = 0x104 then s.hotWrite page v else if inRun 0x200 4 32 o then s.extOwnWrite i ((o - 0x200) / 4) v else s)
  else if t = 0x10 then
    (if o = 0x100 then
       let s1 := if s.bit page fTrainEn = v.getLsbD 0 && v.getLsbD 0 then s else s.trainEn i (v.getLsbD 0)
       if v.getLsbD 2 then s1.restoreGo i else s1
     else s)
  else if t = 0x40 then (if o = 0x120 then s.outTail v else s)
  else if t = 0x41 then
    (if o = 0x100 then (if v.getLsbD 0 then s.ctxEnable i else s.put page fCtxEn 0)
     else if o = 0x23C then s.submit i v else s)
  else if t = 1 then (if o = 0x130 then s.devIdWrite v else s)
  else if t = 2 then (if o = 0x108 then s.settingsWrite v else s)
  else if t = 3 then (if o = 0x100 then s.rstWrite v else s)
  else if t = 4 then (if o = 0x100 && v.getLsbD 31 then s.gfeClr else s)
  else if t = 5 then
    (if o = 0x100 then s.beatCtrl v
     else if o = 0x104 && decide (s.beatState = bsDISABLED) && bf v 0 11 % 16 = 0 && 80 ≤ bf v 0 11 && bf v 0 11 ≤ 1280 then
       s.put pgBEAT fBeatPeriod (bf v 0 11)
     else s)
  else if t = 6 then (if inRun 0x204 0x40 16 o then s.fltCommand ((o - 0x204) / 0x40) v else s)
  else if t = 7 then
    (if o = 0x100 then (if bf v 0 2 = 1 then s.reqStandby else if bf v 0 2 = 2 then s.reqIdle else s)
     else if o = 0x124 then s.vddWrite (bf v 0 11)
     else if inRun 0x300 4 16 o then s.floorRequest ((o - 0x300) / 4) else s)
  else if t = 8 then (if o = 0x10C && v.getLsbD 0 then s.requestSwitch (s.get pgCLK fFswFreq) (s.get64 pgCLK 0x104) else s)
  else if t = 9 then (if o = 0x100 then s.emergWrite v else s)
  else if t = 0xA then
    (if o = 0x100 then (if v.getLsbD 0 then s.vaneEnable else s.vaneDisable)
     else if inRun 0x108 4 4 o then s.tabWrite ((o - 0x108) / 4) v else s)
  else if t = 0xB then (if o = 0x128 then s.wdogKick (BitVec.ofNat 8 (bf v 0 8)) else s)
  else s

/-! ## The window (R464, R465, R470) -/

/-- The offset lies in a populated range (R464). -/
def populated (off : Nat) : Bool :=
  decide (off < 0xE000) || (decide (0x100000 ≤ off) && decide (off < 0x111000)) ||
  (decide (0x200000 ≤ off) && decide (off < 0x440000)) || (decide (0x1000000 ≤ off) && decide (off < 0x3400000)) ||
  (decide (0x3800000 ≤ off) && decide (off < 0x3811000))

/-- The core block of an offset, and the offset in it (R470). -/
def inCore (off : Nat) : Option (Nat × Nat) :=
  if 0x1000000 ≤ off && off < 0x3400000 then some ((off - 0x1000000) / 0x40000, off % 0x40000) else none

/-- A write of a page's register. -/
def Chip.pageWrite (s : Chip) (page o : Nat) (v : Word) : Chip :=
  s.toPage page fun t =>
    match pageType page with
    | some (ty, i) => (t.mergeReg ty i o (page + o) v).sideWrite ty i page o v
    | none => t

/-- A 32-bit write to the window (R465): misaligned or outside it, it returns an access fault. -/
def Chip.regWrite (s : Chip) (off : Nat) (v : Word) : Chip :=
  if off % 4 ≠ 0 || !(populated off) then s.accessFault
  else
    match inCore off with
    | some (c, o) =>
      if 0x8000 ≤ o && o < 0x9000 then s.windowWrite c (o - 0x8000) 4 0x1000 fun t => t.tdWrite c (o - 0x8000) 4 (v.setWidth 64)
      else if 0x10000 ≤ o && o < 0x28000 then
        s.windowWrite c (o - 0x10000) 4 0x18000 fun t => t.imWrite c (o - 0x10000) 4 (v.setWidth 64)
      else if 0x30000 ≤ o then
        s.windowWrite c (o - 0x30000) 4 0x10000 fun t => t.sdWrite c (o - 0x30000) 4 (v.setWidth 64)
      else (s.pageWrite (off / 0x1000 * 0x1000) (off % 0x1000) v).written
    | none => (s.pageWrite (off / 0x1000 * 0x1000) (off % 0x1000) v).written

/-- A write of a register; one that asks for the kiln's function reset (R407), whose straps and fuses are open (DESIGN CHOICE, log 2), or that submits a
command to the security engine (R460), whose answer then stands for the write's. (DESIGN CHOICE, log 6; DESIGN CHOICE, log 31) -/
def State.regWrite (s : State) (off : Nat) (v : Word) : State :=
  let t : State := { s with chip := s.chip.regWrite off v }
  if off = pgSEC + 0x100 then t.secWrite (bf v 0 8)
  else if off = pgKLN + 0x008 && v.getLsbD 1 then
    let f (n : Nat) : Bool := Config.freeNat (t.chip.fresh + n) % 2 = 1
    let u : State := { t with chip := { t.chip with fresh := t.chip.fresh + 4 } }
    u.kilnRestart ⟨f 0, f 1, f 2, [Config.freeNat (t.chip.fresh + 3)]⟩
  else t

/-- A write by the width of the access (R465): 64 bits to a page are two writes, the lower offset first, and one to a window is one; another
width, and a misaligned access, is an access fault. (DESIGN CHOICE, log 6) -/
def State.wideWrite (s : State) (off : Nat) : RegData → State
  | .w32 v => s.regWrite off v
  | .w64 v =>
    if off % 8 ≠ 0 then { s with chip := s.chip.accessFault }
    else (s.regWrite off (v.extractLsb' 0 32)).regWrite (off + 4) (v.extractLsb' 32 32)
  | .other _ => { s with chip := s.chip.accessFault }

def execRegisterWrite (off : Nat) (v : RegData) : State → Host.Outcome State Fault Refusal := onState fun s => s.wideWrite off v

end Sys2Proof.Machine
end

