-- ==== Sys2Proof/Machine/RegReads.lean ====
section
/-! DEFINITION. What a register of the window reads as (R13, R14, R464 to R490): what is stored, and the fields that hardware
composes when they are read. -/

namespace Sys2Proof.Machine

/-- A word with a field set. -/
def withField (w : Word) (lo len v : Nat) : Word := setBf w lo len v

/-- A count that saturates at its field. -/
def cap (n len : Nat) : Nat := min n (2 ^ len - 1)

/-! ## The common registers (R472 to R475) -/

/-- NCNT of a page type: the highest code that counts an event, plus 1. -/
def ncnt (t : Nat) : Nat :=
  if t = 0x30 then 0x10 else if t = 0x31 then 0x0A else if t = 0x32 then 0x0C else if t = 0x33 then 9 else if t = 0x34 then 8
  else if t = 0x35 then 0x10 else if t = 0x36 then 0x20B else if t = 0x20 then 0x0C else if t = 0x10 then 0x17
  else if t = 0x40 then 0x100 else if t = 0xA then 6 else if t = 6 then 6 else if t = 7 then 0x0C else if t = 5 then 7 else 0

/-- The page's FRESET starts a function reset (R469). -/
def hasFreset (t : Nat) : Bool := [0xA, 0xB, 0xC, 0x10, 0x20, 0x30, 0x31, 0x32, 0x33, 0x34, 0x35, 0x36, 0x40].contains t

/-- The block is powered and clocked (R418). (DEDUCED, log 51) -/
def Chip.powered (s : Chip) (t i : Nat) : Bool :=
  let p := s.get pgGOV fPstate
  if 0x30 ≤ t && t ≤ 0x36 then decide (p = 3) || (decide (p = 2) && decide (s.seqState i = sqRUNNING))
  else if t = 0x10 then decide (2 ≤ p) else true

/-- The unit of a core page type. -/
def unitOfPage (t : Nat) : Nat :=
  if t = 0x31 then uMTX else if t = 0x32 then uVEC else if t = 0x33 then uMOV else if t = 0x34 then uADJ else if t = 0x35 then uSYNC
  else uCHAN

/-- The block has no command queued or executing. -/
def Chip.idle (s : Chip) (t i : Nat) : Bool :=
  let free (u : Nat) : Bool := ((s.core i).queue u).isEmpty && ((s.core i).running u).isEmpty
  if t = 0x30 then s.seqIn i [sqIDLE, sqHALTED, sqFAULTED]
  else if t = 0x33 then free uMOV && free uCEL
  else if 0x31 ≤ t && t ≤ 0x36 then free (unitOfPage t)
  else if t = 0x20 then !(s.scrubQ.any fun q => q.1 = i)
  else if t = 0x10 then (s.port i).replay.isEmpty && (s.port i).transit.isEmpty && (s.port i).ctl.isEmpty
  else if t = 0x40 then s.se.records.isEmpty && (List.range 16).all fun x => (s.seCtx x).steps.isEmpty && (s.seCtx x).fifo.isEmpty
  else if t = 0x41 then (s.seCtx i).steps.isEmpty && (s.seCtx i).fifo.isEmpty
  else if t = 0xD then !(s.bit pgSEC fSecBusy)
  else true

def Chip.faultedBit (s : Chip) (t i : Nat) : Bool :=
  if 0x30 ≤ t && t ≤ 0x36 then decide (s.seqState i = sqFAULTED)
  else if t = 0x10 then decide (s.portState i = psDOWN)
  else if t = 5 then decide (s.beatState = bsFAULT)
  else if t = 6 then (List.range 16).any fun x => decide (s.ctxState x = 2)
  else false

/-- SCRUBBING (R475); the stream engine's part of a RELEASE takes no time in the model, so that its page shows none between commands.
(DEDUCED, log 67) -/
def Chip.scrubbingBit (s : Chip) (t i : Nat) : Bool :=
  if 0x30 ≤ t && t ≤ 0x36 then (s.core i).scrubbing
  else if t = 0x20 then s.scrubQ.any fun q => q.1 = i
  else if t = 6 then (List.range 16).any fun x => decide (s.ctxState x = 3)
  else false

def Chip.blkId (s : Chip) (t i : Nat) : Nat := 1 + 2 * s.ident.rev + 256 * i + 65536 * t

def blkCap (t page : Nat) : Nat :=
  ncnt t + (if hasFreset t then 2 ^ 12 else 0) + (if t = 0x30 then 2 ^ 13 else 0) + (if intBits page % 2 ^ 31 = 0 then 0 else 2 ^ 14)

def Chip.blkStat (s : Chip) (t i page : Nat) : Nat :=
  (if s.idle t i then 1 else 0) + (if s.pageInReset page then 2 else 0) + (if s.faultedBit t i then 4 else 0) +
  (if s.scrubbingBit t i then 8 else 0)

/-! ## Fields composed when they are read, by page -/

/-- SEQ (R99). -/
def Chip.seqView (s : Chip) (c o : Nat) (w : Word) : Word :=
  let k := s.core c
  let lv := k.loops.reverse
  if o = 0x104 then
    -- STALL 15 shows that the core is HELD (R93)
    let stall := if s.seqState c = sqHELD then 15 else bf w 8 4
    withField (withField (withField w 5 3 k.loops.length) 8 4 stall) 12 1 (if s.belowFloor then 1 else 0)
  else if o = 0x144 then BitVec.ofNat 32 (packBits ((List.range 4).map fun d => (s.neighbour c d).isSome))
  else if inRun 0x148 4 3 o then
    BitVec.ofNat 32 (packBits ((List.range 32).map fun b => decide (k.block (32 * ((o - 0x148) / 4) + b) = 2)))
  else if o = 0x1E0 then BitVec.ofNat 32 (packBits ((List.range 8).map fun n => s.pred c n))
  else if inRun 0x200 8 4 o then
    (match lv[(o - 0x200) / 8]? with
     | some l => BitVec.ofNat 32 (l.first % 8192 + l.last % 8192 * 65536)
     | none => 0)
  else if inRun 0x204 8 4 o then BitVec.ofNat 32 (s.loopRem c ((o - 0x204) / 8))
  else w

/-- MTX, VEC, MOV, ADJ, SYNC (R144, R190, R192, R222, R488). -/
def Chip.engView (s : Chip) (t c o : Nat) (w : Word) : Word :=
  let k := s.core c
  let q (u : Nat) : Nat := (k.queue u).length
  let busy (u : Nat) : Nat := if (k.running u).isEmpty then 0 else 1
  if t = 0x31 && o = 0x104 then
    let waits := (k.running uMTX).any fun m => m.began.isSome && !(s.corrReady c m.prog)
    withField (withField (withField (withField w 0 4 (q uMTX)) 4 1 (busy uMTX)) 5 1 (if k.chain.isSome then 1 else 0)) 6 1
      (if waits then 1 else 0)
  else if t = 0x31 && o = 0x10C then withField w 0 20 (cap (chainTerms k.chain) 20)
  else if t = 0x32 && o = 0x104 then
    let run := ((k.running uVEC).filter fun m => !noSub m).map fun m => if m.split then tSUB m.w else 0
    let waits := match (k.queue uVEC).head? with
      | some m => vecHazard m (k.running uVEC)
      | none => false
    withField (withField (withField w 0 5 (q uVEC)) 5 4 (packBits ((List.range 4).map run.contains))) 10 1 (if waits then 1 else 0)
  else if t = 0x32 && o = 0x10C then
    BitVec.ofNat 32 ((if s.bit (pgVEC c) ⟨0x100, 0, 1⟩ then 0x81 else 0x01) + 0x100)
  else if t = 0x33 && o = 0x100 then
    BitVec.ofNat 32 (q uMOV + q uCEL * 256 + (max (busy uMOV) (busy uCEL)) * 65536)
  else if t = 0x33 && o = 0x104 then
    BitVec.ofNat 32 (packBits ((List.range 16).map fun g => (k.queue uCEL ++ k.running uCEL).any fun m => decide (m.tag = g)))
  else if t = 0x33 && o = 0x108 then BitVec.ofNat 32 k.linesOut
  else if t = 0x34 && o = 0x100 then
    BitVec.ofNat 32 (q uADJ + busy uADJ * 16 + (if k.rowMap.isSome then 32 else 0))
  else if t = 0x34 && o = 0x104 then BitVec.ofNat 32 ((k.rowMap.map List.length).getD 0)
  else if t = 0x35 && o = 0x104 then
    withField (withField (withField w 0 4 k.gather.length) 6 1 (if k.acq.any fun a => a.phase = 1 then 1 else 0)) 7 1
      (if k.acq.any fun a => a.phase = 0 then 1 else 0)
  else if t = 0x35 && inRun 0x160 4 4 o then
    BitVec.ofNat 32 (k.creds.filter fun e => decide (e.1 = (o - 0x160) / 4)).length
  else if t = 0x35 && o = 0x170 then w &&& 0x3FFFF
  else w

/-- CHAN (R291, R303). -/
def Chip.chanView (s : Chip) (c o : Nat) (w : Word) : Word :=
  if o = 0x100 then
    BitVec.ofNat 32 (((List.range 64).filter fun n => s.chState c n ≠ 0).length + ((s.core c).queue uCHAN).length * 256)
  else if o = 0x104 then BitVec.ofNat 32 (packBits ((List.range 16).map fun n => !((s.rq c n).isEmpty)))
  else if inRun 0x140 4 16 o then
    let n := (o - 0x140) / 4
    withField (withField w 8 7 (s.rq c n).length) 16 7 (s.rqResv c n)
  else if 0x800 ≤ o && o < 0xC00 then
    (match (s.rq c ((o - 0x800) / 64)).head? with
     | some e => BitVec.ofNat 32 (natOf ((e.bytes.drop (o % 64)).take 4))
     | none => 0)
  else w

/-- The line requests that wait at a slice (R272): those of its cluster's cores; one from outside waits in the mesh until it is served. -/
def Chip.linesWaiting (s : Chip) (n : Nat) : Nat :=
  ((s.clusterCores n).flatMap fun c => ((s.core c).running uCEL).map fun m => if ownSlice c m then m.sent - m.asked.length else 0).sum

/-- CEL (R253, R269, R272); a burst takes no time in the model, so that BURST reads 0 between commands (R263). (DEDUCED, log 68) -/
def Chip.celView (s : Chip) (n o : Nat) (w : Word) : Word :=
  if o = 0x108 then
    let v := withField w 16 8 (cap (s.linesWaiting n) 8)
    (match s.scrubQ.find? fun q => q.1 = n with
     | some q => withField (withField v 2 1 1) 24 7 q.2
     | none => withField (withField v 2 1 0) 24 7 0)
  else if inRun 0x200 4 32 o then
    BitVec.ofNat 32 (((List.range 4).map fun i => s.extOwn n (o - 0x200 + i) * 2 ^ (8 * i)).sum)
  else w

/-- SE and its context pages (R371, R372). -/
def Chip.seView (s : Chip) (t x o : Nat) (w : Word) : Word :=
  if t = 0x40 then
    (if o = 0x104 then BitVec.ofNat 32 (2 ^ 20 - s.se.used.length)
     else if o = 0x108 then BitVec.ofNat 32 (2 ^ 16 - s.se.vers.length)
     else if o = 0x10C then
       BitVec.ofNat 32 (((List.range 16).map fun y => if s.bit (pgCTX y) fCtxEn then s.cx y fMaxStreams else 0).sum)
     else w)
  else if o = 0x1C4 then BitVec.ofNat 32 (s.seCtx x).steps.length
  else if o = 0x1C8 then BitVec.ofNat 32 (s.streamsOf x).length
  else if o = 0x1CC then BitVec.ofNat 32 (s.freePages x)
  else if inRun 0x200 4 16 o then 0
  else if o = 0x240 then BitVec.ofNat 32 (128 - (s.seCtx x).fifo.length)
  else w

/-- A page has a first error logged. -/
def Chip.erring (s : Chip) (page : Nat) : Bool := s.get page fErrFirst ≠ 0

/-- The global pages (R377, R390, R412, R435, R436, R478 to R487). (DESIGN CHOICE, log 3) -/
def Chip.globalView (s : Chip) (otp : List Nat) (t o : Nat) (w : Word) : Word :=
  if t = 1 then
    (if o = 0x100 then BitVec.ofNat 32 (s.ident.part + 256 * s.latencyId)
     else if o = 0x104 then BitVec.ofNat 32 (s.ident.fusedRow % 16 + 65536 * s.ident.portAbsent.toNat)
     else if inRun 0x108 4 5 o then BitVec.ofNat 32 (packBits ((List.range 32).map fun b => s.present (32 * ((o - 0x108) / 4) + b)))
     else if inRun 0x120 4 4 o then BitVec.ofNat 32 (s.ident.serial.toNat / 2 ^ (32 * ((o - 0x120) / 4)))
     else w)
  else if t = 2 then
    (if o = 0x100 then BitVec.ofNat 32 s.settingsFp else if o = 0x104 then BitVec.ofNat 32 (s.settingsFp / 2 ^ 32) else w)
  else if t = 4 then
    (if inRun 0x120 4 5 o then
       BitVec.ofNat 32 (packBits ((List.range 32).map fun b =>
         let c := 32 * ((o - 0x120) / 4) + b
         decide (c < 144) && (List.range 7).any fun p => s.erring (pgSEQ c + 0x1000 * p)))
     else if o = 0x134 || o = 0x138 then
       BitVec.ofNat 32 (packBits ((List.range 32).map fun b =>
         decide (8 * (o - 0x134) + b < 36) && s.erring (pgCEL (8 * (o - 0x134) + b))))
     else if o = 0x13C then BitVec.ofNat 32 (packBits ((List.range 16).map fun p => s.erring (pgLNK p)))
     else if o = 0x140 then
       BitVec.ofNat 32 (packBits ((List.range 14).map (fun p => hasErrRegs (0x1000 * p) && s.erring (0x1000 * p)) ++
         [s.erring pgLKC, s.erring pgSE]))
     else w)
  else if t = 6 then
    (if o = 0x100 then BitVec.ofNat 32 (packBits ((List.range 16).map fun x => decide (s.ctxState x = 2)))
     else if o = 0x104 then BitVec.ofNat 32 (packBits ((List.range 16).map fun x => decide (s.ctxState x = 3)))
     else if inRun 0x220 0x40 16 o then BitVec.ofNat 32 (s.coresOf ((o - 0x220) / 0x40)).length
     else if inRun 0x224 0x40 16 o then
       BitVec.ofNat 32 (s.scrubQ.filter fun q => s.extCtx q.1 q.2 = (o - 0x224) / 0x40 && s.ctxState ((o - 0x224) / 0x40) = 3).length
     else w)
  else if t = 7 then
    (if o = 0x108 then withField w 8 5 s.highFloor
     else if o = 0x128 then withField w 0 4 s.ident.voff
     else if inRun 0x400 4 36 o then
       (List.range 4).foldl (fun v b => if s.present (o - 0x400 + b) then v else withField v (8 * b) 8 0) w
     else w)
  else if t = 8 then (if inRun 0x204 8 42 o then withField w 8 1 (if s.pow.locked then 1 else 0) else w)
  else if t = 0xA then
    (if inRun 0x108 4 4 o then (s.tagEntry (s.get pgVAN fTabSel)).extractLsb' (32 * ((o - 0x108) / 4)) 32
     else if o = 0x130 then withField w 12 11 s.vaneOpen.length else w)
  else if t = 0xE then
    (if inRun 0x100 4 512 o then
       let n := (o - 0x100) / 4
       if 128 ≤ n && n < 144 then 0 else BitVec.ofNat 32 (otpNum otp (32 * n) 32)
     else w)
  else w

/-- A register of a page, as it stands. (DESIGN CHOICE, log 3; DEDUCED, log 68) -/
def Chip.regView (s : Chip) (otp : List Nat) (t i page o : Nat) : Word :=
  let w := s.reg (page + o)
  if o = 0 then BitVec.ofNat 32 (s.blkId t i)
  else if o = 4 then BitVec.ofNat 32 (blkCap t page)
  else if o = 8 then withField w 0 1 (if s.powered t i then 1 else 0)
  else if o = 0xC then BitVec.ofNat 32 (s.blkStat t i page)
  else if o < 0x100 then w
  else if t = 0x30 then s.seqView i o w
  else if t = 0x36 then s.chanView i o w
  else if 0x30 ≤ t && t ≤ 0x35 then s.engView t i o w
  else if t = 0x20 then s.celView i o w
  else if 0x40 ≤ t then s.seView t i o w
  else s.globalView otp t o w

/-! ## Pairs and open values -/

/-- The RO register named _LO whose pair's other half stands four bytes on (R477). -/
def isLo (t o : Nat) : Bool :=
  (o = 0x020 && !(t = 1 || t = 2 || t = 3 || t = 0xE || t = 0x41)) ||
  (t = 0x30 && o = 0x138) || (t = 0x20 && (o = 0x120 || o = 0x128)) || (t = 6 && inRun 0x214 0x40 16 o) ||
  (t = 7 && inRun 0x200 8 10 o) || (t = 8 && o = 0x114) || (t = 2 && o = 0x100) || (t = 4 && o = 0x10C) ||
  (t = 5 && o = 0x118) || (t = 0xC && o = 0x114)

/-- The bits of a _HI register that its pair's _LO register leaves (R477). -/
def hiMask (t o : Nat) : Word :=
  if o < 4 || !(isLo t (o - 4)) then 0 else if o = 0x024 then 0xFFFFFFFF else if t = 0x20 then 3 else if t = 0xC then 0xFFFF else 0xFFFFFFFF

/-- The bits of a register that depend on time or on what the model leaves out, so that they are free (DESIGN CHOICE, log 2): the running PTP clock. (DESIGN CHOICE, log 35; DEDUCED, log 68) -/
def openMask (t o : Nat) : Word :=
  if t = 0xC && o = 0x104 then 0xFFFFFFFF
  else if t = 0xC && o = 0x108 then 0xFFFF
  else if t = 0xC && o = 0x10C then 0xFFFFFFFF
  else 0

/-- The bits of a page's register that are free: of OUT_BUSY those of the outputs that have passed a flit since chip reset (R303). (DEDUCED, log 68) (DESIGN CHOICE, log 2) -/
def Chip.openBits (s : Chip) (page t o : Nat) : Word :=
  if t = 0x36 && o = 0xC08 then BitVec.ofNat 32 (packBits ((List.range 5).map fun k => s.countOf page (0x200 + k) ≠ 0)) else openMask t o

/-- A read of a page's register (R408, R440, R466, R477). (DESIGN CHOICE, log 2) (DESIGN CHOICE, log 36) -/
def Chip.pageRead (s : Chip) (otp : List Nat) (page o : Nat) : Word × Chip :=
  match pageType page with
  | none => (0, s)
  | some (t, i) =>
    if !(s.pageThere page) then (0, s)
    else if s.pageInReset page && o ≠ 0 && o ≠ 0xC then (0, s)
    else if o = 0x038 && hasErrRegs page then
      let r := s.selected page
      (BitVec.ofNat 32 r.1, r.2.setLatch (page + 0x03C) (BitVec.ofNat 32 (r.1 / 2 ^ 32)))
    else if o = 0x03C && hasErrRegs page then (sget latchReset s.latch (page + o), s)
    -- how many L1 parity errors the kiln's caches have met since the last read is open (R440, R461)
    else if t = 0xB && o = 0x12C then
      let s1 := (({ s with fresh := s.fresh + 1 } : Chip).inc page ⟨0x12C, 0, 32⟩ (Config.freeNat s.fresh))
      (s1.reg (page + o), s1)
    else
      let w := s.regView otp t i page o
      let h := (w &&& ~~~(hiMask t o)) ||| (sget latchReset s.latch (page + o) &&& hiMask t o)
      if isLo t o then (h, s.setLatch (page + o + 4) (s.regView otp t i page (o + 4)))
      else if s.openBits page t o = 0 then (h, s)
      else ((h &&& ~~~(s.openBits page t o)) ||| (Config.freeWord s.fresh &&& s.openBits page t o), { s with fresh := s.fresh + 1 })

/-- The 64-bit word of a slot descriptor's window: bits [63:0] as written, bits [127:64] the slot's state (R109, R145). -/
def Chip.slotWord (s : Chip) (c n : Nat) : IWord :=
  let sl := s.slot c n
  BitVec.ofNat 128 (sl.desc.toNat + sl.crdout % 256 * 2 ^ 78 + sl.next % 256 * 2 ^ 86 + sl.reads % 256 * 2 ^ 94 +
    sl.done % 256 * 2 ^ 102 + sl.started % 256 * 2 ^ 110 + sl.state % 4 * 2 ^ 118 + (sl.gen + (s.core c).genBase) % 256 * 2 ^ 120)

/-- What a read of the instruction-memory window leaves: the word read is corrected, or is bad, in the sequencer's page (R396, R398); one of
a context whose data is closed is refused and counted (R403, R415). (DEDUCED, log 61) -/
def Chip.windowSee (s : Chip) (off : Nat) : Chip :=
  match inCore off with
  | some (c, o) =>
    if decide (off % 4 = 0) && decide (0x10000 ≤ o) && decide (o < 0x28000) && s.present c && !(s.core c).inReset && !(s.rstBusy) then
      let a := imAddr c 0 + (o - 0x10000)
      if s.closed (s.ownerOf c) then s.count pgFLT 0x05 1 else (s.noteCorr (pgSEQ c) 0 a 4).noteUncorr (pgSEQ c) 0 a 4
    else s
  | none => s

/-- A 32-bit read of the window (R396, R403, R464, R465, R470, R471); none is an access fault. (DESIGN CHOICE, log 6) -/
def Chip.regRead (s : Chip) (otp : List Nat) (off : Nat) : Option (Word × Chip) :=
  if off % 4 ≠ 0 || !(populated off) then none
  else
    match inCore off with
    | some (c, o) =>
      if (s.core c).inReset || s.rstBusy then some (s.pageRead otp (off / 0x1000 * 0x1000) (off % 0x1000))
      else if 0x8000 ≤ o && o < 0x9000 then
        some (if s.present c then (s.desc c ((o - 0x8000) / 16)).extractLsb' (8 * (o % 16)) 32 else 0, s)
      else if 0x10000 ≤ o && o < 0x28000 then
        (if !(s.present c) then some (0, s)
         else if s.closed (s.ownerOf c) || (s.rangeBad (imAddr c 0 + (o - 0x10000)) 4).isSome then none
         else some (BitVec.ofNat 32 (s.num (imAddr c 0 + (o - 0x10000)) 4), s))
      else if 0x30000 ≤ o then
        some (if s.present c then (s.slotWord c ((o - 0x30000) / 16)).extractLsb' (8 * (o % 16)) 32 else 0, s)
      else some (s.pageRead otp (off / 0x1000 * 0x1000) (off % 0x1000))
    | none => some (s.pageRead otp (off / 0x1000 * 0x1000) (off % 0x1000))

end Sys2Proof.Machine
end

