-- ==== Sys2Proof/Machine/KilnMap.lean ====
section
/-! DEFINITION. The kiln's physical map (R442): which region an address lies in, and what an access there does; the writes of the flash, which
the security engine admits (R449). -/

namespace Sys2Proof.Machine

/-- The regions of the map (R442). -/
inductive KilnRegion where
  | rom
  | sram
  | timers
  | frames
  | mailbox
  | plic
  | flash
  | window
  | carve
  | aperture
  | tuns
  deriving DecidableEq, Repr

/-- A region, its base and its populated length (R251, R442). -/
def Chip.kilnRegions (s : Chip) : List (KilnRegion × Nat × Nat) :=
  [(.rom, 0, 0x40000), (.sram, 0x01000000, 0x200000), (.timers, 0x02000000, 0x10000), (.frames, 0x03000000, 0x10000),
   (.mailbox, 0x03100000, 0x10000), (.plic, 0x0C000000, 0x4000000), (.flash, 0x20000000, 0x10000000),
   (.window, 0x40000000, 0x4000000), (.carve, 0x80000000, 2 ^ 28 * s.get pgKLN fKlnCarve), (.aperture, 0x1000000000, 36 * 2 ^ 28),
   (.tuns, 0x2000000000, 144 * 0x400000)]

/-- The region that holds the whole of an access, and its base; none is an access fault (R442). -/
def Chip.regionOf (s : Chip) (a n : Nat) : Option (KilnRegion × Nat) :=
  (s.kilnRegions.find? fun r => decide (r.2.1 ≤ a) && decide (a + n ≤ r.2.1 + r.2.2) && decide (n ≠ 0)).map fun r => (r.1, r.2.1)

/-- A region that the kiln's caches may hold (R442). -/
def KilnRegion.cacheable : KilnRegion → Bool
  | .rom | .sram | .flash | .carve | .aperture | .tuns => true
  | .timers | .frames | .mailbox | .plic | .window => false

/-- The access, counted from the base of its region. -/
def fromBase (k : KilnAccess) (base : Nat) : KilnAccess :=
  match k with
  | .read o n => .read (o - base) n
  | .write o l => .write (o - base) l

/-- A flash write of the kiln's software: the security engine refuses one to the image region outside an update session (R449, R460). (DESIGN CHOICE, log 36) -/
def Chip.flashWrite (s : Chip) (o : Nat) (l : List (BitVec 8)) : Chip :=
  if decide (o < imageBase + imageLen) && decide (imageBase < o + l.length) && !(s.sec.session) then s.accessFault
  else (s.store (0x20000000 + o) l).written

/-- Memory of the kiln's own: SRAM, frame buffers, mailbox. -/
def Chip.kilnMem (s : Chip) : KilnAccess → Chip
  | .read o n => if (s.rangeBad o n).isSome then s.accessFault else s.answer (s.bytes o n)
  | .write o l => (s.store o l).written

/-- A unit that follows a specification of its own: what is read is free, and what is written changes nothing that the block holds
(DESIGN CHOICE, log 2). (DESIGN CHOICE, log 36) -/
def Chip.otherUnit (s : Chip) : KilnAccess → Chip
  | .read _ n => ({ s with fresh := s.fresh + 1 } : Chip).answer (bytesOf n (Config.freeNat s.fresh))
  | .write _ _ => s.written

/-- A read of the register window, 32 or 64 bits wide (R465). (DESIGN CHOICE, log 6) -/
def Chip.wideRead (s : Chip) (otp : List Nat) (off n : Nat) : Chip :=
  let one (t : Chip) (o : Nat) : Chip := match t.regRead otp o with
    | none => (t.windowSee o).accessFault
    | some r => (r.2.windowSee o).answer (bytesOf 4 r.1.toNat)
  if n = 4 then one s off
  else if n = 8 && off % 8 = 0 then
    let t := one s off
    let u := one t (off + 4)
    if t.resp.isEmpty || u.resp.isEmpty then u.accessFault else u.answer (t.resp ++ u.resp)
  else s.accessFault

/-- An access of the register window, by its width. -/
def State.windowAccess (s : State) : KilnAccess → State
  | .read o n => { s with chip := s.chip.wideRead s.otp o n }
  | .write o l =>
    s.wideWrite o (if l.length = 4 then .w32 (BitVec.ofNat 32 (natOf l)) else if l.length = 8 then .w64 (BitVec.ofNat 64 (natOf l))
                   else .other l.length)

/-- An access of the kiln at an address of its map (R442).  The boot ROM is read-only, and the flash is mapped for reading, and its writes go
through the security engine. (DESIGN CHOICE, log 36) -/
def State.mapAccess (s : State) (machine : Bool) (k : KilnAccess) : State :=
  let on (c : Chip) : State := { s with chip := c }
  match s.chip.regionOf (kaOff k) (kaSize k) with
  | none => on s.chip.accessFault
  | some (r, base) =>
    let q := fromBase k base
    match r with
    | .rom => (match q with
      | .read o n => on (s.chip.answer ((List.range n).map fun i => Config.romByte (o + i)))
      | .write _ _ => on s.chip.accessFault)
    | .sram | .frames | .mailbox => on (s.chip.kilnMem k)
    | .timers | .plic => on (s.chip.otherUnit k)
    | .flash => (match q with
      | .read _ _ => on (s.chip.kilnMem k)
      | .write o l => on (s.chip.flashWrite o l))
    | .window => s.windowAccess q
    | .carve => on (s.chip.cellarAccess false machine q)
    | .aperture => on (s.chip.cellarAccess true machine q)
    | .tuns => on (s.chip.tunAccess (kaOff q / 0x400000) (fromBase q (kaOff q / 0x400000 * 0x400000)))

/-! ## The command -/

/-- An access through one of the two windows of the cellar (R251), or at an address of the map. (DESIGN CHOICE, log 36) -/
def execCellarApertureAccess (full : KilnView) (machine : Bool) (k : KilnAccess) : State → Host.Outcome State Fault Refusal :=
  onState fun s =>
    match full with
    | .carve => { s with chip := s.chip.cellarAccess false machine k }
    | .aperture => { s with chip := s.chip.cellarAccess true machine k }
    | .map => s.mapAccess machine k

end Sys2Proof.Machine
end

