-- ==== Sys2Proof/Machine/Mgmt.lean ====
section
/-! DEFINITION. The management port (R450, R451, R462, R506): frames, its link, the register-access protocol that the boot ROM
serves. -/

namespace Sys2Proof.Machine

/-! ## The register-access protocol (R451) -/

/-- The debug policy admits every access (R451, R459). -/
def Chip.rapOpen (s : Chip) : Bool := s.get pgSEC fSecDbg = 0 || (s.get pgSEC fSecDbg = 1 && s.get pgSEC fSecUnlocked = 1)

/-- A read request: the identity page is always served. -/
def Chip.rapReadGo (s : Chip) (otp : List Nat) (sn : BitVec 32) (off : Nat) : Chip :=
  if decide (0x1000 ≤ off) && !s.rapOpen then s.answer (rapReply sn 3 [])
  else match s.regRead otp off with
    | none => (s.windowSee off).answer (rapReply sn 2 [])
    | some r => (r.2.windowSee off).answer (rapReply sn 0 (bytesOf 4 r.1.toNat))

/-- A write request; a locked page refuses it (R472). -/
def State.rapWriteGo (s : State) (sn : BitVec 32) (off : Nat) (v : Word) : State :=
  let c := s.chip
  let say (t : State) (n : Nat) : State := { t with chip := t.chip.answer (rapReply sn n []) }
  if !c.rapOpen then say s 3
  else if off % 4 ≠ 0 || !(populated off) then say s 2
  else if (pageType (off / 0x1000 * 0x1000)).isSome && c.bit (off / 0x1000 * 0x1000) fLock then say s 3
  else say (s.regWrite off v) 0

/-! ## Frames and the link (R506) -/

/-- A frame's event is timestamped: the timestamp is latched (R450, R506). (DESIGN CHOICE, log 18) -/
def Chip.stamped (s : Chip) (t : Option PtpTime) : Chip :=
  match t with
  | some e => (s.raise pgMGT 3).updBoard fun b => { b with stamp := some (e.sec % 2 ^ 48, e.ns % 2 ^ 32) }
  | none => s

/-- The port is out of reset and its link is up. -/
def Chip.linkUp (s : Chip) : Bool := s.bit pgMGT fLinkUp && !(s.bit pgMGT fResetActive)

/-- A received frame is placed in the frame buffers. -/
def Chip.frameIn (s : Chip) (off : Nat) (data : List (BitVec 8)) (t : Option PtpTime) : Chip :=
  if s.linkUp && decide (off + data.length ≤ 0x10000) then ((s.store (0x03000000 + off) data).raise pgMGT 1).stamped t else s

/-! ## The commands -/

def execRapRead (sn : BitVec 32) (off : Nat) : State → Host.Outcome State Fault Refusal :=
  onState fun s => if s.chip.romServes then { s with chip := s.chip.rapReadGo s.otp sn off } else s

def execRapWrite (sn : BitVec 32) (off : Nat) (v : BitVec 32) : State → Host.Outcome State Fault Refusal :=
  onState fun s => if s.chip.romServes then s.rapWriteGo sn off v else s

def execMgmtFrameReceive (off : Nat) (data : List (BitVec 8)) (stamp : Option PtpTime) : State → Host.Outcome State Fault Refusal :=
  onChip fun s => s.frameIn off data stamp

def execMgmtFrameSent (stamp : Option PtpTime) : State → Host.Outcome State Fault Refusal :=
  onChip fun s => if s.linkUp then (s.raise pgMGT 2).stamped stamp else s

def execMgmtLinkChange (up : Bool) : State → Host.Outcome State Fault Refusal :=
  onChip fun s =>
    if s.bit pgMGT fResetActive || s.bit pgMGT fLinkUp = up then s else (s.put pgMGT fLinkUp (if up then 1 else 0)).raise pgMGT 0

end Sys2Proof.Machine
end

