-- ==== Sys2Proof/Machine/Dispatch.lean ====
section
/-! DEFINITION. One arm per command: each calls that command's meaning. -/

namespace Sys2Proof.Machine

/-- The effect of a command on everything but the queue. -/
def exec (i : Instr) (s : State) : Host.Outcome State Fault Refusal :=
  match i with
  | .nop c w => Sys2Proof.Machine.execNop c w s
  | .endI c w => Sys2Proof.Machine.execEndI c w s
  | .endComplete c => Sys2Proof.Machine.execEndComplete c s
  | .br c w => Sys2Proof.Machine.execBr c w s
  | .loop c w => Sys2Proof.Machine.execLoop c w s
  | .lprem c w => Sys2Proof.Machine.execLprem c w s
  | .cset c w => Sys2Proof.Machine.execCset c w s
  | .cadd c w => Sys2Proof.Machine.execCadd c w s
  | .cmov c w => Sys2Proof.Machine.execCmov c w s
  | .cld c w => Sys2Proof.Machine.execCld c w s
  | .cldComplete c k => Sys2Proof.Machine.execCldComplete c k s
  | .cst c w => Sys2Proof.Machine.execCst c w s
  | .cmpcfg c w => Sys2Proof.Machine.execCmpcfg c w s
  | .tdset c w => Sys2Proof.Machine.execTdset c w s
  | .tdadd c w => Sys2Proof.Machine.execTdadd c w s
  | .tdload c w => Sys2Proof.Machine.execTdload c w s
  | .ovl c w => Sys2Proof.Machine.execOvl c w s
  | .ovlLoadDone c id => Sys2Proof.Machine.execOvlLoadDone c id s
  | .imageLoad c first nblk src => Sys2Proof.Machine.execImageLoad c first nblk src s
  | .imageLoadDone c id => Sys2Proof.Machine.execImageLoadDone c id s
  | .waitb c w => Sys2Proof.Machine.execWaitb c w s
  | .overrunLimit c => Sys2Proof.Machine.execOverrunLimit c s
  | .fenceMet c => Sys2Proof.Machine.execFenceMet c s
  | .cwait c w => Sys2Proof.Machine.execCwait c w s
  | .cwaitComplete c => Sys2Proof.Machine.execCwaitComplete c s
  | .waitarr c w => Sys2Proof.Machine.execWaitarr c w s
  | .waitarrMet c => Sys2Proof.Machine.execWaitarrMet c s
  | .queueFullResume c => Sys2Proof.Machine.execQueueFullResume c s
  | .undefinedOpcode c w => Sys2Proof.Machine.execUndefinedOpcode c w s
  | .flush c w => Sys2Proof.Machine.execFlush c w s
  | .rel c w => Sys2Proof.Machine.execRel c w s
  | .relTokenDelivery c => Sys2Proof.Machine.execRelTokenDelivery c s
  | .acq c w => Sys2Proof.Machine.execAcq c w s
  | .acqCellarPoll c => Sys2Proof.Machine.execAcqCellarPoll c s
  | .drainProbeArrive p => Sys2Proof.Machine.execDrainProbeArrive p s
  | .drainProbeReply c n => Sys2Proof.Machine.execDrainProbeReply c n s
  | .acquireComplete c reply => Sys2Proof.Machine.execAcquireComplete c reply s
  | .slset c w => Sys2Proof.Machine.execSlset c w s
  | .grant c w => Sys2Proof.Machine.execGrant c w s
  | .creditGranted c => Sys2Proof.Machine.execCreditGranted c s
  | .nwCreditArrive p => Sys2Proof.Machine.execNwCreditArrive p s
  | .revoke c w => Sys2Proof.Machine.execRevoke c w s
  | .nwCreditReturn p => Sys2Proof.Machine.execNwCreditReturn p s
  | .arrset c w => Sys2Proof.Machine.execArrset c w s
  | .cfetch c w => Sys2Proof.Machine.execCfetch c w s
  | .cstore c w => Sys2Proof.Machine.execCstore c w s
  | .cellarLineRequest c id line => Sys2Proof.Machine.execCellarLineRequest c id line s
  | .cellarLineReturn c id line => Sys2Proof.Machine.execCellarLineReturn c id line s
  | .nwr c w => Sys2Proof.Machine.execNwr c w s
  | .nwrRequestArrive p => Sys2Proof.Machine.execNwrRequestArrive p s
  | .nwrRankRetry c id => Sys2Proof.Machine.execNwrRankRetry c id s
  | .nwrDataArrive p => Sys2Proof.Machine.execNwrDataArrive p s
  | .nwrAck p => Sys2Proof.Machine.execNwrAck p s
  | .tcopy c w => Sys2Proof.Machine.execTcopy c w s
  | .openReceiveEnd c w => Sys2Proof.Machine.execOpenReceiveEnd c w s
  | .openSendEnd c w => Sys2Proof.Machine.execOpenSendEnd c w s
  | .openRequestArrive p => Sys2Proof.Machine.execOpenRequestArrive p s
  | .openReplyArrive p => Sys2Proof.Machine.execOpenReplyArrive p s
  | .openRetry c id => Sys2Proof.Machine.execOpenRetry c id s
  | .close c w => Sys2Proof.Machine.execClose c w s
  | .closeNoticeArrive p => Sys2Proof.Machine.execCloseNoticeArrive p s
  | .send c w => Sys2Proof.Machine.execSend c w s
  | .sendStart c => Sys2Proof.Machine.execSendStart c s
  | .sendt c w => Sys2Proof.Machine.execSendt c w s
  | .messageArrive p => Sys2Proof.Machine.execMessageArrive p s
  | .deliveryAckArrive p => Sys2Proof.Machine.execDeliveryAckArrive p s
  | .recv c w => Sys2Proof.Machine.execRecv c w s
  | .recvTake c id => Sys2Proof.Machine.execRecvTake c id s
  | .channelCreditReturn p => Sys2Proof.Machine.execChannelCreditReturn p s
  | .mmul c w => Sys2Proof.Machine.execMmul c w s
  | .mdrain c w => Sys2Proof.Machine.execMdrain c w s
  | .columnGroupDrain c => Sys2Proof.Machine.execColumnGroupDrain c s
  | .abind c w => Sys2Proof.Machine.execAbind c w s
  | .acorr c w => Sys2Proof.Machine.execAcorr c w s
  | .adjunctGroupDone c => Sys2Proof.Machine.execAdjunctGroupDone c s
  | .vcfg c w => Sys2Proof.Machine.execVcfg c w s
  | .vadd c w => Sys2Proof.Machine.execVadd c w s
  | .vsub c w => Sys2Proof.Machine.execVsub c w s
  | .vmul c w => Sys2Proof.Machine.execVmul c w s
  | .vfma c w => Sys2Proof.Machine.execVfma c w s
  | .vmin c w => Sys2Proof.Machine.execVmin c w s
  | .vmax c w => Sys2Proof.Machine.execVmax c w s
  | .vabs c w => Sys2Proof.Machine.execVabs c w s
  | .vneg c w => Sys2Proof.Machine.execVneg c w s
  | .vcvt c w => Sys2Proof.Machine.execVcvt c w s
  | .vcmp c w => Sys2Proof.Machine.execVcmp c w s
  | .vsel c w => Sys2Proof.Machine.execVsel c w s
  | .vpoly c w => Sys2Proof.Machine.execVpoly c w s
  | .vfst c w => Sys2Proof.Machine.execVfst c w s
  | .vfclr c w => Sys2Proof.Machine.execVfclr c w s
  | .vred c w => Sys2Proof.Machine.execVred c w s
  | .vexp2 c w => Sys2Proof.Machine.execVexp2 c w s
  | .vlog2 c w => Sys2Proof.Machine.execVlog2 c w s
  | .vrcp c w => Sys2Proof.Machine.execVrcp c w s
  | .vrsqrt c w => Sys2Proof.Machine.execVrsqrt c w s
  | .vsqrt c w => Sys2Proof.Machine.execVsqrt c w s
  | .vdiv c w => Sys2Proof.Machine.execVdiv c w s
  | .vtanh c w => Sys2Proof.Machine.execVtanh c w s
  | .vsigm c w => Sys2Proof.Machine.execVsigm c w s
  | .vrng c w => Sys2Proof.Machine.execVrng c w s
  | .vtopk c w => Sys2Proof.Machine.execVtopk c w s
  | .vsample c w => Sys2Proof.Machine.execVsample c w s
  | .vectorCmdComplete c => Sys2Proof.Machine.execVectorCmdComplete c s
  | .slotAdmission c unit id => Sys2Proof.Machine.execSlotAdmission c unit id s
  | .producerDone c slot => Sys2Proof.Machine.execProducerDone c slot s
  | .countedReadDone c slot => Sys2Proof.Machine.execCountedReadDone c slot s
  | .waitTimeout c => Sys2Proof.Machine.execWaitTimeout c s
  | .commandTimeout w => Sys2Proof.Machine.execCommandTimeout w s
  | .coreStart c => Sys2Proof.Machine.execCoreStart c s
  | .start c => Sys2Proof.Machine.execStart c s
  | .holdSet c => Sys2Proof.Machine.execHoldSet c s
  | .holdClear c => Sys2Proof.Machine.execHoldClear c s
  | .imDebugWrite c off size v => Sys2Proof.Machine.execImDebugWrite c off size v s
  | .tileDescWindowWrite c off size v => Sys2Proof.Machine.execTileDescWindowWrite c off size v s
  | .slotDescWindowWrite c off size v => Sys2Proof.Machine.execSlotDescWindowWrite c off size v s
  | .flushAll c => Sys2Proof.Machine.execFlushAll c s
  | .kprobeGo c v => Sys2Proof.Machine.execKprobeGo c v s
  | .tunApertureAccess c k => Sys2Proof.Machine.execTunApertureAccess c k s
  | .cellarApertureAccess full machine k => Sys2Proof.Machine.execCellarApertureAccess full machine k s
  | .packetHop x y inPort p bitErrors => Sys2Proof.Machine.execPacketHop x y inPort p bitErrors s
  | .extOwnWrite n idx v => Sys2Proof.Machine.execExtOwnWrite n idx v s
  | .extentScrubStart n ext => Sys2Proof.Machine.execExtentScrubStart n ext s
  | .extentScrubDone n => Sys2Proof.Machine.execExtentScrubDone n s
  | .refreshBurst n tier => Sys2Proof.Machine.execRefreshBurst n tier s
  | .forcedBurst n tier => Sys2Proof.Machine.execForcedBurst n tier s
  | .refPolicyWrite n v => Sys2Proof.Machine.execRefPolicyWrite n v s
  | .beatEdge tick => Sys2Proof.Machine.execBeatEdge tick s
  | .beatEnable => Sys2Proof.Machine.execBeatEnable s
  | .beatDisable => Sys2Proof.Machine.execBeatDisable s
  | .beatStart => Sys2Proof.Machine.execBeatStart s
  | .clrFault => Sys2Proof.Machine.execClrFault s
  | .beatrefEdge tick sync => Sys2Proof.Machine.execBeatrefEdge tick sync s
  | .referenceMiss tick => Sys2Proof.Machine.execReferenceMiss tick s
  | .masterHoldover => Sys2Proof.Machine.execMasterHoldover s
  | .markerReceive port m arrival => Sys2Proof.Machine.execMarkerReceive port m arrival s
  | .beatLock => Sys2Proof.Machine.execBeatLock s
  | .lockTimeout => Sys2Proof.Machine.execLockTimeout s
  | .markerLoss => Sys2Proof.Machine.execMarkerLoss s
  | .fswGo => Sys2Proof.Machine.execFswGo s
  | .switchBeat => Sys2Proof.Machine.execSwitchBeat s
  | .vddSetWrite mv => Sys2Proof.Machine.execVddSetWrite mv s
  | .vddSettled => Sys2Proof.Machine.execVddSettled s
  | .governorTick r => Sys2Proof.Machine.execGovernorTick r s
  | .gust region newWindow => Sys2Proof.Machine.execGust region newWindow s
  | .sensorConversion readings => Sys2Proof.Machine.execSensorConversion readings s
  | .psReqStandby => Sys2Proof.Machine.execPsReqStandby s
  | .psReqIdle => Sys2Proof.Machine.execPsReqIdle s
  | .powerStateDone => Sys2Proof.Machine.execPowerStateDone s
  | .engineFreset c unit => Sys2Proof.Machine.execEngineFreset c unit s
  | .coreFreset c => Sys2Proof.Machine.execCoreFreset c s
  | .clusterFreset n => Sys2Proof.Machine.execClusterFreset n s
  | .portFreset p => Sys2Proof.Machine.execPortFreset p s
  | .streamEngineFreset => Sys2Proof.Machine.execStreamEngineFreset s
  | .vaneFreset => Sys2Proof.Machine.execVaneFreset s
  | .mgmtPortFreset => Sys2Proof.Machine.execMgmtPortFreset s
  | .kilnFreset inp => Sys2Proof.Machine.execKilnFreset inp s
  | .fresetDone t => Sys2Proof.Machine.execFresetDone t s
  | .chipResetKeepKiln key => Sys2Proof.Machine.execChipResetKeepKiln key s
  | .chipResetRestartKiln key => Sys2Proof.Machine.execChipResetRestartKiln key s
  | .chipResetDone => Sys2Proof.Machine.execChipResetDone s
  | .inputPowerApplied slotId => Sys2Proof.Machine.execInputPowerApplied slotId s
  | .inputPowerRemoved => Sys2Proof.Machine.execInputPowerRemoved s
  | .pwrEnAssert => Sys2Proof.Machine.execPwrEnAssert s
  | .pwrEnDeassert => Sys2Proof.Machine.execPwrEnDeassert s
  | .railsPowerGood => Sys2Proof.Machine.execRailsPowerGood s
  | .railFault => Sys2Proof.Machine.execRailFault s
  | .modResetAssert => Sys2Proof.Machine.execModResetAssert s
  | .internalResetRelease b => Sys2Proof.Machine.execInternalResetRelease b s
  | .refclkLoss => Sys2Proof.Machine.execRefclkLoss s
  | .wdogKick mask => Sys2Proof.Machine.execWdogKick mask s
  | .wdogFirstExpiry k => Sys2Proof.Machine.execWdogFirstExpiry k s
  | .wdogSecondExpiry k b => Sys2Proof.Machine.execWdogSecondExpiry k b s
  | .activate x => Sys2Proof.Machine.execActivate x s
  | .stop x => Sys2Proof.Machine.execStop x s
  | .clear x => Sys2Proof.Machine.execClear x s
  | .clearDone x => Sys2Proof.Machine.execClearDone x s
  | .release x => Sys2Proof.Machine.execRelease x s
  | .partitionScrubDone x => Sys2Proof.Machine.execPartitionScrubDone x s
  | .errClr page => Sys2Proof.Machine.execErrClr page s
  | .gfeClr => Sys2Proof.Machine.execGfeClr s
  | .intSet page mask => Sys2Proof.Machine.execIntSet page mask s
  | .cntValLoRead page => Sys2Proof.Machine.execCntValLoRead page s
  | .modFaultWrite v => Sys2Proof.Machine.execModFaultWrite v s
  | .modReadyWrite v => Sys2Proof.Machine.execModReadyWrite v s
  | .devIdWrite v => Sys2Proof.Machine.execDevIdWrite v s
  | .settingsWrite v => Sys2Proof.Machine.execSettingsWrite v s
  | .osOwnsWrite v => Sys2Proof.Machine.execOsOwnsWrite v s
  | .registerWrite off v => Sys2Proof.Machine.execRegisterWrite off v s
  | .trainEnWrite p v => Sys2Proof.Machine.execTrainEnWrite p v s
  | .restore p => Sys2Proof.Machine.execRestore p s
  | .restoreTrainTimeout p => Sys2Proof.Machine.execRestoreTrainTimeout p s
  | .laneTrainingDone p lanes => Sys2Proof.Machine.execLaneTrainingDone p lanes s
  | .narrowWidthTimeout p => Sys2Proof.Machine.execNarrowWidthTimeout p s
  | .trainingTimeout p => Sys2Proof.Machine.execTrainingTimeout p s
  | .alignLock p => Sys2Proof.Machine.execAlignLock p s
  | .alignTimeout p => Sys2Proof.Machine.execAlignTimeout p s
  | .delayMeasured p t1 t2 t3 t4 => Sys2Proof.Machine.execDelayMeasured p t1 t2 t3 t4 s
  | .delayRemeasure p => Sys2Proof.Machine.execDelayRemeasure p s
  | .controlCellReceive p hdr k => Sys2Proof.Machine.execControlCellReceive p hdr k s
  | .dataCellReceive p hdr pkts => Sys2Proof.Machine.execDataCellReceive p hdr pkts s
  | .badCellReceive p why => Sys2Proof.Machine.execBadCellReceive p why s
  | .creditCellReceive p unassigned n => Sys2Proof.Machine.execCreditCellReceive p unassigned n s
  | .ackReceive p lseq => Sys2Proof.Machine.execAckReceive p lseq s
  | .nakReceive p lseq offLanes => Sys2Proof.Machine.execNakReceive p lseq offLanes s
  | .idleCellReceive p => Sys2Proof.Machine.execIdleCellReceive p s
  | .cellTransmit p group room => Sys2Proof.Machine.execCellTransmit p group room s
  | .slotGroupEnd p group => Sys2Proof.Machine.execSlotGroupEnd p group s
  | .ackTimer p => Sys2Proof.Machine.execAckTimer p s
  | .nakHoldoffExpire p => Sys2Proof.Machine.execNakHoldoffExpire p s
  | .ackTimeout p offLanes => Sys2Proof.Machine.execAckTimeout p offLanes s
  | .degrade p lanes => Sys2Proof.Machine.execDegrade p lanes s
  | .degradeDone p => Sys2Proof.Machine.execDegradeDone p s
  | .lossOfSignal p lost => Sys2Proof.Machine.execLossOfSignal p lost s
  | .portDown p cause => Sys2Proof.Machine.execPortDown p cause s
  | .downHoldExpire p => Sys2Proof.Machine.execDownHoldExpire p s
  | .routeTableWrite n v => Sys2Proof.Machine.execRouteTableWrite n v s
  | .ctxEnable x => Sys2Proof.Machine.execCtxEnable x s
  | .ctxDisable x => Sys2Proof.Machine.execCtxDisable x s
  | .commandSubmit x w15 => Sys2Proof.Machine.execCommandSubmit x w15 s
  | .streamAdmit x => Sys2Proof.Machine.execStreamAdmit x s
  | .append x => Sys2Proof.Machine.execAppend x s
  | .streamClose x => Sys2Proof.Machine.execStreamClose x s
  | .adjload x => Sys2Proof.Machine.execAdjload x s
  | .adjdrop x => Sys2Proof.Machine.execAdjdrop x s
  | .cmdBad x => Sys2Proof.Machine.execCmdBad x s
  | .stepFormation x => Sys2Proof.Machine.execStepFormation x s
  | .headWrite x t => Sys2Proof.Machine.execHeadWrite x t s
  | .rflagPoll x => Sys2Proof.Machine.execRflagPoll x s
  | .stepRecordWrite x => Sys2Proof.Machine.execStepRecordWrite x s
  | .outTailWrite v => Sys2Proof.Machine.execOutTailWrite v s
  | .vaneEnable => Sys2Proof.Machine.execVaneEnable s
  | .vaneDisable => Sys2Proof.Machine.execVaneDisable s
  | .vaneReportArrive p => Sys2Proof.Machine.execVaneReportArrive p s
  | .quote nonce => Sys2Proof.Machine.execQuote nonce s
  | .cert => Sys2Proof.Machine.execCert s
  | .extend n data => Sys2Proof.Machine.execExtend n data s
  | .challenge => Sys2Proof.Machine.execChallenge s
  | .unlock key scope sig => Sys2Proof.Machine.execUnlock key scope sig s
  | .setDebug step sig => Sys2Proof.Machine.execSetDebug step sig s
  | .claimOwner hash => Sys2Proof.Machine.execClaimOwner hash s
  | .rotateOwner hash sig => Sys2Proof.Machine.execRotateOwner hash sig s
  | .rotateVendor hash sig => Sys2Proof.Machine.execRotateVendor hash sig s
  | .setSvn v => Sys2Proof.Machine.execSetSvn v s
  | .setKilnMem code sig => Sys2Proof.Machine.execSetKilnMem code sig s
  | .updateBegin header => Sys2Proof.Machine.execUpdateBegin header s
  | .updateEnd => Sys2Proof.Machine.execUpdateEnd s
  | .secCommandEnd => Sys2Proof.Machine.execSecCommandEnd s
  | .rapRead sn off => Sys2Proof.Machine.execRapRead sn off s
  | .rapWrite sn off v => Sys2Proof.Machine.execRapWrite sn off v s
  | .recoveryImageBlock sn off data last => Sys2Proof.Machine.execRecoveryImageBlock sn off data last s
  | .mgmtFrameReceive off data stamp => Sys2Proof.Machine.execMgmtFrameReceive off data stamp s
  | .mgmtFrameSent stamp => Sys2Proof.Machine.execMgmtFrameSent stamp s
  | .mgmtLinkChange up => Sys2Proof.Machine.execMgmtLinkChange up s
  | .status => Sys2Proof.Machine.execStatus s
  | .identity => Sys2Proof.Machine.execIdentity s
  | .readFru off => Sys2Proof.Machine.execReadFru off s
  | .temp => Sys2Proof.Machine.execTemp s
  | .power => Sys2Proof.Machine.execPower s
  | .firstErr => Sys2Proof.Machine.execFirstErr s
  | .clearAlert => Sys2Proof.Machine.execClearAlert s
  | .alertResponse => Sys2Proof.Machine.execAlertResponse s
  | .kilnRestart b inp => Sys2Proof.Machine.execKilnRestart b inp s
  | .nwrAdmissionArrive p => Sys2Proof.Machine.execNwrAdmissionArrive p s
  | .revokeRequestArrive p => Sys2Proof.Machine.execRevokeRequestArrive p s
  | .restoreLanesTrained p => Sys2Proof.Machine.execRestoreLanesTrained p s
  | .laneAdaptationDone p => Sys2Proof.Machine.execLaneAdaptationDone p s
  | .cellarCalibrationDone => Sys2Proof.Machine.execCellarCalibrationDone s
  | .perBootKeyCertified => Sys2Proof.Machine.execPerBootKeyCertified s
  | .railsOffTimeExpire => Sys2Proof.Machine.execRailsOffTimeExpire s

end Sys2Proof.Machine
end

