-- ==== Sys2Proof/Laws/Sparse.lean ====
section
/-! SUPPORT. The laws of the sparse maps: what a read gives after a write, and that every operation keeps the canonical form. -/

namespace Sys2Proof.Machine

variable {α : Type}

@[simp] theorem sget_nil (d : Nat → α) (k : Nat) : sget d [] k = d k := rfl

theorem sget_sdel_same (d : Nat → α) (l : List (Nat × α)) (k : Nat) : sget d (sdel l k) k = d k := by
  induction l with
  | nil => rfl
  | cons p t ih =>
    by_cases h : p.1 = k
    · simpa [sdel, h] using ih
    · simpa [sdel, h, sget] using ih

theorem sget_sdel_other (d : Nat → α) (l : List (Nat × α)) {j k : Nat} (h : j ≠ k) : sget d (sdel l k) j = sget d l j := by
  induction l with
  | nil => rfl
  | cons p t ih =>
    have e : sget d t j = sget d (sdel t k) j := ih.symm
    by_cases hp : p.1 = k
    · have hj : p.1 ≠ j := fun x => h (x ▸ hp)
      simp [sdel, hp, sget, e, h.symm]
    · by_cases hj : p.1 = j <;> simp [sdel, hp, sget, hj, e, h]

theorem sget_sput_same (d : Nat → α) (l : List (Nat × α)) (k : Nat) (v : α) : sget d (sput l k v) k = v := by
  induction l with
  | nil => simp [sput, sget]
  | cons p t ih =>
    unfold sput
    split
    · simp [sget]
    · split
      · simp [sget]
      · rename_i h; simp [sget, h, ih]

theorem sget_sput_other (d : Nat → α) (l : List (Nat × α)) {j k : Nat} (v : α) (h : j ≠ k) :
    sget d (sput l k v) j = sget d l j := by
  induction l with
  | nil => simp [sput, sget, h.symm]
  | cons p t ih =>
    unfold sput
    split
    · simp [sget, h.symm]
    · split
      · rename_i h1 h2; simp [sget, h.symm, h2]
      · simp [sget, ih]

/-- A read of the key written gives the value written. -/
@[simp] theorem sget_sset_same [DecidableEq α] (d : Nat → α) (l : List (Nat × α)) (k : Nat) (v : α) :
    sget d (sset d l k v) k = v := by
  unfold sset
  split
  · rename_i h; rw [sget_sdel_same, h]
  · exact sget_sput_same d l k v

/-- A write leaves every other key as it reads. -/
theorem sget_sset_other [DecidableEq α] (d : Nat → α) (l : List (Nat × α)) {j k : Nat} (v : α) (h : j ≠ k) :
    sget d (sset d l k v) j = sget d l j := by
  unfold sset
  split
  · exact sget_sdel_other d l h
  · exact sget_sput_other d l v h

theorem sget_sclear_in (d : Nat → α) (l : List (Nat × α)) {lo n k : Nat} (h : lo ≤ k ∧ k < lo + n) :
    sget d (sclear l lo n) k = d k := by
  induction l with
  | nil => rfl
  | cons p t ih =>
    by_cases hp : lo ≤ p.1 ∧ p.1 < lo + n
    · simpa [sclear, hp] using ih
    · have hk : p.1 ≠ k := fun e => hp (e ▸ h)
      have hb : (!(decide (lo ≤ p.1) && decide (p.1 < lo + n))) = true := by
        simp only [Bool.not_eq_true', Bool.and_eq_false_iff, decide_eq_false_iff_not]
        omega
      simp only [sclear, List.filter_cons, hb, if_true, sget, hk, if_false]
      exact ih

theorem sget_sclear_out (d : Nat → α) (l : List (Nat × α)) {lo n k : Nat} (h : ¬(lo ≤ k ∧ k < lo + n)) :
    sget d (sclear l lo n) k = sget d l k := by
  induction l with
  | nil => rfl
  | cons p t ih =>
    by_cases hp : lo ≤ p.1 ∧ p.1 < lo + n
    · have hk : p.1 ≠ k := fun e => h (e ▸ hp)
      have hb : (!(decide (lo ≤ p.1) && decide (p.1 < lo + n))) = false := by simp [hp]
      simp only [sclear, List.filter_cons, hb, sget, hk, if_false]
      exact ih
    · have hb : (!(decide (lo ≤ p.1) && decide (p.1 < lo + n))) = true := by
        simp only [Bool.not_eq_true', Bool.and_eq_false_iff, decide_eq_false_iff_not]
        omega
      simp only [sclear, List.filter_cons, hb, if_true, sget]
      split
      · rfl
      · exact ih

theorem sabove_filter (l : List (Nat × α)) (p : Nat × α → Bool) (b : Nat) (h : sabove b l = true) :
    sabove b (l.filter p) = true := by
  unfold sabove at *
  rw [List.all_eq_true] at *
  exact fun x hx => h x (List.mem_of_mem_filter hx)

theorem sabove_sput (l : List (Nat × α)) (k : Nat) (v : α) (b : Nat) (h : sabove b l = true) (hk : b < k) :
    sabove b (sput l k v) = true := by
  induction l with
  | nil => simp [sput, sabove, hk]
  | cons p t ih =>
    have h' : b < p.1 ∧ sabove b t = true := by simpa [sabove] using h
    unfold sput
    split
    · simpa [sabove, hk] using h
    · split
      · simpa [sabove, hk] using h'.2
      · simpa [sabove, h'.1] using ih h'.2

theorem sabove_mono (l : List (Nat × α)) {a b : Nat} (hab : a ≤ b) (h : sabove b l = true) : sabove a l = true := by
  unfold sabove at *
  rw [List.all_eq_true] at *
  intro x hx
  have := h x hx
  simp only [decide_eq_true_eq] at *
  omega

section Canon

variable [DecidableEq α] (d : Nat → α)

theorem canon_cons (k : Nat) (v : α) (t : List (Nat × α)) :
    canon d ((k, v) :: t) = true ↔ v ≠ d k ∧ sabove k t = true ∧ canon d t = true := by
  simp [canon, and_assoc]

theorem canon_filter (l : List (Nat × α)) (p : Nat × α → Bool) (h : canon d l = true) : canon d (l.filter p) = true := by
  induction l with
  | nil => rfl
  | cons x t ih =>
    have h' := (canon_cons d x.1 x.2 t).1 h
    rw [List.filter_cons]
    split
    · exact (canon_cons d x.1 x.2 _).2 ⟨h'.1, sabove_filter t p x.1 h'.2.1, ih h'.2.2⟩
    · exact ih h'.2.2

theorem canon_sput (l : List (Nat × α)) (k : Nat) (v : α) (hv : v ≠ d k) (h : canon d l = true) :
    canon d (sput l k v) = true := by
  induction l with
  | nil => simp [sput, canon, hv, sabove]
  | cons x t ih =>
    have h' := (canon_cons d x.1 x.2 t).1 h
    unfold sput
    split
    · rename_i hk
      refine (canon_cons d _ _ _).2 ⟨hv, ?_, h⟩
      simpa [sabove, hk] using sabove_mono t (Nat.le_of_lt hk) h'.2.1
    · split
      · rename_i hk; subst hk
        exact (canon_cons d _ _ _).2 ⟨hv, h'.2.1, h'.2.2⟩
      · exact (canon_cons d _ _ _).2 ⟨h'.1, sabove_sput t k v _ h'.2.1 (by omega), ih h'.2.2⟩

/-- A write keeps the canonical form. -/
theorem canon_sset (l : List (Nat × α)) (k : Nat) (v : α) (h : canon d l = true) : canon d (sset d l k v) = true := by
  unfold sset
  split
  · exact canon_filter d l _ h
  · exact canon_sput d l k v (by assumption) h

/-- Clearing a range keeps the canonical form. -/
theorem canon_sclear (l : List (Nat × α)) (lo n : Nat) (h : canon d l = true) : canon d (sclear l lo n) = true :=
  canon_filter d l _ h

end Canon

end Sys2Proof.Machine
end

