-- ==== Sys2Proof/Laws/Regs.lean ====
section
/-! SUPPORT. The laws of registers, fields and counts: a field written reads back, and the other fields and registers stand. -/

namespace Sys2Proof.Machine

theorem getLsbD_setBf {n : Nat} (w : BitVec n) (lo len v i : Nat) :
    (setBf w lo len v).getLsbD i =
      if lo ≤ i ∧ i < lo + len then decide (i < n) && v.testBit (i - lo) else w.getLsbD i := by
  unfold setBf
  simp only [BitVec.getLsbD_or, BitVec.getLsbD_and, BitVec.getLsbD_not, BitVec.getLsbD_ofNat, ← Nat.shiftLeft_eq,
    Nat.testBit_shiftLeft, Nat.testBit_mod_two_pow, Nat.testBit_two_pow_sub_one]
  by_cases hn : i < n
  · by_cases h1 : lo ≤ i
    · by_cases h2 : i < lo + len
      · have h3 : i - lo < len := by omega
        simp [hn, h1, h2, h3]
      · have h3 : ¬ i - lo < len := by omega
        simp [hn, h1, h2, h3]
    · simp [hn, h1]
  · have : w.getLsbD i = false := BitVec.getLsbD_of_ge w i (by omega)
    simp [hn, this]

/-- A field written reads back, cut to its width. -/
theorem bf_setBf_same {n : Nat} (w : BitVec n) (lo len v : Nat) (h : lo + len ≤ n) :
    bf (setBf w lo len v) lo len = v % 2 ^ len := by
  apply Nat.eq_of_testBit_eq
  intro i
  unfold bf
  rw [Nat.testBit_mod_two_pow, BitVec.testBit_toNat, BitVec.getLsbD_extractLsb', getLsbD_setBf]
  by_cases hi : i < len
  · have : lo + i < n := by omega
    simp [hi, this]
  · simp [hi]

/-- A field written leaves a field apart from it as it was. -/
theorem bf_setBf_other {n : Nat} (w : BitVec n) (lo len v lo' len' : Nat) (h : lo' + len' ≤ lo ∨ lo + len ≤ lo') :
    bf (setBf w lo len v) lo' len' = bf w lo' len' := by
  apply Nat.eq_of_testBit_eq
  intro i
  unfold bf
  rw [BitVec.testBit_toNat, BitVec.testBit_toNat, BitVec.getLsbD_extractLsb', BitVec.getLsbD_extractLsb', getLsbD_setBf]
  by_cases hi : i < len'
  · have : ¬(lo ≤ lo' + i ∧ lo' + i < lo + len) := by omega
    simp [hi, this]
  · simp [hi]

theorem bf_lt {n : Nat} (w : BitVec n) (lo len : Nat) : bf w lo len < 2 ^ len := (w.extractLsb' lo len).isLt

@[simp] theorem Chip.reg_setReg_same (s : Chip) (k : Nat) (v : Word) : (s.setReg k v).reg k = v :=
  sget_sset_same _ _ _ _

theorem Chip.reg_setReg_other (s : Chip) {j k : Nat} (v : Word) (h : j ≠ k) : (s.setReg k v).reg j = s.reg j :=
  sget_sset_other _ _ _ h

theorem Chip.reg_setReg (s : Chip) (j k : Nat) (v : Word) : (s.setReg k v).reg j = if j = k then v else s.reg j := by
  by_cases h : j = k
  · subst h; simp
  · rw [Chip.reg_setReg_other s v h, if_neg h]

theorem Chip.reg_put_other (s : Chip) (page : Nat) (f : Fld) (v j : Nat) (h : j ≠ page + f.off) :
    (s.put page f v).reg j = s.reg j := Chip.reg_setReg_other s _ h

theorem Chip.get_put_same (s : Chip) (page : Nat) (f : Fld) (v : Nat) (h : f.lo + f.len ≤ 32) :
    (s.put page f v).get page f = v % 2 ^ f.len := by
  simp only [Chip.get, Chip.put, Chip.reg_setReg_same]
  exact bf_setBf_same _ _ _ _ h

theorem Chip.get_put_reg (s : Chip) (page page' : Nat) (f f' : Fld) (v : Nat) (h : page' + f'.off ≠ page + f.off) :
    (s.put page f v).get page' f' = s.get page' f' := by
  simp only [Chip.get, Chip.put, Chip.reg_setReg_other s _ h]

theorem Chip.get_put_apart (s : Chip) (page page' : Nat) (f f' : Fld) (v : Nat)
    (h : f'.lo + f'.len ≤ f.lo ∨ f.lo + f.len ≤ f'.lo) :
    (s.put page f v).get page' f' = s.get page' f' := by
  by_cases hr : page' + f'.off = page + f.off
  · simp only [Chip.get, Chip.put, hr, Chip.reg_setReg_same]
    exact bf_setBf_other _ _ _ _ _ _ h
  · exact Chip.get_put_reg s page page' f f' v hr

theorem Chip.get_lt (s : Chip) (page : Nat) (f : Fld) : s.get page f < 2 ^ f.len := bf_lt _ _ _

theorem Chip.get64_put64_same (s : Chip) (page off v : Nat) (h : v < 2 ^ 64) : (s.put64 page off v).get64 page off = v := by
  simp only [Chip.get64, Chip.put64, Chip.reg_setReg_same]
  rw [Chip.reg_setReg_other _ _ (by omega), Chip.reg_setReg_same]
  simp only [BitVec.toNat_ofNat]
  omega

theorem Chip.countOf_setCount_same (s : Chip) (page sel v : Nat) (h : v < 2 ^ 64) :
    (s.setCount page sel v).countOf page sel = v := by
  simp only [Chip.countOf, Chip.setCount, sget_sset_same, BitVec.toNat_ofNat]
  omega

theorem Chip.countOf_setCount_other (s : Chip) (page sel v page' sel' : Nat) (h : page' + sel' ≠ page + sel) :
    (s.setCount page sel v).countOf page' sel' = s.countOf page' sel' := by
  simp only [Chip.countOf, Chip.setCount, sget_sset_other _ _ _ h]

@[simp] theorem Chip.core_setCore_same (s : Chip) (c : Nat) (k : Core) : (s.setCore c k).core c = k := sget_sset_same _ _ _ _
theorem Chip.core_setCore_other (s : Chip) {c e : Nat} (k : Core) (h : e ≠ c) : (s.setCore c k).core e = s.core e :=
  sget_sset_other _ _ _ h
@[simp] theorem Chip.core_updCore_same (s : Chip) (c : Nat) (f : Core → Core) : (s.updCore c f).core c = f (s.core c) :=
  sget_sset_same _ _ _ _
theorem Chip.core_updCore_other (s : Chip) {c e : Nat} (f : Core → Core) (h : e ≠ c) : (s.updCore c f).core e = s.core e :=
  sget_sset_other _ _ _ h
@[simp] theorem Chip.slot_setSlot_same (s : Chip) (c n : Nat) (v : Slot) : (s.setSlot c n v).slot c n = v := sget_sset_same _ _ _ _
@[simp] theorem Chip.desc_setDesc_same (s : Chip) (c n : Nat) (v : IWord) : (s.setDesc c n v).desc c n = v := sget_sset_same _ _ _ _
@[simp] theorem Chip.chan_setChan_same (s : Chip) (c n : Nat) (v : ChanEnd) : (s.setChan c n v).chan c n = v := sget_sset_same _ _ _ _
@[simp] theorem Chip.rq_setRq_same (s : Chip) (c n : Nat) (v : List QEntry) : (s.setRq c n v).rq c n = v := sget_sset_same _ _ _ _
@[simp] theorem Chip.port_setPort_same (s : Chip) (p : Nat) (v : Port) : (s.setPort p v).port p = v := sget_sset_same _ _ _ _
theorem Chip.port_setPort_other (s : Chip) {p q : Nat} (v : Port) (h : q ≠ p) : (s.setPort p v).port q = s.port q :=
  sget_sset_other _ _ _ h
@[simp] theorem Chip.seCtx_setSeCtx_same (s : Chip) (x : Nat) (v : SeCtx) : (s.setSeCtx x v).seCtx x = v := sget_sset_same _ _ _ _
@[simp] theorem Core.queue_setQueue_same (k : Core) (u : Nat) (l : List Cmd) : (k.setQueue u l).queue u = l := sget_sset_same _ _ _ _
@[simp] theorem Core.running_setRunning_same (k : Core) (u : Nat) (l : List Cmd) : (k.setRunning u l).running u = l :=
  sget_sset_same _ _ _ _
@[simp] theorem Core.block_setBlock_same (k : Core) (b v : Nat) : (k.setBlock b v).block b = v := sget_sset_same _ _ _ _

/-! ## Memory: the canonical form and read after write -/

@[simp] theorem Chip.byte_setByte_same (s : Chip) (a : Nat) (v : BitVec 8) : (s.setByte a v).byte a = v := sget_sset_same _ _ _ _
theorem Chip.byte_setByte_other (s : Chip) {a b : Nat} (v : BitVec 8) (h : b ≠ a) : (s.setByte a v).byte b = s.byte b :=
  sget_sset_other _ _ _ h

theorem Chip.wf_setByte (s : Chip) (a : Nat) (v : BitVec 8) (h : Memory.wf s.mem = true) : Memory.wf (s.setByte a v).mem = true :=
  canon_sset _ _ _ _ h

theorem Chip.wf_putBytes (s : Chip) (a : Nat) (l : List (BitVec 8)) (h : Memory.wf s.mem = true) :
    Memory.wf (s.putBytes a l).mem = true := by
  induction l generalizing s a with
  | nil => exact h
  | cons b t ih => exact ih _ _ (Chip.wf_setByte s a b h)

theorem Chip.wf_store (s : Chip) (a : Nat) (l : List (BitVec 8)) (h : Memory.wf s.mem = true) :
    Memory.wf (s.store a l).mem = true := Chip.wf_putBytes s a l h

theorem Chip.wf_storeTagged (s : Chip) (a : Nat) (l : List TByte) (h : Memory.wf s.mem = true) :
    Memory.wf (s.storeTagged a l).mem = true := Chip.wf_putBytes s a _ h

theorem Chip.wf_storeNum (s : Chip) (a n v : Nat) (h : Memory.wf s.mem = true) : Memory.wf (s.storeNum a n v).mem = true :=
  Chip.wf_putBytes s a _ h

theorem Chip.wf_zero (s : Chip) (a n : Nat) (h : Memory.wf s.mem = true) : Memory.wf (s.zero a n).mem = true :=
  canon_sclear _ _ _ _ h

theorem Chip.byte_putBytes_out (s : Chip) (a : Nat) (l : List (BitVec 8)) (b : Nat) (h : b < a ∨ a + l.length ≤ b) :
    (s.putBytes a l).byte b = s.byte b := by
  induction l generalizing s a with
  | nil => rfl
  | cons x t ih =>
    simp only [List.length_cons] at h
    rw [Chip.putBytes, ih _ _ (by omega), Chip.byte_setByte_other _ _ (by omega)]

theorem Chip.byte_putBytes_in (s : Chip) (a : Nat) (l : List (BitVec 8)) (i : Nat) (h : i < l.length) :
    (s.putBytes a l).byte (a + i) = l[i] := by
  induction l generalizing s a i with
  | nil => simp at h
  | cons x t ih =>
    cases i with
    | zero => rw [Chip.putBytes, Chip.byte_putBytes_out _ _ _ _ (by omega)]; simp
    | succ i =>
      have := ih (s.setByte a x) (a + 1) i (by simpa using h)
      rw [Chip.putBytes, show a + (i + 1) = a + 1 + i by omega, this]; simp

/-- A write of bytes: every byte outside the range reads as before. -/
theorem Chip.byte_store_out (s : Chip) (a : Nat) (l : List (BitVec 8)) (b : Nat) (h : b < a ∨ a + l.length ≤ b) :
    (s.store a l).byte b = s.byte b := Chip.byte_putBytes_out s a l b h

/-- A write of bytes: every byte of the range reads as written. -/
theorem Chip.byte_store_in (s : Chip) (a : Nat) (l : List (BitVec 8)) (i : Nat) (h : i < l.length) :
    (s.store a l).byte (a + i) = l[i] := Chip.byte_putBytes_in s a l i h

theorem Chip.byte_zero_in (s : Chip) (a n b : Nat) (h : a ≤ b ∧ b < a + n) : (s.zero a n).byte b = 0 :=
  sget_sclear_in _ _ h

theorem Chip.byte_zero_out (s : Chip) (a n b : Nat) (h : ¬(a ≤ b ∧ b < a + n)) : (s.zero a n).byte b = s.byte b :=
  sget_sclear_out _ _ h

end Sys2Proof.Machine
end

