-- ==== Sys2Proof/Laws/State.lean ====
section
/-! SUPPORT. One simp lemma per named update of the device and field it leaves: what each setter changes and nothing else. -/

namespace Sys2Proof.Machine

variable (s : Chip)

@[simp] theorem Chip.setReg_frame (k : Nat) (v : Word) :
    (s.setReg k v).ident = s.ident ∧ (s.setReg k v).counts = s.counts ∧ (s.setReg k v).mem = s.mem ∧
    (s.setReg k v).poison = s.poison ∧ (s.setReg k v).errs = s.errs ∧ (s.setReg k v).cores = s.cores ∧
    (s.setReg k v).slots = s.slots ∧ (s.setReg k v).descs = s.descs ∧ (s.setReg k v).chans = s.chans ∧
    (s.setReg k v).rqs = s.rqs ∧ (s.setReg k v).net = s.net ∧ (s.setReg k v).vaneTab = s.vaneTab ∧
    (s.setReg k v).vaneCnt = s.vaneCnt ∧ (s.setReg k v).vaneOpen = s.vaneOpen ∧ (s.setReg k v).vaneLost = s.vaneLost ∧
    (s.setReg k v).edges = s.edges ∧ (s.setReg k v).waitNo = s.waitNo ∧ (s.setReg k v).fresh = s.fresh ∧
    (s.setReg k v).beatU = s.beatU ∧ (s.setReg k v).pow = s.pow ∧ (s.setReg k v).ports = s.ports ∧
    (s.setReg k v).se = s.se ∧ (s.setReg k v).sec = s.sec ∧ (s.setReg k v).board = s.board ∧
    (s.setReg k v).resets = s.resets ∧ (s.setReg k v).clearing = s.clearing ∧ (s.setReg k v).scrubQ = s.scrubQ ∧
    (s.setReg k v).bursts = s.bursts ∧ (s.setReg k v).postponed = s.postponed ∧ (s.setReg k v).wdogHit = s.wdogHit ∧ (s.setReg k v).latch = s.latch ∧
    (s.setReg k v).resp = s.resp ∧
    (s.setReg k v).routers = s.routers ∧ (s.setReg k v).turn = s.turn ∧ (s.setReg k v).vaneHigh = s.vaneHigh := by
  refine ⟨rfl, rfl, rfl, rfl, rfl, rfl, rfl, rfl, rfl, rfl, rfl, rfl, rfl, rfl, rfl, rfl, rfl, rfl, rfl, rfl, rfl, rfl, rfl, rfl, rfl, rfl, rfl, rfl, rfl, rfl, rfl, rfl, rfl, rfl, rfl⟩

@[simp] theorem Chip.put_frame (p : Nat) (f : Fld) (v : Nat) :
    (s.put p f v).ident = s.ident ∧ (s.put p f v).counts = s.counts ∧ (s.put p f v).mem = s.mem ∧
    (s.put p f v).poison = s.poison ∧ (s.put p f v).errs = s.errs ∧ (s.put p f v).cores = s.cores ∧
    (s.put p f v).slots = s.slots ∧ (s.put p f v).descs = s.descs ∧ (s.put p f v).chans = s.chans ∧
    (s.put p f v).rqs = s.rqs ∧ (s.put p f v).net = s.net ∧ (s.put p f v).vaneTab = s.vaneTab ∧
    (s.put p f v).vaneCnt = s.vaneCnt ∧ (s.put p f v).vaneOpen = s.vaneOpen ∧ (s.put p f v).vaneLost = s.vaneLost ∧
    (s.put p f v).edges = s.edges ∧ (s.put p f v).waitNo = s.waitNo ∧ (s.put p f v).fresh = s.fresh ∧
    (s.put p f v).beatU = s.beatU ∧ (s.put p f v).pow = s.pow ∧ (s.put p f v).ports = s.ports ∧ (s.put p f v).se = s.se ∧
    (s.put p f v).sec = s.sec ∧ (s.put p f v).board = s.board ∧ (s.put p f v).resets = s.resets ∧
    (s.put p f v).clearing = s.clearing ∧ (s.put p f v).scrubQ = s.scrubQ ∧ (s.put p f v).bursts = s.bursts ∧ (s.put p f v).postponed = s.postponed ∧
    (s.put p f v).wdogHit = s.wdogHit ∧ (s.put p f v).latch = s.latch ∧ (s.put p f v).resp = s.resp ∧
    (s.put p f v).routers = s.routers ∧ (s.put p f v).turn = s.turn ∧ (s.put p f v).vaneHigh = s.vaneHigh := by
  refine ⟨rfl, rfl, rfl, rfl, rfl, rfl, rfl, rfl, rfl, rfl, rfl, rfl, rfl, rfl, rfl, rfl, rfl, rfl, rfl, rfl, rfl, rfl, rfl, rfl, rfl, rfl, rfl, rfl, rfl, rfl, rfl, rfl, rfl, rfl, rfl⟩

@[simp] theorem Chip.inc_frame (p : Nat) (f : Fld) (n : Nat) :
    (s.inc p f n).ident = s.ident ∧ (s.inc p f n).counts = s.counts ∧ (s.inc p f n).mem = s.mem ∧
    (s.inc p f n).poison = s.poison ∧ (s.inc p f n).errs = s.errs ∧ (s.inc p f n).cores = s.cores ∧
    (s.inc p f n).slots = s.slots ∧ (s.inc p f n).descs = s.descs ∧ (s.inc p f n).chans = s.chans ∧
    (s.inc p f n).rqs = s.rqs ∧ (s.inc p f n).net = s.net ∧ (s.inc p f n).vaneTab = s.vaneTab ∧
    (s.inc p f n).vaneCnt = s.vaneCnt ∧ (s.inc p f n).vaneOpen = s.vaneOpen ∧ (s.inc p f n).vaneLost = s.vaneLost ∧
    (s.inc p f n).edges = s.edges ∧ (s.inc p f n).waitNo = s.waitNo ∧ (s.inc p f n).fresh = s.fresh ∧
    (s.inc p f n).beatU = s.beatU ∧ (s.inc p f n).pow = s.pow ∧ (s.inc p f n).ports = s.ports ∧ (s.inc p f n).se = s.se ∧
    (s.inc p f n).sec = s.sec ∧ (s.inc p f n).board = s.board ∧ (s.inc p f n).resets = s.resets ∧
    (s.inc p f n).clearing = s.clearing ∧ (s.inc p f n).scrubQ = s.scrubQ ∧ (s.inc p f n).bursts = s.bursts ∧ (s.inc p f n).postponed = s.postponed ∧
    (s.inc p f n).wdogHit = s.wdogHit ∧ (s.inc p f n).latch = s.latch ∧ (s.inc p f n).resp = s.resp ∧
    (s.inc p f n).routers = s.routers ∧ (s.inc p f n).turn = s.turn ∧ (s.inc p f n).vaneHigh = s.vaneHigh := by
  refine ⟨rfl, rfl, rfl, rfl, rfl, rfl, rfl, rfl, rfl, rfl, rfl, rfl, rfl, rfl, rfl, rfl, rfl, rfl, rfl, rfl, rfl, rfl, rfl, rfl, rfl, rfl, rfl, rfl, rfl, rfl, rfl, rfl, rfl, rfl, rfl⟩

@[simp] theorem Chip.put64_frame (p o v : Nat) :
    (s.put64 p o v).ident = s.ident ∧ (s.put64 p o v).counts = s.counts ∧ (s.put64 p o v).mem = s.mem ∧
    (s.put64 p o v).poison = s.poison ∧ (s.put64 p o v).errs = s.errs ∧ (s.put64 p o v).cores = s.cores ∧
    (s.put64 p o v).slots = s.slots ∧ (s.put64 p o v).descs = s.descs ∧ (s.put64 p o v).chans = s.chans ∧
    (s.put64 p o v).rqs = s.rqs ∧ (s.put64 p o v).net = s.net ∧ (s.put64 p o v).vaneTab = s.vaneTab ∧
    (s.put64 p o v).vaneCnt = s.vaneCnt ∧ (s.put64 p o v).vaneOpen = s.vaneOpen ∧ (s.put64 p o v).vaneLost = s.vaneLost ∧
    (s.put64 p o v).edges = s.edges ∧ (s.put64 p o v).waitNo = s.waitNo ∧ (s.put64 p o v).fresh = s.fresh ∧
    (s.put64 p o v).beatU = s.beatU ∧ (s.put64 p o v).pow = s.pow ∧ (s.put64 p o v).ports = s.ports ∧
    (s.put64 p o v).se = s.se ∧ (s.put64 p o v).sec = s.sec ∧ (s.put64 p o v).board = s.board ∧
    (s.put64 p o v).resets = s.resets ∧ (s.put64 p o v).clearing = s.clearing ∧ (s.put64 p o v).scrubQ = s.scrubQ ∧
    (s.put64 p o v).bursts = s.bursts ∧ (s.put64 p o v).postponed = s.postponed ∧ (s.put64 p o v).wdogHit = s.wdogHit ∧ (s.put64 p o v).latch = s.latch ∧
    (s.put64 p o v).resp = s.resp ∧
    (s.put64 p o v).routers = s.routers ∧ (s.put64 p o v).turn = s.turn ∧ (s.put64 p o v).vaneHigh = s.vaneHigh := by
  refine ⟨rfl, rfl, rfl, rfl, rfl, rfl, rfl, rfl, rfl, rfl, rfl, rfl, rfl, rfl, rfl, rfl, rfl, rfl, rfl, rfl, rfl, rfl, rfl, rfl, rfl, rfl, rfl, rfl, rfl, rfl, rfl, rfl, rfl, rfl, rfl⟩

@[simp] theorem Chip.raise_frame (p b : Nat) :
    (s.raise p b).ident = s.ident ∧ (s.raise p b).counts = s.counts ∧ (s.raise p b).mem = s.mem ∧
    (s.raise p b).poison = s.poison ∧ (s.raise p b).errs = s.errs ∧ (s.raise p b).cores = s.cores ∧
    (s.raise p b).slots = s.slots ∧ (s.raise p b).descs = s.descs ∧ (s.raise p b).chans = s.chans ∧
    (s.raise p b).rqs = s.rqs ∧ (s.raise p b).net = s.net ∧ (s.raise p b).vaneTab = s.vaneTab ∧
    (s.raise p b).vaneCnt = s.vaneCnt ∧ (s.raise p b).vaneOpen = s.vaneOpen ∧ (s.raise p b).vaneLost = s.vaneLost ∧
    (s.raise p b).edges = s.edges ∧ (s.raise p b).waitNo = s.waitNo ∧ (s.raise p b).fresh = s.fresh ∧
    (s.raise p b).beatU = s.beatU ∧ (s.raise p b).pow = s.pow ∧ (s.raise p b).ports = s.ports ∧ (s.raise p b).se = s.se ∧
    (s.raise p b).sec = s.sec ∧ (s.raise p b).board = s.board ∧ (s.raise p b).resets = s.resets ∧
    (s.raise p b).clearing = s.clearing ∧ (s.raise p b).scrubQ = s.scrubQ ∧ (s.raise p b).bursts = s.bursts ∧ (s.raise p b).postponed = s.postponed ∧
    (s.raise p b).wdogHit = s.wdogHit ∧ (s.raise p b).latch = s.latch ∧ (s.raise p b).resp = s.resp ∧
    (s.raise p b).routers = s.routers ∧ (s.raise p b).turn = s.turn ∧ (s.raise p b).vaneHigh = s.vaneHigh := by
  refine ⟨rfl, rfl, rfl, rfl, rfl, rfl, rfl, rfl, rfl, rfl, rfl, rfl, rfl, rfl, rfl, rfl, rfl, rfl, rfl, rfl, rfl, rfl, rfl, rfl, rfl, rfl, rfl, rfl, rfl, rfl, rfl, rfl, rfl, rfl, rfl⟩

@[simp] theorem Chip.setCount_frame (p q v : Nat) :
    (s.setCount p q v).ident = s.ident ∧ (s.setCount p q v).regs = s.regs ∧ (s.setCount p q v).mem = s.mem ∧
    (s.setCount p q v).poison = s.poison ∧ (s.setCount p q v).errs = s.errs ∧ (s.setCount p q v).cores = s.cores ∧
    (s.setCount p q v).slots = s.slots ∧ (s.setCount p q v).descs = s.descs ∧ (s.setCount p q v).chans = s.chans ∧
    (s.setCount p q v).rqs = s.rqs ∧ (s.setCount p q v).net = s.net ∧ (s.setCount p q v).vaneTab = s.vaneTab ∧
    (s.setCount p q v).vaneCnt = s.vaneCnt ∧ (s.setCount p q v).vaneOpen = s.vaneOpen ∧
    (s.setCount p q v).vaneLost = s.vaneLost ∧ (s.setCount p q v).edges = s.edges ∧ (s.setCount p q v).waitNo = s.waitNo ∧
    (s.setCount p q v).fresh = s.fresh ∧ (s.setCount p q v).beatU = s.beatU ∧ (s.setCount p q v).pow = s.pow ∧
    (s.setCount p q v).ports = s.ports ∧ (s.setCount p q v).se = s.se ∧ (s.setCount p q v).sec = s.sec ∧
    (s.setCount p q v).board = s.board ∧ (s.setCount p q v).resets = s.resets ∧ (s.setCount p q v).clearing = s.clearing ∧
    (s.setCount p q v).scrubQ = s.scrubQ ∧ (s.setCount p q v).bursts = s.bursts ∧ (s.setCount p q v).postponed = s.postponed ∧ (s.setCount p q v).wdogHit = s.wdogHit ∧
    (s.setCount p q v).latch = s.latch ∧ (s.setCount p q v).resp = s.resp ∧
    (s.setCount p q v).routers = s.routers ∧ (s.setCount p q v).turn = s.turn ∧ (s.setCount p q v).vaneHigh = s.vaneHigh := by
  refine ⟨rfl, rfl, rfl, rfl, rfl, rfl, rfl, rfl, rfl, rfl, rfl, rfl, rfl, rfl, rfl, rfl, rfl, rfl, rfl, rfl, rfl, rfl, rfl, rfl, rfl, rfl, rfl, rfl, rfl, rfl, rfl, rfl, rfl, rfl, rfl⟩

@[simp] theorem Chip.count_frame (p q v : Nat) :
    (s.count p q v).ident = s.ident ∧ (s.count p q v).regs = s.regs ∧ (s.count p q v).mem = s.mem ∧
    (s.count p q v).poison = s.poison ∧ (s.count p q v).errs = s.errs ∧ (s.count p q v).cores = s.cores ∧
    (s.count p q v).slots = s.slots ∧ (s.count p q v).descs = s.descs ∧ (s.count p q v).chans = s.chans ∧
    (s.count p q v).rqs = s.rqs ∧ (s.count p q v).net = s.net ∧ (s.count p q v).vaneTab = s.vaneTab ∧
    (s.count p q v).vaneCnt = s.vaneCnt ∧ (s.count p q v).vaneOpen = s.vaneOpen ∧ (s.count p q v).vaneLost = s.vaneLost ∧
    (s.count p q v).edges = s.edges ∧ (s.count p q v).waitNo = s.waitNo ∧ (s.count p q v).fresh = s.fresh ∧
    (s.count p q v).beatU = s.beatU ∧ (s.count p q v).pow = s.pow ∧ (s.count p q v).ports = s.ports ∧
    (s.count p q v).se = s.se ∧ (s.count p q v).sec = s.sec ∧ (s.count p q v).board = s.board ∧
    (s.count p q v).resets = s.resets ∧ (s.count p q v).clearing = s.clearing ∧ (s.count p q v).scrubQ = s.scrubQ ∧
    (s.count p q v).bursts = s.bursts ∧ (s.count p q v).postponed = s.postponed ∧ (s.count p q v).wdogHit = s.wdogHit ∧ (s.count p q v).latch = s.latch ∧
    (s.count p q v).resp = s.resp ∧
    (s.count p q v).routers = s.routers ∧ (s.count p q v).turn = s.turn ∧ (s.count p q v).vaneHigh = s.vaneHigh := by
  refine ⟨rfl, rfl, rfl, rfl, rfl, rfl, rfl, rfl, rfl, rfl, rfl, rfl, rfl, rfl, rfl, rfl, rfl, rfl, rfl, rfl, rfl, rfl, rfl, rfl, rfl, rfl, rfl, rfl, rfl, rfl, rfl, rfl, rfl, rfl, rfl⟩

@[simp] theorem Chip.peak_frame (p q v : Nat) :
    (s.peak p q v).ident = s.ident ∧ (s.peak p q v).regs = s.regs ∧ (s.peak p q v).mem = s.mem ∧
    (s.peak p q v).poison = s.poison ∧ (s.peak p q v).errs = s.errs ∧ (s.peak p q v).cores = s.cores ∧
    (s.peak p q v).slots = s.slots ∧ (s.peak p q v).descs = s.descs ∧ (s.peak p q v).chans = s.chans ∧
    (s.peak p q v).rqs = s.rqs ∧ (s.peak p q v).net = s.net ∧ (s.peak p q v).vaneTab = s.vaneTab ∧
    (s.peak p q v).vaneCnt = s.vaneCnt ∧ (s.peak p q v).vaneOpen = s.vaneOpen ∧ (s.peak p q v).vaneLost = s.vaneLost ∧
    (s.peak p q v).edges = s.edges ∧ (s.peak p q v).waitNo = s.waitNo ∧ (s.peak p q v).fresh = s.fresh ∧
    (s.peak p q v).beatU = s.beatU ∧ (s.peak p q v).pow = s.pow ∧ (s.peak p q v).ports = s.ports ∧
    (s.peak p q v).se = s.se ∧ (s.peak p q v).sec = s.sec ∧ (s.peak p q v).board = s.board ∧
    (s.peak p q v).resets = s.resets ∧ (s.peak p q v).clearing = s.clearing ∧ (s.peak p q v).scrubQ = s.scrubQ ∧
    (s.peak p q v).bursts = s.bursts ∧ (s.peak p q v).postponed = s.postponed ∧ (s.peak p q v).wdogHit = s.wdogHit ∧ (s.peak p q v).latch = s.latch ∧
    (s.peak p q v).resp = s.resp ∧
    (s.peak p q v).routers = s.routers ∧ (s.peak p q v).turn = s.turn ∧ (s.peak p q v).vaneHigh = s.vaneHigh := by
  refine ⟨rfl, rfl, rfl, rfl, rfl, rfl, rfl, rfl, rfl, rfl, rfl, rfl, rfl, rfl, rfl, rfl, rfl, rfl, rfl, rfl, rfl, rfl, rfl, rfl, rfl, rfl, rfl, rfl, rfl, rfl, rfl, rfl, rfl, rfl, rfl⟩

@[simp] theorem Chip.clearCounts_frame (p q n : Nat) :
    (s.clearCounts p q n).ident = s.ident ∧ (s.clearCounts p q n).regs = s.regs ∧ (s.clearCounts p q n).mem = s.mem ∧
    (s.clearCounts p q n).poison = s.poison ∧ (s.clearCounts p q n).errs = s.errs ∧ (s.clearCounts p q n).cores = s.cores ∧
    (s.clearCounts p q n).slots = s.slots ∧ (s.clearCounts p q n).descs = s.descs ∧ (s.clearCounts p q n).chans = s.chans ∧
    (s.clearCounts p q n).rqs = s.rqs ∧ (s.clearCounts p q n).net = s.net ∧ (s.clearCounts p q n).vaneTab = s.vaneTab ∧
    (s.clearCounts p q n).vaneCnt = s.vaneCnt ∧ (s.clearCounts p q n).vaneOpen = s.vaneOpen ∧
    (s.clearCounts p q n).vaneLost = s.vaneLost ∧ (s.clearCounts p q n).edges = s.edges ∧
    (s.clearCounts p q n).waitNo = s.waitNo ∧ (s.clearCounts p q n).fresh = s.fresh ∧
    (s.clearCounts p q n).beatU = s.beatU ∧ (s.clearCounts p q n).pow = s.pow ∧ (s.clearCounts p q n).ports = s.ports ∧
    (s.clearCounts p q n).se = s.se ∧ (s.clearCounts p q n).sec = s.sec ∧ (s.clearCounts p q n).board = s.board ∧
    (s.clearCounts p q n).resets = s.resets ∧ (s.clearCounts p q n).clearing = s.clearing ∧
    (s.clearCounts p q n).scrubQ = s.scrubQ ∧ (s.clearCounts p q n).bursts = s.bursts ∧ (s.clearCounts p q n).postponed = s.postponed ∧
    (s.clearCounts p q n).wdogHit = s.wdogHit ∧ (s.clearCounts p q n).latch = s.latch ∧ (s.clearCounts p q n).resp = s.resp ∧
    (s.clearCounts p q n).routers = s.routers ∧ (s.clearCounts p q n).turn = s.turn ∧ (s.clearCounts p q n).vaneHigh = s.vaneHigh := by
  refine ⟨rfl, rfl, rfl, rfl, rfl, rfl, rfl, rfl, rfl, rfl, rfl, rfl, rfl, rfl, rfl, rfl, rfl, rfl, rfl, rfl, rfl, rfl, rfl, rfl, rfl, rfl, rfl, rfl, rfl, rfl, rfl, rfl, rfl, rfl, rfl⟩

@[simp] theorem Chip.setCore_frame (c : Nat) (k : Core) :
    (s.setCore c k).ident = s.ident ∧ (s.setCore c k).regs = s.regs ∧ (s.setCore c k).counts = s.counts ∧
    (s.setCore c k).mem = s.mem ∧ (s.setCore c k).poison = s.poison ∧ (s.setCore c k).errs = s.errs ∧
    (s.setCore c k).slots = s.slots ∧ (s.setCore c k).descs = s.descs ∧ (s.setCore c k).chans = s.chans ∧
    (s.setCore c k).rqs = s.rqs ∧ (s.setCore c k).net = s.net ∧ (s.setCore c k).vaneTab = s.vaneTab ∧
    (s.setCore c k).vaneCnt = s.vaneCnt ∧ (s.setCore c k).vaneOpen = s.vaneOpen ∧ (s.setCore c k).vaneLost = s.vaneLost ∧
    (s.setCore c k).edges = s.edges ∧ (s.setCore c k).waitNo = s.waitNo ∧ (s.setCore c k).fresh = s.fresh ∧
    (s.setCore c k).beatU = s.beatU ∧ (s.setCore c k).pow = s.pow ∧ (s.setCore c k).ports = s.ports ∧
    (s.setCore c k).se = s.se ∧ (s.setCore c k).sec = s.sec ∧ (s.setCore c k).board = s.board ∧
    (s.setCore c k).resets = s.resets ∧ (s.setCore c k).clearing = s.clearing ∧ (s.setCore c k).scrubQ = s.scrubQ ∧
    (s.setCore c k).bursts = s.bursts ∧ (s.setCore c k).postponed = s.postponed ∧ (s.setCore c k).wdogHit = s.wdogHit ∧ (s.setCore c k).latch = s.latch ∧
    (s.setCore c k).resp = s.resp ∧
    (s.setCore c k).routers = s.routers ∧ (s.setCore c k).turn = s.turn ∧ (s.setCore c k).vaneHigh = s.vaneHigh := by
  refine ⟨rfl, rfl, rfl, rfl, rfl, rfl, rfl, rfl, rfl, rfl, rfl, rfl, rfl, rfl, rfl, rfl, rfl, rfl, rfl, rfl, rfl, rfl, rfl, rfl, rfl, rfl, rfl, rfl, rfl, rfl, rfl, rfl, rfl, rfl, rfl⟩

@[simp] theorem Chip.updCore_frame (c : Nat) (f : Core → Core) :
    (s.updCore c f).ident = s.ident ∧ (s.updCore c f).regs = s.regs ∧ (s.updCore c f).counts = s.counts ∧
    (s.updCore c f).mem = s.mem ∧ (s.updCore c f).poison = s.poison ∧ (s.updCore c f).errs = s.errs ∧
    (s.updCore c f).slots = s.slots ∧ (s.updCore c f).descs = s.descs ∧ (s.updCore c f).chans = s.chans ∧
    (s.updCore c f).rqs = s.rqs ∧ (s.updCore c f).net = s.net ∧ (s.updCore c f).vaneTab = s.vaneTab ∧
    (s.updCore c f).vaneCnt = s.vaneCnt ∧ (s.updCore c f).vaneOpen = s.vaneOpen ∧ (s.updCore c f).vaneLost = s.vaneLost ∧
    (s.updCore c f).edges = s.edges ∧ (s.updCore c f).waitNo = s.waitNo ∧ (s.updCore c f).fresh = s.fresh ∧
    (s.updCore c f).beatU = s.beatU ∧ (s.updCore c f).pow = s.pow ∧ (s.updCore c f).ports = s.ports ∧
    (s.updCore c f).se = s.se ∧ (s.updCore c f).sec = s.sec ∧ (s.updCore c f).board = s.board ∧
    (s.updCore c f).resets = s.resets ∧ (s.updCore c f).clearing = s.clearing ∧ (s.updCore c f).scrubQ = s.scrubQ ∧
    (s.updCore c f).bursts = s.bursts ∧ (s.updCore c f).postponed = s.postponed ∧ (s.updCore c f).wdogHit = s.wdogHit ∧ (s.updCore c f).latch = s.latch ∧
    (s.updCore c f).resp = s.resp ∧
    (s.updCore c f).routers = s.routers ∧ (s.updCore c f).turn = s.turn ∧ (s.updCore c f).vaneHigh = s.vaneHigh := by
  refine ⟨rfl, rfl, rfl, rfl, rfl, rfl, rfl, rfl, rfl, rfl, rfl, rfl, rfl, rfl, rfl, rfl, rfl, rfl, rfl, rfl, rfl, rfl, rfl, rfl, rfl, rfl, rfl, rfl, rfl, rfl, rfl, rfl, rfl, rfl, rfl⟩

@[simp] theorem Chip.setSlot_frame (c n : Nat) (v : Slot) :
    (s.setSlot c n v).ident = s.ident ∧ (s.setSlot c n v).regs = s.regs ∧ (s.setSlot c n v).counts = s.counts ∧
    (s.setSlot c n v).mem = s.mem ∧ (s.setSlot c n v).poison = s.poison ∧ (s.setSlot c n v).errs = s.errs ∧
    (s.setSlot c n v).cores = s.cores ∧ (s.setSlot c n v).descs = s.descs ∧ (s.setSlot c n v).chans = s.chans ∧
    (s.setSlot c n v).rqs = s.rqs ∧ (s.setSlot c n v).net = s.net ∧ (s.setSlot c n v).vaneTab = s.vaneTab ∧
    (s.setSlot c n v).vaneCnt = s.vaneCnt ∧ (s.setSlot c n v).vaneOpen = s.vaneOpen ∧
    (s.setSlot c n v).vaneLost = s.vaneLost ∧ (s.setSlot c n v).edges = s.edges ∧ (s.setSlot c n v).waitNo = s.waitNo ∧
    (s.setSlot c n v).fresh = s.fresh ∧ (s.setSlot c n v).beatU = s.beatU ∧ (s.setSlot c n v).pow = s.pow ∧
    (s.setSlot c n v).ports = s.ports ∧ (s.setSlot c n v).se = s.se ∧ (s.setSlot c n v).sec = s.sec ∧
    (s.setSlot c n v).board = s.board ∧ (s.setSlot c n v).resets = s.resets ∧ (s.setSlot c n v).clearing = s.clearing ∧
    (s.setSlot c n v).scrubQ = s.scrubQ ∧ (s.setSlot c n v).bursts = s.bursts ∧ (s.setSlot c n v).postponed = s.postponed ∧ (s.setSlot c n v).wdogHit = s.wdogHit ∧
    (s.setSlot c n v).latch = s.latch ∧ (s.setSlot c n v).resp = s.resp ∧
    (s.setSlot c n v).routers = s.routers ∧ (s.setSlot c n v).turn = s.turn ∧ (s.setSlot c n v).vaneHigh = s.vaneHigh := by
  refine ⟨rfl, rfl, rfl, rfl, rfl, rfl, rfl, rfl, rfl, rfl, rfl, rfl, rfl, rfl, rfl, rfl, rfl, rfl, rfl, rfl, rfl, rfl, rfl, rfl, rfl, rfl, rfl, rfl, rfl, rfl, rfl, rfl, rfl, rfl, rfl⟩

@[simp] theorem Chip.setDesc_frame (c n : Nat) (v : IWord) :
    (s.setDesc c n v).ident = s.ident ∧ (s.setDesc c n v).regs = s.regs ∧ (s.setDesc c n v).counts = s.counts ∧
    (s.setDesc c n v).mem = s.mem ∧ (s.setDesc c n v).poison = s.poison ∧ (s.setDesc c n v).errs = s.errs ∧
    (s.setDesc c n v).cores = s.cores ∧ (s.setDesc c n v).slots = s.slots ∧ (s.setDesc c n v).chans = s.chans ∧
    (s.setDesc c n v).rqs = s.rqs ∧ (s.setDesc c n v).net = s.net ∧ (s.setDesc c n v).vaneTab = s.vaneTab ∧
    (s.setDesc c n v).vaneCnt = s.vaneCnt ∧ (s.setDesc c n v).vaneOpen = s.vaneOpen ∧
    (s.setDesc c n v).vaneLost = s.vaneLost ∧ (s.setDesc c n v).edges = s.edges ∧ (s.setDesc c n v).waitNo = s.waitNo ∧
    (s.setDesc c n v).fresh = s.fresh ∧ (s.setDesc c n v).beatU = s.beatU ∧ (s.setDesc c n v).pow = s.pow ∧
    (s.setDesc c n v).ports = s.ports ∧ (s.setDesc c n v).se = s.se ∧ (s.setDesc c n v).sec = s.sec ∧
    (s.setDesc c n v).board = s.board ∧ (s.setDesc c n v).resets = s.resets ∧ (s.setDesc c n v).clearing = s.clearing ∧
    (s.setDesc c n v).scrubQ = s.scrubQ ∧ (s.setDesc c n v).bursts = s.bursts ∧ (s.setDesc c n v).postponed = s.postponed ∧ (s.setDesc c n v).wdogHit = s.wdogHit ∧
    (s.setDesc c n v).latch = s.latch ∧ (s.setDesc c n v).resp = s.resp ∧
    (s.setDesc c n v).routers = s.routers ∧ (s.setDesc c n v).turn = s.turn ∧ (s.setDesc c n v).vaneHigh = s.vaneHigh := by
  refine ⟨rfl, rfl, rfl, rfl, rfl, rfl, rfl, rfl, rfl, rfl, rfl, rfl, rfl, rfl, rfl, rfl, rfl, rfl, rfl, rfl, rfl, rfl, rfl, rfl, rfl, rfl, rfl, rfl, rfl, rfl, rfl, rfl, rfl, rfl, rfl⟩

@[simp] theorem Chip.setChan_frame (c n : Nat) (v : ChanEnd) :
    (s.setChan c n v).ident = s.ident ∧ (s.setChan c n v).regs = s.regs ∧ (s.setChan c n v).counts = s.counts ∧
    (s.setChan c n v).mem = s.mem ∧ (s.setChan c n v).poison = s.poison ∧ (s.setChan c n v).errs = s.errs ∧
    (s.setChan c n v).cores = s.cores ∧ (s.setChan c n v).slots = s.slots ∧ (s.setChan c n v).descs = s.descs ∧
    (s.setChan c n v).rqs = s.rqs ∧ (s.setChan c n v).net = s.net ∧ (s.setChan c n v).vaneTab = s.vaneTab ∧
    (s.setChan c n v).vaneCnt = s.vaneCnt ∧ (s.setChan c n v).vaneOpen = s.vaneOpen ∧
    (s.setChan c n v).vaneLost = s.vaneLost ∧ (s.setChan c n v).edges = s.edges ∧ (s.setChan c n v).waitNo = s.waitNo ∧
    (s.setChan c n v).fresh = s.fresh ∧ (s.setChan c n v).beatU = s.beatU ∧ (s.setChan c n v).pow = s.pow ∧
    (s.setChan c n v).ports = s.ports ∧ (s.setChan c n v).se = s.se ∧ (s.setChan c n v).sec = s.sec ∧
    (s.setChan c n v).board = s.board ∧ (s.setChan c n v).resets = s.resets ∧ (s.setChan c n v).clearing = s.clearing ∧
    (s.setChan c n v).scrubQ = s.scrubQ ∧ (s.setChan c n v).bursts = s.bursts ∧ (s.setChan c n v).postponed = s.postponed ∧ (s.setChan c n v).wdogHit = s.wdogHit ∧
    (s.setChan c n v).latch = s.latch ∧ (s.setChan c n v).resp = s.resp ∧
    (s.setChan c n v).routers = s.routers ∧ (s.setChan c n v).turn = s.turn ∧ (s.setChan c n v).vaneHigh = s.vaneHigh := by
  refine ⟨rfl, rfl, rfl, rfl, rfl, rfl, rfl, rfl, rfl, rfl, rfl, rfl, rfl, rfl, rfl, rfl, rfl, rfl, rfl, rfl, rfl, rfl, rfl, rfl, rfl, rfl, rfl, rfl, rfl, rfl, rfl, rfl, rfl, rfl, rfl⟩

@[simp] theorem Chip.setRq_frame (c n : Nat) (v : List QEntry) :
    (s.setRq c n v).ident = s.ident ∧ (s.setRq c n v).regs = s.regs ∧ (s.setRq c n v).counts = s.counts ∧
    (s.setRq c n v).mem = s.mem ∧ (s.setRq c n v).poison = s.poison ∧ (s.setRq c n v).errs = s.errs ∧
    (s.setRq c n v).cores = s.cores ∧ (s.setRq c n v).slots = s.slots ∧ (s.setRq c n v).descs = s.descs ∧
    (s.setRq c n v).chans = s.chans ∧ (s.setRq c n v).net = s.net ∧ (s.setRq c n v).vaneTab = s.vaneTab ∧
    (s.setRq c n v).vaneCnt = s.vaneCnt ∧ (s.setRq c n v).vaneOpen = s.vaneOpen ∧ (s.setRq c n v).vaneLost = s.vaneLost ∧
    (s.setRq c n v).edges = s.edges ∧ (s.setRq c n v).waitNo = s.waitNo ∧ (s.setRq c n v).fresh = s.fresh ∧
    (s.setRq c n v).beatU = s.beatU ∧ (s.setRq c n v).pow = s.pow ∧ (s.setRq c n v).ports = s.ports ∧
    (s.setRq c n v).se = s.se ∧ (s.setRq c n v).sec = s.sec ∧ (s.setRq c n v).board = s.board ∧
    (s.setRq c n v).resets = s.resets ∧ (s.setRq c n v).clearing = s.clearing ∧ (s.setRq c n v).scrubQ = s.scrubQ ∧
    (s.setRq c n v).bursts = s.bursts ∧ (s.setRq c n v).postponed = s.postponed ∧ (s.setRq c n v).wdogHit = s.wdogHit ∧ (s.setRq c n v).latch = s.latch ∧
    (s.setRq c n v).resp = s.resp ∧
    (s.setRq c n v).routers = s.routers ∧ (s.setRq c n v).turn = s.turn ∧ (s.setRq c n v).vaneHigh = s.vaneHigh := by
  refine ⟨rfl, rfl, rfl, rfl, rfl, rfl, rfl, rfl, rfl, rfl, rfl, rfl, rfl, rfl, rfl, rfl, rfl, rfl, rfl, rfl, rfl, rfl, rfl, rfl, rfl, rfl, rfl, rfl, rfl, rfl, rfl, rfl, rfl, rfl, rfl⟩

@[simp] theorem Chip.setPort_frame (p : Nat) (v : Port) :
    (s.setPort p v).ident = s.ident ∧ (s.setPort p v).regs = s.regs ∧ (s.setPort p v).counts = s.counts ∧
    (s.setPort p v).mem = s.mem ∧ (s.setPort p v).poison = s.poison ∧ (s.setPort p v).errs = s.errs ∧
    (s.setPort p v).cores = s.cores ∧ (s.setPort p v).slots = s.slots ∧ (s.setPort p v).descs = s.descs ∧
    (s.setPort p v).chans = s.chans ∧ (s.setPort p v).rqs = s.rqs ∧ (s.setPort p v).net = s.net ∧
    (s.setPort p v).vaneTab = s.vaneTab ∧ (s.setPort p v).vaneCnt = s.vaneCnt ∧ (s.setPort p v).vaneOpen = s.vaneOpen ∧
    (s.setPort p v).vaneLost = s.vaneLost ∧ (s.setPort p v).edges = s.edges ∧ (s.setPort p v).waitNo = s.waitNo ∧
    (s.setPort p v).fresh = s.fresh ∧ (s.setPort p v).beatU = s.beatU ∧ (s.setPort p v).pow = s.pow ∧
    (s.setPort p v).se = s.se ∧ (s.setPort p v).sec = s.sec ∧ (s.setPort p v).board = s.board ∧
    (s.setPort p v).resets = s.resets ∧ (s.setPort p v).clearing = s.clearing ∧ (s.setPort p v).scrubQ = s.scrubQ ∧
    (s.setPort p v).bursts = s.bursts ∧ (s.setPort p v).postponed = s.postponed ∧ (s.setPort p v).wdogHit = s.wdogHit ∧ (s.setPort p v).latch = s.latch ∧
    (s.setPort p v).resp = s.resp ∧
    (s.setPort p v).routers = s.routers ∧ (s.setPort p v).turn = s.turn ∧ (s.setPort p v).vaneHigh = s.vaneHigh := by
  refine ⟨rfl, rfl, rfl, rfl, rfl, rfl, rfl, rfl, rfl, rfl, rfl, rfl, rfl, rfl, rfl, rfl, rfl, rfl, rfl, rfl, rfl, rfl, rfl, rfl, rfl, rfl, rfl, rfl, rfl, rfl, rfl, rfl, rfl, rfl, rfl⟩

@[simp] theorem Chip.updPort_frame (p : Nat) (f : Port → Port) :
    (s.updPort p f).ident = s.ident ∧ (s.updPort p f).regs = s.regs ∧ (s.updPort p f).counts = s.counts ∧
    (s.updPort p f).mem = s.mem ∧ (s.updPort p f).poison = s.poison ∧ (s.updPort p f).errs = s.errs ∧
    (s.updPort p f).cores = s.cores ∧ (s.updPort p f).slots = s.slots ∧ (s.updPort p f).descs = s.descs ∧
    (s.updPort p f).chans = s.chans ∧ (s.updPort p f).rqs = s.rqs ∧ (s.updPort p f).net = s.net ∧
    (s.updPort p f).vaneTab = s.vaneTab ∧ (s.updPort p f).vaneCnt = s.vaneCnt ∧ (s.updPort p f).vaneOpen = s.vaneOpen ∧
    (s.updPort p f).vaneLost = s.vaneLost ∧ (s.updPort p f).edges = s.edges ∧ (s.updPort p f).waitNo = s.waitNo ∧
    (s.updPort p f).fresh = s.fresh ∧ (s.updPort p f).beatU = s.beatU ∧ (s.updPort p f).pow = s.pow ∧
    (s.updPort p f).se = s.se ∧ (s.updPort p f).sec = s.sec ∧ (s.updPort p f).board = s.board ∧
    (s.updPort p f).resets = s.resets ∧ (s.updPort p f).clearing = s.clearing ∧ (s.updPort p f).scrubQ = s.scrubQ ∧
    (s.updPort p f).bursts = s.bursts ∧ (s.updPort p f).postponed = s.postponed ∧ (s.updPort p f).wdogHit = s.wdogHit ∧ (s.updPort p f).latch = s.latch ∧
    (s.updPort p f).resp = s.resp ∧
    (s.updPort p f).routers = s.routers ∧ (s.updPort p f).turn = s.turn ∧ (s.updPort p f).vaneHigh = s.vaneHigh := by
  refine ⟨rfl, rfl, rfl, rfl, rfl, rfl, rfl, rfl, rfl, rfl, rfl, rfl, rfl, rfl, rfl, rfl, rfl, rfl, rfl, rfl, rfl, rfl, rfl, rfl, rfl, rfl, rfl, rfl, rfl, rfl, rfl, rfl, rfl, rfl, rfl⟩

@[simp] theorem Chip.setSeCtx_frame (x : Nat) (v : SeCtx) :
    (s.setSeCtx x v).ident = s.ident ∧ (s.setSeCtx x v).regs = s.regs ∧ (s.setSeCtx x v).counts = s.counts ∧
    (s.setSeCtx x v).mem = s.mem ∧ (s.setSeCtx x v).poison = s.poison ∧ (s.setSeCtx x v).errs = s.errs ∧
    (s.setSeCtx x v).cores = s.cores ∧ (s.setSeCtx x v).slots = s.slots ∧ (s.setSeCtx x v).descs = s.descs ∧
    (s.setSeCtx x v).chans = s.chans ∧ (s.setSeCtx x v).rqs = s.rqs ∧ (s.setSeCtx x v).net = s.net ∧
    (s.setSeCtx x v).vaneTab = s.vaneTab ∧ (s.setSeCtx x v).vaneCnt = s.vaneCnt ∧ (s.setSeCtx x v).vaneOpen = s.vaneOpen ∧
    (s.setSeCtx x v).vaneLost = s.vaneLost ∧ (s.setSeCtx x v).edges = s.edges ∧ (s.setSeCtx x v).waitNo = s.waitNo ∧
    (s.setSeCtx x v).fresh = s.fresh ∧ (s.setSeCtx x v).beatU = s.beatU ∧ (s.setSeCtx x v).pow = s.pow ∧
    (s.setSeCtx x v).ports = s.ports ∧ (s.setSeCtx x v).sec = s.sec ∧ (s.setSeCtx x v).board = s.board ∧
    (s.setSeCtx x v).resets = s.resets ∧ (s.setSeCtx x v).clearing = s.clearing ∧ (s.setSeCtx x v).scrubQ = s.scrubQ ∧
    (s.setSeCtx x v).bursts = s.bursts ∧ (s.setSeCtx x v).postponed = s.postponed ∧ (s.setSeCtx x v).wdogHit = s.wdogHit ∧ (s.setSeCtx x v).latch = s.latch ∧
    (s.setSeCtx x v).resp = s.resp ∧
    (s.setSeCtx x v).routers = s.routers ∧ (s.setSeCtx x v).turn = s.turn ∧ (s.setSeCtx x v).vaneHigh = s.vaneHigh := by
  refine ⟨rfl, rfl, rfl, rfl, rfl, rfl, rfl, rfl, rfl, rfl, rfl, rfl, rfl, rfl, rfl, rfl, rfl, rfl, rfl, rfl, rfl, rfl, rfl, rfl, rfl, rfl, rfl, rfl, rfl, rfl, rfl, rfl, rfl, rfl, rfl⟩

@[simp] theorem Chip.updSeCtx_frame (x : Nat) (f : SeCtx → SeCtx) :
    (s.updSeCtx x f).ident = s.ident ∧ (s.updSeCtx x f).regs = s.regs ∧ (s.updSeCtx x f).counts = s.counts ∧
    (s.updSeCtx x f).mem = s.mem ∧ (s.updSeCtx x f).poison = s.poison ∧ (s.updSeCtx x f).errs = s.errs ∧
    (s.updSeCtx x f).cores = s.cores ∧ (s.updSeCtx x f).slots = s.slots ∧ (s.updSeCtx x f).descs = s.descs ∧
    (s.updSeCtx x f).chans = s.chans ∧ (s.updSeCtx x f).rqs = s.rqs ∧ (s.updSeCtx x f).net = s.net ∧
    (s.updSeCtx x f).vaneTab = s.vaneTab ∧ (s.updSeCtx x f).vaneCnt = s.vaneCnt ∧ (s.updSeCtx x f).vaneOpen = s.vaneOpen ∧
    (s.updSeCtx x f).vaneLost = s.vaneLost ∧ (s.updSeCtx x f).edges = s.edges ∧ (s.updSeCtx x f).waitNo = s.waitNo ∧
    (s.updSeCtx x f).fresh = s.fresh ∧ (s.updSeCtx x f).beatU = s.beatU ∧ (s.updSeCtx x f).pow = s.pow ∧
    (s.updSeCtx x f).ports = s.ports ∧ (s.updSeCtx x f).sec = s.sec ∧ (s.updSeCtx x f).board = s.board ∧
    (s.updSeCtx x f).resets = s.resets ∧ (s.updSeCtx x f).clearing = s.clearing ∧ (s.updSeCtx x f).scrubQ = s.scrubQ ∧
    (s.updSeCtx x f).bursts = s.bursts ∧ (s.updSeCtx x f).postponed = s.postponed ∧ (s.updSeCtx x f).wdogHit = s.wdogHit ∧ (s.updSeCtx x f).latch = s.latch ∧
    (s.updSeCtx x f).resp = s.resp ∧
    (s.updSeCtx x f).routers = s.routers ∧ (s.updSeCtx x f).turn = s.turn ∧ (s.updSeCtx x f).vaneHigh = s.vaneHigh := by
  refine ⟨rfl, rfl, rfl, rfl, rfl, rfl, rfl, rfl, rfl, rfl, rfl, rfl, rfl, rfl, rfl, rfl, rfl, rfl, rfl, rfl, rfl, rfl, rfl, rfl, rfl, rfl, rfl, rfl, rfl, rfl, rfl, rfl, rfl, rfl, rfl⟩

@[simp] theorem Chip.setCnt_frame (c n : Nat) (v : Word) :
    (s.setCnt c n v).ident = s.ident ∧ (s.setCnt c n v).counts = s.counts ∧ (s.setCnt c n v).mem = s.mem ∧
    (s.setCnt c n v).poison = s.poison ∧ (s.setCnt c n v).errs = s.errs ∧ (s.setCnt c n v).cores = s.cores ∧
    (s.setCnt c n v).slots = s.slots ∧ (s.setCnt c n v).descs = s.descs ∧ (s.setCnt c n v).chans = s.chans ∧
    (s.setCnt c n v).rqs = s.rqs ∧ (s.setCnt c n v).net = s.net ∧ (s.setCnt c n v).vaneTab = s.vaneTab ∧
    (s.setCnt c n v).vaneCnt = s.vaneCnt ∧ (s.setCnt c n v).vaneOpen = s.vaneOpen ∧ (s.setCnt c n v).vaneLost = s.vaneLost ∧
    (s.setCnt c n v).edges = s.edges ∧ (s.setCnt c n v).waitNo = s.waitNo ∧ (s.setCnt c n v).fresh = s.fresh ∧
    (s.setCnt c n v).beatU = s.beatU ∧ (s.setCnt c n v).pow = s.pow ∧ (s.setCnt c n v).ports = s.ports ∧
    (s.setCnt c n v).se = s.se ∧ (s.setCnt c n v).sec = s.sec ∧ (s.setCnt c n v).board = s.board ∧
    (s.setCnt c n v).resets = s.resets ∧ (s.setCnt c n v).clearing = s.clearing ∧ (s.setCnt c n v).scrubQ = s.scrubQ ∧
    (s.setCnt c n v).bursts = s.bursts ∧ (s.setCnt c n v).postponed = s.postponed ∧ (s.setCnt c n v).wdogHit = s.wdogHit ∧ (s.setCnt c n v).latch = s.latch ∧
    (s.setCnt c n v).resp = s.resp ∧
    (s.setCnt c n v).routers = s.routers ∧ (s.setCnt c n v).turn = s.turn ∧ (s.setCnt c n v).vaneHigh = s.vaneHigh := by
  refine ⟨rfl, rfl, rfl, rfl, rfl, rfl, rfl, rfl, rfl, rfl, rfl, rfl, rfl, rfl, rfl, rfl, rfl, rfl, rfl, rfl, rfl, rfl, rfl, rfl, rfl, rfl, rfl, rfl, rfl, rfl, rfl, rfl, rfl, rfl, rfl⟩

@[simp] theorem Chip.bumpWait_frame :
    s.bumpWait.ident = s.ident ∧ s.bumpWait.regs = s.regs ∧ s.bumpWait.counts = s.counts ∧ s.bumpWait.mem = s.mem ∧
    s.bumpWait.poison = s.poison ∧ s.bumpWait.errs = s.errs ∧ s.bumpWait.cores = s.cores ∧ s.bumpWait.slots = s.slots ∧
    s.bumpWait.descs = s.descs ∧ s.bumpWait.chans = s.chans ∧ s.bumpWait.rqs = s.rqs ∧ s.bumpWait.net = s.net ∧
    s.bumpWait.vaneTab = s.vaneTab ∧ s.bumpWait.vaneCnt = s.vaneCnt ∧ s.bumpWait.vaneOpen = s.vaneOpen ∧
    s.bumpWait.vaneLost = s.vaneLost ∧ s.bumpWait.edges = s.edges ∧ s.bumpWait.fresh = s.fresh ∧
    s.bumpWait.beatU = s.beatU ∧ s.bumpWait.pow = s.pow ∧ s.bumpWait.ports = s.ports ∧ s.bumpWait.se = s.se ∧
    s.bumpWait.sec = s.sec ∧ s.bumpWait.board = s.board ∧ s.bumpWait.resets = s.resets ∧ s.bumpWait.clearing = s.clearing ∧
    s.bumpWait.scrubQ = s.scrubQ ∧ s.bumpWait.bursts = s.bursts ∧ s.bumpWait.postponed = s.postponed ∧ s.bumpWait.wdogHit = s.wdogHit ∧
    s.bumpWait.latch = s.latch ∧ s.bumpWait.resp = s.resp ∧
    s.bumpWait.routers = s.routers ∧ s.bumpWait.turn = s.turn ∧ s.bumpWait.vaneHigh = s.vaneHigh := by
  refine ⟨rfl, rfl, rfl, rfl, rfl, rfl, rfl, rfl, rfl, rfl, rfl, rfl, rfl, rfl, rfl, rfl, rfl, rfl, rfl, rfl, rfl, rfl, rfl, rfl, rfl, rfl, rfl, rfl, rfl, rfl, rfl, rfl, rfl, rfl, rfl⟩

@[simp] theorem Chip.setByte_frame (a : Nat) (v : BitVec 8) :
    (s.setByte a v).ident = s.ident ∧ (s.setByte a v).regs = s.regs ∧ (s.setByte a v).counts = s.counts ∧
    (s.setByte a v).poison = s.poison ∧ (s.setByte a v).errs = s.errs ∧ (s.setByte a v).cores = s.cores ∧
    (s.setByte a v).slots = s.slots ∧ (s.setByte a v).descs = s.descs ∧ (s.setByte a v).chans = s.chans ∧
    (s.setByte a v).rqs = s.rqs ∧ (s.setByte a v).net = s.net ∧ (s.setByte a v).vaneTab = s.vaneTab ∧
    (s.setByte a v).vaneCnt = s.vaneCnt ∧ (s.setByte a v).vaneOpen = s.vaneOpen ∧ (s.setByte a v).vaneLost = s.vaneLost ∧
    (s.setByte a v).edges = s.edges ∧ (s.setByte a v).waitNo = s.waitNo ∧ (s.setByte a v).fresh = s.fresh ∧
    (s.setByte a v).beatU = s.beatU ∧ (s.setByte a v).pow = s.pow ∧ (s.setByte a v).ports = s.ports ∧
    (s.setByte a v).se = s.se ∧ (s.setByte a v).sec = s.sec ∧ (s.setByte a v).board = s.board ∧
    (s.setByte a v).resets = s.resets ∧ (s.setByte a v).clearing = s.clearing ∧ (s.setByte a v).scrubQ = s.scrubQ ∧
    (s.setByte a v).bursts = s.bursts ∧ (s.setByte a v).postponed = s.postponed ∧ (s.setByte a v).wdogHit = s.wdogHit ∧ (s.setByte a v).latch = s.latch ∧
    (s.setByte a v).resp = s.resp ∧
    (s.setByte a v).routers = s.routers ∧ (s.setByte a v).turn = s.turn ∧ (s.setByte a v).vaneHigh = s.vaneHigh := by
  refine ⟨rfl, rfl, rfl, rfl, rfl, rfl, rfl, rfl, rfl, rfl, rfl, rfl, rfl, rfl, rfl, rfl, rfl, rfl, rfl, rfl, rfl, rfl, rfl, rfl, rfl, rfl, rfl, rfl, rfl, rfl, rfl, rfl, rfl, rfl, rfl⟩

@[simp] theorem Chip.recode_frame (a n : Nat) (b : Nat → Bool) :
    (s.recode a n b).ident = s.ident ∧ (s.recode a n b).regs = s.regs ∧ (s.recode a n b).counts = s.counts ∧
    (s.recode a n b).mem = s.mem ∧ (s.recode a n b).cores = s.cores ∧ (s.recode a n b).slots = s.slots ∧
    (s.recode a n b).descs = s.descs ∧ (s.recode a n b).chans = s.chans ∧ (s.recode a n b).rqs = s.rqs ∧
    (s.recode a n b).net = s.net ∧ (s.recode a n b).vaneTab = s.vaneTab ∧ (s.recode a n b).vaneCnt = s.vaneCnt ∧
    (s.recode a n b).vaneOpen = s.vaneOpen ∧ (s.recode a n b).vaneLost = s.vaneLost ∧ (s.recode a n b).edges = s.edges ∧
    (s.recode a n b).waitNo = s.waitNo ∧ (s.recode a n b).fresh = s.fresh ∧ (s.recode a n b).beatU = s.beatU ∧
    (s.recode a n b).pow = s.pow ∧ (s.recode a n b).ports = s.ports ∧ (s.recode a n b).se = s.se ∧
    (s.recode a n b).sec = s.sec ∧ (s.recode a n b).board = s.board ∧ (s.recode a n b).resets = s.resets ∧
    (s.recode a n b).clearing = s.clearing ∧ (s.recode a n b).scrubQ = s.scrubQ ∧ (s.recode a n b).bursts = s.bursts ∧ (s.recode a n b).postponed = s.postponed ∧
    (s.recode a n b).wdogHit = s.wdogHit ∧ (s.recode a n b).latch = s.latch ∧ (s.recode a n b).resp = s.resp ∧
    (s.recode a n b).routers = s.routers ∧ (s.recode a n b).turn = s.turn ∧ (s.recode a n b).vaneHigh = s.vaneHigh := by
  refine ⟨rfl, rfl, rfl, rfl, rfl, rfl, rfl, rfl, rfl, rfl, rfl, rfl, rfl, rfl, rfl, rfl, rfl, rfl, rfl, rfl, rfl, rfl, rfl, rfl, rfl, rfl, rfl, rfl, rfl, rfl, rfl, rfl, rfl, rfl⟩

@[simp] theorem Chip.zero_frame (a n : Nat) :
    (s.zero a n).ident = s.ident ∧ (s.zero a n).regs = s.regs ∧ (s.zero a n).counts = s.counts ∧
    (s.zero a n).cores = s.cores ∧ (s.zero a n).slots = s.slots ∧ (s.zero a n).descs = s.descs ∧
    (s.zero a n).chans = s.chans ∧ (s.zero a n).rqs = s.rqs ∧ (s.zero a n).net = s.net ∧ (s.zero a n).vaneTab = s.vaneTab ∧
    (s.zero a n).vaneCnt = s.vaneCnt ∧ (s.zero a n).vaneOpen = s.vaneOpen ∧ (s.zero a n).vaneLost = s.vaneLost ∧
    (s.zero a n).edges = s.edges ∧ (s.zero a n).waitNo = s.waitNo ∧ (s.zero a n).fresh = s.fresh ∧
    (s.zero a n).beatU = s.beatU ∧ (s.zero a n).pow = s.pow ∧ (s.zero a n).ports = s.ports ∧ (s.zero a n).se = s.se ∧
    (s.zero a n).sec = s.sec ∧ (s.zero a n).board = s.board ∧ (s.zero a n).resets = s.resets ∧
    (s.zero a n).clearing = s.clearing ∧ (s.zero a n).scrubQ = s.scrubQ ∧ (s.zero a n).bursts = s.bursts ∧ (s.zero a n).postponed = s.postponed ∧
    (s.zero a n).wdogHit = s.wdogHit ∧ (s.zero a n).latch = s.latch ∧ (s.zero a n).resp = s.resp ∧
    (s.zero a n).routers = s.routers ∧ (s.zero a n).turn = s.turn ∧ (s.zero a n).vaneHigh = s.vaneHigh := by
  refine ⟨rfl, rfl, rfl, rfl, rfl, rfl, rfl, rfl, rfl, rfl, rfl, rfl, rfl, rfl, rfl, rfl, rfl, rfl, rfl, rfl, rfl, rfl, rfl, rfl, rfl, rfl, rfl, rfl, rfl, rfl, rfl, rfl, rfl⟩

@[simp] theorem Chip.putBytes_frame (a : Nat) (l : List (BitVec 8)) :
    (s.putBytes a l).ident = s.ident ∧ (s.putBytes a l).regs = s.regs ∧ (s.putBytes a l).counts = s.counts ∧
    (s.putBytes a l).poison = s.poison ∧ (s.putBytes a l).errs = s.errs ∧ (s.putBytes a l).cores = s.cores ∧
    (s.putBytes a l).slots = s.slots ∧ (s.putBytes a l).descs = s.descs ∧ (s.putBytes a l).chans = s.chans ∧
    (s.putBytes a l).rqs = s.rqs ∧ (s.putBytes a l).net = s.net ∧ (s.putBytes a l).vaneTab = s.vaneTab ∧
    (s.putBytes a l).vaneCnt = s.vaneCnt ∧ (s.putBytes a l).vaneOpen = s.vaneOpen ∧ (s.putBytes a l).vaneLost = s.vaneLost ∧
    (s.putBytes a l).edges = s.edges ∧ (s.putBytes a l).waitNo = s.waitNo ∧ (s.putBytes a l).fresh = s.fresh ∧
    (s.putBytes a l).beatU = s.beatU ∧ (s.putBytes a l).pow = s.pow ∧ (s.putBytes a l).ports = s.ports ∧
    (s.putBytes a l).se = s.se ∧ (s.putBytes a l).sec = s.sec ∧ (s.putBytes a l).board = s.board ∧
    (s.putBytes a l).resets = s.resets ∧ (s.putBytes a l).clearing = s.clearing ∧ (s.putBytes a l).scrubQ = s.scrubQ ∧
    (s.putBytes a l).bursts = s.bursts ∧ (s.putBytes a l).postponed = s.postponed ∧ (s.putBytes a l).wdogHit = s.wdogHit ∧ (s.putBytes a l).latch = s.latch ∧
    (s.putBytes a l).resp = s.resp ∧
    (s.putBytes a l).routers = s.routers ∧ (s.putBytes a l).turn = s.turn ∧ (s.putBytes a l).vaneHigh = s.vaneHigh := by
  induction l generalizing s a with
  | nil => simp [Chip.putBytes]
  | cons b t ih => simpa [Chip.putBytes] using ih (s.setByte a b) (a + 1)

@[simp] theorem Chip.store_frame (a : Nat) (l : List (BitVec 8)) :
    (s.store a l).ident = s.ident ∧ (s.store a l).regs = s.regs ∧ (s.store a l).counts = s.counts ∧
    (s.store a l).cores = s.cores ∧ (s.store a l).slots = s.slots ∧ (s.store a l).descs = s.descs ∧
    (s.store a l).chans = s.chans ∧ (s.store a l).rqs = s.rqs ∧ (s.store a l).net = s.net ∧
    (s.store a l).vaneTab = s.vaneTab ∧ (s.store a l).vaneCnt = s.vaneCnt ∧ (s.store a l).vaneOpen = s.vaneOpen ∧
    (s.store a l).vaneLost = s.vaneLost ∧ (s.store a l).edges = s.edges ∧ (s.store a l).waitNo = s.waitNo ∧
    (s.store a l).fresh = s.fresh ∧ (s.store a l).beatU = s.beatU ∧ (s.store a l).pow = s.pow ∧
    (s.store a l).ports = s.ports ∧ (s.store a l).se = s.se ∧ (s.store a l).sec = s.sec ∧ (s.store a l).board = s.board ∧
    (s.store a l).resets = s.resets ∧ (s.store a l).clearing = s.clearing ∧ (s.store a l).scrubQ = s.scrubQ ∧
    (s.store a l).bursts = s.bursts ∧ (s.store a l).postponed = s.postponed ∧ (s.store a l).wdogHit = s.wdogHit ∧ (s.store a l).latch = s.latch ∧
    (s.store a l).resp = s.resp ∧
    (s.store a l).routers = s.routers ∧ (s.store a l).turn = s.turn ∧ (s.store a l).vaneHigh = s.vaneHigh := by
  simp [Chip.store]

@[simp] theorem Chip.storeTagged_frame (a : Nat) (l : List TByte) :
    (s.storeTagged a l).ident = s.ident ∧ (s.storeTagged a l).regs = s.regs ∧ (s.storeTagged a l).counts = s.counts ∧
    (s.storeTagged a l).cores = s.cores ∧ (s.storeTagged a l).slots = s.slots ∧ (s.storeTagged a l).descs = s.descs ∧
    (s.storeTagged a l).chans = s.chans ∧ (s.storeTagged a l).rqs = s.rqs ∧ (s.storeTagged a l).net = s.net ∧
    (s.storeTagged a l).vaneTab = s.vaneTab ∧ (s.storeTagged a l).vaneCnt = s.vaneCnt ∧
    (s.storeTagged a l).vaneOpen = s.vaneOpen ∧ (s.storeTagged a l).vaneLost = s.vaneLost ∧
    (s.storeTagged a l).edges = s.edges ∧ (s.storeTagged a l).waitNo = s.waitNo ∧ (s.storeTagged a l).fresh = s.fresh ∧
    (s.storeTagged a l).beatU = s.beatU ∧ (s.storeTagged a l).pow = s.pow ∧ (s.storeTagged a l).ports = s.ports ∧
    (s.storeTagged a l).se = s.se ∧ (s.storeTagged a l).sec = s.sec ∧ (s.storeTagged a l).board = s.board ∧
    (s.storeTagged a l).resets = s.resets ∧ (s.storeTagged a l).clearing = s.clearing ∧
    (s.storeTagged a l).scrubQ = s.scrubQ ∧ (s.storeTagged a l).bursts = s.bursts ∧ (s.storeTagged a l).postponed = s.postponed ∧
    (s.storeTagged a l).wdogHit = s.wdogHit ∧ (s.storeTagged a l).latch = s.latch ∧ (s.storeTagged a l).resp = s.resp ∧
    (s.storeTagged a l).routers = s.routers ∧ (s.storeTagged a l).turn = s.turn ∧ (s.storeTagged a l).vaneHigh = s.vaneHigh := by
  simp [Chip.storeTagged]

@[simp] theorem Chip.storeNum_frame (a n v : Nat) :
    (s.storeNum a n v).ident = s.ident ∧ (s.storeNum a n v).regs = s.regs ∧ (s.storeNum a n v).counts = s.counts ∧
    (s.storeNum a n v).cores = s.cores ∧ (s.storeNum a n v).slots = s.slots ∧ (s.storeNum a n v).descs = s.descs ∧
    (s.storeNum a n v).chans = s.chans ∧ (s.storeNum a n v).rqs = s.rqs ∧ (s.storeNum a n v).net = s.net ∧
    (s.storeNum a n v).vaneTab = s.vaneTab ∧ (s.storeNum a n v).vaneCnt = s.vaneCnt ∧
    (s.storeNum a n v).vaneOpen = s.vaneOpen ∧ (s.storeNum a n v).vaneLost = s.vaneLost ∧
    (s.storeNum a n v).edges = s.edges ∧ (s.storeNum a n v).waitNo = s.waitNo ∧ (s.storeNum a n v).fresh = s.fresh ∧
    (s.storeNum a n v).beatU = s.beatU ∧ (s.storeNum a n v).pow = s.pow ∧ (s.storeNum a n v).ports = s.ports ∧
    (s.storeNum a n v).se = s.se ∧ (s.storeNum a n v).sec = s.sec ∧ (s.storeNum a n v).board = s.board ∧
    (s.storeNum a n v).resets = s.resets ∧ (s.storeNum a n v).clearing = s.clearing ∧ (s.storeNum a n v).scrubQ = s.scrubQ ∧
    (s.storeNum a n v).bursts = s.bursts ∧ (s.storeNum a n v).postponed = s.postponed ∧ (s.storeNum a n v).wdogHit = s.wdogHit ∧ (s.storeNum a n v).latch = s.latch ∧
    (s.storeNum a n v).resp = s.resp ∧
    (s.storeNum a n v).routers = s.routers ∧ (s.storeNum a n v).turn = s.turn ∧ (s.storeNum a n v).vaneHigh = s.vaneHigh := by
  simp [Chip.storeNum]

@[simp] theorem Chip.netKeep_frame (f : Packet → Bool) :
    (s.netKeep f).ident = s.ident ∧ (s.netKeep f).regs = s.regs ∧ (s.netKeep f).counts = s.counts ∧
    (s.netKeep f).mem = s.mem ∧ (s.netKeep f).poison = s.poison ∧ (s.netKeep f).errs = s.errs ∧
    (s.netKeep f).cores = s.cores ∧ (s.netKeep f).slots = s.slots ∧ (s.netKeep f).descs = s.descs ∧
    (s.netKeep f).chans = s.chans ∧ (s.netKeep f).rqs = s.rqs ∧ (s.netKeep f).turn = s.turn ∧
    (s.netKeep f).vaneTab = s.vaneTab ∧ (s.netKeep f).vaneCnt = s.vaneCnt ∧ (s.netKeep f).vaneOpen = s.vaneOpen ∧
    (s.netKeep f).vaneHigh = s.vaneHigh ∧ (s.netKeep f).vaneLost = s.vaneLost ∧ (s.netKeep f).edges = s.edges ∧
    (s.netKeep f).waitNo = s.waitNo ∧ (s.netKeep f).fresh = s.fresh ∧ (s.netKeep f).beatU = s.beatU ∧
    (s.netKeep f).pow = s.pow ∧ (s.netKeep f).ports = s.ports ∧ (s.netKeep f).se = s.se ∧
    (s.netKeep f).sec = s.sec ∧ (s.netKeep f).board = s.board ∧ (s.netKeep f).resets = s.resets ∧
    (s.netKeep f).clearing = s.clearing ∧ (s.netKeep f).scrubQ = s.scrubQ ∧ (s.netKeep f).bursts = s.bursts ∧
    (s.netKeep f).postponed = s.postponed ∧ (s.netKeep f).wdogHit = s.wdogHit ∧ (s.netKeep f).latch = s.latch ∧
    (s.netKeep f).resp = s.resp := by
  refine ⟨rfl, rfl, rfl, rfl, rfl, rfl, rfl, rfl, rfl, rfl, rfl, rfl, rfl, rfl, rfl, rfl, rfl, rfl, rfl, rfl, rfl, rfl, rfl, rfl, rfl, rfl, rfl, rfl, rfl, rfl, rfl, rfl, rfl, rfl⟩

@[simp] theorem Chip.netTake_frame (p : Packet) :
    (s.netTake p).ident = s.ident ∧ (s.netTake p).regs = s.regs ∧ (s.netTake p).counts = s.counts ∧
    (s.netTake p).mem = s.mem ∧ (s.netTake p).poison = s.poison ∧ (s.netTake p).errs = s.errs ∧
    (s.netTake p).cores = s.cores ∧ (s.netTake p).slots = s.slots ∧ (s.netTake p).descs = s.descs ∧
    (s.netTake p).chans = s.chans ∧ (s.netTake p).rqs = s.rqs ∧ (s.netTake p).turn = s.turn ∧
    (s.netTake p).vaneTab = s.vaneTab ∧ (s.netTake p).vaneCnt = s.vaneCnt ∧ (s.netTake p).vaneOpen = s.vaneOpen ∧
    (s.netTake p).vaneHigh = s.vaneHigh ∧ (s.netTake p).vaneLost = s.vaneLost ∧ (s.netTake p).edges = s.edges ∧
    (s.netTake p).waitNo = s.waitNo ∧ (s.netTake p).fresh = s.fresh ∧ (s.netTake p).beatU = s.beatU ∧
    (s.netTake p).pow = s.pow ∧ (s.netTake p).ports = s.ports ∧ (s.netTake p).se = s.se ∧
    (s.netTake p).sec = s.sec ∧ (s.netTake p).board = s.board ∧ (s.netTake p).resets = s.resets ∧
    (s.netTake p).clearing = s.clearing ∧ (s.netTake p).scrubQ = s.scrubQ ∧ (s.netTake p).bursts = s.bursts ∧
    (s.netTake p).postponed = s.postponed ∧ (s.netTake p).wdogHit = s.wdogHit ∧ (s.netTake p).latch = s.latch ∧
    (s.netTake p).resp = s.resp := by
  refine ⟨rfl, rfl, rfl, rfl, rfl, rfl, rfl, rfl, rfl, rfl, rfl, rfl, rfl, rfl, rfl, rfl, rfl, rfl, rfl, rfl, rfl, rfl, rfl, rfl, rfl, rfl, rfl, rfl, rfl, rfl, rfl, rfl, rfl, rfl⟩

end Sys2Proof.Machine
end

