-- ==== Sys2Proof/Safety.lean ====
section
/-! DEFINITION. The terms in which claims about the machine are made: a command that takes its effect, an instruction that
reaches issue unhindered, an instruction that has issued, and what a command leaves as it was. -/

namespace Sys2Proof

open Machine

/-- Every waiting command is answered by a next state. -/
def Safe (s : State) : Prop := ∀ c ∈ s.pending, ∃ t, exec c s = .next t

/-- The command is answered by a next state with the same queue and the same OTP bits, of whose device `P` holds. -/
def Runs (i : Instr) (s : State) (P : Chip → Prop) : Prop :=
  ∃ t : State, exec i s = .next t ∧ t.pending = s.pending ∧ t.otp = s.otp ∧ P t.chip

/-- Core `c` takes the word `w` to issue, and no rule of issue holds it back, skips it or turns it away (R68, R82, R234): the
device is up, the sequencer issues, the fetch gives `w` and corrects no bit (R398), no reserved field is set, no counter it reads is awaited, its condition
holds, and the checks 3 to 6 pass. -/
structure Takes (s : Chip) (c : Nat) (w : IWord) : Prop where
  core : c < 144
  up : s.fabricUp = true
  may : s.mayIssue c w = true
  fetched : s.fetch c = .word w
  clean : s.noteFetch c = s
  known : opDefined (opcode w) = true
  unreserved : resvBad w = false
  condFree : s.pendingIn c (s.predCounters c w) = false
  cond : s.condHolds c w = true
  free : s.pendingIn c (readsCounters w) = false
  pass : s.issueBad c w = none

/-- Where issue goes on after the instruction at the program counter: the next index, or the start of the level that it ends
and that has passes left (R83, R87). -/
def nextPc (s : Chip) (c : Nat) : Nat := (loopEnd (s.core c).loops (s.pc c)).2.getD (s.pc c + 1)

/-- An instruction of core `c` has issued and leaves no wait (R82, R83, R87, R100). -/
structure Retired (s t : Chip) (c : Nat) : Prop where
  pc : t.pc c = nextPc s c % 8192
  stall : t.get (pgSEQ c) fSeqStall = 0
  issued : t.countOf (pgSEQ c) 0 = min (s.countOf (pgSEQ c) 0 + 1) (2 ^ 64 - 1)

/-- Core `c` beside its registers once an instruction has issued and done nothing else: no wait, and the loop levels that the
end of a body leaves (R87). -/
def coreIssued (s : Chip) (c : Nat) : Core :=
  { s.core c with wait := none, loops := (loopEnd (s.core c).loops (s.pc c)).1 }

/-- Every register but those listed reads as before. -/
def SameRegs (s t : Chip) (l : List Nat) : Prop := ∀ k, k ∉ l → t.reg k = s.reg k

/-- Every event count but those listed reads as before. -/
def SameCounts (s t : Chip) (l : List Nat) : Prop := ∀ k, k ∉ l → sget countReset t.counts k = sget countReset s.counts k

/-- Every core but `c` is as before. -/
def SameCores (s t : Chip) (c : Nat) : Prop := ∀ e, e ≠ c → t.core e = s.core e

/-- Every byte of memory outside the `n` bytes from `a` on reads as before. -/
def SameBytes (s t : Chip) (a n : Nat) : Prop := ∀ b, b < a ∨ a + n ≤ b → t.byte b = s.byte b

/-- The registers that the issue of an instruction of core `c` writes: SEQ_STATUS, for STALL, and SEQ_PC (R99). -/
def seqRegs (c : Nat) : List Nat := [pgSEQ c + 0x104, pgSEQ c + 0x108]

/-- A sequencer instruction of core `c` leaves everything as it was but registers, event counts, tile descriptors and its own
core; of registers, counts and descriptors it leaves all but those listed. -/
structure SeqFrame (s t : Chip) (c : Nat) (regs counts descs : List Nat) : Prop where
  rest : t = { s with regs := t.regs, counts := t.counts, cores := t.cores, descs := t.descs }
  regs : SameRegs s t regs
  counts : SameCounts s t counts
  descs : ∀ k, k ∉ descs → sget descReset t.descs k = sget descReset s.descs k
  cores : SameCores s t c

/-- An instruction has issued, leaves no wait, and beside the registers, counts and descriptors listed does nothing else. -/
def Issued (s t : Chip) (c : Nat) (regs counts descs : List Nat) : Prop :=
  Retired s t c ∧ t.core c = coreIssued s c ∧ SeqFrame s t c (regs ++ seqRegs c) (counts ++ [pgSEQ c]) descs

/-- The sequencer of core `c` has begun the wait of STALL code `code` for the word `w`, timed by `tmo` from now on (R93, R94). -/
def WaitsFor (s t : Chip) (c code tmo : Nat) (w : IWord) : Prop :=
  t.get (pgSEQ c) fSeqStall = code ∧ t.pc c = s.pc c ∧
  ∃ x, (t.core c).wait = some x ∧ x.code = code ∧ x.w = w ∧ x.began = s.edges ∧ x.tmo = tmo

/-- No command waits in a queue of core `c`, and its synchronisation unit executes none. -/
structure Quiet (s : Chip) (c : Nat) : Prop where
  queues : (s.core c).q = []
  sync : (s.core c).running uSYNC = []

/-- Core `c` is at rest: nothing is queued or in execution, no slot of it is in use, no narrow write is pending, its vane port
watches nothing, and every word of memory is good. -/
structure AtRest (s : Chip) (c : Nat) : Prop where
  queues : (s.core c).q = []
  engines : (s.core c).run = []
  slots : s.slotsOf c = []
  gather : (s.core c).gather = []
  vane : (s.core c).vane = []
  unpoisoned : s.poison = []
  sound : s.errs = []

/-- Every sparse map that the device stores is in its canonical form: keys strictly rising, and no entry equal to what an unlisted key reads
as; so equal devices are equal data. -/
structure Canonical (s : Chip) : Prop where
  mem : Memory.wf s.mem = true
  regs : canon regReset s.regs = true
  counts : canon countReset s.counts = true
  cores : canon coreReset s.cores = true
  slots : canon slotReset s.slots = true
  descs : canon descReset s.descs = true
  chans : canon chanReset s.chans = true
  rqs : canon rqReset s.rqs = true
  ports : canon portReset s.ports = true
  latch : canon latchReset s.latch = true
  errs : canon errReset s.errs = true
  poison : s.poison.Pairwise (· < ·)

/-- Core `c` is idle, and its slots, gather buffer and vane port are out of use; memory may hold bad words. -/
structure Still (s : Chip) (c : Nat) : Prop where
  queues : (s.core c).q = []
  engines : (s.core c).run = []
  slots : s.slotsOf c = []
  gather : (s.core c).gather = []
  vane : (s.core c).vane = []

/-- A stored word within reach of the `n` bytes from `a` on has three bit errors or more: it is uncorrectable (R396). -/
def HoldsUncorr (s : Chip) (a n : Nat) : Prop := n ≠ 0 ∧ ∃ p ∈ s.errs, 3 ≤ p.2 ∧ a / 8 ≤ p.1 ∧ p.1 ≤ (a + n - 1) / 8

/-- A stored word within reach of the `n` bytes from `a` on is poisoned (R104). -/
def HoldsPoison (s : Chip) (a n : Nat) : Prop := n ≠ 0 ∧ ∃ w ∈ s.poison, a / 8 ≤ w ∧ w ≤ (a + n - 1) / 8

/-- The error that a consumer of the `n` bytes from `a` on meets: UNCORRECTABLE before POISON_CONSUMED (R396). -/
def Meets (s : Chip) (a n code : Nat) : Prop :=
  (code = 0x03 ∧ HoldsUncorr s a n) ∨ (code = 0x04 ∧ ¬HoldsUncorr s a n ∧ HoldsPoison s a n)

/-- The 64-bit word `w`, an address ÷ 8, travels poisoned: it is poisoned or uncorrectable (R104, R396). -/
def Spoilt (s : Chip) (w : Nat) : Prop := w ∈ s.poison ∨ ∃ p ∈ s.errs, p.1 = w ∧ 3 ≤ p.2

/-- The poison bits once `n` bytes from `a` on are written, byte `i` from a poisoned word where `mark i`: a word written whole is as
its bytes are; one written in part stays bad if it was (R104, R396, R397). -/
def PoisonWritten (s t : Chip) (a n : Nat) (mark : Nat → Prop) : Prop :=
  ∀ w, w ∈ t.poison ↔
    if n ≠ 0 ∧ a / 8 ≤ w ∧ w ≤ (a + n - 1) / 8 then
      (Spoilt s w ∧ ¬(a ≤ 8 * w ∧ 8 * w + 8 ≤ a + n)) ∨ ∃ i, i < n ∧ (a + i) / 8 = w ∧ mark i
    else w ∈ s.poison

/-- Byte `a` once the entries of a list of core `c`'s gather buffer are written: the last byte pending for it, or what it was (R105,
R106). -/
def gatherByte (s : Chip) (c : Nat) (l : List Gather) (a : Nat) : BitVec 8 :=
  ((((l.flatMap (·.bytes)).filter fun p => tunAddr c p.1 = a).getLast?).map (·.2.2)).getD (s.byte a)

/-- The packet `p` is the oldest in the mesh, stands in no router's input, and is bound for core `c` of this device, which is up. -/
structure Arriving (s : Chip) (c : Nat) (p : Packet) (rest : List Packet) : Prop where
  core : c < 144
  up : s.fabricUp = true
  net : s.net = p :: rest
  free : s.inRouter p = false
  dst : p.dst = s.coreNode c

/-- The relation that a comparator applies (R81). -/
def compares (op : Nat) (a b : Word) : Prop :=
  match op with
  | 0 => a = b
  | 1 => a ≠ b
  | 2 => a.toNat < b.toNat
  | 3 => b.toNat ≤ a.toNat
  | 4 => a.toInt < b.toInt
  | 5 => b.toInt ≤ a.toInt
  | _ => False

/-- The commands of the vector engine by opcode (R247). -/
def vectorCommands : List (Nat × (Nat → BitVec 128 → Instr)) :=
  [(0xA0, .vcfg), (0xA1, .vadd), (0xA2, .vsub), (0xA3, .vmul), (0xA4, .vfma), (0xA5, .vmin), (0xA6, .vmax), (0xA7, .vabs),
   (0xA8, .vneg), (0xA9, .vcvt), (0xAA, .vcmp), (0xAB, .vsel), (0xAC, .vpoly), (0xAD, .vfst), (0xAE, .vfclr), (0xC0, .vred),
   (0xC1, .vexp2), (0xC2, .vlog2), (0xC3, .vrcp), (0xC4, .vrsqrt), (0xC5, .vsqrt), (0xC6, .vdiv), (0xC7, .vtanh),
   (0xC8, .vsigm), (0xC9, .vrng), (0xCA, .vtopk), (0xCB, .vsample)]

/-- A core that faults is FAULTED with the code, the cause and the index of its fault, has nothing queued, running or waiting, and
an ACTIVE context of it is FAULTED (R95, R142, R401). -/
def Faults (s t : Chip) (c code cause pc : Nat) : Prop :=
  t.seqState c = sqFAULTED ∧ t.get (pgSEQ c) fSeqFault = code + cause * 256 + pc * 65536 ∧ (t.core c).q = [] ∧ (t.core c).run = [] ∧
  (t.core c).wait = none ∧ (s.ctxState (s.ctxOf c) = 1 → t.ctxState (s.ctxOf c) = 2)

/-- What the boot ROM comes to (R444 to R448, R455): the stage that it stops at, or the loader's start at stage 0x04 with its first
section in the SRAM. -/
def Boots (s t : State) (b : BootInputs) : Prop :=
  let stage := t.chip.get pgKLN fBootStage
  t.pending = s.pending ∧ t.otp = otpBurn s.otp ((otpFree s.otp 5120 4096).find? fun f => !(b.weak.contains (f - 5120))).toList ∧
  (activeGen t.otp vendorBase = none → stage = 0xE1 ∧ t.chip.get pgGERP fModFault = 1 ∧ t.chip.get pgKLN fRecovery = 0) ∧
  (activeGen t.otp vendorBase ≠ none →
    (b.bootSel = true ∨ b.forceRecovery = true → stage = 0xF0 ∧ t.chip.get pgKLN fRecovery = 1) ∧
    (b.bootSel = false → b.forceRecovery = false →
      (b.flashOk = false → stage = 0xE5 ∧ t.chip.get pgGERP fModFault = 1 ∧ t.chip.get pgKLN fRecovery = 1) ∧
      (∀ e, b.flashOk = true → imageError t.otp s.chip.flashBytes false = some e →
        stage = e ∧ t.chip.get pgGERP fModFault = 1 ∧ t.chip.get pgKLN fRecovery = 1) ∧
      (b.flashOk = true → imageError t.otp s.chip.flashBytes false = none → stage = 4 ∧ t.chip.get pgKLN fRecovery = 0 ∧
        t.chip.sec.booted = true ∧ t.chip.flashBytes imageBase 4 = s.chip.flashBytes imageBase 4)))

/-- A present port of the device, not in reset, is in this state. -/
structure PortIn (s : Chip) (p st : Nat) : Prop where
  up : s.fabricUp = true
  there : s.portPresent p = true
  free : s.bit (pgLNK p) fResetActive = false
  state : s.portState p = st

/-- A port is DOWN with this cause: it holds no cell and counts those it lost, starts a down notice where the link still carries cells, logs
LINK_DOWN and raises its interrupt (R322, R326, R329). -/
def WentDown (s t : Chip) (p cause : Nat) : Prop :=
  t.portState p = psDOWN ∧ t.get (pgLNK p) fDownCause = cause ∧ t.get (pgLNK p) fLanes = 0 ∧
  { t.port p with sent := none, idleRun := 0 } = { Port.reset with tables := (s.port p).tables, ran := (s.port p).ran } ∧
  (t.port p).sent.map (fun x => (x.type, x.lseq, x.ctl)) =
    (if psMEASURE ≤ s.portState p ∧ s.portState p ≤ psDEGRADING ∧ cause ∉ [2, 3, 6] then some (4, (s.port p).txSeq, some Control.down)
     else none) ∧
  t.countOf (pgLNK p) 0x0F = min (s.countOf (pgLNK p) 0x0F + s.heldCells p) (2 ^ 64 - 1) ∧
  t.bit (pgLNK p) ⟨0x010, errBit eLINK_DOWN, 1⟩ = true ∧ t.bit (pgLNK p) ⟨0x028, 0, 1⟩ = true ∧ t.mem = s.mem ∧ t.cores = s.cores

/-- A command of the security engine starts: it keeps the engine busy, burns what it burns, and holds its status back (R460). -/
def SecStarts (i : Instr) (s : State) (otp : List Nat) (status : Nat) (P : Chip → Prop) : Prop :=
  ∃ t : State, exec i s = .next t ∧ t.pending = s.pending ∧ t.otp = otp ∧ t.chip.bit pgSEC fSecBusy = true ∧
    t.chip.sec.status = some status ∧ t.chip.mem = s.chip.mem ∧ t.chip.cores = s.chip.cores ∧ P t.chip

/-- The instructions by opcode (R238 to R247): the command that issues a word of that opcode. -/
def issueRows : List (Nat × (Nat → BitVec 128 → Instr)) :=
  [(0x00, .nop), (0x01, .endI), (0x02, .br), (0x03, .loop), (0x04, .lprem), (0x05, .cset), (0x06, .cadd), (0x07, .cmov),
   (0x08, .cld), (0x09, .cst), (0x0A, .cmpcfg), (0x0B, .tdset), (0x0C, .tdadd), (0x0D, .tdload), (0x0E, .ovl), (0x0F, .waitb),
   (0x10, .cwait), (0x11, .waitarr), (0x20, .flush), (0x21, .rel), (0x22, .acq), (0x23, .slset), (0x24, .grant), (0x25, .revoke),
   (0x26, .arrset), (0x40, .cfetch), (0x41, .cstore), (0x42, .nwr), (0x43, .tcopy)] ++
  [(0x60, fun c w => if cROLE w then .openReceiveEnd c w else .openSendEnd c w), (0x61, .close), (0x62, .send), (0x63, .sendt),
   (0x64, .recv), (0x80, .mmul), (0x81, .mdrain), (0x84, .abind), (0x85, .acorr)] ++ vectorCommands

/-- The commands of the board and of the SMBus, which act without the device's rails or in its reset (R418, R452, R500 to R502);
the thermal trip acts whenever the rails are up (R427). -/
def boardCommand : Instr → Bool
  | .inputPowerApplied _ | .inputPowerRemoved | .pwrEnAssert | .pwrEnDeassert | .railsPowerGood | .railFault | .modResetAssert
  | .internalResetRelease _ | .refclkLoss | .railsOffTimeExpire | .sensorConversion _ | .status | .identity | .readFru _ | .temp
  | .power | .firstErr | .clearAlert | .alertResponse => true
  | _ => false

end Sys2Proof
end

