-- ==== Sys2Proof/Laws/Issue.lean ====
section
/-! SUPPORT. What the shared operations do, said once: the gates of a command, an instruction's way to its effect, the end of its
issue. -/

namespace Sys2Proof.Machine

theorem pgSEQ_def (c : Nat) : pgSEQ c = 0x1000000 + 0x40000 * c := rfl

/-- A device that is up takes a command to it. -/
theorem onChip_up (f : Chip → Chip) (s : State) (h : s.chip.up = true) : onChip f s = .next { s with chip := f s.chip } := by
  simp [onChip, h]

theorem onFabric_up (f : Chip → Chip) (s : State) (h : s.chip.fabricUp = true) :
    onFabric f s = .next { s with chip := f s.chip } := by
  simp [onFabric, h]

theorem onCore_up (c : Nat) (f : Chip → Chip) (s : State) (hc : c < 144) (h : s.chip.fabricUp = true) :
    onCore c f s = .next { s with chip := f s.chip } := by
  simp [onCore, hc, onFabric_up f s h]

theorem onUnit_up (max n : Nat) (f : Chip → Chip) (s : State) (hn : n < max) (h : s.chip.fabricUp = true) :
    onUnit max n f s = .next { s with chip := f s.chip } := by
  simp [onUnit, hn, onFabric_up f s h]

theorem onUnitChip_up (max n : Nat) (f : Chip → Chip) (s : State) (hn : n < max) (h : s.chip.up = true) :
    onUnitChip max n f s = .next { s with chip := f s.chip } := by
  simp [onUnitChip, hn, onChip_up f s h]

/-- A word that the core takes to issue unhindered takes its effect. -/
theorem Chip.issue_takes {s : Chip} {c : Nat} {w : IWord} (h : Takes s c w) (op : Nat → Bool) (eff : Chip → Chip)
    (ho : op (opcode w) = true) : s.issue c w op eff = eff s := by
  simp [Chip.issue, h.may, h.fetched, h.clean, ho, Chip.issueWord, h.known, h.unreserved, h.condFree, h.cond, h.free, h.pass]

@[simp] theorem Chip.endWait_core (s : Chip) (c : Nat) : (s.endWait c).core c = { s.core c with wait := none } := by
  simp [Chip.endWait, Chip.core, Chip.put, Chip.setReg, Chip.updCore, Chip.setCore]

/-- The end of an instruction's issue. -/
theorem Chip.retire_spec (s : Chip) (c : Nat) :
    Retired s (s.retire c) c ∧ (s.retire c).core c = coreIssued s c ∧ SeqFrame s (s.retire c) c (seqRegs c) [pgSEQ c] [] := by
  have hcore : ((s.endWait c).count (pgSEQ c) 0 1).core c = { s.core c with wait := none } := by
    simp [Chip.core, Chip.endWait, Chip.updCore, Chip.setCore]
  have hc2 : (s.retire c).core c = coreIssued s c := by
    simp only [Chip.retire, Chip.after, Chip.setPc, hcore, coreIssued]
    simp [Chip.core, Chip.updCore, Chip.setCore, Chip.endWait]
  have hst : (s.retire c).get (pgSEQ c) fSeqStall = 0 := by
    simp only [Chip.retire, Chip.after, Chip.setPc]
    rw [Chip.get_put_reg _ _ _ _ _ _ (by simp [fSeqStall, fSeqPc])]
    simp only [Chip.get, Chip.reg, Chip.updCore_frame, Chip.count_frame, Chip.endWait]
    exact (Chip.get_put_same (s.updCore c _) (pgSEQ c) fSeqStall 0 (by decide)).trans (by decide)
  refine ⟨⟨?_, hst, ?_⟩, hc2, ⟨?_, ?_, ?_, ?_, ?_⟩⟩
  · simp only [Chip.retire, Chip.after, Chip.setPc, Chip.pc, hcore]
    rw [Chip.get_put_same _ _ _ _ (by decide)]
    rfl
  · simp only [Chip.retire, Chip.after, Chip.setPc, Chip.countOf, Chip.put_frame, Chip.updCore_frame]
    have : (s.endWait c).countOf (pgSEQ c) 0 = s.countOf (pgSEQ c) 0 := by simp [Chip.countOf, Chip.endWait]
    have h2 := Chip.countOf_setCount_same (s.endWait c) (pgSEQ c) 0 (min (s.countOf (pgSEQ c) 0 + 1) (2 ^ 64 - 1)) (by omega)
    simp only [Chip.count, this]
    have e : (s.endWait c).setCount (pgSEQ c) 0 (s.countOf (pgSEQ c) 0 + 1) =
        (s.endWait c).setCount (pgSEQ c) 0 (min (s.countOf (pgSEQ c) 0 + 1) (2 ^ 64 - 1)) := by
      simp [Chip.setCount]
    rw [e]
    exact h2
  · rfl
  · intro k hk
    simp only [seqRegs, List.mem_cons, List.not_mem_nil, or_false, not_or] at hk
    simp only [Chip.retire, Chip.after, Chip.setPc]
    rw [Chip.reg_put_other _ _ _ _ _ hk.2]
    simp only [Chip.reg, Chip.updCore_frame, Chip.count_frame, Chip.endWait]
    exact Chip.reg_put_other (s.updCore c _) _ _ _ _ hk.1
  · intro k hk
    simp only [List.mem_cons, List.not_mem_nil, or_false] at hk
    simp only [Chip.retire, Chip.after, Chip.setPc, Chip.put_frame, Chip.updCore_frame, Chip.count, Chip.setCount]
    rw [sget_sset_other _ _ _ (by simpa using hk)]
    simp [Chip.endWait]
  · intro k _; rfl
  · intro e he
    simp only [Chip.retire, Chip.after, Chip.setPc, Chip.core, Chip.put_frame, Chip.count_frame, Chip.endWait]
    simp only [Chip.updCore, Chip.setCore, Chip.count_frame, Chip.put_frame]
    rw [sget_sset_other _ _ _ he, sget_sset_other _ _ _ he]

end Sys2Proof.Machine
end

