-- ==== Sys2Proof/Laws/Faults.lean ====
section
/-! SUPPORT. What logging an error and faulting a core and its context do: which registers they write, and what stands after. -/

namespace Sys2Proof.Machine

/-- A fold of updates that each keep a reading keeps it. -/
theorem Chip.forEach_keep {β : Type} (g : Chip → β) (l : List Nat) (f : Chip → Nat → Chip) (s : Chip)
    (h : ∀ (t : Chip) (n : Nat), n ∈ l → g (f t n) = g t) : g (s.forEach l f) = g s := by
  unfold Chip.forEach
  induction l generalizing s with
  | nil => rfl
  | cons a t ih => rw [List.foldl_cons, ih (f s a) (fun u n hn => h u n (List.mem_cons_of_mem a hn)), h s a (List.mem_cons_self ..)]

theorem List.foldl_keep {α β γ : Type} (g : α → β) (l : List γ) (f : α → γ → α) (s : α)
    (h : ∀ (t : α) (n : γ), g (f t n) = g t) : g (l.foldl f s) = g s := by
  induction l generalizing s with
  | nil => rfl
  | cons a t ih => rw [List.foldl_cons, ih, h]

theorem Chip.reg_put64_other (s : Chip) (page off v k : Nat) (h : k ≠ page + off) (h2 : k ≠ page + off + 4) :
    (s.put64 page off v).reg k = s.reg k := by
  unfold Chip.put64
  rw [Chip.reg_setReg_other _ _ h2, Chip.reg_setReg_other _ _ h]

theorem Chip.reg_raise_other (s : Chip) (page b k : Nat) (h : k ≠ page + 0x028) : (s.raise page b).reg k = s.reg k :=
  Chip.reg_setReg_other _ _ h

/-- The window of the pages of core `c`. -/
def inCoreWindow (c k : Nat) : Prop := pgSEQ c ≤ k ∧ k < pgSEQ c + 0x7000

theorem Chip.reg_logLocal_other (s : Chip) (page code cw k : Nat) (h : k < page + 0x010 ∨ page + 0x02C ≤ k) :
    (s.logLocal page code cw).reg k = s.reg k := by
  unfold Chip.logLocal
  split
  · have h1 : k ≠ page + 0x010 := by omega
    have h2 : k ≠ page + 0x018 := by omega
    have h3 : k ≠ page + 0x01C := by omega
    have h4 : k ≠ page + 0x020 := by omega
    have h5 : k ≠ page + 0x020 + 4 := by omega
    have h6 : k ≠ page + 0x028 := by omega
    dsimp only
    split <;> split <;>
      simp only [Chip.reg_raise_other _ _ _ _ h6, Chip.reg_put64_other _ _ _ _ _ h4 h5,
        Chip.reg_put_other _ _ fErrCtx _ _ h3, Chip.reg_put_other _ _ fErrFirst _ _ h2, Chip.reg_setReg_other _ _ h1]
  · rfl

theorem Chip.reg_logGlobal_other (s : Chip) (page code cw k : Nat) (h : k < pgGERP ∨ pgGERP + 0x1000 ≤ k) :
    (s.logGlobal page code cw).reg k = s.reg k := by
  unfold Chip.logGlobal
  have hp : ∀ f : Fld, f.off < 0x1000 → k ≠ pgGERP + f.off := fun f hf => by omega
  split
  · rfl
  · split
    · rw [Chip.reg_raise_other _ _ _ _ (by omega), Chip.reg_put64_other _ _ _ _ _ (by omega) (by omega),
        Chip.reg_put_other _ _ _ _ _ (hp _ (by decide)), Chip.reg_put_other _ _ _ _ _ (hp _ (by decide)),
        Chip.reg_put_other _ _ _ _ _ (hp _ (by decide))]
    · exact Chip.reg_put_other _ _ _ _ _ (hp _ (by decide))

/-- Logging an error writes registers of the page's error block and of the global log only (R394, R395). -/
theorem Chip.reg_logErr_other (s : Chip) (page code cw k : Nat) (h : k < page + 0x010 ∨ page + 0x02C ≤ k)
    (hg : k < pgGERP ∨ pgGERP + 0x1000 ≤ k) : (s.logErr page code cw).reg k = s.reg k := by
  unfold Chip.logErr
  rw [Chip.reg_logGlobal_other _ _ _ _ _ hg, Chip.reg_logLocal_other _ _ _ _ _ h]

theorem Chip.reg_inc_other (s : Chip) (page : Nat) (f : Fld) (n k : Nat) (h : k ≠ page + f.off) :
    (s.inc page f n).reg k = s.reg k := Chip.reg_put_other s page f _ k h

/-- `t` differs from `s` in registers only. -/
def RegsOnly (s t : Chip) : Prop := t = { s with regs := t.regs }

theorem RegsOnly.refl (s : Chip) : RegsOnly s s := rfl
theorem RegsOnly.trans {s t u : Chip} (h : RegsOnly s t) (h2 : RegsOnly t u) : RegsOnly s u := by
  unfold RegsOnly at *; rw [h2, h]
theorem regsOnly_setReg (s : Chip) (k : Nat) (v : Word) : RegsOnly s (s.setReg k v) := rfl
theorem regsOnly_put (s : Chip) (p : Nat) (f : Fld) (v : Nat) : RegsOnly s (s.put p f v) := rfl
theorem regsOnly_inc (s : Chip) (p : Nat) (f : Fld) (v : Nat) : RegsOnly s (s.inc p f v) := rfl
theorem regsOnly_raise (s : Chip) (p b : Nat) : RegsOnly s (s.raise p b) := rfl
theorem regsOnly_put64 (s : Chip) (p o v : Nat) : RegsOnly s (s.put64 p o v) := rfl

theorem Chip.logLocal_rest (s : Chip) (page code cw : Nat) : RegsOnly s (s.logLocal page code cw) := by
  unfold Chip.logLocal
  split
  · dsimp only
    have h1 := regsOnly_setReg s (page + 0x010) (s.reg (page + 0x010) ||| BitVec.ofNat 32 (2 ^ errBit code))
    have h2 := ((h1.trans (regsOnly_put _ page fErrFirst code)).trans (regsOnly_put _ page fErrCtx cw)).trans
      (regsOnly_put64 _ page 0x020 s.beat)
    split <;> split
    · exact h2.trans (regsOnly_raise _ _ _)
    · exact h1.trans (regsOnly_raise _ _ _)
    · exact h2
    · exact h1
  · exact .refl s

theorem Chip.logGlobal_rest (s : Chip) (page code cw : Nat) : RegsOnly s (s.logGlobal page code cw) := by
  unfold Chip.logGlobal
  split
  · exact .refl s
  · split
    · exact ((((regsOnly_put _ _ _ _).trans (regsOnly_put _ _ _ _)).trans (regsOnly_put _ _ _ _)).trans
        (regsOnly_put64 _ _ _ _)).trans (regsOnly_raise _ _ _)
    · exact regsOnly_inc _ _ _ _

/-- Logging an error changes registers only. -/
theorem Chip.logErr_rest (s : Chip) (page code cw : Nat) : RegsOnly s (s.logErr page code cw) :=
  (Chip.logLocal_rest s page code cw).trans (Chip.logGlobal_rest _ page code cw)

/-- Logging the corrected words of a range changes registers only. -/
theorem Chip.noteCorr_rest (s : Chip) (page cw a n : Nat) : RegsOnly s (s.noteCorr page cw a n) := by
  unfold Chip.noteCorr
  dsimp only
  split <;> split
  · exact (Chip.logErr_rest _ _ _ _).trans (Chip.logErr_rest _ _ _ _)
  · exact Chip.logErr_rest _ _ _ _
  · exact Chip.logErr_rest _ _ _ _
  · exact .refl s

/-- It writes the unit's log and the global one, and no other register. -/
theorem Chip.reg_noteCorr_other (s : Chip) (page cw a n k : Nat) (h : k < page + 0x010 ∨ page + 0x02C ≤ k)
    (hg : k < pgGERP ∨ pgGERP + 0x1000 ≤ k) : (s.noteCorr page cw a n).reg k = s.reg k := by
  unfold Chip.noteCorr
  dsimp only
  split <;> split <;> simp [Chip.reg_logErr_other, h, hg]

/-- A fetch of sound words is not corrected. -/
theorem Chip.noteFetch_sound (s : Chip) (c : Nat) (h : s.errs = []) : s.noteFetch c = s := by
  unfold Chip.noteFetch
  split
  · split <;> simp [Chip.noteCorr, h]
  · simp [Chip.noteCorr, h]

/-- A fetch that is corrected changes registers only. -/
theorem Chip.noteFetch_rest (s : Chip) (c : Nat) : RegsOnly s (s.noteFetch c) := by
  unfold Chip.noteFetch
  split
  · split
    · exact Chip.noteCorr_rest _ _ _ _ _
    · exact .refl s
  · exact Chip.noteCorr_rest _ _ _ _ _

theorem Chip.reg_noteFetch_other (s : Chip) (c k : Nat) (h : k < pgSEQ c + 0x010 ∨ pgSEQ c + 0x02C ≤ k)
    (hg : k < pgGERP ∨ pgGERP + 0x1000 ≤ k) : (s.noteFetch c).reg k = s.reg k := by
  unfold Chip.noteFetch
  split
  · split
    · exact Chip.reg_noteCorr_other _ _ _ _ _ _ h hg
    · rfl
  · exact Chip.reg_noteCorr_other _ _ _ _ _ _ h hg

theorem Chip.reg_netKeep (s : Chip) (f : Packet → Bool) (k : Nat) : (s.netKeep f).reg k = s.reg k := rfl

theorem Chip.get_netKeep (s : Chip) (f : Packet → Bool) (p : Nat) (g : Fld) : (s.netKeep f).get p g = s.get p g := rfl

theorem Chip.reg_stopCore_other (s : Chip) (c code cause pc k : Nat) (h : ¬ inCoreWindow c k) :
    (s.stopCore c code cause pc).reg k = s.reg k := by
  unfold Chip.stopCore
  split
  · rfl
  · have hw : ∀ o, o < 0x7000 → k ≠ pgSEQ c + o := fun o ho e => h ⟨by omega, by omega⟩
    dsimp only
    refine (Chip.forEach_keep (fun t : Chip => t.reg k) _ _ _ fun t n hn => ?_).trans ?_
    · split
      · refine Chip.reg_put_other _ _ _ _ _ ?_
        have hn := List.mem_range.1 hn
        have := hw (0x6000 + (0x400 + 16 * n)) (by omega)
        simpa [pgCHAN, Nat.add_assoc] using this
      · rfl
    · rw [Chip.reg_netKeep, Chip.reg_put_other _ _ _ _ _ (hw _ (by decide)), Chip.reg_put_other _ _ _ _ _ (hw _ (by decide))]
      rfl

theorem Chip.stopCore_still (s : Chip) (c code cause pc : Nat) (h : s.seqState c = sqIDLE ∨ s.seqState c = sqFAULTED) :
    s.stopCore c code cause pc = s := by
  unfold Chip.stopCore
  simp [h]

/-- A core that stops is FAULTED with its code, cause and index, and holds no command and no wait (R95). -/
theorem Chip.stopCore_spec (s : Chip) (c code cause pc : Nat) (h : s.seqState c ≠ sqIDLE) (h2 : s.seqState c ≠ sqFAULTED) :
    (s.stopCore c code cause pc).seqState c = sqFAULTED ∧
    (s.stopCore c code cause pc).get (pgSEQ c) fSeqFault = (code + cause % 256 * 256 + pc % 8192 * 65536) % 2 ^ 29 ∧
    ((s.stopCore c code cause pc).core c).q = [] ∧ ((s.stopCore c code cause pc).core c).run = [] ∧
    ((s.stopCore c code cause pc).core c).wait = none := by
  unfold Chip.stopCore
  simp only [h, h2, decide_false, Bool.or_self, Bool.false_eq_true, if_false]
  have hch : ∀ (u : Chip) (n : Nat), n ∈ List.range 64 → ∀ f : Fld, f.off < 0x1000 →
      (if u.get (pgCHAN c) ⟨0x400 + 16 * n, 0, 3⟩ = 2 then u.put (pgCHAN c) ⟨0x400 + 16 * n, 0, 3⟩ 0 else u).get (pgSEQ c) f =
        u.get (pgSEQ c) f := by
    intro u n hn f hf
    split
    · refine Chip.get_put_reg _ _ _ _ _ _ ?_
      have := List.mem_range.1 hn
      simp only [pgCHAN]; omega
    · rfl
  have hco : ∀ (u : Chip) (n : Nat), n ∈ List.range 64 →
      (if u.get (pgCHAN c) ⟨0x400 + 16 * n, 0, 3⟩ = 2 then u.put (pgCHAN c) ⟨0x400 + 16 * n, 0, 3⟩ 0 else u).core c = u.core c := by
    intro u n _
    split <;> simp [Chip.core]
  refine ⟨?_, ?_, ?_, ?_, ?_⟩
  · unfold Chip.seqState
    rw [Chip.forEach_keep (fun t : Chip => t.get (pgSEQ c) fSeqState) _ _ _ fun t n hn => hch t n hn _ (by decide)]
    rw [Chip.get_netKeep, Chip.get_put_reg _ _ _ _ _ _ (by simp [fSeqState, fSeqFault]), Chip.get_put_same _ _ _ _ (by decide)]
    rfl
  · rw [Chip.forEach_keep (fun t : Chip => t.get (pgSEQ c) fSeqFault) _ _ _ fun t n hn => hch t n hn _ (by decide)]
    rw [Chip.get_netKeep, Chip.get_put_same _ _ _ _ (by decide)]
    rfl
  all_goals
    rw [Chip.forEach_keep (fun t : Chip => t.core c) _ _ _ fun t n hn => hco t n hn]
    simp [Chip.core, Chip.setCore]

/-! ## The stream engine's part in a fault (R401) -/

theorem Chip.putPhys_regs (s : Chip) (a : Nat) (l : List (BitVec 8)) : (s.putPhys a l).regs = s.regs :=
  List.foldl_keep (fun t : Chip => t.regs) _ _ _ fun t n => by simp

theorem Chip.putPhys_cores (s : Chip) (a : Nat) (l : List (BitVec 8)) : (s.putPhys a l).cores = s.cores :=
  List.foldl_keep (fun t : Chip => t.cores) _ _ _ fun t n => by simp

/-- Counting the lines of a record's run changes no register and no core. -/
theorem Chip.physLines_keep {β : Type} (f : Chip → β) (hf : ∀ (t : Chip) p c n, f (t.count p c n) = f t) (s : Chip) (a n : Nat) :
    f (s.physLines a n) = f s :=
  List.foldl_keep f _ _ _ fun t i => by
    dsimp only
    split
    · rw [hf, hf]
    · rfl

theorem Chip.physLines_regs (s : Chip) (a n : Nat) : (s.physLines a n).regs = s.regs :=
  Chip.physLines_keep (fun t => t.regs) (fun _ _ _ _ => rfl) s a n

theorem Chip.physLines_cores (s : Chip) (a n : Nat) : (s.physLines a n).cores = s.cores :=
  Chip.physLines_keep (fun t => t.cores) (fun _ _ _ _ => rfl) s a n

theorem Chip.reg_ringWrite_other (s : Chip) (b : List (BitVec 8)) (k : Nat) (h : k < pgSE ∨ pgSE + 0x1000 ≤ k) :
    (s.ringWrite b).reg k = s.reg k := by
  unfold Chip.ringWrite
  dsimp only
  rw [Chip.reg_raise_other _ _ _ _ (by omega), Chip.reg_put_other _ _ _ _ _ (by simp only [fOutHead]; omega)]
  unfold Chip.reg
  rw [Chip.physLines_regs, Chip.putPhys_regs]
  split
  · rw [Chip.physLines_regs, Chip.putPhys_regs]
  · rfl

theorem Chip.ringWrite_cores (s : Chip) (b : List (BitVec 8)) : (s.ringWrite b).cores = s.cores := by
  unfold Chip.ringWrite
  dsimp only
  rw [(Chip.raise_frame ..).2.2.2.2.2.1, (Chip.put_frame ..).2.2.2.2.2.1, Chip.physLines_cores, Chip.putPhys_cores]
  split
  · rw [Chip.physLines_cores, Chip.putPhys_cores]
  · rfl

theorem Chip.reg_waitRoom_other (s : Chip) (k : Nat) (h : k < pgSE ∨ pgSE + 0x1000 ≤ k) : s.waitRoom.reg k = s.reg k := by
  have hw : k ≠ pgSE + fOutWait.off := by simp only [fOutWait]; omega
  have hr : k ≠ pgSE + 0x028 := by omega
  unfold Chip.waitRoom
  split
  · exact Chip.reg_put_other _ _ _ _ _ hw
  · split
    · exact Chip.reg_put_other _ _ _ _ _ hw
    · split
      · rfl
      · rw [Chip.reg_raise_other _ _ _ _ hr, Chip.reg_put_other _ _ _ _ _ hw]

theorem Chip.waitRoom_cores (s : Chip) : s.waitRoom.cores = s.cores := by
  unfold Chip.waitRoom
  repeat' split
  all_goals simp

theorem Chip.reg_drainRecord_other (s : Chip) (k : Nat) (h : k < pgSE ∨ pgSE + 0x1000 ≤ k) :
    s.drainRecord.reg k = s.reg k := by
  have hr : k ≠ pgSE + 0x028 := by omega
  unfold Chip.drainRecord
  split
  · rfl
  · split
    · dsimp only
      split <;> simp only [Chip.reg_raise_other _ _ _ _ hr, Chip.reg_waitRoom_other _ _ h, Chip.reg_ringWrite_other _ _ _ h] <;> rfl
    · exact Chip.reg_waitRoom_other _ _ h

theorem Chip.drainRecord_cores (s : Chip) : s.drainRecord.cores = s.cores := by
  unfold Chip.drainRecord
  split
  · rfl
  · split
    · dsimp only
      split <;> simp [Chip.waitRoom_cores, Chip.ringWrite_cores]
    · exact Chip.waitRoom_cores s

theorem Chip.reg_addRecord_other (s : Chip) (r : OutRecord) (k : Nat) (h : k < pgSE ∨ pgSE + 0x1000 ≤ k) :
    (s.addRecord r).reg k = s.reg k := by
  unfold Chip.addRecord
  rw [Chip.reg_waitRoom_other _ _ h]
  rfl

theorem Chip.addRecord_cores (s : Chip) (r : OutRecord) : (s.addRecord r).cores = s.cores := by
  unfold Chip.addRecord
  rw [Chip.waitRoom_cores]

theorem Chip.reg_count (s : Chip) (p c n k : Nat) : (s.count p c n).reg k = s.reg k := rfl

theorem Chip.reg_setSeCtx (s : Chip) (x : Nat) (v : SeCtx) (k : Nat) : (s.setSeCtx x v).reg k = s.reg k := rfl

/-- The stream engine's part in a fault of a context writes registers of its own pages only (R370, R401). -/
theorem reg_seFault_other (x : Nat) (s : Chip) (k : Nat) (hx : x < 16) (h : k < pgSE ∨ pgSE + 0x11000 ≤ k) :
    (seFault x s).reg k = s.reg k := by
  have h2 : k < pgSE ∨ pgSE + 0x1000 ≤ k := h.imp_right (Nat.le_trans (Nat.add_le_add_left (by decide) _))
  have h3 : k ≠ pgCTX x + fCtxEn.off := by
    have e : pgCTX x + fCtxEn.off = 0x3801000 + 0x1000 * x + 0x100 := by simp only [pgCTX, fCtxEn]
    have e2 : pgSE = 0x3800000 := rfl
    rw [e]; rw [e2] at h; omega
  unfold seFault
  dsimp only
  split <;> simp only [Chip.reg_drainRecord_other _ _ h2, Chip.reg_addRecord_other _ _ _ h2, Chip.reg_count,
      Chip.reg_put_other _ _ _ _ _ h3, Chip.reg_setSeCtx] <;> rfl

theorem seFault_cores (x : Nat) (s : Chip) : (seFault x s).cores = s.cores := by
  unfold seFault
  dsimp only
  split <;> simp [Chip.drainRecord_cores, Chip.addRecord_cores]

/-! ## A context faults (R399, R401) -/

theorem pgSEQ_apart {c e o p : Nat} (h : c ≠ e) (ho : o < 0x7000) (hp : p < 0x7000) : pgSEQ c + o ≠ pgSEQ e + p := by
  simp only [pgSEQ]; omega

theorem Chip.stopCore_other_core (s : Chip) (c e code cause pc : Nat) (h : e ≠ c) :
    (s.stopCore c code cause pc).core e = s.core e := by
  unfold Chip.stopCore
  split
  · rfl
  · dsimp only
    refine (Chip.forEach_keep (fun t : Chip => t.core e) _ _ _ fun t n _ => ?_).trans ?_
    · split <;> simp [Chip.core]
    · simp only [Chip.core, Chip.netKeep_frame, Chip.put_frame]
      exact Chip.core_setCore_other s _ h

/-- A core that is FAULTED stays so, with its fault, when its context faults. -/
theorem Chip.contextFault_keeps (s : Chip) (x code page c : Nat) (hc : c < 144) (hx : x < 16) (h : s.seqState c = sqFAULTED) :
    (s.contextFault x code page).seqState c = sqFAULTED ∧
    (s.contextFault x code page).get (pgSEQ c) fSeqFault = s.get (pgSEQ c) fSeqFault ∧
    (s.contextFault x code page).core c = s.core c := by
  have hr : ∀ (f : Fld), f.off < 0x7000 → (pgSEQ c + f.off < pgSE ∨ pgSE + 0x11000 ≤ pgSEQ c + f.off) := by
    intro f hf; simp only [pgSE, pgSEQ]; omega
  have hn : ∀ (f : Fld) (o : Nat), f.off < 0x7000 → o < 0x1000 → pgSEQ c + f.off ≠ pgFLT + o := by
    intro f o hf ho; simp only [pgFLT, pgSEQ]; omega
  unfold Chip.contextFault
  dsimp only
  split
  · have hF : ∀ f : Fld, f.off < 0x7000 → ∀ (u : Chip) (v w z b i : Nat),
        (((((((u.put pgFLT (fFltState x) v).put pgFLT (fFltCaptureOk x) w).put pgFLT (fFltFirst x) z).put64 pgFLT
          (0x214 + 0x40 * x) b).inc pgFLT (fFltCount x) 1).count pgFLT i 1).raise pgFLT 0).get (pgSEQ c) f = u.get (pgSEQ c) f := by
      intro f hf u v w z b i
      simp only [Chip.get]
      rw [Chip.reg_raise_other _ _ _ _ (hn f 0x028 hf (by omega))]
      simp only [Chip.reg, Chip.count_frame]
      have e1 : pgSEQ c + f.off ≠ pgFLT + (fFltCount x).off := hn f _ hf (by simp only [fFltCount]; omega)
      have e2 : pgSEQ c + f.off ≠ pgFLT + (fFltFirst x).off := hn f _ hf (by simp only [fFltFirst]; omega)
      have e3 : pgSEQ c + f.off ≠ pgFLT + (fFltCaptureOk x).off := hn f _ hf (by simp only [fFltCaptureOk]; omega)
      have e4 : pgSEQ c + f.off ≠ pgFLT + (fFltState x).off := hn f _ hf (by simp only [fFltState]; omega)
      have e5 : pgSEQ c + f.off ≠ pgFLT + (0x214 + 0x40 * x) := hn f _ hf (by omega)
      have e6 : pgSEQ c + f.off ≠ pgFLT + (0x214 + 0x40 * x) + 4 := by
        have := hn f (0x214 + 0x40 * x + 4) hf (by omega); omega
      have a0 := fun (y : Chip) => Chip.reg_inc_other y pgFLT (fFltCount x) 1 _ e1
      have a1 := fun (y : Chip) => Chip.reg_put64_other y pgFLT (0x214 + 0x40 * x) b _ e5 e6
      have a2 := fun (y : Chip) => Chip.reg_put_other y pgFLT (fFltFirst x) z _ e2
      have a3 := fun (y : Chip) => Chip.reg_put_other y pgFLT (fFltCaptureOk x) w _ e3
      have a4 := fun (y : Chip) => Chip.reg_put_other y pgFLT (fFltState x) v _ e4
      simp only [Chip.reg] at a0 a1 a2 a3 a4
      rw [a0, a1, a2, a3, a4]
    have key : ∀ (l : List Nat) (u : Chip), u.seqState c = sqFAULTED →
        (u.forEach l fun t d => t.stopCore d 0 0 (t.pc d)).seqState c = sqFAULTED ∧
        (u.forEach l fun t d => t.stopCore d 0 0 (t.pc d)).get (pgSEQ c) fSeqFault = u.get (pgSEQ c) fSeqFault ∧
        (u.forEach l fun t d => t.stopCore d 0 0 (t.pc d)).core c = u.core c := by
      intro l
      induction l with
      | nil => intro u hu; exact ⟨hu, rfl, rfl⟩
      | cons d t ih =>
        intro u hu
        by_cases hd : d = c
        · subst hd
          have : u.stopCore d 0 0 (u.pc d) = u := Chip.stopCore_still _ _ _ _ _ (.inr hu)
          have := ih u hu
          simp only [Chip.forEach, List.foldl_cons, Chip.stopCore_still _ _ _ _ _ (Or.inr hu)] at this ⊢
          exact this
        · have hg : ∀ f : Fld, f.off < 0x7000 → (u.stopCore d 0 0 (u.pc d)).get (pgSEQ c) f = u.get (pgSEQ c) f := by
            intro f hf
            simp only [Chip.get]
            rw [Chip.reg_stopCore_other]
            intro hw
            unfold inCoreWindow at hw
            simp only [pgSEQ] at hw
            omega
          have h2 := ih (u.stopCore d 0 0 (u.pc d)) ((hg fSeqState (by decide)).trans hu)
          rw [hg fSeqFault (by decide), Chip.stopCore_other_core _ _ _ _ _ _ (Ne.symm hd)] at h2
          exact h2
    have hse : ∀ (u : Chip) (f : Fld), f.off < 0x7000 → (seFault x u).get (pgSEQ c) f = u.get (pgSEQ c) f := by
      intro u f hf
      simp only [Chip.get]
      rw [reg_seFault_other x u _ hx (hr f hf)]
    have hcoreS : ∀ u : Chip, (seFault x u).core c = u.core c := fun u => by simp only [Chip.core, seFault_cores]
    unfold Chip.seqState
    rw [hse _ _ (by decide), hse _ _ (by decide), hcoreS]
    have hq := (hF fSeqState (by decide) s 2 (s.captureOk x) (code + blkSrc page * 256) s.beat
      (if code = eKILLED then 1 else 0)).trans h
    refine ⟨(key _ _ hq).1, ((key _ _ hq).2.1).trans (hF fSeqFault (by decide) s _ _ _ _ _), ((key _ _ hq).2.2).trans ?_⟩
    simp [Chip.core]
  · split
    · exact ⟨h, rfl, rfl⟩
    · have : ∀ f : Fld, f.off < 0x7000 → (s.inc pgFLT (fFltCount x) 1).get (pgSEQ c) f = s.get (pgSEQ c) f := by
        intro f hf
        exact Chip.get_put_reg _ _ _ _ _ _ (hn f _ hf (by simp only [fFltCount]; omega))
      exact ⟨(this fSeqState (by decide)).trans h, this _ (by decide), by simp [Chip.core]⟩

theorem Chip.ctxOf_lt (s : Chip) (c : Nat) : s.ctxOf c < 16 := Chip.get_lt s (pgSEQ c) fSeqCtx

/-- The fault of a core (R95, R142): the sequencer is FAULTED with the code, the cause and the index, and nothing of the core is queued,
running or waiting. -/
theorem Chip.faultCore_spec (s : Chip) (c j code cause pc : Nat) (hc : c < 144) (h : s.seqState c ≠ sqIDLE)
    (h2 : s.seqState c ≠ sqFAULTED) (hcode : code < 256) :
    let t := s.faultCore c (pgSEQ c + 0x1000 * j) code cause pc
    t.seqState c = sqFAULTED ∧ t.get (pgSEQ c) fSeqFault = code + cause % 256 * 256 + pc % 8192 * 65536 ∧
    (t.core c).q = [] ∧ (t.core c).run = [] ∧ (t.core c).wait = none := by
  intro t
  have hl : ∀ f : Fld, 0x100 ≤ f.off → f.off < 0x1000 →
      (s.logErr (pgSEQ c + 0x1000 * j) code (s.coreCtxw c)).get (pgSEQ c) f = s.get (pgSEQ c) f := by
    intro f hf hf2
    simp only [Chip.get]
    rw [Chip.reg_logErr_other _ _ _ _ _ (by omega) (by simp only [pgGERP, pgSEQ]; omega)]
  have hs := Chip.stopCore_spec (s.logErr (pgSEQ c + 0x1000 * j) code (s.coreCtxw c)) c code cause pc
    (by rw [Chip.seqState, hl fSeqState (by decide) (by decide)]; exact h)
    (by rw [Chip.seqState, hl fSeqState (by decide) (by decide)]; exact h2)
  have hk := Chip.contextFault_keeps _ (s.ctxOf c) code (pgSEQ c + 0x1000 * j) c hc (s.ctxOf_lt c) hs.1
  refine ⟨hk.1, ?_, ?_, ?_, ?_⟩
  · rw [show t.get (pgSEQ c) fSeqFault = _ from hk.2.1, hs.2.1]
    apply Nat.mod_eq_of_lt
    omega
  · rw [show t.core c = _ from hk.2.2]; exact hs.2.2.1
  · rw [show t.core c = _ from hk.2.2]; exact hs.2.2.2.1
  · rw [show t.core c = _ from hk.2.2]; exact hs.2.2.2.2

end Sys2Proof.Machine
end

