-- ==== Sys2Proof/Laws/Pump.lean ====
section
/-! SUPPORT. How the engines of a core go on: with nothing queued nothing happens, and one queued command is taken once. -/

namespace Sys2Proof.Machine

theorem Core.queue_nil {k : Core} (h : k.q = []) (u : Nat) : k.queue u = [] := by
  simp [Core.queue, h, cmdsReset]

theorem Core.queue_one {k : Core} {u : Nat} {m : Cmd} (h : k.q = [(u, [m])]) (v : Nat) :
    k.queue v = if u = v then [m] else [] := by
  simp [Core.queue, h, sget, cmdsReset]

/-- A unit whose queue is empty does nothing by itself; the synchronisation unit only where it executes nothing. -/
theorem Chip.pumpUnit_empty (s : Chip) (c u : Nat) (h : (s.core c).queue u = [])
    (h2 : u = uSYNC → (s.core c).running uSYNC = []) : s.pumpUnit c u = s := by
  unfold Chip.pumpUnit
  by_cases hu : u = uSYNC
  · subst hu; simp [h2 rfl, h]
  · simp [hu, h]

theorem Chip.pumpOnce_empty (s : Chip) (c : Nat) (h : (s.core c).q = []) (h2 : (s.core c).running uSYNC = []) :
    s.pumpOnce c = s := by
  unfold Chip.pumpOnce
  have hk : ∀ l : List Nat, l.foldl (fun t u => t.pumpUnit c u) s = s := by
    intro l
    induction l with
    | nil => rfl
    | cons u t ih => rw [List.foldl_cons, Chip.pumpUnit_empty s c u (Core.queue_nil h u) (fun _ => h2), ih]
  exact hk _

/-- With nothing queued and nothing in the synchronisation unit the engines do nothing by themselves. -/
theorem Chip.pump_empty (s : Chip) (c : Nat) (h : (s.core c).q = []) (h2 : (s.core c).running uSYNC = []) : s.pump c = s := by
  unfold Chip.pump
  have : ∀ n, s.pumpN c n = s := by
    intro n
    induction n with
    | zero => rfl
    | succ n ih => rw [Chip.pumpN, Chip.pumpOnce_empty s c h h2, ih]
  exact this _

theorem Chip.pumpUnits_empty (s : Chip) (c : Nat) (h : ∀ u, (s.core c).queue u = []) (h2 : (s.core c).running uSYNC = [])
    (l : List Nat) : l.foldl (fun t u => t.pumpUnit c u) s = s := by
  induction l with
  | nil => rfl
  | cons u t ih => rw [List.foldl_cons, Chip.pumpUnit_empty s c u (h u) (fun _ => h2), ih]

/-- One queued command, of a unit other than the synchronisation unit, which leaves its queue when the unit takes it: the
engines take it once and then rest. -/
theorem Chip.pump_one (s r : Chip) (c u : Nat) (m : Cmd) (hu : u ∈ unitOrder) (h : (s.core c).q = [(u, [m])])
    (hs : (s.core c).running uSYNC = []) (hr : s.pumpUnit c u = r) (hq : (r.core c).q = [])
    (hrs : (r.core c).running uSYNC = [] ) (hne : u ≠ uSYNC) : s.pump c = r := by
  have he : ∀ v, v ≠ u → s.pumpUnit c v = s := fun v hv =>
    Chip.pumpUnit_empty s c v (by rw [Core.queue_one h, if_neg (Ne.symm hv)]) (fun _ => hs)
  have hre : ∀ v, r.pumpUnit c v = r := fun v => Chip.pumpUnit_empty r c v (Core.queue_nil hq v) (fun _ => hrs)
  have hone : s.pumpOnce c = r := by
    have key : ∀ l : List Nat, u ∈ l → l.Nodup → l.foldl (fun t u => t.pumpUnit c u) s = r := by
      intro l
      induction l with
      | nil => intro h; simp at h
      | cons v t ih =>
        intro hm hn
        rw [List.foldl_cons]
        rw [List.nodup_cons] at hn
        by_cases hv : v = u
        · subst hv
          rw [hr]
          exact Chip.pumpUnits_empty r c (Core.queue_nil hq) hrs t
        · rw [he v hv]
          rcases List.mem_cons.1 hm with e | e
          · exact absurd e.symm hv
          · exact ih e hn.2
    exact key unitOrder hu (by decide)
  unfold Chip.pump
  have h2 : (s.core c).queued + 1 = 2 := by simp [Core.queued, h]
  rw [h2, Chip.pumpN, hone, Chip.pumpN, Chip.pumpOnce_empty r c hq hrs]
  rfl

/-- A queued command whose unit does not take it stays. -/
theorem Chip.pump_stays (s : Chip) (c u : Nat) (m : Cmd) (h : (s.core c).q = [(u, [m])])
    (hs : (s.core c).running uSYNC = []) (hr : s.pumpUnit c u = s) : s.pump c = s := by
  have he : ∀ v, s.pumpUnit c v = s := fun v => by
    by_cases hv : v = u
    · rw [hv, hr]
    · exact Chip.pumpUnit_empty s c v (by rw [Core.queue_one h, if_neg (Ne.symm hv)]) (fun _ => hs)
  have hone : s.pumpOnce c = s := by
    unfold Chip.pumpOnce
    have key : ∀ l : List Nat, l.foldl (fun t u => t.pumpUnit c u) s = s := by
      intro l
      induction l with
      | nil => rfl
      | cons v t ih => rw [List.foldl_cons, he v, ih]
    exact key _
  unfold Chip.pump
  have : ∀ n, s.pumpN c n = s := by
    intro n
    induction n with
    | zero => rfl
    | succ n ih => rw [Chip.pumpN, hone, ih]
  exact this _

end Sys2Proof.Machine
end

