-- ==== Sys2Proof/Machine/Irq.lean ====
section
/-! DEFINITION. The kiln's interrupt controller (R443, R474): its sources, their levels, its targets.  The controller's own registers
(priorities, enables, thresholds, claims) are those of the RISC-V PLIC specification, which only the kiln's cores reach. (DESIGN CHOICE, log 36) -/

namespace Sys2Proof.Machine

/-- A page asserts its interrupt source: a bit of INT_STAT AND INT_EN is 1 (R474). -/
def Chip.pageIrq (s : Chip) (page : Nat) : Bool := s.get page fIntStat &&& s.get page fIntEn ≠ 0

/-- The pages of a core block. -/
def corePages (c : Nat) : List Nat := (List.range 7).map fun k => pgSEQ c + 0x1000 * k

/-- The level of source `n` of the interrupt controller (R443): the OR of the enabled bits of its block's pages; 208 shows that a tray
controller command has arrived, 209 to 216 the watchdogs that have expired once (R441).  The sources of absent units and the reserved
ones are never asserted. (DESIGN CHOICE, log 36) (DESIGN CHOICE, log 85) -/
def Chip.irqSource (s : Chip) (n : Nat) : Bool :=
  if n = 0 then false
  else if n ≤ 144 then s.present (n - 1) && (corePages (n - 1)).any s.pageIrq
  else if n ≤ 180 then s.pageIrq (pgCEL (n - 145))
  else if n ≤ 196 then s.portPresent (n - 181) && s.pageIrq (pgLNK (n - 181))
  else if n ≤ 207 then
    (([pgLKC, pgSE, pgVAN, pgFLT, pgGOV, pgCLK, pgTHM, pgBEAT, pgGERP, pgMGT, pgSEC][n - 197]?).map s.pageIrq).getD false
  else if n = 208 then s.board.smbCame
  else if n ≤ 216 then s.wdogHit.contains (n - 209)
  else false

/-- The sources that are asserted: each is level-triggered (R443). (DESIGN CHOICE, log 36) -/
def Chip.irqs (s : Chip) : List Nat := (List.range 1024).filter s.irqSource

/-- The 16 targets (R443): of each of the eight kiln cores machine mode (`true`) and supervisor mode. (DESIGN CHOICE, log 36) -/
def irqTargets : List (Nat × Bool) := (List.range 8).flatMap fun k => [(k, true), (k, false)]

end Sys2Proof.Machine
end

