-- ==== Sys2Proof/WellFormed.lean ====
section
/-! DEFINITION. When a command is well formed: its unit numbers are numbers the spec gives (R4, R18, R20, R22, R75, R253, R275,
R282, R317, R353, R399, R422, R425), and an instruction row's word is an encoding of that row (R224, R238 to R247). -/

namespace Sys2Proof

/-- The number of a core (R18). -/
def coreOk (c : Nat) : Bool := decide (c < 144)

/-- The number of a port (R4). -/
def portOk (p : Nat) : Bool := decide (p < 16)

/-- The number of a context (R347, R399). -/
def ctxOk (x : Nat) : Bool := decide (x < 16)

/-- The number of a cluster, and of a cellar slice that is present (R18, R251). -/
def sliceOk (n : Nat) : Bool := decide (n < 36)

/-- Core `c` issues a word of opcode `o` (R224). -/
def wordOk (c : Nat) (w : BitVec 128) (o : Nat) : Bool := coreOk c && decide ((w.extractLsb' 120 8).toNat = o)

/-- The opcode is defined (R228, R238 to R247). -/
def knownOpcode (o : Nat) : Bool :=
  (decide (o ≤ 0x11) || (decide (0x20 ≤ o) && decide (o ≤ 0x26)) || (decide (0x40 ≤ o) && decide (o ≤ 0x43)) ||
  (decide (0x60 ≤ o) && decide (o ≤ 0x64)) || decide (o = 0x80) || decide (o = 0x81) || decide (o = 0x84) || decide (o = 0x85) ||
  (decide (0xA0 ≤ o) && decide (o ≤ 0xAE)) || (decide (0xC0 ≤ o) && decide (o ≤ 0xCB)))

/-- An endpoint that the spec numbers (R18, R20). -/
def Endpoint.ok : Endpoint → Bool
  | .core n => coreOk n
  | .slice n => decide (n < 64)
  | .kiln => true
  | .streamEngine => true
  | .vane => true
  | .port n => portOk n

/-- A packet between two endpoints of devices that the spec numbers (R20, R282). -/
def Packet.ok (p : Packet) : Bool := p.src.ep.ok && p.dst.ep.ok && decide (p.src.dev < 1024) && decide (p.dst.dev < 1024)

/-- An engine of a core that has a function reset (R407): matrix 1, vector 2, mover 3, adjunct 4, channel endpoint 5,
synchronisation unit 7. -/
def engineOk (c u : Nat) : Bool := coreOk c && [1, 2, 3, 4, 5, 7].contains u

/-- The unit of a function reset (R407). -/
def ResetTarget.ok : ResetTarget → Bool
  | .engine c unit => engineOk c unit
  | .core c => coreOk c
  | .cluster n => sliceOk n
  | .port p => portOk p
  | .streamEngine => true
  | .vane => true
  | .mgmt => true
  | .kiln => true

/-- A width of access that is neither 32 nor 64 bits is named as such (R465). -/
def widthOk : RegData → Bool
  | .w32 _ => true
  | .w64 _ => true
  | .other n => decide (n ≠ 4) && decide (n ≠ 8)

/-- The unit of a command timeout (R93, R353, R354). -/
def WaitRef.ok : WaitRef → Bool
  | .seq c => coreOk c
  | .command c unit _ => coreOk c && decide (unit < 8)
  | .drain c => coreOk c
  | .streamWrite x => ctxOk x
  | .stepFlag x => ctxOk x

/-- A command is well formed. -/
def Instr.WellFormed : Instr → Bool
  | .nop c w => wordOk c w 0x00
  | .endI c w => wordOk c w 0x01
  | .endComplete c => coreOk c
  | .br c w => wordOk c w 0x02
  | .loop c w => wordOk c w 0x03
  | .lprem c w => wordOk c w 0x04
  | .cset c w => wordOk c w 0x05
  | .cadd c w => wordOk c w 0x06
  | .cmov c w => wordOk c w 0x07
  | .cld c w => wordOk c w 0x08
  | .cldComplete c k => coreOk c && decide (k < 16)
  | .cst c w => wordOk c w 0x09
  | .cmpcfg c w => wordOk c w 0x0A
  | .tdset c w => wordOk c w 0x0B
  | .tdadd c w => wordOk c w 0x0C
  | .tdload c w => wordOk c w 0x0D
  | .ovl c w => wordOk c w 0x0E
  | .ovlLoadDone c _ => coreOk c
  | .imageLoad c _ _ _ => coreOk c
  | .imageLoadDone c _ => coreOk c
  | .waitb c w => wordOk c w 0x0F
  | .overrunLimit c => coreOk c
  | .fenceMet c => coreOk c
  | .cwait c w => wordOk c w 0x10
  | .cwaitComplete c => coreOk c
  | .waitarr c w => wordOk c w 0x11
  | .waitarrMet c => coreOk c
  | .queueFullResume c => coreOk c
  | .undefinedOpcode c w => coreOk c && !(knownOpcode (w.extractLsb' 120 8).toNat)
  | .flush c w => wordOk c w 0x20
  | .rel c w => wordOk c w 0x21
  | .relTokenDelivery c => coreOk c
  | .acq c w => wordOk c w 0x22
  | .acqCellarPoll c => coreOk c
  | .drainProbeArrive p => p.ok
  | .drainProbeReply c _ => coreOk c
  | .acquireComplete c reply => coreOk c && (reply.all Packet.ok)
  | .slset c w => wordOk c w 0x23
  | .grant c w => wordOk c w 0x24
  | .creditGranted c => coreOk c
  | .nwCreditArrive p => p.ok
  | .revoke c w => wordOk c w 0x25
  | .nwCreditReturn p => p.ok
  | .arrset c w => wordOk c w 0x26
  | .cfetch c w => wordOk c w 0x40
  | .cstore c w => wordOk c w 0x41
  | .cellarLineRequest c _ _ => coreOk c
  | .cellarLineReturn c _ _ => coreOk c
  | .nwr c w => wordOk c w 0x42
  | .nwrRequestArrive p => p.ok
  | .nwrRankRetry c _ => coreOk c
  | .nwrDataArrive p => p.ok
  | .nwrAck p => p.ok
  | .tcopy c w => wordOk c w 0x43
  | .openReceiveEnd c w => wordOk c w 0x60 && w.getLsbD 67
  | .openSendEnd c w => wordOk c w 0x60 && !(w.getLsbD 67)
  | .openRequestArrive p => p.ok
  | .openReplyArrive p => p.ok
  | .openRetry c _ => coreOk c
  | .close c w => wordOk c w 0x61
  | .closeNoticeArrive p => p.ok
  | .send c w => wordOk c w 0x62
  | .sendStart c => coreOk c
  | .sendt c w => wordOk c w 0x63
  | .messageArrive p => p.ok
  | .deliveryAckArrive p => p.ok
  | .recv c w => wordOk c w 0x64
  | .recvTake c _ => coreOk c
  | .channelCreditReturn p => p.ok
  | .mmul c w => wordOk c w 0x80
  | .mdrain c w => wordOk c w 0x81
  | .columnGroupDrain c => coreOk c
  | .abind c w => wordOk c w 0x84
  | .acorr c w => wordOk c w 0x85
  | .adjunctGroupDone c => coreOk c
  | .vcfg c w => wordOk c w 0xA0
  | .vadd c w => wordOk c w 0xA1
  | .vsub c w => wordOk c w 0xA2
  | .vmul c w => wordOk c w 0xA3
  | .vfma c w => wordOk c w 0xA4
  | .vmin c w => wordOk c w 0xA5
  | .vmax c w => wordOk c w 0xA6
  | .vabs c w => wordOk c w 0xA7
  | .vneg c w => wordOk c w 0xA8
  | .vcvt c w => wordOk c w 0xA9
  | .vcmp c w => wordOk c w 0xAA
  | .vsel c w => wordOk c w 0xAB
  | .vpoly c w => wordOk c w 0xAC
  | .vfst c w => wordOk c w 0xAD
  | .vfclr c w => wordOk c w 0xAE
  | .vred c w => wordOk c w 0xC0
  | .vexp2 c w => wordOk c w 0xC1
  | .vlog2 c w => wordOk c w 0xC2
  | .vrcp c w => wordOk c w 0xC3
  | .vrsqrt c w => wordOk c w 0xC4
  | .vsqrt c w => wordOk c w 0xC5
  | .vdiv c w => wordOk c w 0xC6
  | .vtanh c w => wordOk c w 0xC7
  | .vsigm c w => wordOk c w 0xC8
  | .vrng c w => wordOk c w 0xC9
  | .vtopk c w => wordOk c w 0xCA
  | .vsample c w => wordOk c w 0xCB
  | .vectorCmdComplete c => coreOk c
  | .slotAdmission c unit _ => coreOk c && decide (unit < 8)
  | .producerDone c slot => coreOk c && decide (slot < 4096)
  | .countedReadDone c slot => coreOk c && decide (slot < 4096)
  | .waitTimeout c => coreOk c
  | .commandTimeout w => w.ok
  | .coreStart c => coreOk c
  | .start c => coreOk c
  | .holdSet c => coreOk c
  | .holdClear c => coreOk c
  | .imDebugWrite c _ _ _ => coreOk c
  | .tileDescWindowWrite c _ _ _ => coreOk c
  | .slotDescWindowWrite c _ _ _ => coreOk c
  | .flushAll c => coreOk c
  | .kprobeGo c _ => coreOk c
  | .tunApertureAccess c _ => coreOk c
  | .cellarApertureAccess _ _ _ => true
  | .packetHop x y inPort p _ => decide (x < 12) && decide (y < 12) && decide (inPort < 5) && p.ok
  | .extOwnWrite n idx _ => sliceOk n && decide (idx < 32)
  | .extentScrubStart n ext => sliceOk n && decide (ext < 128)
  | .extentScrubDone n => sliceOk n
  | .refreshBurst n tier => sliceOk n && decide (tier.tier < 2)
  | .forcedBurst n tier => sliceOk n && decide (tier < 2)
  | .refPolicyWrite n _ => sliceOk n
  | .beatEdge _ => true
  | .beatEnable => true
  | .beatDisable => true
  | .beatStart => true
  | .clrFault => true
  | .beatrefEdge _ _ => true
  | .referenceMiss _ => true
  | .masterHoldover => true
  | .markerReceive port _ _ => portOk port
  | .beatLock => true
  | .lockTimeout => true
  | .markerLoss => true
  | .fswGo => true
  | .switchBeat => true
  | .vddSetWrite _ => true
  | .vddSettled => true
  | .governorTick _ => true
  | .gust region _ => decide (region < 42)
  | .sensorConversion readings => decide (readings.length = 160)
  | .psReqStandby => true
  | .psReqIdle => true
  | .powerStateDone => true
  | .engineFreset c unit => engineOk c unit
  | .coreFreset c => coreOk c
  | .clusterFreset n => sliceOk n
  | .portFreset p => portOk p
  | .streamEngineFreset => true
  | .vaneFreset => true
  | .mgmtPortFreset => true
  | .kilnFreset _ => true
  | .fresetDone t => t.ok
  | .chipResetKeepKiln _ => true
  | .chipResetRestartKiln _ => true
  | .chipResetDone => true
  | .inputPowerApplied _ => true
  | .inputPowerRemoved => true
  | .pwrEnAssert => true
  | .pwrEnDeassert => true
  | .railsPowerGood => true
  | .railFault => true
  | .modResetAssert => true
  | .internalResetRelease _ => true
  | .refclkLoss => true
  | .wdogKick _ => true
  | .wdogFirstExpiry k => decide (k < 8)
  | .wdogSecondExpiry k _ => decide (k < 8)
  | .activate x => ctxOk x
  | .stop x => ctxOk x
  | .clear x => ctxOk x
  | .clearDone x => ctxOk x
  | .release x => ctxOk x
  | .partitionScrubDone x => ctxOk x
  | .errClr _ => true
  | .gfeClr => true
  | .intSet _ _ => true
  | .cntValLoRead _ => true
  | .modFaultWrite _ => true
  | .modReadyWrite _ => true
  | .devIdWrite _ => true
  | .settingsWrite _ => true
  | .osOwnsWrite _ => true
  | .registerWrite _ v => widthOk v
  | .trainEnWrite p _ => portOk p
  | .restore p => portOk p
  | .restoreTrainTimeout p => portOk p
  | .laneTrainingDone p _ => portOk p
  | .narrowWidthTimeout p => portOk p
  | .trainingTimeout p => portOk p
  | .alignLock p => portOk p
  | .alignTimeout p => portOk p
  | .delayMeasured p _ _ _ _ => portOk p
  | .delayRemeasure p => portOk p
  | .controlCellReceive p _ _ => portOk p
  | .dataCellReceive p _ pkts => portOk p && pkts.all Packet.ok
  | .badCellReceive p _ => portOk p
  | .creditCellReceive p _ _ => portOk p
  | .ackReceive p _ => portOk p
  | .nakReceive p _ _ => portOk p
  | .idleCellReceive p => portOk p
  | .cellTransmit p group room => portOk p && decide (group < 32) && decide (room.errs.length ≤ 32)
  | .slotGroupEnd p group => portOk p && decide (group < 32)
  | .ackTimer p => portOk p
  | .nakHoldoffExpire p => portOk p
  | .ackTimeout p _ => portOk p
  | .degrade p _ => portOk p
  | .degradeDone p => portOk p
  | .lossOfSignal p _ => portOk p
  | .portDown p _ => portOk p
  | .downHoldExpire p => portOk p
  | .routeTableWrite n _ => decide (n < 1024)
  | .ctxEnable x => ctxOk x
  | .ctxDisable x => ctxOk x
  | .commandSubmit x _ => ctxOk x
  | .streamAdmit x => ctxOk x
  | .append x => ctxOk x
  | .streamClose x => ctxOk x
  | .adjload x => ctxOk x
  | .adjdrop x => ctxOk x
  | .cmdBad x => ctxOk x
  | .stepFormation x => ctxOk x
  | .headWrite x t => ctxOk x && decide (t < 16)
  | .rflagPoll x => ctxOk x
  | .stepRecordWrite x => ctxOk x
  | .outTailWrite _ => true
  | .vaneEnable => true
  | .vaneDisable => true
  | .vaneReportArrive p => p.ok
  | .quote _ => true
  | .cert => true
  | .extend _ _ => true
  | .challenge => true
  | .unlock _ _ _ => true
  | .setDebug _ _ => true
  | .claimOwner _ => true
  | .rotateOwner _ _ => true
  | .rotateVendor _ _ => true
  | .setSvn _ => true
  | .setKilnMem _ _ => true
  | .updateBegin _ => true
  | .updateEnd => true
  | .secCommandEnd => true
  | .rapRead _ _ => true
  | .rapWrite _ _ _ => true
  | .recoveryImageBlock _ _ _ _ => true
  | .mgmtFrameReceive _ _ _ => true
  | .mgmtFrameSent _ => true
  | .mgmtLinkChange _ => true
  | .status => true
  | .identity => true
  | .readFru _ => true
  | .temp => true
  | .power => true
  | .firstErr => true
  | .clearAlert => true
  | .alertResponse => true
  | .kilnRestart _ _ => true
  | .nwrAdmissionArrive p => p.ok
  | .revokeRequestArrive p => p.ok
  | .restoreLanesTrained p => portOk p
  | .laneAdaptationDone p => portOk p
  | .cellarCalibrationDone => true
  | .perBootKeyCertified => true
  | .railsOffTimeExpire => true

end Sys2Proof
end

