-- ==== Sys2Proof/Certificates/Slice0/Obligations.lean ====
section
/-! DEFINITION. The statements about the device, one or more for every family of commands and every kind of state. -/

open Sys2Proof Sys2Proof.Machine

/-- A step takes the command at the front of the queue and runs it with the queue's rest. On an empty queue the block idles,
and no table word spells a command (the model's choice, log 1). -/
def Obligations.StepTakesFrontCommand : Prop :=
  (∀ (s : State) (i : Instr) (rest : List Instr), s.pending = i :: rest → step s = exec i { s with pending := rest }) ∧
  ((∀ s : State, s.pending = [] → step s = .next s) ∧
    (∀ (s : State) (n w : Nat), decodeTableWord n w = none ∧ s.withFetchWord n w = s))

/-- After reset the queue is empty, memory lists nothing, every core is IDLE with no valid block and nothing running, every
slot EMPTY, every context FREE, every port and the beat DISABLED, DEV_ID not valid (R34, R67, R71, R99, R314, R399, R480), and
no bit of the OTP is burnt (the model's choice, log 3); that every byte reads 0 is log 5, the empty queues, mesh and waits log
78, the moment of reset log 13. -/
def Obligations.ResetState : Prop :=
  let s := State.reset
  let d := s.chip
  s.pending = [] ∧ s.otp = [] ∧ Canonical d ∧ (∀ a, d.byte a = 0) ∧ d.errs = [] ∧ d.poison = [] ∧ d.net = [] ∧
  (∀ c, c < 144 → d.seqState c = sqIDLE ∧ d.pc c = 0 ∧ (∀ b, (d.core c).block b = 0) ∧ (d.core c).q = [] ∧ (d.core c).run = [] ∧
    (d.core c).wait = none ∧ (d.core c).loops = [] ∧ (∀ n, n < 16 → d.cnt c n = 0) ∧ (∀ k, k < 8 → d.pred c k = true) ∧
    d.get (pgSEQ c) fSeqOvrLimit = 16 ∧ (∀ n, n < 4096 → (d.slot c n).state = 0 ∧ (d.slot c n).desc = 0) ∧
    (∀ n, n < 64 → d.chState c n = chCLOSED)) ∧
  (∀ x, x < 16 → d.ctxState x = 0 ∧ d.cx x fCtxEn = 0) ∧ (∀ p, p < 16 → d.portState p = psDISABLED) ∧
  d.beatState = bsDISABLED ∧ d.get pgID fDevIdValid = 0 ∧ d.get pgVAN fVanEn = 0 ∧ d.get pgKLN fBootStage = 0 ∧ d.resets = []

/-- Every step keeps every sparse map that the device stores in its canonical form (the model's choice of data): memory,
registers, event counts, cores, slots, descriptors, channel ends, receive queues, ports, latched halves, bit errors and poison
bits, from whatever state (R18, R102, R109, R283, R291, R396, R464). -/
def Obligations.StateStaysCanonical : Prop :=
  ∀ s t : State, Canonical s.chip → step s = .next t → Canonical t.chip

/-- A bit of the OTP that is burnt stays burnt, and the burnt bits stay listed once each in rising order, whatever step is
taken (R453). -/
def Obligations.OtpStaysBurnt : Prop :=
  ∀ (s t : State), step s = .next t →
    (∀ b ∈ s.otp, b ∈ t.otp) ∧ (s.otp.Pairwise (· < ·) → t.otp.Pairwise (· < ·))

/-- A device without its rails or held in reset does nothing, whatever it is sent, but for what works without them: its board
and its SMBus (R418, R500; the gate is the model's, log 13). -/
def Obligations.UnpoweredDoesNothing : Prop :=
  ∀ (s : State) (i : Instr), s.chip.up = false → boardCommand i = false →
    exec i s = .next s ∨ exec i s = .fault .noSuchUnit

/-- Every command is answered by a next state with the same queue, or names a unit that the spec does not number; a
well-formed one is answered by a next state (R4, R18, R253, R399, R407; what happens to a command whose conditions do not hold
is the model's choice, log 1). -/
def Obligations.AnswersAndStops : Prop :=
  ∀ (s : State) (i : Instr),
    ((∃ t, exec i s = .next t ∧ t.pending = s.pending) ∨ exec i s = .fault .noSuchUnit) ∧
    (i.WellFormed = true → ∃ t, exec i s = .next t)

/-- An instruction whose predicate condition is false takes one issue slot and has no effect (R82), whichever it is: nothing
is queued, and where the fetch corrects no bit only what every issue writes changes. -/
def Obligations.PredicatedOff : Prop :=
  ∀ (s : State) (c : Nat) (w : IWord), c < 144 → s.chip.fabricUp = true → s.chip.mayIssue c w = true → s.chip.fetch c = .word w →
    s.chip.noteFetch c = s.chip → resvBad w = false → s.chip.pendingIn c (s.chip.predCounters c w) = false → s.chip.condHolds c w = false →
    ∀ r ∈ issueRows, opcode w = r.1 → Runs (r.2 c w) s fun t => Issued s.chip t c [] [] []

/-- An instruction with an undefined opcode faults its context with ILLEGAL_INSTR, cause 0x01, one with a reserved bit set
with cause 0x02, and does not issue (R98); so does a fetch from an INVALID block, cause 0x08, and from outside the memory,
cause 0x03; one from a LOADING block waits (R68, R83); that any issue row takes a fetch that fails is log 1. -/
def Obligations.IllegalInstructions : Prop :=
  ∀ (s : State) (c : Nat) (w : IWord), c < 144 → s.chip.fabricUp = true → s.chip.mayIssue c w = true →
    let refused := fun (i : Instr) (cause : Nat) => Runs i s fun t =>
      Faults s.chip t c eILLEGAL cause (s.chip.pc c) ∧ t.pc c = s.chip.pc c ∧ t.countOf (pgSEQ c) 0 = s.chip.countOf (pgSEQ c) 0
    (s.chip.fetch c = .word w →
      (opDefined (opcode w) = false → refused (.undefinedOpcode c w) 0x01) ∧
      (∀ r ∈ issueRows, opcode w = r.1 → resvBad w = true → refused (r.2 c w) 0x02)) ∧
    (∀ r ∈ issueRows,
      (s.chip.pc c < 6144 → (s.chip.core c).block (s.chip.pc c / 64) = 0 → refused (r.2 c w) 0x08) ∧
      (6144 ≤ s.chip.pc c → refused (r.2 c w) 0x03) ∧
      (s.chip.pc c < 6144 → (s.chip.core c).block (s.chip.pc c / 64) = 1 → (s.chip.core c).wait = none →
        Runs (r.2 c w) s fun t => WaitsFor s.chip t c 10 (s.chip.waitTmo c) 0))

/-- CSET, CADD, CMOV and LPREM write the counter that CA names: the immediate, the sum modulo 2^32, the other counter, the
remaining count of a loop level (R80, R86, R238); what a CLD, RECV or SENDT would still deliver to that counter is superseded
(R97), and nothing else changes but what every issue writes. -/
def Obligations.CounterInstructions : Prop :=
  ∀ (s : State) (c : Nat) (w : IWord), Takes s.chip c w →
    let k := pgSEQ c + 0x160 + 4 * sCA w
    let rest := fun (t : Chip) => Retired s.chip t c ∧ t.core c = (coreIssued s.chip c).supersede (sCA w) ∧
      SeqFrame s.chip t c (k :: seqRegs c) [pgSEQ c] []
    (opcode w = 0x05 → Runs (.cset c w) s fun t => t.cnt c (sCA w) = BitVec.ofNat 32 (wIMM0 w) ∧ rest t) ∧
    (opcode w = 0x06 → sCS w = false → Runs (.cadd c w) s fun t =>
      t.cnt c (sCA w) = s.chip.cnt c (sCA w) + BitVec.ofNat 32 (wIMM0 w) ∧ Issued s.chip t c [k] [] []) ∧
    (opcode w = 0x06 → sCS w = true → Runs (.cadd c w) s fun t =>
      t.cnt c (sCA w) = s.chip.cnt c (sCA w) + s.chip.cnt c (sCB w) ∧ Issued s.chip t c [k] [] []) ∧
    (opcode w = 0x07 → Runs (.cmov c w) s fun t => t.cnt c (sCA w) = s.chip.cnt c (sCB w) ∧ rest t) ∧
    (opcode w = 0x04 → Runs (.lprem c w) s fun t =>
      t.cnt c (sCA w) = BitVec.ofNat 32 (((s.chip.core c).loops.reverse[bf w 103 2]?.map (·.rem)).getD 0) ∧ rest t)

/-- TDSET writes the field of the descriptor that SEL names and no other bit of it; TDADD adds to its BASE modulo 2^22 (R77,
R79, R238). CMPCFG: the predicate holds from then on exactly when the configured relation holds of the counters (R81, R238);
TDLOAD: the descriptors are the tun words that it names, their reserved bits aside (R14, R77, R79), where no slot covers them
and every word is good. -/
def Obligations.DescriptorsAndComparators : Prop :=
  (∀ (s : State) (c : Nat) (w : IWord), Takes s.chip c w →
      let n := sTD w
      (opcode w = 0x0B → ∀ f ∈ ([(0, 0, 22), (1, 22, 16), (2, 38, 16), (3, 54, 22), (4, 76, 22), (5, 98, 5), (6, 103, 2)] :
          List (Nat × Nat × Nat)), sSEL w = f.1 → Runs (.tdset c w) s fun t =>
        bf (t.desc c n) f.2.1 f.2.2 = wIMM0 w % 2 ^ f.2.2 ∧
        (∀ i, i < f.2.1 ∨ f.2.1 + f.2.2 ≤ i → (t.desc c n).getLsbD i = (s.chip.desc c n).getLsbD i) ∧
        Issued s.chip t c [] [] [c * 256 + n]) ∧
      (opcode w = 0x0C → Runs (.tdadd c w) s fun t =>
        bf (t.desc c n) 0 22 =
          (bf (s.chip.desc c n) 0 22 + wIMM0 w + (if sCS w then (s.chip.cnt c (sCB w)).toNat else 0)) % 2 ^ 22 ∧
        (∀ i, 22 ≤ i → (t.desc c n).getLsbD i = (s.chip.desc c n).getLsbD i) ∧ Issued s.chip t c [] [] [c * 256 + n])) ∧
  (∀ (s : State) (c : Nat) (w : IWord), Takes s.chip c w →
      (opcode w = 0x0A → Runs (.cmpcfg c w) s fun t =>
        (t.pred c (sSEL w) = true ↔
          compares (sOP w) (s.chip.cnt c (sCA w)) (if sCS w then s.chip.cnt c (sCB w) else BitVec.ofNat 32 (wIMM0 w))) ∧
        Issued s.chip t c [pgSEQ c + 0x1A0 + 8 * sSEL w, pgSEQ c + 0x1A4 + 8 * sSEL w] [] []) ∧
      (opcode w = 0x0D → s.chip.slotsOn c (bf w 0 22) (16 * bf w 32 5) = [] → s.chip.tunBad c (bf w 0 22) (16 * bf w 32 5) = none →
        s.chip.errs = [] → Runs (.tdload c w) s fun t =>
        (∀ i, i < bf w 32 5 → t.desc c (sTD w + i) = tdKeep (BitVec.ofNat 128 (s.chip.seenNum c 0 (bf w 0 22 + 16 * i) 16))) ∧
        Issued s.chip t c [] [] ((List.range (bf w 32 5)).map fun i => c * 256 + (sTD w + i))))

/-- NOP only goes on; BR goes to its target and closes the levels that the target leaves, each with those inside it; LOOP
opens a level with its count less one, or, with a count of 0, goes on as after the end of its body (R83, R84, R85, R87, R88).
The end of a level's body: with passes left issue returns to its first instruction and one pass fewer is left; with none the
level closes and the next outer one is looked at (R84, R87). -/
def Obligations.ControlFlow : Prop :=
  (∀ (s : State) (c : Nat) (w : IWord), Takes s.chip c w →
      let issued := fun (t : Chip) => t.countOf (pgSEQ c) 0 = min (s.chip.countOf (pgSEQ c) 0 + 1) (2 ^ 64 - 1)
      (opcode w = 0x00 → Runs (.nop c w) s fun t => Issued s.chip t c [] [] []) ∧
      (opcode w = 0x02 → Runs (.br c w) s fun t =>
        t.pc c = sIDX w ∧ (t.core c).wait = none ∧ issued t ∧
        (∃ closed, (s.chip.core c).loops = closed ++ (t.core c).loops ∧
          (∀ l ∈ (t.core c).loops, l.first ≤ sIDX w ∧ sIDX w ≤ l.last) ∧
          (∀ l, closed.getLast? = some l → sIDX w < l.first ∨ l.last < sIDX w)) ∧
        SeqFrame s.chip t c (seqRegs c) [pgSEQ c, pgSEQ c + 0x0E] []) ∧
      (opcode w = 0x03 →
        let n := if sCS w then (s.chip.cnt c (sCA w)).toNat else wIMM0 w
        (n ≠ 0 → Runs (.loop c w) s fun t =>
          t.pc c = s.chip.pc c + 1 ∧ (t.core c).loops = ⟨s.chip.pc c + 1, sIDX w, n - 1⟩ :: (s.chip.core c).loops ∧
          (t.core c).wait = none ∧ issued t ∧ SeqFrame s.chip t c (seqRegs c) [pgSEQ c] []) ∧
        (n = 0 → let r := loopEnd (s.chip.core c).loops (sIDX w)
          Runs (.loop c w) s fun t =>
            t.pc c = r.2.getD (sIDX w + 1) % 8192 ∧ (t.core c).loops = r.1 ∧ (t.core c).wait = none ∧ issued t ∧
            SeqFrame s.chip t c (seqRegs c) [pgSEQ c] []))) ∧
  (∀ (l : Loop) (rest : List Loop) (i : Nat),
      (l.last = i → l.rem ≠ 0 → loopEnd (l :: rest) i = ({ l with rem := l.rem - 1 } :: rest, some l.first)) ∧
      (l.last = i → l.rem = 0 → loopEnd (l :: rest) i = loopEnd rest i) ∧
      (l.last ≠ i → (loopEnd (l :: rest) i).1.head? = some l ∧ (loopEnd (l :: rest) i).2 = (loopEnd rest i).2) ∧
      (loopEnd rest i).1.length ≤ rest.length)

/-- START arms a present core that is IDLE or HALTED and whose context is ACTIVE: the program counter takes START_PC, LATE
tells whether the start beat has passed, the overrun registers, VFLAGS, the escalation registers and PROBES_IN are cleared, no
loop level and no wait is left (R51, R71, R72, R144, R399; that IGM takes effect here is log 28); no counter, comparator,
descriptor, slot or byte changes, and no other core. The ramp limiter (R71, R433, R434): an ARMED core whose start beat has
come and whose turn it is starts when its charge fits the budget, and is held at its start where HOLD is set (log 51); where
the charge does not fit, the limiter stops for the beat, and that core and every other that waits for its start are deferred;
a start deferred is counted once per start (log 51, where R434 counts each), and the core stays ARMED. HOLD stops a RUNNING
core at an instruction boundary, and clearing it lets a HELD core go on; the timer of the sequencer's own wait stops and goes
on with it (R71, R73); nothing else changes. In every other state HOLD is only set or cleared. END writes every byte pending
in the gather buffer to the tun, counts the entries, and waits for the engines; END_COMPLETE, once they are idle, writes what
they have left there (log 80), halts the core at END's own index (log 94) and raises the completion interrupt (R71, R106,
R146, R238, R472). -/
def Obligations.ProgramStartAndEnd : Prop :=
  (∀ (s : State) (c : Nat), s.chip.present c = true → s.chip.fabricUp = true → (s.chip.core c).inReset = false →
      (s.chip.seqState c = sqIDLE ∨ s.chip.seqState c = sqHALTED) → s.chip.ctxState (s.chip.ctxOf c) = 1 →
      Runs (.start c) s fun t =>
        t.seqState c = sqARMED ∧ t.pc c = s.chip.get (pgSEQ c) fSeqStartPc ∧
        t.get (pgSEQ c) fSeqLate = (if s.chip.get64 (pgSEQ c) 0x110 ≤ s.chip.beat then 1 else 0) ∧
        t.get (pgSEQ c) fSeqIgmAct = s.chip.get (pgSEQ c) fSeqIgm ∧ t.get (pgSEQ c) fSeqOvrCount = 0 ∧
        t.get (pgSEQ c) fSeqOvrConsec = 0 ∧ t.get (pgSEQ c) fSeqOvrMax = 0 ∧ t.get64 (pgSEQ c) 0x138 = 0 ∧
        t.reg (pgVEC c + 0x108) = 0 ∧ t.get (pgSYNC c) fSyncEsc = 0 ∧ t.get (pgSYNC c) fSyncEscCyc = 0 ∧
        t.get (pgSYNC c) fSyncProbes = 0 ∧ (t.core c).loops = [] ∧ (t.core c).wait = none ∧ t.mem = s.chip.mem ∧
        t.descs = s.chip.descs ∧ t.slots = s.chip.slots ∧ SameCores s.chip t c ∧ (∀ n, n < 16 → t.cnt c n = s.chip.cnt c n) ∧
        (∀ n, n < 8 → t.reg (pgSEQ c + 0x1A0 + 8 * n) = s.chip.reg (pgSEQ c + 0x1A0 + 8 * n) ∧
          t.reg (pgSEQ c + 0x1A4 + 8 * n) = s.chip.reg (pgSEQ c + 0x1A4 + 8 * n))) ∧
  (∀ (s : State) (c : Nat), s.chip.present c = true → s.chip.fabricUp = true → (s.chip.core c).inReset = false →
      s.chip.seqState c = sqARMED → s.chip.get64 (pgSEQ c) 0x110 ≤ s.chip.beat → 2 ≤ s.chip.get pgGOV fPstate →
      let deferred := fun (late : Nat → Bool) => Runs (.coreStart c) s fun t =>
        t.seqState c = sqARMED ∧ t.pow = { s.chip.pow with stopped := true } ∧
        (∀ d, t.core d = if late d then { s.chip.core d with deferred := true } else s.chip.core d) ∧
        t.countOf pgGOV 7 =
          min (s.chip.countOf pgGOV 7 + (s.chip.presentCores.filter fun d => late d && !(s.chip.core d).deferred).length) (2 ^ 64 - 1) ∧
        SameCounts s.chip t [pgGOV + 7] ∧ t.regs = s.chip.regs ∧ t.mem = s.chip.mem
      (s.chip.pow.stopped = true → deferred fun d => decide (d = c)) ∧
      (s.chip.pow.stopped = false → (∀ d, s.chip.present d = true → s.chip.mayStart d = true → s.chip.startsBefore d c = false) →
        (s.chip.rampFits s.chip.beat (48 * s.chip.actw c) = true → Runs (.coreStart c) s fun t =>
          t.seqState c = (if s.chip.bit (pgSEQ c) fBlkCtrlHold then sqHELD else sqRUNNING) ∧
          t.chargeAt s.chip.beat = s.chip.chargeAt s.chip.beat + 48 * s.chip.actw c ∧ t.core c = { s.chip.core c with deferred := false } ∧
          SameRegs s.chip t [pgSEQ c + 0x104] ∧ t.counts = s.chip.counts ∧ t.mem = s.chip.mem ∧ SameCores s.chip t c) ∧
        (s.chip.rampFits s.chip.beat (48 * s.chip.actw c) = false → deferred fun d => s.chip.present d && s.chip.mayStart d))) ∧
  (∀ (s : State) (c : Nat), s.chip.present c = true → s.chip.fabricUp = true → (s.chip.core c).inReset = false →
      let timer := fun (t : Chip) => t.core c = { s.chip.core c with
        wait := (s.chip.core c).wait.map fun x => { x with began := s.chip.edges - x.began } }
      (s.chip.seqState c = sqRUNNING → Runs (.holdSet c) s fun t =>
        t.seqState c = sqHELD ∧ t.get (pgSEQ c) fBlkCtrlHold = 1 ∧ t.pc c = s.chip.pc c ∧ timer t ∧
        SeqFrame s.chip t c [pgSEQ c + 0x008, pgSEQ c + 0x104] [] []) ∧
      (s.chip.seqState c = sqHELD → Runs (.holdClear c) s fun t =>
        t.seqState c = sqRUNNING ∧ t.get (pgSEQ c) fBlkCtrlHold = 0 ∧ t.pc c = s.chip.pc c ∧ timer t ∧
        SeqFrame s.chip t c [pgSEQ c + 0x008, pgSEQ c + 0x104] [] []) ∧
      (s.chip.seqState c ≠ sqRUNNING → Runs (.holdSet c) s fun t =>
        t.seqState c = s.chip.seqState c ∧ t.get (pgSEQ c) fBlkCtrlHold = 1 ∧ t.cores = s.chip.cores ∧
        SeqFrame s.chip t c [pgSEQ c + 0x008] [] []) ∧
      (s.chip.seqState c ≠ sqHELD → Runs (.holdClear c) s fun t =>
        t.seqState c = s.chip.seqState c ∧ t.get (pgSEQ c) fBlkCtrlHold = 0 ∧ t.cores = s.chip.cores ∧
        SeqFrame s.chip t c [pgSEQ c + 0x008] [] [])) ∧
  ((∀ (s : State) (c : Nat) (w : IWord), Takes s.chip c w → opcode w = 0x01 → Runs (.endI c w) s fun t =>
      WaitsFor s.chip t c 14 (s.chip.waitTmo c) w ∧ (t.core c).gather = [] ∧
      (∀ a, t.byte a = gatherByte s.chip c (s.chip.core c).gather a) ∧
      t.countOf (pgSYNC c) 0x0E = min (s.chip.countOf (pgSYNC c) 0x0E + (s.chip.core c).gather.length) (2 ^ 64 - 1) ∧
      t.core c = { s.chip.core c with wait := (t.core c).wait, gather := [] } ∧
      (s.chip.errs = [] → SameCounts s.chip t [pgSYNC c + 0x0E] ∧ SameRegs s.chip t [pgSEQ c + 0x104]) ∧
      SameCores s.chip t c ∧ t.net = s.chip.net ∧ t.slots = s.chip.slots) ∧
    (∀ (s : State) (c : Nat) (x : SeqWait), c < 144 → s.chip.fabricUp = true → (s.chip.core c).wait = some x → x.code = 14 →
      s.chip.seqState c = sqRUNNING → (s.chip.core c).enginesIdle = true → Runs (.endComplete c) s fun t =>
        t.seqState c = sqHALTED ∧ t.bit (pgSEQ c) ⟨0x028, 0, 1⟩ = true ∧ t.pc c = s.chip.pc c ∧
        t.countOf (pgSEQ c) 0 = min (s.chip.countOf (pgSEQ c) 0 + 1) (2 ^ 64 - 1) ∧
        t.core c = { s.chip.core c with wait := none, gather := [] } ∧ SameCores s.chip t c ∧
        (∀ a, t.byte a = gatherByte s.chip c (s.chip.core c).gather a) ∧
        ((s.chip.core c).gather = [] → SeqFrame s.chip t c [pgSEQ c + 0x104, pgSEQ c + 0x028] [pgSEQ c] [])))

/-- CLD leaves a load pending on its counter, which supersedes what was to be delivered there before; CLD_COMPLETE delivers
the tun word to the counter unless a later instruction has written that; a CST's word is what the sequencer reads there from
then on (R80, R97, R107). -/
def Obligations.CounterLoadsAndStores : Prop :=
  (∀ (s : State) (c : Nat) (w : IWord), Takes s.chip c w → opcode w = 0x08 → s.chip.slotsOn c (s.chip.cldAddr c w) 4 = [] →
    Runs (.cld c w) s fun t =>
      Retired s.chip t c ∧ SeqFrame s.chip t c (seqRegs c) [pgSEQ c] [] ∧
      t.core c = { coreIssued s.chip c with
        cntPend := ((s.chip.core c).supersede (sCA w)).cntPend,
        loadsPend := ((s.chip.core c).supersede (sCA w)).loadsPend ++ [⟨sCA w, s.chip.cldAddr c w, none, true, s.chip.pc c⟩] }) ∧
  (∀ (s : State) (c k : Nat) (p : PendLoad) (rest : List PendLoad), c < 144 → s.chip.fabricUp = true → k < 16 →
    (s.chip.core c).loadsPend = p :: rest → p.cnt = k → p.slot = none → s.chip.tunBad c p.addr 4 = none → s.chip.errs = [] →
    Runs (.cldComplete c k) s fun t =>
      t.cnt c k = (if p.live then BitVec.ofNat 32 (s.chip.seenNum c 0 p.addr 4) else s.chip.cnt c k) ∧ t.core c = { s.chip.core c with loadsPend := rest } ∧
      SeqFrame s.chip t c [pgSEQ c + 0x160 + 4 * k] [] []) ∧
  (∀ (s : State) (c : Nat) (w : IWord), Takes s.chip c w → opcode w = 0x09 → Runs (.cst c w) s fun t =>
    t.seenNum c 0 (s.chip.cldAddr c w) 4 = (s.chip.cnt c (sCA w)).toNat ∧ t.pc c = nextPc s.chip c % 8192 ∧
    (s.chip.errs = [] → SameRegs s.chip t (seqRegs c)) ∧ SameCores s.chip t c ∧
    ((s.chip.core c).gather = [] → t.mem = s.chip.mem))

/-- WAITB: before its target beat the core waits at the fence; at or after it an overrun is recorded and the core goes on.
FENCE_MET: at the target beat the core goes on, and the count of consecutive overruns is cleared unless it is frozen (R49 to
R51, R63). CWAIT waits for the transfers outstanding under its tag, and WAITARR for its arrival counter; each goes on at once
where there is nothing to wait for, and when what it waits for has happened (R125, R239). -/
def Obligations.FencesAndWaits : Prop :=
  ((∀ (s : State) (c : Nat) (w : IWord), Takes s.chip c w → opcode w = 0x0F →
      (s.chip.beat < s.chip.fenceTarget c w → Runs (.waitb c w) s fun t => WaitsFor s.chip t c 1 (s.chip.waitTmo c) w) ∧
      (s.chip.fenceTarget c w ≤ s.chip.beat → Runs (.waitb c w) s fun t =>
        t.get (pgSEQ c) fSeqOvrCount = min (s.chip.get (pgSEQ c) fSeqOvrCount + 1) (2 ^ 32 - 1) ∧
        t.get (pgSEQ c) fSeqOvrConsec =
          (if s.chip.ovrFrozen then s.chip.get (pgSEQ c) fSeqOvrConsec else min (s.chip.get (pgSEQ c) fSeqOvrConsec + 1) 255) ∧
        t.get64 (pgSEQ c) 0x138 = s.chip.beat ∧
        t.get (pgSEQ c) fSeqOvrMax =
          max (s.chip.get (pgSEQ c) fSeqOvrMax) (min (s.chip.beat - s.chip.fenceTarget c w) (2 ^ 32 - 1)) ∧
        Retired s.chip t c ∧ t.core c = { coreIssued s.chip c with ovrPc := s.chip.pc c } ∧
        SeqFrame s.chip t c ([pgSEQ c + 0x130, pgSEQ c + 0x12C, pgSEQ c + 0x138, pgSEQ c + 0x13C, pgSEQ c + 0x134] ++ seqRegs c)
          [pgSEQ c] [])) ∧
    (∀ (s : State) (c : Nat) (x : SeqWait), c < 144 → s.chip.fabricUp = true → (s.chip.core c).wait = some x → x.code = 1 →
      x.val ≤ s.chip.beat → (s.chip.seqState c = sqRUNNING ∨ s.chip.seqState c = sqHELD) → Runs (.fenceMet c) s fun t =>
        t.get (pgSEQ c) fSeqOvrConsec = (if s.chip.ovrFrozen then s.chip.get (pgSEQ c) fSeqOvrConsec else 0) ∧
        Issued s.chip t c [pgSEQ c + 0x12C] [pgSEQ c + 2] [])) ∧
  ((∀ (s : State) (c : Nat) (w : IWord), Takes s.chip c w →
      (opcode w = 0x10 → (s.chip.core c).tagged (bf w 0 4) = [] → Runs (.cwait c w) s fun t => Issued s.chip t c [] [] []) ∧
      (opcode w = 0x10 → (s.chip.core c).tagged (bf w 0 4) ≠ [] → Runs (.cwait c w) s fun t =>
        WaitsFor s.chip t c 11 (s.chip.waitTmo c) w ∧ ((t.core c).wait.map (·.ids)) = some ((s.chip.core c).tagged (bf w 0 4))) ∧
      (opcode w = 0x11 →
        let n := if sCS w then (s.chip.cnt c (sCA w)).toNat else wIMM0 w
        (n ≤ s.chip.get (pgSYNC c) (fArr (bf w 32 4)) → Runs (.waitarr c w) s fun t => Issued s.chip t c [] [] []) ∧
        (s.chip.get (pgSYNC c) (fArr (bf w 32 4)) < n → Runs (.waitarr c w) s fun t =>
          WaitsFor s.chip t c 12 (s.chip.waitTmo c) w ∧ ((t.core c).wait.map (·.val)) = some (n + bf w 32 4 * 2 ^ 32)))) ∧
    (∀ (s : State) (c : Nat) (x : SeqWait), c < 144 → s.chip.fabricUp = true → (s.chip.core c).wait = some x →
      (s.chip.seqState c = sqRUNNING ∨ s.chip.seqState c = sqHELD) →
      (x.code = 11 → (∀ m ∈ (s.chip.core c).queue uCEL ++ (s.chip.core c).running uCEL, m.id ∉ x.ids) →
        Runs (.cwaitComplete c) s fun t => Issued s.chip t c [] [] []) ∧
      (x.code = 12 → x.val % 2 ^ 32 ≤ s.chip.get (pgSYNC c) (fArr (x.val / 2 ^ 32)) →
        Runs (.waitarrMet c) s fun t => Issued s.chip t c [] [] [])))

/-- IMAGE_LOAD marks its blocks LOADING and the sequencer is LOADING; when the last load ends, its bytes, here of good words,
stand in the instruction memory, its blocks are VALID and the sequencer is IDLE (R67, R71; the load's source is a cellar
address by the model's choice, log 84, and a load is taken beside loads under way by log 95). OVL marks the blocks of its
entry LOADING, and the load asks for its lines, from a slice of another cluster by packets; OVL_LOAD_DONE makes them VALID
(R17, R67, R89, R90). -/
def Obligations.ImageLoadsAndOverlays : Prop :=
  ((∀ (s : State) (c first nblk src : Nat), s.chip.present c = true → s.chip.fabricUp = true → (s.chip.core c).inReset = false →
      (s.chip.seqState c = sqIDLE ∨ s.chip.seqState c = sqLOADING) → nblk ≠ 0 → first + nblk ≤ 96 →
      Runs (.imageLoad c first nblk src) s fun t =>
        t.seqState c = sqLOADING ∧ (∀ b, first ≤ b → b < first + nblk → (t.core c).block b = 1) ∧
        (∀ b, b < first ∨ first + nblk ≤ b → (t.core c).block b = (s.chip.core c).block b) ∧
        (t.core c).loads = (s.chip.core c).loads ++ [⟨(s.chip.core c).nextId, first, nblk, src, false⟩] ∧
        SeqFrame s.chip t c [pgSEQ c + 0x104] [] []) ∧
    (∀ (s : State) (c : Nat) (l : Load), c < 144 → s.chip.fabricUp = true → (s.chip.core c).loads = [l] → l.ovl = false →
      s.chip.seqState c = sqLOADING → s.chip.errs = [] → s.chip.sliceWaits l.src (1024 * l.nblk) = false →
      Runs (.imageLoadDone c l.id) s fun t =>
        t.seqState c = sqIDLE ∧ (t.core c).loads = [] ∧
        (∀ b, l.first ≤ b → b < l.first + l.nblk → (t.core c).block b = 2) ∧
        (∀ b, b < l.first ∨ l.first + l.nblk ≤ b → (t.core c).block b = (s.chip.core c).block b) ∧
        (∀ i, i < 1024 * l.nblk → t.byte (imAddr c (64 * l.first) + i) = s.chip.byte (celAddr l.src + i)) ∧
        SameBytes s.chip t (imAddr c (64 * l.first)) (1024 * l.nblk) ∧ SameRegs s.chip t [pgSEQ c + 0x104] ∧
        SameCores s.chip t c)) ∧
  ((∀ (s : State) (c : Nat) (w : IWord), Takes s.chip c w → AtRest s.chip c → opcode w = 0x0E →
      let e : IWord := BitVec.ofNat 128 (s.chip.seenNum c 0 (s.chip.get (pgSEQ c) fSeqOvlBase + 16 * bf w 0 8) 16)
      ovlFirst e + ovlNblk e ≤ 96 → ovlNblk e ≠ 0 → ovlSrc e % 64 = 0 →
      (s.chip.pc c / 64 < ovlFirst e ∨ ovlFirst e + ovlNblk e ≤ s.chip.pc c / 64) →
      let m : Cmd := { s.chip.capture c w with tag := 16, addr := ovlSrc e, val := ovlNblk e * 1024 }
      let n := min (celLines m) 512
      Runs (.ovl c w) s fun t =>
        (∀ b, ovlFirst e ≤ b → b < ovlFirst e + ovlNblk e → (t.core c).block b = 1) ∧
        (∀ b, b < ovlFirst e ∨ ovlFirst e + ovlNblk e ≤ b → (t.core c).block b = (s.chip.core c).block b) ∧
        (t.core c).loads = (s.chip.core c).loads ++ [⟨(s.chip.core c).nextId, ovlFirst e, ovlNblk e, ovlSrc e, true⟩] ∧
        (t.core c).running uCEL = [{ m with prog := 1, sent := n }] ∧
        t.net = s.chip.net ++ (if ownSlice c m then [] else (List.range n).map fun k => s.chip.linePacket c m k) ∧ Retired s.chip t c ∧
        t.mem = s.chip.mem ∧ SameRegs s.chip t (seqRegs c) ∧ SameCounts s.chip t [pgSEQ c] ∧ SameCores s.chip t c) ∧
    (∀ (s : State) (c : Nat) (m : Cmd) (x : Load), c < 144 → s.chip.fabricUp = true → Quiet s.chip c →
      (s.chip.core c).running uCEL = [m] → (s.chip.core c).loads = [x] → x.id = m.id → opcode m.w = 0x0E →
      m.got.length = celLines m → Runs (.ovlLoadDone c m.id) s fun t =>
        (∀ b, x.first ≤ b → b < x.first + x.nblk → (t.core c).block b = 2) ∧ (t.core c).loads = [] ∧
        (t.core c).running uCEL = [] ∧ t.mem = s.chip.mem ∧ t.regs = s.chip.regs ∧ SameCores s.chip t c))

/-- A command issued to a busy engine waits in the engine's queue with the operands of its issue, and the sequencer goes on
(R74, R75, R76, R196, R197, R201); every engine command that is not the synchronisation unit's or the channel endpoint's. A
stalled issue resumes once its queue has room: the instruction joins the end of the queue of the busy vector engine, and the
sequencer goes on (R74, R93). -/
def Obligations.EngineQueues : Prop :=
  (∀ (s : State) (c : Nat) (w : IWord), Takes s.chip c w → Quiet s.chip c →
      let k := s.chip.core c
      let m := s.chip.capture c w
      let waits := fun (u : Nat) (i : Instr) => Runs i s fun t =>
        (t.core c).queue u = [m] ∧ (t.core c).running u = k.running u ∧ (t.core c).nextId = k.nextId + 1 ∧
        Retired s.chip t c ∧ SeqFrame s.chip t c (seqRegs c) [pgSEQ c] []
      (∀ p ∈ vectorCommands, opcode w = p.1 → vecBusy m (k.running uVEC) = true → waits uVEC (p.2 c w)) ∧
      (k.running uMTX ≠ [] →
        (opcode w = 0x80 → waits uMTX (.mmul c w)) ∧ (opcode w = 0x81 → waits uMTX (.mdrain c w))) ∧
      (k.running uADJ ≠ [] → (opcode w = 0x84 → waits uADJ (.abind c w)) ∧ (opcode w = 0x85 → waits uADJ (.acorr c w))) ∧
      (4 ≤ (k.running uMOV).length → (opcode w = 0x42 → waits uMOV (.nwr c w)) ∧ (opcode w = 0x43 → waits uMOV (.tcopy c w))) ∧
      (4 ≤ (k.running uCEL).length →
        (opcode w = 0x40 → waits uCEL (.cfetch c w)) ∧ (opcode w = 0x41 → waits uCEL (.cstore c w)))) ∧
  (∀ (s : State) (c : Nat) (x : SeqWait) (l : List Cmd) (m : Cmd), c < 144 → s.chip.fabricUp = true →
      s.chip.seqState c = sqRUNNING → (s.chip.core c).wait = some x → x.code = 4 → 0xA1 ≤ opcode x.w →
      opDefined (opcode x.w) = true → resvBad x.w = false → s.chip.pendingIn c (s.chip.predCounters c x.w) = false →
      s.chip.condHolds c x.w = true → s.chip.pendingIn c (readsCounters x.w) = false → s.chip.issueBad c x.w = none →
      (s.chip.core c).q = [(uVEC, m :: l)] → l.length < 15 → vecBusy m ((s.chip.core c).running uVEC) = true →
      (s.chip.core c).running uSYNC = [] → Runs (.queueFullResume c) s fun t =>
        (t.core c).q = [(uVEC, m :: l ++ [s.chip.capture c x.w])] ∧ (t.core c).wait = none ∧ Retired s.chip t c ∧
        SeqFrame s.chip t c (seqRegs c) [pgSEQ c] [])

/-- A vector command with one row of results that lies within one 64 B line, issued to a core at rest: the vector engine reads
the row that the command computes there, no other byte of memory changes, and the command keeps its flags and the random words
that it drew until it completes (R195, R198 to R221, R223). The values of every row of every vector command that writes a
tile, whatever lines they take, where D overlaps no source or has one row (log 99 otherwise), read as the vector engine sees
them; no byte outside D changes (R156, R195, R198, R199, R204 to R211, R216, R217, R219, R220): the conversion to D's format
of the elementwise results, of Horner's rule, of reductions, functions, draws, selections and samples; a microscaled VCVT
writes each block's elements and scale byte. What those operations give (R156, R206, R207, R209, R211, R212, R216, R219, R220;
the ties of zeros are log 101, a fast result within its bound log 14): special operands and correctly rounded quotients and
roots; fast results within the bound of the table; a lane sums every 64th or 256th element, then pairs; a block's scale
follows its largest magnitude; the largest and smallest with the first index; the k largest in order; VSAMPLE without
candidates and at a temperature not above zero; a draw is a word of Philox-4x32-10. -/
def Obligations.VectorRows : Prop :=
  (∀ (s : State) (c : Nat) (w : IWord), Takes s.chip c w → AtRest s.chip c →
      ∀ p ∈ vectorCommands, opcode w = p.1 → opcode w ≠ 0xA0 → opcode w ≠ 0xAD → opcode w ≠ 0xAE →
      let m := s.chip.capture c w
      let row := (s.chip.vecRow s.chip c m (s.chip.vecMode c m) 0).1
      let l := packRow (fmtBits (tdFmt m.dD)) (row.map (·.1))
      tdRows m.dD = 1 → tdScl m.dD ≠ 1 → tdBase m.dD % 64 + l.length ≤ 64 →
      Runs (p.2 c w) s fun t =>
        t.seen c uVEC (tdBase m.dD) l.length = l ∧ SameBytes s.chip t (tunAddr c (tdBase m.dD)) l.length ∧
        (t.core c).running uVEC = [{ m with flags := orFlags row, words := s.chip.vecWords c m (s.chip.vecMode c m) 0, prog := 1 }] ∧ (t.core c).q = [] ∧
        Retired s.chip t c ∧ SameRegs s.chip t (seqRegs c) ∧ SameCores s.chip t c) ∧
  (∀ (s : State) (c : Nat) (w : IWord), Takes s.chip c w → AtRest s.chip c →
      let m := s.chip.capture c w
      let v := s.chip.vecMode c m
      let n := tdCols m.dD
      let fmt := tdFmt m.dD
      let src := fun i r => s.chip.srcRow s.chip c m v.ftz i r n
      let out := fun x => (convert fmt v.rnd v.sat v.ftz x).1
      let two := fun (f : Val → Val → Nat) r => (src 0 r).zipWith f (src 1 r)
      let three := fun (f : Val → Val → Val → Nat) r => ((src 0 r).zip ((src 1 r).zip (src 2 r))).map fun x => f x.1 x.2.1 x.2.2
      let rowA := fun r => (s.chip.rowVals c uVEC m.dA r).map (ftzRead v.ftz (srcFmt (tdFmt m.dA)))
      let fast := fun (a x : Val) => (rne32 v.ftz ((if tFN w % 8 = 1 then (x.mul x).1 else x).add a false).1).1
      let red := fun (sum : List Val → Val) (l : List Val) =>
        if tFN w % 8 = 4 ∨ tFN w % 8 = 5 then [(argBest (tFN w % 8 = 5) v.ftz (wIMM0 w) l).1.1, (argBest (tFN w % 8 = 5) v.ftz (wIMM0 w) l).2]
        else if tFN w % 8 = 2 ∨ tFN w % 8 = 3 then [out (l.tail.foldl (if tFN w % 8 = 2 then maxVal else minVal) (l.headD Val.zero))]
        else if fmt = 0x11 ∨ v.exact = true then
          let t := (exactSum (tFN w % 8 = 1) l).1
          if (exactSum (tFN w % 8 = 1) l).2 = true then [if fmt = 0x11 then laBits t else (convert fmt 1 v.sat v.ftz .nan).1]
          else [if fmt = 0x11 then laBits t else (convert fmt 1 v.sat v.ftz (.ofInt t (-300))).1]
        else [out (sum l)]
      let recd := fun d r => rowRec (s.chip.seenNum c uVEC (recAt d r) 32)
      let trans := fun (o r : Nat) => ((src 0 r).zip (if o = 0xC6 then src 1 r else src 0 r)).map fun x =>
        out (transElt o v.exact v.ftz (rne32 v.ftz x.1).1 (rne32 v.ftz x.2).1).1
      let rows : List (Nat × Instr × (Nat → List Nat)) :=
        [(0xA1, .vadd c w, two fun a b => out (a.add b (v.rnd = 3)).1), (0xA2, .vsub c w, two fun a b => out (a.add b.neg (v.rnd = 3)).1),
         (0xA3, .vmul c w, two fun a b => out (a.mul b).1),
         (0xA4, .vfma c w, three fun a b d => out ((a.mul b).1.add d (v.rnd = 3)).1),
         (0xA5, .vmin c w, two fun a b => out (minVal a b)), (0xA6, .vmax c w, two fun a b => out (maxVal a b)),
         (0xA7, .vabs c w, fun r => (src 0 r).map fun a => out a.abs), (0xA8, .vneg c w, fun r => (src 0 r).map fun a => out a.neg),
         (0xA9, .vcvt c w, fun r => if tdScl m.dD = 1 then ((runs 32 (n + 1) (src 0 r)).flatMap fun b => (mxBlock fmt v.rnd b).2.map (·.1))
            else (src 0 r).map fun a => (convert fmt (if tdFmt m.dA = 0x11 then 1 else v.rnd) v.sat v.ftz a).1),
         (0xAA, .vcmp c w, two fun a b => if cmpVal (tFN w % 8) a b then 1 else 0),
         (0xAB, .vsel c w, three fun a b d => out (if d.isZero then b else a)),
         (0xAC, .vpoly c w, fun r =>
            let cs := ((s.chip.rowVals c uVEC m.dB 0).map (ftzRead v.ftz 0)).take (tFN w % 16 + 1)
            (src 0 r).map fun a => out ((cs.reverse.drop 1).foldl (fun p k => (rne32 v.ftz ((p.mul a).1.add k false).1).1)
              (cs.getLastD Val.zero))),
         (0xC0, .vred c w, fun r => if tFN w / 8 % 2 = 1 then
              (List.range (tdCols m.dA)).flatMap fun j =>
                red (List.foldl fast (.fin true 0 0)) ((List.range (tdRows m.dA)).map fun k => ((rowA k)[j]?).getD Val.zero)
            else red (fun l => (laneSum v.ftz (tFN w % 8 = 1) v.lanes l).1) (rowA r)),
         (0xC1, .vexp2 c w, trans 0xC1), (0xC2, .vlog2 c w, trans 0xC2), (0xC3, .vrcp c w, trans 0xC3), (0xC4, .vrsqrt c w, trans 0xC4),
         (0xC5, .vsqrt c w, trans 0xC5), (0xC6, .vdiv c w, trans 0xC6), (0xC7, .vtanh c w, trans 0xC7), (0xC8, .vsigm c w, trans 0xC8),
         (0xC9, .vrng c w, fun r => (List.range n).map fun j =>
            let z := draw (recd m.dA r) (wIMM0 w + j) (bf w 32 12)
            if fmt = 0 then bits32 (.fin false (z / 2 ^ 8) (-24)) else z),
         (0xCA, .vtopk c w, fun r =>
            let k := bf w 32 7
            let cand : List (Val × Nat) := if tMODE w / 2 = 1 then
                (((List.range (tdCols m.dA / 2)).map fun j => (s.chip.eltBits c uVEC m.dA r (2 * j), s.chip.eltBits c uVEC m.dA r (2 * j + 1))).filter
                  fun p => p.2 ≠ 0xFFFFFFFF).map fun p => (ftzRead v.ftz 0 (f32 p.1), p.2)
              else (List.range (tdCols m.dA)).zip (s.chip.rowVals c uVEC m.dA r) |>.map fun p =>
                (if fmtInt (tdFmt m.dA) then (rne32 v.ftz p.2).1 else ftzRead v.ftz (srcFmt (tdFmt m.dA)) p.2, (wIMM0 w + p.1) % 2 ^ 32)
            let best := topk k cand
            (best.flatMap fun p => [(encodeFp 0 fp32 1 false v.ftz p.1).1, p.2]) ++
              (List.replicate (k - best.length) [0xFF800000, 0xFFFFFFFF]).flatten),
         (0xCB, .vsample c w, fun r =>
            let x := sampleRow v.exact v.ftz (bf w 32 12) (recd m.dB r) ((List.range (tdCols m.dA / 2)).map fun j =>
              (f32 (s.chip.eltBits c uVEC m.dA r (2 * j)), s.chip.eltBits c uVEC m.dA r (2 * j + 1)))
            [x.1, x.2.1])]
      tdRows m.dD = 1 ∨ rangesMeet (vecReads m) (vecWrites m) = false →
      (tdScl m.dD = 1 → tdScale m.dD + tdScaleBytes m.dD ≤ tdBase m.dD ∨ tdBase m.dD + tdSpan m.dD ≤ tdScale m.dD) →
      ∀ r ∈ rows, opcode w = r.1 → Runs r.2.1 s fun t =>
        (∀ i, i < tdRows m.dD → let b := packRow (fmtBits fmt) (r.2.2 i)
          t.seen c uVEC (tdBase m.dD + i * tdStride m.dD) b.length = b) ∧
        (tdScl m.dD = 1 → opcode w = 0xA9 → ∀ i, i < tdRows m.dD →
          let x := (runs 32 (n + 1) (src 0 i)).map fun b => BitVec.ofNat 8 (mxBlock fmt v.rnd b).1
          t.seen c uVEC (scaleAt m.dD i 0) x.length = x) ∧
        ∀ a, (∀ q ∈ vecWrites m, a < tunAddr c q.1 ∨ tunAddr c q.1 + q.2 ≤ a) → t.byte a = s.chip.byte a) ∧
  ((∀ (e ftz : Bool) (n : Bool) (p : Nat) (q : Int),
      let fn := fun o a => transElt o e ftz a a
      (∀ o, 0xC1 ≤ o → o ≤ 0xC8 → fn o .nan = (.nan, 0)) ∧
      fn 0xC1 (.inf true) = (Val.zero, 0) ∧ fn 0xC1 (.inf false) = (.inf false, 0) ∧ (fn 0xC1 (.fin n 0 q)).1 = f32 0x3F800000 ∧
      fn 0xC2 (.inf false) = (.inf false, 0) ∧ fn 0xC2 (.inf true) = (.nan, flINVALID) ∧ fn 0xC2 (.fin n 0 q) = (.inf true, flDIVZERO) ∧
      (p ≠ 0 → fn 0xC2 (.fin true p q) = (.nan, flINVALID)) ∧
      fn 0xC3 (.inf n) = (.fin n 0 0, 0) ∧ fn 0xC3 (.fin n 0 q) = (.inf n, flDIVZERO) ∧
      fn 0xC4 (.inf false) = (Val.zero, 0) ∧ fn 0xC4 (.inf true) = (.nan, flINVALID) ∧ fn 0xC4 (.fin n 0 q) = (.inf n, flDIVZERO) ∧
      (p ≠ 0 → fn 0xC4 (.fin true p q) = (.nan, flINVALID)) ∧
      fn 0xC5 (.inf false) = (.inf false, 0) ∧ fn 0xC5 (.inf true) = (.nan, flINVALID) ∧ fn 0xC5 (.fin n 0 q) = (.fin n 0 0, 0) ∧
      (p ≠ 0 → fn 0xC5 (.fin true p q) = (.nan, flINVALID)) ∧
      fn 0xC7 (.inf n) = (.fin n 1 0, 0) ∧ fn 0xC8 (.inf true) = (Val.zero, 0) ∧ fn 0xC8 (.inf false) = (.fin false 1 0, 0) ∧
      (∀ a b, (transElt 0xC6 e ftz a b).1.eqv (rne32 ftz (a.div b).1).1 = true ∨
        ((transElt 0xC6 e ftz a b).1 = .nan ∧ (rne32 ftz (a.div b).1).1 = .nan)) ∧
      (p ≠ 0 → (fn 0xC3 (.fin n p q)).1 = (rne32 ftz ((Val.fin false 1 0).div (.fin n p q)).1).1 ∧
        (fn 0xC5 (.fin false p q)).1 = (rne32 ftz (Val.fin false p q).sqrt.1).1)) ∧
    (∀ (o k : Nat) (ftz : Bool) (a b x : Val), trans o a b = .value x false k → k ≠ 0 →
      let rz := (encodeFp 0 fp32 2 false false x).1
      2 ^ 23 ≤ rz % 2 ^ 31 → (encodeFp 0 fp32 1 false false x).1 % 2 ^ 31 < 0x7F800000 →
      ((transElt o true ftz a b).1 = (rne32 ftz x).1) ∧
      ∃ q, (transElt o false ftz a b).1 = f32 q ∧ q / 2 ^ 31 = rz / 2 ^ 31 ∧ rz % 2 ^ 31 ≤ q % 2 ^ 31 + k ∧ q % 2 ^ 31 ≤ rz % 2 ^ 31 + k) ∧
    (∀ (ftz sq : Bool) (lanes : Nat) (l : List Val), lanes = 64 ∨ lanes = 256 →
      let add := fun (a x : Val) => (rne32 ftz (x.add a false).1).1
      let lane := fun i => ((List.range (l.length / lanes + 1)).filterMap fun k => l[k * lanes + i]?).foldl
        (fun a x => add a (if sq then (x.mul x).1 else x)) (.fin true 0 0)
      let level := fun (z : List Val) (_ : Nat) => (List.range (z.length / 2)).map fun i =>
        add ((z[2 * i]?).getD .nan) ((z[2 * i + 1]?).getD .nan)
      [(laneSum ftz sq lanes l).1] = (List.range (if lanes = 64 then 6 else 8)).foldl level ((List.range lanes).map lane)) ∧
    (∀ (f rnd : Nat) (vs : List Val) (k : Int), vs ≠ [] → (∀ x ∈ vs, x.isFin = true) →
      (∀ n p e, Val.fin n p e ∈ vs → p ≠ 0 → e + bitLen p - 1 ≤ k) → (∃ n p e, Val.fin n p e ∈ vs ∧ p ≠ 0 ∧ e + bitLen p - 1 = k) →
      let x := max 0 (min 254 (k - mxEmax f + 127))
      (mxBlock f rnd vs).1 = x.toNat ∧
      (mxBlock f rnd vs).2.map (·.1) = vs.map fun y => match y with
        | .fin n p e => (convert f rnd true false (.fin n p (if f = 0x0C then e - x + 127 + 6 else e - x + 127))).1
        | _ => 0) ∧
    (∀ (ftz : Bool) (base : Nat) (l : List Val),
      (∀ i x, l[i]? = some x → x.isNan = false →
        ((∀ j y, l[j]? = some y → y.isNan = false → x.ltz y = false ∧ (j < i → y.ltz x = true)) →
          argBest false ftz base l = (encodeFp 0 fp32 1 false ftz x, (base + i) % 2 ^ 32)) ∧
        ((∀ j y, l[j]? = some y → y.isNan = false → y.ltz x = false ∧ (j < i → x.ltz y = true)) →
          argBest true ftz base l = (encodeFp 0 fp32 1 false ftz x, (base + i) % 2 ^ 32))) ∧
      ((∀ x ∈ l, x.isNan = true) → argBest false ftz base l = ((0xFF800000, 0), 0xFFFFFFFF) ∧
        argBest true ftz base l = ((0x7F800000, 0), 0xFFFFFFFF))) ∧
    (∀ (k : Nat) (l : List (Val × Nat)), (l.map (·.2)).Nodup →
      (topk k l).length = min k (l.filter fun p => !p.1.isNan).length ∧ (topk k l).Pairwise (fun a b => before a b = true) ∧
      (∀ p ∈ topk k l, p ∈ l ∧ p.1.isNan = false) ∧
      ∀ p ∈ l, p.1.isNan = false → p ∉ topk k l → ∀ q ∈ topk k l, before q p = true) ∧
    (∀ (e ftz : Bool) (tag : Nat) (r : RowRec) (l : List (Val × Nat)),
      ((∀ p ∈ l, p.2 = 0xFFFFFFFF) → sampleRow e ftz tag r l = (0xFFFFFFFF, 0x7FC00000, flINVALID, 0)) ∧
      (∀ p t, (l.filter fun p => p.2 ≠ 0xFFFFFFFF) = p :: t →
        (f32 r.temp).isNan = true ∨ Val.zero.lt (ftzRead ftz 0 (f32 r.temp)) = false → sampleRow e ftz tag r l = (p.2, 0x3F800000, 0, 0))) ∧
    (∀ (r : RowRec) (e tag : Nat),
      let x := (List.range 10).foldl (fun (x : Nat × Nat × Nat × Nat) k =>
          let k0 := (r.seed % 2 ^ 32 + k * 0x9E3779B9) % 2 ^ 32
          let k1 := (r.seed / 2 ^ 32 + k * 0xBB67AE85) % 2 ^ 32
          ((((0xCD9E8D57 * x.2.2.1) / 2 ^ 32) ^^^ x.2.1) ^^^ k0, 0xCD9E8D57 * x.2.2.1 % 2 ^ 32,
           (((0xD2511F53 * x.1) / 2 ^ 32) ^^^ x.2.2.2) ^^^ k1, 0xD2511F53 * x.1 % 2 ^ 32))
        (e / 4, r.pos, r.step, r.stream % 2 ^ 20 * 4096 + tag)
      [x.1, x.2.1, x.2.2.1, x.2.2.2][e % 4]? = some (draw r e tag)))

/-- VECTOR_CMD_COMPLETE, and VCFG, VFST and VFCLR, which act when they complete: the oldest command leaves, its flags join
VFLAGS, VFST stores VFLAGS, VFCLR clears it, VCFG sets the split (R75, R196, R213, R214, R223). VCFG, VFST and VFCLR issued to
a core at rest go into execution (R75, R196, R214). -/
def Obligations.VectorControl : Prop :=
  (∀ (s : State) (c : Nat) (m : Cmd) (rest : List Cmd), c < 144 → s.chip.fabricUp = true → Quiet s.chip c →
      (s.chip.core c).running uVEC = m :: rest → m.uses = [] →
      let flags := s.chip.reg (pgVEC c + 0x108) ||| m.flags.zeroExtend 32
      Runs (.vectorCmdComplete c) s fun t =>
        (t.core c).running uVEC = rest.filter (fun x => x.id ≠ m.id) ∧
        t.countOf (pgVEC c) 0 = min (s.chip.countOf (pgVEC c) 0 + 1) (2 ^ 64 - 1) ∧
        (opcode m.w = 0xAE → t.reg (pgVEC c + 0x108) = 0) ∧ (opcode m.w ≠ 0xAE → t.reg (pgVEC c + 0x108) = flags) ∧
        (opcode m.w = 0xA0 → t.get (pgVEC c) ⟨0x104, 9, 1⟩ = tFN m.w % 2) ∧
        (opcode m.w = 0xAD → (s.chip.core c).vane = [] → bf m.w 0 22 % 4 = 0 →
          t.seenNum c uVEC (bf m.w 0 22) 4 = bf flags 0 6) ∧
        SameRegs s.chip t [pgVEC c + 0x104, pgVEC c + 0x108] ∧ SameCores s.chip t c ∧ (opcode m.w ≠ 0xAD → t.mem = s.chip.mem)) ∧
  (∀ (s : State) (c : Nat) (w : IWord), Takes s.chip c w → AtRest s.chip c →
      ∀ p ∈ vectorCommands, opcode w = p.1 → (opcode w = 0xA0 ∨ opcode w = 0xAD ∨ opcode w = 0xAE) →
      Runs (p.2 c w) s fun t =>
        (t.core c).running uVEC = [s.chip.capture c w] ∧ (t.core c).q = [] ∧ Retired s.chip t c ∧
        ((t.core c).splitIssued = if opcode w = 0xA0 then decide (tFN w % 2 = 1) else (s.chip.core c).splitIssued) ∧
        SeqFrame s.chip t c (seqRegs c) [pgSEQ c] [])

/-- TCOPY on a core at rest copies its bytes, and completes (R243); no byte outside its destination changes. It writes
straight to the bank, past the gather buffer of R105 (log 80). -/
def Obligations.TcopyCopies : Prop :=
  ∀ (s : State) (c : Nat) (w : IWord), Takes s.chip c w → AtRest s.chip c → opcode w = 0x43 →
    let m := s.chip.capture c w
    Runs (.tcopy c w) s fun t =>
      (∀ i, i < dLEN w → t.byte (tunAddr c (m.val + i)) = s.chip.byte (tunAddr c (m.addr + i))) ∧
      SameBytes s.chip t (tunAddr c m.val) (dLEN w) ∧ (t.core c).running uMOV = [] ∧ (t.core c).q = [] ∧
      Retired s.chip t c ∧ SameRegs s.chip t (seqRegs c) ∧ SameCores s.chip t c

/-- A neighbour write opens with a request to its owner: a landing write at once, another when it holds a credit for the slot,
which it uses up; without one it waits for it (R121, R122, R124, R244). The sender of a neighbour write (R112, R121): an
admission makes its data leave, from the oldest byte on and whole; a rank refusal makes it wait for its repeat, which sends
the request again; an acknowledgement completes the command. -/
def Obligations.NeighbourWriteSender : Prop :=
  (∀ (s : State) (c nb : Nat) (w : IWord), Takes s.chip c w → AtRest s.chip c → opcode w = 0x42 →
      s.chip.neighbour c (nDIR w) = some nb →
      let m := s.chip.capture c w
      let ask : Packet := ⟨s.chip.coreNode c, s.chip.coreNode nb, .nwrRequest m.id m.slot (wOFF w) (dLEN w) (nOP w) (dAUX w) (nLAND w)⟩
      (nLAND w = true → Runs (.nwr c w) s fun t =>
        t.net = s.chip.net ++ [ask] ∧ (t.core c).creds = (s.chip.core c).creds ∧
        ((t.core c).running uMOV).map (fun x => (x.id, x.w, x.prog)) = [(m.id, w, nwAsked)] ∧ Retired s.chip t c ∧
        t.mem = s.chip.mem ∧ SameCores s.chip t c) ∧
      (nLAND w = false → (nDIR w, m.slot) ∈ (s.chip.core c).creds → Runs (.nwr c w) s fun t =>
        t.net = s.chip.net ++ [ask] ∧ (t.core c).creds = (s.chip.core c).creds.erase (nDIR w, m.slot) ∧
        ((t.core c).running uMOV).map (fun x => (x.id, x.w, x.prog)) = [(m.id, w, nwAsked)] ∧ Retired s.chip t c ∧
        t.mem = s.chip.mem ∧ SameCores s.chip t c) ∧
      (nLAND w = false → (nDIR w, m.slot) ∉ (s.chip.core c).creds → Runs (.nwr c w) s fun t =>
        t.net = s.chip.net ∧ ((t.core c).running uMOV).map (fun x => (x.id, x.w, x.prog)) = [(m.id, w, nwCredit)] ∧
        Retired s.chip t c ∧ t.mem = s.chip.mem ∧ SameCores s.chip t c)) ∧
  ((∀ (s : State) (c id slot : Nat) (p : Packet) (rest : List Packet) (m : Cmd), Arriving s.chip c p rest →
      (s.chip.core c).running uMOV = [m] → m.id = id →
      (p.body = .nwrAdmission id slot .admitted → s.chip.errs = [] → s.chip.poison = [] → nOP m.w ≠ 4 → dLEN m.w ≤ 1024 →
        Runs (.nwrAdmissionArrive p) s fun t =>
          t.net = rest ++ [⟨s.chip.coreNode c, p.src, .nwrData id m.slot (wOFF m.w) (nOP m.w) (nLAND m.w) true
            (s.chip.tbytes (tunAddr c m.addr) (dLEN m.w))⟩] ∧
          (t.core c).due = (s.chip.core c).due ++ m.uses ∧ (t.core c).running uMOV = [{ m with uses := [], prog := nwSent }] ∧
          t.regs = s.chip.regs ∧ t.mem = s.chip.mem) ∧
      (p.body = .nwrAdmission id slot .retry → Runs (.nwrAdmissionArrive p) s fun t =>
        t.net = rest ∧ (t.core c).running uMOV = [{ m with prog := nwRetry }] ∧ t.regs = s.chip.regs ∧ t.mem = s.chip.mem) ∧
      (p.body = .nwrAck id → Quiet s.chip c → opcode m.w = 0x42 → m.prog = nwSent → Runs (.nwrAck p) s fun t =>
        t.net = rest ∧ (t.core c).running uMOV = [] ∧ t.countOf (pgMOV c) 6 = min (s.chip.countOf (pgMOV c) 6 + 1) (2 ^ 64 - 1) ∧
        t.regs = s.chip.regs ∧ t.mem = s.chip.mem)) ∧
    (∀ (s : State) (c nb : Nat) (m : Cmd), c < 144 → s.chip.fabricUp = true → (s.chip.core c).running uMOV = [m] →
      opcode m.w = 0x42 → m.prog = nwRetry → s.chip.neighbour c (nDIR m.w) = some nb → Runs (.nwrRankRetry c m.id) s fun t =>
        t.net = s.chip.net ++ [⟨s.chip.coreNode c, s.chip.coreNode nb,
          .nwrRequest m.id m.slot (wOFF m.w) (dLEN m.w) (nOP m.w) (dAUX m.w) (nLAND m.w)⟩] ∧
        (t.core c).running uMOV = [{ m with prog := nwAsked }] ∧
        t.countOf (pgSYNC c) 0x0B = min (s.chip.countOf (pgSYNC c) 0x0B + 64) (2 ^ 64 - 1) ∧ t.regs = s.chip.regs))

/-- The owner's answer to a request (R121, R122, R124, R126): it is the verdict of its slot's rules; an admitted request is
remembered, and one that uses a credit becomes a producer of the slot. The last data of a plain landing write is performed at
its offset in the slot, counted in the slot's arrival counter and acknowledged (R121, R124); no byte outside it changes. The
owner's verdict pinned (R112, R118, R119, R122, R124, R126, the order of its checks log 45), and what the data of an admitted
write leaves (R117, R120, R121): plain data at its offset; under an accumulate operation each element's sum, FP32 sum rounded
as the owner's vector page says, maximum or LA576 sum, counted; an LA576 sum out of range faults with LA_OVERFLOW; the last
data of a write that does not land completes a producer and is acknowledged. -/
def Obligations.NeighbourWriteOwner : Prop :=
  (∀ (s : State) (c o d id slot off len op rank : Nat) (land : Bool) (p : Packet) (rest : List Packet),
      Arriving s.chip c p rest → Quiet s.chip c → p.body = .nwrRequest id slot off len op rank land →
      s.chip.localCore p.src = some o → s.chip.dirTo c o = some d →
      let v := s.chip.nwrVerdict c d slot off len op rank land
      Runs (.nwrRequestArrive p) s fun t =>
        t.net = rest ++ [⟨s.chip.coreNode c, p.src, .nwrAdmission id slot v⟩] ∧
        (v = .admitted → (t.core c).nwIn = (s.chip.core c).nwIn ++ [⟨p.src, id, slot, land⟩]) ∧
        (v ≠ .admitted → t.cores = s.chip.cores ∧ t.slots = s.chip.slots ∧ t.mem = s.chip.mem) ∧
        (v = .admitted → land = false → (t.slot c slot).started = (s.chip.slot c slot).started + 1 ∧
          (t.slot c slot).crdout = (s.chip.slot c slot).crdout - 1) ∧
        t.regs = s.chip.regs ∧ SameCores s.chip t c) ∧
  (∀ (s : State) (c id slot off : Nat) (data : List TByte) (p : Packet) (rest : List Packet), Arriving s.chip c p rest →
      Quiet s.chip c → p.body = .nwrData id slot off 0 true true data → (s.chip.core c).inReset = false →
      (⟨p.src, id, slot, true⟩ : NwIn) ∈ (s.chip.core c).nwIn →
      let a := tunAddr c ((s.chip.slot c slot).base + off)
      let k := (s.chip.slot c slot).arr
      Runs (.nwrDataArrive p) s fun t =>
        (∀ i, ∀ h : i < data.length, t.byte (a + i) = data[i].1) ∧ SameBytes s.chip t a data.length ∧
        t.get (pgSYNC c) (fArr k) = (s.chip.get (pgSYNC c) (fArr k) + 1) % 2 ^ 32 ∧
        t.net = rest ++ [⟨s.chip.coreNode c, p.src, .nwrAck id⟩] ∧
        (t.core c).nwIn = (s.chip.core c).nwIn.erase ⟨p.src, id, slot, true⟩ ∧ t.slots = s.chip.slots ∧
        (s.chip.errs = [] → SameRegs s.chip t [pgSYNC c + 0x120 + 4 * k]) ∧ SameCores s.chip t c) ∧
  ((∀ (s : Chip) (c d slot off len op rank : Nat) (land : Bool),
      let sl := s.slot c slot
      s.nwrVerdict c d slot off len op rank land =
        if (s.core c).inReset = true then .refused 0x1C
        else if sl.len = 0 then .refused 0x1A
        else if sl.len < off + len then .refused 0x15
        else if op ≠ bf sl.desc 45 3 then .refused 0x1B
        else if op ≠ 0 ∧ (sl.base + off) % (if op = 4 then 8 else 4) ≠ 0 then .refused 0x15
        else if land = true then (if sl.desc.getLsbD 42 = true then .admitted else .refused 0x1C)
        else if op = 2 ∧ sl.desc.getLsbD 44 = false ∧ 1 < bf sl.desc 56 8 then .refused 0x1B
        else if sl.crdout = 0 ∨ sget natReset (s.core c).granted d = 0 then .refused 0x1C
        else if sl.desc.getLsbD 44 = true ∧ ¬(sl.started = sl.done ∧ rank = sl.next) then .retry
        else .admitted) ∧
    (∀ (s : State) (c id slot off op : Nat) (land last : Bool) (data : List TByte) (p : Packet) (rest : List Packet),
      Arriving s.chip c p rest → Quiet s.chip c → p.body = .nwrData id slot off op land last data → (s.chip.core c).inReset = false →
      (⟨p.src, id, slot, land⟩ : NwIn) ∈ (s.chip.core c).nwIn → (s.chip.core c).gather = [] → (s.chip.core c).vane = [] →
      s.chip.poison = [] → s.chip.errs = [] → slot < 4096 →
      let sl := s.chip.slot c slot
      let a := tunAddr c (sl.base + off)
      let after := fun (t : Chip) =>
        (last = false → t.net = rest ∧ t.cores = s.chip.cores ∧ t.slots = s.chip.slots) ∧
        (last = true → t.net = rest ++ [⟨s.chip.coreNode c, p.src, .nwrAck id⟩] ∧
          (t.core c).nwIn = (s.chip.core c).nwIn.erase ⟨p.src, id, slot, land⟩ ∧
          (land = false → sl.state = 1 → t.slot c slot =
            { sl with done := sl.done + 1, next := sl.next + 1, state := if sl.done + 1 = bf sl.desc 56 8 then 2 else 1 }) ∧
          (land = true → t.slots = s.chip.slots))
      (op = 0 → Runs (.nwrDataArrive p) s fun t =>
        (∀ i, ∀ h : i < data.length, t.byte (a + i) = data[i].1) ∧ SameBytes s.chip t a data.length ∧ after t) ∧
      (∀ k, (op = 1 ∨ op = 2 ∨ op = 3) → k ≠ 0 → data.length = 4 * k →
        let new := fun i => natOf (((data.drop (4 * i)).take 4).map (·.1))
        let old := fun i => s.chip.num (a + 4 * i) 4
        let x := fun i => ftzRead (s.chip.vecFtz c) 0 (f32 (old i))
        let y := fun i => ftzRead (s.chip.vecFtz c) 0 (f32 (new i))
        Runs (.nwrDataArrive p) s fun t =>
          (∀ i, i < k → t.num (a + 4 * i) 4 =
            if op = 1 then (old i + new i) % 2 ^ 32
            else if op = 2 then (convert 0 (s.chip.vecDrnd c) false (s.chip.vecFtz c) ((x i).add (y i) (s.chip.vecDrnd c = 3)).1).1
            else if (f32 (old i)).isNan || (f32 (new i)).isNan then 0x7FC00000
            else if (f32 (old i)).ltz (f32 (new i)) then new i else old i) ∧
          SameBytes s.chip t a data.length ∧
          t.countOf (pgSYNC c) 0x0F = min (s.chip.countOf (pgSYNC c) 0x0F + k) (2 ^ 64 - 1) ∧ after t) ∧
      (∀ k, op = 4 → k ≠ 0 → data.length = 72 * k →
        let sum := fun i => sgn 576 (s.chip.num (a + 72 * i) 72) + sgn 576 (natOf (((data.drop (72 * i)).take 72).map (·.1)))
        ((∀ i, i < k → laInRange (sum i) = true) → Runs (.nwrDataArrive p) s fun t =>
          (∀ i, i < k → t.num (a + 72 * i) 72 = laBits (sum i)) ∧ SameBytes s.chip t a data.length ∧ after t) ∧
        (∀ i, i < k → laInRange (sum i) = false → s.chip.seqState c = sqRUNNING → Runs (.nwrDataArrive p) s fun t =>
          Faults s.chip t c eLA_OVF 0xFF (s.chip.pc c) ∧ t.get (pgSYNC c) fSyncAccOvf = 1 ∧ t.get (pgSYNC c) fSyncFaultSlot = slot))))

/-- Bad words (R69, R104, R137, R354, R396, R397). A consumer faults with UNCORRECTABLE, or with POISON_CONSUMED where a word
is only poisoned, and FAULT_CAUSE 0xFF where execution finds it (log 8): a fetch, whatever row it issues (log 1), a CLD at the
index at which it issued, TDLOAD, ABIND, an elementwise vector command, the products of a column group, an acquire. A unit
that copies does not fault: TCOPY, a cellar line and neighbour-write data carry the bits, and the words of their bytes are
poisoned from then on, a word written whole from good words is good, one written in part stays bad if it was; an uncorrectable
source is logged. The kiln's read of a bad word is an access fault, and its write of whole words makes them good. -/
def Obligations.PoisonedData : Prop :=
  ∀ s : State, s.chip.fabricUp = true → Canonical s.chip →
    let tun := fun (c : Nat) (r : Nat × Nat) (code : Nat) => Meets s.chip (tunAddr c r.1) r.2 code
    let consumed := fun (i : Instr) (c pc : Nat) (rs : List (Nat × Nat)) =>
      ∀ r ∈ rs, ∀ k, tun c r k → ∃ code, (code = 0x03 ∨ code = 0x04) ∧
        ((∃ q ∈ rs, HoldsUncorr s.chip (tunAddr c q.1) q.2) → code = 0x03) ∧
        ((∀ q ∈ s.chip.errs, q.2 < 3) → code = 0x04) ∧ Runs i s fun t => Faults s.chip t c code 0xFF pc
    (∀ c w, c < 144 → s.chip.mayIssue c w = true → s.chip.pc c < 6144 → (s.chip.core c).block (s.chip.pc c / 64) = 2 →
      ∀ code, Meets s.chip (imAddr c (s.chip.pc c)) 16 code → ∀ r ∈ issueRows, Runs (r.2 c w) s fun t =>
        Faults s.chip t c code 0xFF (s.chip.pc c)) ∧
    (∀ c p rest code, c < 144 → s.chip.seqState c = sqRUNNING → (s.chip.core c).loadsPend = p :: rest → tun c (p.addr, 4) code →
      Runs (.cldComplete c p.cnt) s fun t => Faults s.chip t c code 0xFF (p.pc % 8192)) ∧
    (∀ c w, Takes s.chip c w →
      (opcode w = 0x0D → s.chip.slotsOn c (bf w 0 22) (16 * bf w 32 5) = [] →
        consumed (.tdload c w) c (s.chip.pc c) [(bf w 0 22, 16 * bf w 32 5)]) ∧
      (opcode w = 0x84 → Still s.chip c → consumed (.abind c w) c (s.chip.pc c) [(bf w 0 22, bf w 32 13)]) ∧
      (∀ v ∈ vectorCommands, opcode w = v.1 → 0xA1 ≤ v.1 → v.1 ≤ 0xA8 → Still s.chip c → (vecGiven w)[0]? = some 0 →
        let d := s.chip.desc c (tA w)
        ∀ k, tdScl d = 0 → tdCols d = tdCols (s.chip.desc c (tD w)) → tun c (tdBase d, tdRowBytes d) k → ∃ code, (code = 0x03 ∨ code = 0x04) ∧
          ((∀ q ∈ s.chip.errs, q.2 < 3) → code = 0x04) ∧ (s.chip.poison = [] → code = 0x03) ∧ Runs (v.2 c w) s fun t =>
            Faults s.chip t c code 0xFF (s.chip.pc c))) ∧
    (∀ c m, c < 144 → s.chip.seqState c = sqRUNNING → (s.chip.core c).running uMTX = [m] → opcode m.w = 0x80 → mCHAIN m.w = false →
      mADJ m.w = false → mACCUM m.w = false →
      let g := groupAt (s.chip.mtxExact c) (tdRows m.dD) (tdCols m.dD) m.prog
      consumed (.columnGroupDrain c) c (m.pc % 8192)
        ((span g.1 g.2.1).flatMap (rowRanges m.dA) ++ (span g.2.2.1 g.2.2.2).flatMap (rowRanges m.dB))) ∧
    (∀ c m a code, c < 144 → s.chip.seqState c = sqRUNNING → (s.chip.core c).running uSYNC = [m] → (s.chip.core c).acq = some a →
      a.phase = 0 → a.cellar = false → tun c (a.addr, 8) code → Runs (.acquireComplete c none) s fun t =>
        Faults s.chip t c code 0xFF (m.pc % 8192)) ∧
    (∀ c w, Takes s.chip c w → Still s.chip c → opcode w = 0x43 →
      let m := s.chip.capture c w
      let src := tunAddr c m.addr
      let dst := tunAddr c m.val
      Runs (.tcopy c w) s fun t =>
        (∀ i, i < dLEN w → t.byte (dst + i) = s.chip.byte (src + i)) ∧
        PoisonWritten s.chip t dst (dLEN w) (fun i => Spoilt s.chip ((src + i) / 8)) ∧
        (HoldsUncorr s.chip src (dLEN w) → t.bit (pgMOV c) ⟨0x010, errBit eUNCORR, 1⟩ = true) ∧ t.seqState c = s.chip.seqState c) ∧
    (∀ c i m, c < 144 → Quiet s.chip c → (s.chip.core c).running uCEL = [m] → m.prog = 1 → m.sent = celLines m → i ∈ m.asked →
      i ∉ m.got → m.uses = [] → (ownSlice c m = true ∨ (s.chip.arrive (s.chip.lineAnswer c m i)).isSome = true) →
      let l := celLine m i
      let cel := celAddr (m.addr + l.1)
      let own := tunAddr c (m.val + l.1)
      let copies := fun (a b : Nat) => Runs (.cellarLineReturn c m.id i) s fun t =>
        (∀ k, k < l.2 → t.byte (b + k) = s.chip.byte (a + k)) ∧
        PoisonWritten s.chip t b l.2 (fun k => Spoilt s.chip ((a + k) / 8)) ∧ t.seqState c = s.chip.seqState c
      (opcode m.w = 0x40 → copies cel own) ∧ (opcode m.w = 0x41 → copies own cel)) ∧
    (∀ c id slot off data p rest, Arriving s.chip c p rest → Quiet s.chip c → p.body = .nwrData id slot off 0 true true data →
      (s.chip.core c).inReset = false → (⟨p.src, id, slot, true⟩ : NwIn) ∈ (s.chip.core c).nwIn → Runs (.nwrDataArrive p) s fun t =>
        PoisonWritten s.chip t (tunAddr c ((s.chip.slot c slot).base + off)) data.length
          (fun i => (data[i]?).map (·.2) = some true) ∧ t.seqState c = s.chip.seqState c) ∧
    (∀ c, c < 144 → s.chip.present c = true →
      (∀ o n code, o + n ≤ 0x300000 → s.chip.closed (s.chip.ownerOf c) = false → Meets s.chip (tunAddr c o) n code →
        Runs (.tunApertureAccess c (.read o n)) s fun t => t.resp = [] ∧ t.mem = s.chip.mem ∧ t.poison = s.chip.poison) ∧
      (∀ o l, l ≠ [] → o + l.length ≤ 0x300000 → s.chip.ctxState (s.chip.ownerOf c) ≠ 3 →
        Runs (.tunApertureAccess c (.write o l)) s fun t =>
          PoisonWritten s.chip t (tunAddr c o) l.length (fun _ => False) ∧
          ∀ q ∈ t.errs, q.1 < tunAddr c o / 8 ∨ (tunAddr c o + l.length - 1) / 8 < q.1))

/-- Matrix commands issued to a core at rest: an MMUL outside a chain, an MMUL with ADJ 1, which counts as the next pair, and
an MDRAIN of an open chain go into execution until their groups have drained or been corrected, with the codebook of W read;
an MDRAIN with no chain open writes nothing and completes (R75, R153, R171, R172, R181, R187, R191). The first MMUL of a chain
on an integer pair leaves its exact dot products open in the accumulators, row by row, writes no memory, and completes (R168,
R176, R181, R190, R191). Every chained MMUL without corrections, the first of a chain or a later one, on a pair of any kind
(R171, R173, R176 to R178, R181): its products join the chain's accumulators, which start at −0 or 0, its terms count, and no
memory changes. -/
def Obligations.MatrixCommands : Prop :=
  (∀ (s : State) (c : Nat) (w : IWord), Takes s.chip c w → AtRest s.chip c →
      let m := s.chip.capture c w
      let starts := fun (i : Instr) (pairs : Nat) => Runs i s fun t =>
        (t.core c).running uMTX = [m] ∧ (t.core c).q = [] ∧ (t.core c).chainIssued = s.chip.chainNext c w ∧
        (t.core c).chain = (s.chip.core c).chain ∧ (t.core c).adjMmul = (s.chip.core c).adjMmul + pairs ∧
        (opcode w = 0x80 → tdScl m.dB = 2 → (t.core c).mtxTab = (List.range 16).map (s.chip.cbRaw c uMTX m.dB)) ∧
        Retired s.chip t c ∧ SeqFrame s.chip t c (seqRegs c) [pgSEQ c] []
      (opcode w = 0x80 → mADJ w = false → mCHAIN w = false → starts (.mmul c w) 0) ∧
      (opcode w = 0x80 → mADJ w = true → starts (.mmul c w) 1) ∧
      (opcode w = 0x81 → (s.chip.core c).chain ≠ none → starts (.mdrain c w) 0) ∧
      (opcode w = 0x81 → (s.chip.core c).chain = none → Runs (.mdrain c w) s fun t =>
        (t.core c).running uMTX = [] ∧ (t.core c).q = [] ∧ (t.core c).chain = none ∧ (t.core c).chainIssued = none ∧
        t.countOf (pgMTX c) 1 = min (s.chip.countOf (pgMTX c) 1 + 1) (2 ^ 64 - 1) ∧ Retired s.chip t c ∧ t.mem = s.chip.mem ∧
        SameRegs s.chip t (seqRegs c) ∧ SameCores s.chip t c)) ∧
  (∀ (s : State) (c : Nat) (w : IWord), Takes s.chip c w → AtRest s.chip c → opcode w = 0x80 → mADJ w = false → mCHAIN w = true →
      s.chip.mtxExact c = false → (s.chip.core c).chain = none → (s.chip.core c).chainIssued = none →
      let m := s.chip.capture c w
      intPair m.dB m.dA = true → tdCols m.dA ≤ 2 ^ 19 → tdRows m.dA ≤ 64 → tdRows m.dB ≤ 128 →
      Runs (.mmul c w) s fun t =>
        (t.core c).chain = some ⟨tD w, tdRows m.dA, tdRows m.dB, 1, tdCols m.dA, [],
          (List.range (tdRows m.dA)).flatMap fun i => (List.range (tdRows m.dB)).map fun j =>
            intAcc 0 ((s.chip.rowVals c uMTX m.dA i).zip (s.chip.rowVals c uMTX m.dB j)), []⟩ ∧
        (t.core c).chainIssued = some (tD w, tdRows m.dA, tdRows m.dB, true) ∧ (t.core c).running uMTX = [] ∧ (t.core c).q = [] ∧
        t.get (pgMTX c) ⟨0x110, 0, 8⟩ = tD w ∧ t.countOf (pgMTX c) 0 = min (s.chip.countOf (pgMTX c) 0 + 1) (2 ^ 64 - 1) ∧
        Retired s.chip t c ∧ t.mem = s.chip.mem ∧ SameRegs s.chip t (seqRegs c ++ [pgMTX c + 0x110]) ∧ SameCores s.chip t c) ∧
  (∀ (s : State) (c : Nat) (w : IWord), Takes s.chip c w → AtRest s.chip c → opcode w = 0x80 → mADJ w = false → mCHAIN w = true →
      let m := s.chip.capture c w
      let ch := (s.chip.core c).chain
      let rows := tdRows m.dA
      let cols := tdRows m.dB
      let kind := mtxKind (s.chip.mtxExact c) m.dB m.dA
      (∀ x, ch = some x → x.kind = kind) →
      (chainCount ch).1 + tdCols m.dA + 16 * mostBlocks (addBlocks (chainCount ch).2 []) ≤ 2 ^ 19 →
      let start := fun (k : Nat) => (ch.map fun x => (x.acc[k]?).getD 0).getD (if kind = 0 then 0x80000000 else 0)
      let pairs := fun k => (s.chip.rowVals c uMTX m.dA (k / cols)).zip (s.chip.rowVals c uMTX m.dB (k % cols))
      let prod : Nat → Int := fun k =>
        if kind = 0 then (bits32 (fastAcc ((kBlock m.dB m.dA).getD 32) (f32 (start k).toNat) (pairs k)).1 : Int)
        else if kind = 1 then intAcc (start k) (pairs k)
        else (exactAcc (start k) (pairs k)).1
      Runs (.mmul c w) s fun t =>
        (t.core c).chain.map (fun x => (x.cIdx, x.m, x.n, x.kind, x.terms, x.acc)) =
          some (tD w, rows, cols, kind, (chainCount ch).1 + tdCols m.dA, (List.range (rows * cols)).map prod) ∧
        (kind = 2 → ∀ k, (∃ x, (t.core c).chain = some x ∧ k ∈ x.marks) ↔
          (k < rows * cols ∧ (exactAcc (start k) (pairs k)).2 = true) ∨ ∃ x, ch = some x ∧ k ∈ x.marks) ∧
        (t.core c).running uMTX = [] ∧ (t.core c).q = [] ∧ Retired s.chip t c ∧ t.mem = s.chip.mem ∧ SameCores s.chip t c)

/-- COLUMN_GROUP_DRAIN of the only group of an integer MMUL, with no chain, no corrections and no ACCUM: every element of C's
row is the conversion of the exact dot product of a row of A and a row of W, scaled by the output scale; the command completes
(R171, R176, R179, R191). A drain whose corrections are not ready writes nothing, waits for the adjunct unit, and DRAIN_WAIT
reads 1 (R189, R190). The values of a column group's drain, for every kind of pair and mode, with an open chain or none, with
and without corrections and ACCUM, and for the MDRAIN of a chain (R171, R173, R176 to R179, R181, R188; the kind of a chain is
fixed by its commands, log 97): each element starts at the chain's accumulator, else at −0 or 0, takes the products of its
rows, its correction, the old value of C, and is converted; no other byte changes. What the operations of an accumulation give
(R158, R164, R173, R175 to R177, R179): a K block's exact sum rounded once and added with one rounding, an exact sum of finite
products, an exact integer sum, and the conversions of a drained element of each kind. -/
def Obligations.MatrixDrains : Prop :=
  (∀ (s : State) (c : Nat) (m : Cmd), c < 144 → s.chip.fabricUp = true → (s.chip.core c).q = [] →
      (s.chip.core c).running uSYNC = [] → (s.chip.core c).running uMTX = [m] → (s.chip.core c).chain = none →
      (s.chip.core c).gather = [] → (s.chip.core c).vane = [] → s.chip.poison = [] → s.chip.errs = [] →
      opcode m.w = 0x80 → mADJ m.w = false → mCHAIN m.w = false → mACCUM m.w = false → s.chip.mtxExact c = false →
      intPair m.dB m.dA = true → m.prog = 0 → tdRows m.dD = 1 → tdRows m.dA = 1 → tdCols m.dD = tdRows m.dB →
      1 ≤ tdCols m.dD → tdCols m.dD ≤ 128 → tdCols m.dA ≤ 2 ^ 19 →
      let dot := fun j => intAcc 0 ((s.chip.rowVals c uMTX m.dA 0).zip (s.chip.rowVals c uMTX m.dB j))
      let l := packRow (fmtBits (tdFmt m.dD)) ((List.range (tdCols m.dD)).map fun j =>
        (drainElt 1 (tdFmt m.dD) (s.chip.rnd c (tRND m.w)) (tSAT m.w) (s.chip.vecFtz c) false (mOSC m.w) (dot j) false Val.zero).1)
      tdBase m.dD % 64 + l.length ≤ 64 →
      Runs (.columnGroupDrain c) s fun t =>
        t.seen c uMTX (tdBase m.dD) l.length = l ∧ SameBytes s.chip t (tunAddr c (tdBase m.dD)) l.length ∧
        (t.core c).running uMTX = [] ∧ (t.core c).chain = none ∧ (t.core c).due = (s.chip.core c).due ++ m.uses ∧
        SameRegs s.chip t [pgVEC c + 0x108] ∧ SameCores s.chip t c ∧
        t.countOf (pgMTX c) 0 = min (s.chip.countOf (pgMTX c) 0 + 1) (2 ^ 64 - 1)) ∧
  (∀ (s : State) (c : Nat) (m : Cmd), c < 144 → s.chip.fabricUp = true → Quiet s.chip c → (s.chip.core c).running uMTX = [m] →
      opcode m.w = 0x80 → mADJ m.w = true → mCHAIN m.w = false → s.chip.corrReady c m.prog = false →
      Runs (.columnGroupDrain c) s fun t =>
        (t.engView 0x31 c 0x104 (t.reg (pgMTX c + 0x104))).getLsbD 6 = true ∧
        ((t.core c).running uMTX).map (fun x => (x.id, x.w, x.prog, x.began.isSome)) = [(m.id, m.w, m.prog, true)] ∧
        t.mem = s.chip.mem ∧ t.regs = s.chip.regs ∧ t.counts = s.chip.counts ∧ SameCores s.chip t c) ∧
  (∀ (s : State) (c : Nat) (m : Cmd), c < 144 → s.chip.fabricUp = true → (s.chip.core c).q = [] →
      (s.chip.core c).running uSYNC = [] → (s.chip.core c).running uMTX = [m] → (s.chip.core c).gather = [] → (s.chip.core c).vane = [] →
      s.chip.poison = [] → s.chip.errs = [] → tdOk m.dD = true →
      (opcode m.w = 0x80 ∧ mCHAIN m.w = false ∧ (mADJ m.w = true → s.chip.corrReady c m.prog = true)) ∨
        (opcode m.w = 0x81 ∧ (s.chip.core c).chain ≠ none) →
      let ex := s.chip.mtxExact c
      let ch := (s.chip.core c).chain
      let mul := opcode m.w = 0x80
      let g := groupAt ex (tdRows m.dD) (tdCols m.dD) m.prog
      let n := g.2.2.2 - g.2.2.1
      let size := (g.2.1 - g.1) * n
      let kind := if mul then mtxKind ex m.dB m.dA else (ch.map (·.kind)).getD 0
      let fix : Corr := if mul ∧ mADJ m.w = true then s.chip.corrOf c m.prog else ⟨m.prog, [], [], []⟩
      let fixOf := fun k => ((fix.vals.find? fun p => p.1 = k / n * 128 + k % n).map (·.2))
      m.prog < rowGroups (groupRows ex) (tdRows m.dD) * colGroups (tdCols m.dD) → kind ≤ 2 →
      (∀ x, ch = some x → x.kind = kind ∧ x.acc.length = size) →
      (∀ p ∈ fix.vals, p.1 / 128 < g.2.1 - g.1 ∧ p.1 % 128 < n) → (fix.vals.map (·.1)).Nodup → fix.marks = [] →
      (chainCount ch).1 + (if mul then tdCols m.dA else 0) + (if mACCUM m.w then 1 else 0) +
        16 * mostBlocks (addBlocks (chainCount ch).2 fix.blocks) ≤ 2 ^ 19 →
      let pairs := fun k => (s.chip.rowVals c uMTX m.dA (g.1 + k / n)).zip (s.chip.wRow c m.dB (g.2.2.1 + k % n))
      let start := fun (k : Nat) => (ch.map fun x => (x.acc[k]?).getD 0).getD (if kind = 0 then 0x80000000 else 0)
      let prod : Nat → Int × Bool := fun k =>
        if ¬mul then (start k, false)
        else if kind = 0 then ((bits32 (fastAcc ((kBlock m.dB m.dA).getD 32) (f32 (start k).toNat) (pairs k)).1 : Int), false)
        else if kind = 1 then (intAcc (start k) (pairs k), false)
        else exactAcc (start k) (pairs k)
      let corrected : Nat → Int := fun k => match fixOf k with
        | none => (prod k).1
        | some f => if kind = 0 then (bits32 (acc32 (f32 (prod k).1.toNat) (f32 f.toNat)).1 : Int) else (prod k).1 + f
      let old := fun k => if mACCUM m.w then ((s.chip.rowVals c uMTX m.dD (g.1 + k / n))[g.2.2.1 + k % n]?).getD Val.zero else Val.zero
      let total := fun k => corrected k + if kind = 2 ∧ mACCUM m.w = true ∧ (old k).isFin = true then laOf (old k) else 0
      let mark := fun k => (prod k).2 || ((ch.map (·.marks)).getD []).contains k
      (kind = 2 → ∀ k, k < size → laInRange (total k) = true) →
      Runs (.columnGroupDrain c) s fun t =>
        (∀ k, k < size → t.eltBits c uMTX m.dD (g.1 + k / n) (g.2.2.1 + k % n) =
          (drainElt kind (tdFmt m.dD) (s.chip.rnd c (tRND m.w)) (tSAT m.w) (s.chip.vecFtz c) (mACCUM m.w) (mOSC m.w) (total k) (mark k)
            (old k)).1 % 2 ^ fmtBits (tdFmt m.dD)) ∧
        (∀ a, (∀ i, g.1 ≤ i → i < g.2.1 →
            let b := tunAddr c (tdBase m.dD + i * tdStride m.dD + g.2.2.1 * fmtBits (tdFmt m.dD) / 8)
            a < b ∨ b + n * fmtBits (tdFmt m.dD) / 8 ≤ a) → t.byte a = s.chip.byte a) ∧ SameCores s.chip t c) ∧
  ((∀ (kb : Nat) (a : Val) (l : List (Val × Val)), (fastAcc kb a l).1 = (runs kb (l.length + 1) l).foldl (fun x blk =>
        (rne32 false (x.add (blockSum blk).1 false).1).1) a) ∧
    (∀ l : List (Val × Val), (∀ p ∈ l, (p.1.mul p.2).1.isFin = true) →
      (blockSum l).1 = (rne32 false (l.foldl (fun a p => (a.add (p.1.mul p.2).1 false).1) (.fin true 0 0))).1) ∧
    (∀ l : List (Val × Val), (∃ p ∈ l, (p.1.mul p.2).1 = .nan) → (blockSum l).1 = .nan) ∧
    (∀ (l : List (Val × Val)) (sg : Bool), (∃ p ∈ l, (p.1.mul p.2).1 = .inf sg) →
      (∀ p ∈ l, (p.1.mul p.2).1 ≠ .nan ∧ (p.1.mul p.2).1 ≠ .inf (!sg)) → (blockSum l).1 = .inf sg) ∧
    (∀ (a : Int) (l : List (Val × Val)), (∀ p ∈ l, p.1.isFin = true ∧ p.2.isFin = true) →
      exactAcc a l = (a + (l.map fun p => laOf (p.1.mul p.2).1).sum, false)) ∧
    (∀ (a : Int) (l : List (Val × Val)), (∃ p ∈ l, ¬(p.1.isFin = true ∧ p.2.isFin = true)) → (exactAcc a l).2 = true) ∧
    (∀ (a : Int) (l : List (Val × Val)), intAcc a l = a + (l.map fun p => (p.1.mul p.2).1.intAt 0).sum) ∧
    (∀ (fmt rnd : Nat) (sat ftz acc mark : Bool) (osc a : Int) (old : Val),
      let scale := fun (v : Val) => match v with
        | .fin n p e => .fin n p (e + osc)
        | x => x
      (drainElt 0 fmt rnd sat ftz acc osc a mark old).1 =
        (convert fmt rnd sat ftz (scale (if acc then (rne32 false ((f32 a.toNat).add old false).1).1 else f32 a.toNat))).1 ∧
      (drainElt 1 fmt rnd sat ftz acc osc a mark old).1 = (convert fmt rnd sat ftz (scale (if acc then
        (if old.isFin then ((Val.ofInt a 0).add old (rnd = 3)).1 else old) else .ofInt a 0))).1 ∧
      (fmt = 0x11 → (drainElt 2 fmt rnd sat ftz acc osc a mark old).1 = laBits a) ∧
      (fmt ≠ 0x11 → (mark = true ∨ (acc = true ∧ old.isFin = false)) →
        (drainElt 2 fmt rnd sat ftz acc osc a mark old).1 = (convert fmt 1 sat ftz .nan).1) ∧
      (fmt ≠ 0x11 → mark = false → (acc = true → old.isFin = true) →
        (drainElt 2 fmt rnd sat ftz acc osc a mark old).1 = (convert fmt 1 sat ftz (scale (.ofInt a (-300)))).1)))

/-- ABIND on a core at rest reads its row map and completes; ACORR goes into execution with no group corrected and nothing of
its segments read (R187, R190). ADJUNCT_GROUP_DONE, where what the group needs is read and passes its checks: the group's
corrections join those of the paired MMUL, and the next group is due; with the last group the ACORR completes, its flags join
VFLAGS, and the corrected pairs are one more (R186 to R190, R213). The values of the corrections of a group (R178, R188; that
a block applies to its whole block row is log 26): element (i, j) of the group takes the sum of Δ × a over the entries,
present in the segment of its row, of its block row and row: in fast mode each block's exact sum rounded, added in directory
order from −0, in exact mode exactly; an element that no entry reaches takes none. -/
def Obligations.AdjunctCommands : Prop :=
  (∀ (s : State) (c : Nat) (w : IWord), Takes s.chip c w → AtRest s.chip c →
      (opcode w = 0x84 → Runs (.abind c w) s fun t =>
        (t.core c).rowMap = some ((s.chip.seen c uADJ (bf w 0 22) (bf w 32 13)).map (·.toNat)) ∧
        t.get (pgADJ c) ⟨0x104, 0, 13⟩ = bf w 32 13 ∧ t.get (pgADJ c) ⟨0x100, 5, 1⟩ = 1 ∧ (t.core c).running uADJ = [] ∧
        t.countOf (pgADJ c) 0 = min (s.chip.countOf (pgADJ c) 0 + 1) (2 ^ 64 - 1) ∧ Retired s.chip t c ∧ t.mem = s.chip.mem ∧
        SameRegs s.chip t (seqRegs c ++ [pgADJ c + 0x104, pgADJ c + 0x100]) ∧ SameCores s.chip t c) ∧
      (opcode w = 0x85 → Runs (.acorr c w) s fun t =>
        (t.core c).running uADJ = [{ s.chip.capture c w with prog := 1 }] ∧ (t.core c).q = [] ∧ (t.core c).adjDone = 0 ∧
        (t.core c).adjRead = ⟨[], [], []⟩ ∧ Retired s.chip t c ∧
        SeqFrame s.chip t c (seqRegs c) [pgSEQ c] [])) ∧
  (∀ (s : State) (c : Nat) (m x : Cmd), c < 144 → s.chip.fabricUp = true → Quiet s.chip c → s.chip.slotsOf c = [] →
      s.chip.poison = [] → s.chip.errs = [] → (s.chip.core c).running uADJ = [m] → (s.chip.core c).running uMTX = [x] →
      opcode m.w = 0x85 → opcode x.w = 0x80 → mADJ x.w = true → mCHAIN x.w = false →
      s.chip.get (pgADJ c) ⟨0x110, 0, 32⟩ + 1 = (s.chip.core c).adjMmul →
      let g := (s.chip.core c).adjDone
      let e := groupAt (s.chip.mtxExact c) (tdRows x.dA) (tdRows x.dB) g
      let all := rowGroups (groupRows (s.chip.mtxExact c)) (tdRows x.dA) * colGroups (tdRows x.dB)
      ∀ (u : Chip) (m1 : Cmd), s.chip.adjReads c m x e.1 e.2.1 (e.2.2.1 / 128) = .ok (u, m1) →
      let r := u.corrections c x g
      (g + 1 ≠ all → Runs (.adjunctGroupDone c) s fun t =>
        (t.core c).adjDone = g + 1 ∧ (t.core c).corr = (s.chip.core c).corr ++ [r.1] ∧
        ((t.core c).running uADJ).map (·.id) = [m.id] ∧ t.mem = s.chip.mem ∧ t.regs = s.chip.regs ∧ SameCores s.chip t c) ∧
      (g + 1 = all → Runs (.adjunctGroupDone c) s fun t =>
        (t.core c).adjDone = g + 1 ∧ (t.core c).corr = (s.chip.core c).corr ++ [r.1] ∧ (t.core c).running uADJ = [] ∧
        t.get (pgADJ c) ⟨0x110, 0, 32⟩ = min (s.chip.get (pgADJ c) ⟨0x110, 0, 32⟩ + 1) (2 ^ 32 - 1) ∧
        t.reg (pgVEC c + 0x108) = s.chip.reg (pgVEC c + 0x108) ||| (m.flags ||| r.2.1).zeroExtend 32 ∧
        t.countOf (pgADJ c) 1 = min (s.chip.countOf (pgADJ c) 1 + 1) (2 ^ 64 - 1) ∧ t.mem = s.chip.mem ∧
        SameRegs s.chip t [pgADJ c + 0x110, pgVEC c + 0x108] ∧ SameCores s.chip t c)) ∧
  (∀ (s : Chip) (c g : Nat) (x : Cmd),
      let gr := groupAt (s.mtxExact c) (tdRows x.dA) (tdRows x.dB) g
      let fix := (s.corrections c x g).1
      ∀ i j, gr.1 ≤ i → i < gr.2.1 → j < 128 →
        let val := ((fix.vals.find? fun p => p.1 = (i - gr.1) * 128 + j).map (·.2))
        let si := ((((s.core c).rowMap).getD [])[i]?).getD 255
        let avs := s.rowVals c uADJ x.dA i
        ((s.core c).adjRead.segs[si]? = none → val = none) ∧
        ∀ sg, (s.core c).adjRead.segs[si]? = some sg →
          let terms : List (List (Val × Val)) := ((groupDir sg (gr.2.2.1 / 128)).filter fun e => dirBr e.2 = (gr.2.2.1 + j) / 16).map fun e =>
            ((bodyVals sg (((s.core c).adjRead.body si e.1).getD (0, 0))).filter fun q => q.1 = j % 16).map fun q =>
              (q.2.2, (avs[16 * dirBc e.2 + q.2.1]?).getD Val.zero)
          let some' := terms.filter (· ≠ [])
          (some' = [] → val = none) ∧
          (some' ≠ [] → s.mtxExact c = false →
            val = some (bits32 (some'.foldl (fun a b => (rne32 false (a.add (blockSum b).1 false).1).1) (.fin true 0 0)) : Int)) ∧
          (some' ≠ [] → s.mtxExact c = true →
            val = some ((some'.flatten.map fun q => if q.1.isFin && q.2.isFin then laOf (q.1.mul q.2).1 else 0).sum) ∧
            ((i - gr.1) * 128 + j ∈ fix.marks ↔ ∃ q ∈ some'.flatten, ¬(q.1.isFin = true ∧ q.2.isFin = true))))

/-- CFETCH and CSTORE on a core at rest are admitted and ask for their lines, up to 512 of them: to a slice of another cluster
by packets of the mesh, one a line in order, to the own cluster's slice without (R17, R243, R258, R261). The cause 0xFF of a
refusal that execution finds is log 8. A line request that has left and come first is served by its controller, which counts
it and answers, where the extent's owner entry lets the core's context at it, and is refused with BAD_ADDR, recorded by the
controller, where it does not (the fault record of an active context then goes to the outlet ring) (R254, R258, R272, R274).
CELLAR_LINE_RETURN performs one line of a CFETCH in the tun, or of a CSTORE in the cellar, and no other byte; the command
completes with its last line (R111, R243, R258; that its data moves here is log 44). -/
def Obligations.CellarTransfers : Prop :=
  (∀ (s : State) (c : Nat) (w : IWord), Takes s.chip c w → AtRest s.chip c →
      let m := s.chip.capture c w
      let n := min (celLines m) 512
      let starts := fun (i : Instr) => Runs i s fun t =>
        (t.core c).running uCEL = [{ m with prog := 1, sent := n }] ∧ (t.core c).q = [] ∧
        t.net = s.chip.net ++ (if ownSlice c m then [] else (List.range n).map fun k => s.chip.linePacket c m k) ∧
        Retired s.chip t c ∧ t.mem = s.chip.mem ∧ SameRegs s.chip t (seqRegs c) ∧ SameCounts s.chip t [pgSEQ c] ∧ SameCores s.chip t c
      (opcode w = 0x40 → starts (.cfetch c w)) ∧ (opcode w = 0x41 → starts (.cstore c w))) ∧
  (∀ (s : State) (c i : Nat) (m : Cmd), c < 144 → s.chip.fabricUp = true → (s.chip.core c).running uCEL = [m] → m.prog = 1 →
      i < m.sent → i ∉ m.asked → (ownSlice c m = true ∨ (s.chip.arrive (s.chip.linePacket c m i)).isSome = true) →
      let a := m.addr + (celLine m i).1
      s.chip.bit (pgCEL (sliceOf a)) fResetActive = false →
      (s.chip.coreMay (s.chip.ctxOf c) a (celWrites m) = true → s.chip.errs = [] → Runs (.cellarLineRequest c m.id i) s fun t =>
        (t.core c).running uCEL = [{ m with asked := m.asked ++ [i] }] ∧
        t.countOf (pgCEL (sliceOf a)) (if celWrites m then 1 else 0) =
          min (s.chip.countOf (pgCEL (sliceOf a)) (if celWrites m then 1 else 0) + 1) (2 ^ 64 - 1) ∧
        t.net = (if ownSlice c m then s.chip.net else s.chip.net.erase (s.chip.linePacket c m i) ++ [s.chip.lineAnswer c m i]) ∧
        t.regs = s.chip.regs ∧ t.mem = s.chip.mem ∧ SameCores s.chip t c) ∧
      (s.chip.coreMay (s.chip.ctxOf c) a (celWrites m) = false → sliceOf a < 36 → s.chip.seqState c = sqRUNNING →
        Runs (.cellarLineRequest c m.id i) s fun t =>
          t.reg (pgCEL (sliceOf a) + 0x128) = BitVec.ofNat 32 a ∧ Faults s.chip t c eBAD_ADDR 0xFF (m.pc % 8192) ∧
            (s.chip.ctxState (s.chip.ctxOf c) ≠ 1 → t.mem = s.chip.mem))) ∧
  (∀ (s : State) (c i : Nat) (m : Cmd), c < 144 → s.chip.fabricUp = true → Quiet s.chip c → (s.chip.core c).running uCEL = [m] →
      m.prog = 1 → m.sent = celLines m → i ∈ m.asked → i ∉ m.got → m.uses = [] → s.chip.errs = [] →
      (ownSlice c m = true ∨ (s.chip.arrive (s.chip.lineAnswer c m i)).isSome = true) →
      let l := celLine m i
      let cel := celAddr (m.addr + l.1)
      let tun := tunAddr c (m.val + l.1)
      let left := fun (t : Chip) =>
        (t.core c).running uCEL = (if m.got.length + 1 = celLines m then [] else [{ m with got := m.got ++ [i] }]) ∧
        t.net = (if ownSlice c m then s.chip.net else s.chip.net.erase (s.chip.lineAnswer c m i)) ∧ t.regs = s.chip.regs ∧
        SameCores s.chip t c
      (opcode m.w = 0x40 → Runs (.cellarLineReturn c m.id i) s fun t =>
        (∀ k, k < l.2 → t.byte (tun + k) = s.chip.byte (cel + k)) ∧ SameBytes s.chip t tun l.2 ∧ left t) ∧
      (opcode m.w = 0x41 → Runs (.cellarLineReturn c m.id i) s fun t =>
        (∀ k, k < l.2 → t.byte (cel + k) = s.chip.byte (tun + k)) ∧ SameBytes s.chip t cel l.2 ∧ left t))

/-- The commands that the synchronisation unit performs when it starts them: FLUSH writes to the tun every byte pending in the
gather entries that hold a byte of its range, and counts them; ARRSET sets its counter; SLSET, its slot quiet, writes the
descriptor but its reserved bits, and the state it names, and waits where the slot is not quiet (R14, R106, R108, R110, R115,
R125, R146, R240). Credits (R122, R123): a GRANT whose slot may take a producer more is in execution, and CREDIT_GRANTED sends
its credit, counts it as outstanding and completes it; REVOKE asks for the unused ones and waits; a credit that arrives is
held by a core that is not in reset, a neighbour asked returns what it holds, and what returns is no longer outstanding and
completes the REVOKE that asked for it. When REVOKE's wait begins is log 42. -/
def Obligations.SynchronisationCommands : Prop :=
  (∀ (s : State) (c : Nat) (w : IWord), Takes s.chip c w → Quiet s.chip c →
      (opcode w = 0x20 →
        let out := (s.chip.core c).gather.filter fun g => g.bytes.any fun p =>
          decide (bf w 0 22 ≤ p.1) && decide (p.1 < bf w 0 22 + bf w 32 22)
        Runs (.flush c w) s fun t =>
          (∀ a, t.byte a = gatherByte s.chip c out a) ∧
          (t.core c).gather = (s.chip.core c).gather.filter (fun g => !(out.any fun h => h.line = g.line)) ∧
          t.countOf (pgSYNC c) 0x0E = min (s.chip.countOf (pgSYNC c) 0x0E + out.length) (2 ^ 64 - 1) ∧
          (s.chip.errs = [] → SameCounts s.chip t [pgSEQ c, pgSYNC c + 0x0E] ∧ SameRegs s.chip t (seqRegs c)) ∧
          (t.core c).running uSYNC = [] ∧ (t.core c).q = [] ∧ Retired s.chip t c ∧ SameCores s.chip t c ∧ t.net = s.chip.net ∧
          t.slots = s.chip.slots) ∧
      (opcode w = 0x26 → Runs (.arrset c w) s fun t =>
        t.get (pgSYNC c) (fArr (bf w 32 4)) = (if sCS w then (s.chip.cnt c (sCA w)).toNat else wIMM0 w) ∧
        (t.core c).running uSYNC = [] ∧ (t.core c).q = [] ∧ Retired s.chip t c ∧
        SeqFrame s.chip t c ((pgSYNC c + 0x120 + 4 * bf w 32 4) :: seqRegs c) [pgSEQ c] []) ∧
      (opcode w = 0x23 →
        let n := sIDX w % 4096
        let d := slotKeep (w.extractLsb' 0 64)
        let sl := s.chip.slot c n
        (s.chip.slotBusy c n = false → sl.crdout = 0 → s.chip.slotApart c n (w.extractLsb' 0 64) = true →
          (sOP w = 1 ∨ sOP w = 2 → (s.chip.core c).vane = []) → Runs (.slset c w) s fun t =>
          t.slot c n = (if sOP w = 1 then ⟨d, (sl.gen + 1) % 256, 0, 0, 0, 0, 0, sl.crdout, 0⟩
            else if sOP w = 2 then ⟨d, sl.gen, 2, 0, 0, 0, 0, sl.crdout, 0⟩ else { sl with desc := d }) ∧
          (∀ k, k ≠ c * 4096 + n → sget slotReset t.slots k = sget slotReset s.chip.slots k) ∧
          (t.core c).running uSYNC = [] ∧ (t.core c).q = [] ∧ Retired s.chip t c ∧ SameRegs s.chip t (seqRegs c) ∧
          SameCounts s.chip t [pgSEQ c] ∧ SameCores s.chip t c ∧ t.mem = s.chip.mem ∧ t.net = s.chip.net) ∧
        (s.chip.slotBusy c n = true ∨ sl.crdout ≠ 0 → Runs (.slset c w) s fun t =>
          ((t.core c).running uSYNC).map (fun x => (x.id, x.w, x.began)) = [((s.chip.core c).nextId, w, some s.chip.edges)] ∧
          t.slots = s.chip.slots ∧ Retired s.chip t c ∧ SameRegs s.chip t (seqRegs c) ∧ SameCores s.chip t c ∧ t.mem = s.chip.mem))) ∧
  ((∀ (s : State) (c nb : Nat) (w : IWord), Takes s.chip c w → Quiet s.chip c → s.chip.neighbour c (sSEL w % 4) = some nb →
      (opcode w = 0x24 → s.chip.mayGrant c (sIDX w % 4096) (sSEL w % 4) = true → Runs (.grant c w) s fun t =>
        (t.core c).running uSYNC = [s.chip.capture c w] ∧ (t.core c).q = [] ∧ Retired s.chip t c ∧
        SeqFrame s.chip t c (seqRegs c) [pgSEQ c] []) ∧
      (opcode w = 0x25 → Runs (.revoke c w) s fun t =>
        t.net = s.chip.net ++ [⟨s.chip.coreNode c, s.chip.coreNode nb, .nwrRevoke (sIDX w % 4096)⟩] ∧
        ((t.core c).running uSYNC).map (fun x => (x.id, x.w)) = [((s.chip.core c).nextId, w)] ∧ (t.core c).q = [] ∧
        Retired s.chip t c ∧ t.slots = s.chip.slots ∧ t.mem = s.chip.mem ∧ SameRegs s.chip t (seqRegs c) ∧ SameCores s.chip t c)) ∧
    (∀ (s : State) (c nb : Nat) (m : Cmd), c < 144 → s.chip.fabricUp = true → (s.chip.core c).q = [] →
      (s.chip.core c).running uSYNC = [m] → opcode m.w = 0x24 → s.chip.mayGrant c (sySlot m) (syDir m) = true →
      s.chip.neighbour c (syDir m) = some nb → Runs (.creditGranted c) s fun t =>
        t.slot c (sySlot m) = { s.chip.slot c (sySlot m) with crdout := (s.chip.slot c (sySlot m)).crdout + 1 } ∧
        (∀ k, k ≠ c * 4096 + sySlot m → sget slotReset t.slots k = sget slotReset s.chip.slots k) ∧
        t.net = s.chip.net ++ [⟨s.chip.coreNode c, s.chip.coreNode nb, .nwrCredit (sySlot m)⟩] ∧
        sget natReset (t.core c).granted (syDir m) = sget natReset (s.chip.core c).granted (syDir m) + 1 ∧
        (t.core c).running uSYNC = [] ∧ t.regs = s.chip.regs ∧ t.mem = s.chip.mem ∧ SameCores s.chip t c) ∧
    (∀ (s : State) (c o d n k : Nat) (p : Packet) (rest : List Packet), Arriving s.chip c p rest →
      s.chip.localCore p.src = some o → s.chip.dirTo c o = some d →
      (p.body = .nwrCredit n → (s.chip.core c).inReset = false → (∀ m ∈ (s.chip.core c).running uMOV, m.prog ≠ nwCredit) →
        Runs (.nwCreditArrive p) s fun t =>
          t.core c = { s.chip.core c with creds := (s.chip.core c).creds ++ [(d, n)] } ∧ t.net = rest ∧ t.regs = s.chip.regs ∧
          t.mem = s.chip.mem ∧ t.slots = s.chip.slots ∧ SameCores s.chip t c) ∧
      (p.body = .nwrCredit n → (s.chip.core c).inReset = true → (s.chip.core c).running uMOV = [] → Runs (.nwCreditArrive p) s fun t =>
          t.core c = s.chip.core c ∧ t.net = rest ∧ t.regs = s.chip.regs ∧ t.mem = s.chip.mem ∧ SameCores s.chip t c) ∧
      (p.body = .nwrRevoke n → Runs (.revokeRequestArrive p) s fun t =>
        t.core c = { s.chip.core c with creds := (s.chip.core c).creds.filter (fun q => q ≠ (d, n)) } ∧
        t.net = rest ++ [⟨s.chip.coreNode c, p.src, .nwrReturn n (((s.chip.core c).creds.filter fun q => q = (d, n)).length)⟩] ∧
        t.regs = s.chip.regs ∧ t.mem = s.chip.mem ∧ t.slots = s.chip.slots ∧ SameCores s.chip t c) ∧
      (∀ l, p.body = .nwrReturn n k → (s.chip.core c).q = [] → (s.chip.core c).running uSYNC = l →
        (l = [] ∨ ∃ m, l = [m] ∧ opcode m.w = 0x25 ∧ sySlot m = n ∧ syDir m = d) → Runs (.nwCreditReturn p) s fun t =>
        t.slot c n = { s.chip.slot c n with crdout := (s.chip.slot c n).crdout - k } ∧
        (∀ j, j ≠ c * 4096 + n → sget slotReset t.slots j = sget slotReset s.chip.slots j) ∧ t.net = rest ∧
        sget natReset (t.core c).granted d = sget natReset (s.chip.core c).granted d - k ∧ (t.core c).running uSYNC = [] ∧
        t.regs = s.chip.regs ∧ t.mem = s.chip.mem ∧ SameCores s.chip t c)))

/-- REL waits in the synchronisation unit; once no earlier write of its scope is left its token, numbered one above the last
release, stands at the tun word it names, is one producer of a slot that admits it, or leaves as a message of its channel; to
a neighbour's tun or another cluster's slice it goes by a packet and is answered by one (log 44); the release is then
remembered (R17, R133 to R135, R139, R140, R299). Which writes a release waits for is log 42. ACQ holds issue until its flag
word holds a token that has reached its value; it completes, at a poll of the cellar, across the mesh by a packet and its
answer (log 44), or at the sight of its tun word, when the token's scope covers the releaser; where it does not, it sends the
releaser a drain probe and completes with the reply (R17, R137 to R139). Drain probes (R138, R139, R142, R144): one that
arrives at a core that is neither FAULTED nor in reset is kept with the command number it waits behind, else it is dropped;
once no write is left it is answered and counted, to an asking core by a packet, to the kiln in its register; the kiln's probe
is taken when none is outstanding, and a write of GO beside one is ignored but for its fields; FLUSH_ALL writes every byte
pending in the gather buffer to the tun while the sequencer is IDLE, HELD, HALTED or FAULTED, and is else ignored. -/
def Obligations.ReleasesAndAcquires : Prop :=
  ((∀ (s : State) (c : Nat) (w : IWord), Takes s.chip c w → Quiet s.chip c → opcode w = 0x21 → Runs (.rel c w) s fun t =>
      ((t.core c).running uSYNC).map (fun x => (x.id, x.w, x.began)) = [((s.chip.core c).nextId, w, some s.chip.edges)] ∧
      t.net = s.chip.net ∧ t.mem = s.chip.mem ∧ Retired s.chip t c ∧ SameCores s.chip t c) ∧
    (∀ (s : State) (c : Nat) (m : Cmd), c < 144 → s.chip.fabricUp = true → (s.chip.core c).q = [] →
      (s.chip.core c).running uSYNC = [m] → opcode m.w = 0x21 → s.chip.writesLeft c m.id (relScope m) = false →
      let seq := (s.chip.get (pgSYNC c) fSyncRelSeq + 1) % 2 ^ 16
      let token := fun (tok : BitVec 64) => tkSet tok = true ∧ tkScope tok = relScope m ∧ tkDev tok = s.chip.devId ∧ tkSrc tok = c ∧
        tkSeq tok = seq ∧ tkVal tok = (if sCS m.w then m.val else wIMM1 m.w) % 2 ^ 16
      let done := fun (t : Chip) => t.get (pgSYNC c) fSyncRelSeq = seq ∧ (t.core c).rels.head? = some (seq, m.id) ∧
        (t.core c).running uSYNC = [] ∧ SameCores s.chip t c
      let stands := fun (t : Chip) (a : Nat) => token (BitVec.ofNat 64 (t.num a 8)) ∧ SameBytes s.chip t a 8
      (sSEL m.w = 1 → Runs (.relTokenDelivery c) s fun t =>
        stands t (tunAddr c (relAddr m)) ∧ done t ∧ SameRegs s.chip t [pgSYNC c + 0x108]) ∧
      (let n := sySlot m
       let sl := s.chip.slot c n
       sSEL m.w = 0 → sl.land = false → sl.unranked = false →
        (s.chip.admits c (if m.prog = 1 then m.ord else s.chip.waitNo) [(n, true)] = true → sl.state = 1 → sl.done + 1 < sl.ncontrib →
          Runs (.relTokenDelivery c) s fun t =>
            t.slot c n = { sl with started := sl.started + 1, done := sl.done + 1, next := sl.next + 1 } ∧
            (∀ k, k ≠ c * 4096 + n → sget slotReset t.slots k = sget slotReset s.chip.slots k) ∧ t.mem = s.chip.mem ∧ done t ∧
            SameRegs s.chip t [pgSYNC c + 0x108]) ∧
        (s.chip.admits c (if m.prog = 1 then m.ord else s.chip.waitNo) [(n, true)] = false → m.prog ≠ 1 →
          Runs (.relTokenDelivery c) s fun t =>
            (t.core c).running uSYNC = [{ m with prog := 1, ord := s.chip.waitNo }] ∧ t.slots = s.chip.slots ∧ t.mem = s.chip.mem ∧
            t.regs = s.chip.regs ∧ SameCores s.chip t c)) ∧
      (let a := flagCell m
       sSEL m.w = 3 → s.chip.ownFlag c m = true → m.prog ≠ 3 → s.chip.bit (pgCEL (sliceOf a)) fResetActive = false →
        s.chip.coreMay (s.chip.ctxOf c) a true = true → Runs (.relTokenDelivery c) s fun t => stands t (celAddr a) ∧ done t) ∧
      (∀ ep a dst,
        ((∃ nb, sSEL m.w = 2 ∧ s.chip.neighbour c (bf m.w 48 2) = some nb ∧ ep = .core nb ∧ a = relAddr m ∧ dst = tunAddr nb a) ∨
         (sSEL m.w = 3 ∧ s.chip.ownFlag c m = false ∧ ep = .slice (sliceOf (flagCell m)) ∧ a = flagCell m ∧ dst = celAddr a ∧
           s.chip.bit (pgCEL (sliceOf a)) fResetActive = false ∧ s.chip.coreMay (s.chip.ctxOf c) a true = true)) →
        let ask := s.chip.wordAsk c ep m.id a true
        let ack := s.chip.wordAck c ep m.id a true
        (m.prog = 0 → Runs (.relTokenDelivery c) s fun t =>
          t.net = s.chip.net ++ [ask] ∧ (t.core c).running uSYNC = [{ m with prog := 2 }] ∧ t.mem = s.chip.mem ∧ t.regs = s.chip.regs) ∧
        (m.prog = 2 → (s.chip.arrive ask).isSome = true → Runs (.relTokenDelivery c) s fun t =>
          stands t dst ∧ t.net = s.chip.net.erase ask ++ [ack] ∧ (t.core c).running uSYNC = [{ m with prog := 3 }] ∧
          t.regs = s.chip.regs) ∧
        (m.prog = 3 → (s.chip.arrive ack).isSome = true → Runs (.relTokenDelivery c) s fun t =>
          t.net = s.chip.net.erase ack ∧ t.mem = s.chip.mem ∧ done t)) ∧
      (let n := sIDX m.w % 64
       sSEL m.w = 4 → s.chip.chState c n = chOPEN → s.chip.chRecv c n = false →
        s.chip.peerAbsent (s.chip.chPeer c n).1 (s.chip.chPeer c n).2 = false → 0 < s.chip.get (pgCHAN c) (fChQcred n) →
        Runs (.relTokenDelivery c) s fun t =>
          (∃ tok, token tok ∧ t.net = s.chip.net ++ [⟨s.chip.coreNode c, s.chip.chNode c n,
            .message (msgHdr tok s.chip.devId c (s.chip.get (pgCHAN c) (fChMseq n)) n 2 false 0) (s.chip.chan c n).tail 0 0 []⟩]) ∧
          t.get (pgCHAN c) (fChQcred n) = s.chip.get (pgCHAN c) (fChQcred n) - 1 ∧ t.mem = s.chip.mem ∧ done t))) ∧
  ((∀ (s : State) (c : Nat) (w : IWord), Takes s.chip c w → Quiet s.chip c → opcode w = 0x22 → sSEL w = 0 →
      s.chip.poison = [] → s.chip.errs = [] →
      let v := (if sCS w then (s.chip.cnt c (sCA w)).toNat else wIMM1 w) % 2 ^ 16
      let f : BitVec 64 := BitVec.ofNat 64 (s.chip.seenNum c uSYNC (bf w 0 22) 8)
      (tkReached f v = false → Runs (.acq c w) s fun t =>
        WaitsFor s.chip t c 13 (s.chip.waitTmo c) w ∧ (t.core c).acq = some ⟨0, false, bf w 0 22, v, none, 0, 0⟩ ∧
        (t.core c).running uSYNC = [s.chip.capture c w] ∧ t.mem = s.chip.mem ∧ t.net = s.chip.net) ∧
      (tkReached f v = true → s.chip.seeToken c f = .done → Runs (.acq c w) s fun t =>
        Retired s.chip t c ∧ (t.core c).wait = none ∧ (t.core c).acq = none ∧ (t.core c).running uSYNC = [] ∧
        t.mem = s.chip.mem ∧ t.net = s.chip.net) ∧
      (∀ n seq scope, tkReached f v = true → s.chip.seeToken c f = .probe n seq scope → Runs (.acq c w) s fun t =>
        n = ⟨tkDev f, .core (tkSrc f)⟩ ∧ seq = tkSeq f ∧ tkScope f < scope ∧ t.net = s.chip.net ++ [⟨s.chip.coreNode c, n, .probe seq scope⟩] ∧
        (t.core c).acq = some ⟨1, false, bf w 0 22, v, some n, seq, scope⟩ ∧ t.mem = s.chip.mem ∧
        t.get (pgSYNC c) fSyncEsc = min (s.chip.get (pgSYNC c) fSyncEsc + 1) (2 ^ 32 - 1))) ∧
    (∀ (s : State) (c seq scope : Nat) (a : Acq) (p : Packet) (rest : List Packet), Arriving s.chip c p rest → (s.chip.core c).q = [] →
      p.body = .probeReply seq scope → (s.chip.core c).acq = some a → a.phase = 1 → a.target = some p.src → a.seq = seq →
      a.scope = scope → Runs (.acquireComplete c (some p)) s fun t =>
        Retired s.chip t c ∧ (t.core c).wait = none ∧ (t.core c).acq = none ∧ (t.core c).running uSYNC = [] ∧ t.net = rest ∧
        t.mem = s.chip.mem) ∧
    (∀ (s : State) (c : Nat) (a : Acq) (m : Cmd), c < 144 → s.chip.fabricUp = true → (s.chip.core c).q = [] →
      (s.chip.core c).running uSYNC = [m] → opcode m.w = 0x22 → (s.chip.core c).acq = some a → a.phase = 0 →
      s.chip.poison = [] → s.chip.errs = [] →
      (a.cellar = true → sliceOf a.addr < 36 →
        let f : BitVec 64 := BitVec.ofNat 64 (s.chip.num (celAddr a.addr) 8)
        let ask := s.chip.wordAsk c (.slice (sliceOf a.addr)) m.id a.addr false
        let ack := s.chip.wordAck c (.slice (sliceOf a.addr)) m.id a.addr false
        let serves := s.chip.bit (pgCEL (sliceOf a.addr)) fResetActive = false ∧ s.chip.coreMay (s.chip.ctxOf c) a.addr false = true
        let sees := (s.chip.ownFlag c m = true ∧ ack ∉ s.chip.net ∧ serves) ∨ (s.chip.arrive ack).isSome = true
        (sees → tkReached f a.expect = false → Runs (.acqCellarPoll c) s fun t => t.cores = s.chip.cores ∧ t.regs = s.chip.regs) ∧
        (sees → tkReached f a.expect = true → s.chip.seeToken c f = .done → Runs (.acqCellarPoll c) s fun t =>
          Retired s.chip t c ∧ (t.core c).wait = none ∧ (t.core c).acq = none ∧ (t.core c).running uSYNC = [] ∧
          t.mem = s.chip.mem) ∧
        (s.chip.ownFlag c m = false → ack ∉ s.chip.net → ask ∉ s.chip.net → Runs (.acqCellarPoll c) s fun t =>
          t = { s.chip with net := s.chip.net ++ [ask] }) ∧
        (s.chip.ownFlag c m = false → ack ∉ s.chip.net → (s.chip.arrive ask).isSome = true → serves → Runs (.acqCellarPoll c) s fun t =>
          t.net = s.chip.net.erase ask ++ [ack] ∧ t.cores = s.chip.cores ∧ t.regs = s.chip.regs ∧ t.mem = s.chip.mem)) ∧
      (a.cellar = false →
        let f : BitVec 64 := BitVec.ofNat 64 (s.chip.seenNum c uSYNC a.addr 8)
        tkReached f a.expect = true → s.chip.seeToken c f = .done → Runs (.acquireComplete c none) s fun t =>
          Retired s.chip t c ∧ (t.core c).wait = none ∧ (t.core c).acq = none ∧ (t.core c).running uSYNC = [] ∧
          t.mem = s.chip.mem))) ∧
  ((∀ (s : State) (c seq scope : Nat) (p : Packet) (rest : List Packet), Arriving s.chip c p rest → p.body = .probe seq scope →
      let out := s.chip.seqState c = sqFAULTED ∨ (s.chip.core c).inReset = true
      Runs (.drainProbeArrive p) s fun t =>
        (¬out → t.core c = { s.chip.core c with probes := (s.chip.core c).probes ++ [(p.src, seq, scope, s.chip.probeBound c seq)] }) ∧
        (out → t.core c = s.chip.core c) ∧ t.net = rest ∧ t.regs = s.chip.regs ∧ t.counts = s.chip.counts ∧ t.mem = s.chip.mem ∧
        SameCores s.chip t c) ∧
    (∀ (s : State) (c i : Nat) (asker : Node) (seq scope bound : Nat), c < 144 → s.chip.fabricUp = true →
      (s.chip.core c).probes[i]? = some (asker, seq, scope, bound) → s.chip.writesLeft c bound scope = false →
      Runs (.drainProbeReply c i) s fun t =>
        t.core c = { s.chip.core c with probes := (s.chip.core c).probes.eraseIdx i } ∧
        t.get (pgSYNC c) fSyncProbes = min (s.chip.get (pgSYNC c) fSyncProbes + 1) (2 ^ 32 - 1) ∧
        (asker.ep ≠ .kiln → t.net = s.chip.net ++ [⟨s.chip.coreNode c, asker, .probeReply seq scope⟩] ∧
          SameRegs s.chip t [pgSYNC c + 0x114]) ∧
        (asker.ep = .kiln → t.net = s.chip.net ∧ t.get (pgSYNC c) fSyncKBusy = 0 ∧ t.get (pgSYNC c) fSyncKDone = 1) ∧
        SameRegs s.chip t [pgSYNC c + 0x114, pgSYNC c + 0x174] ∧ t.counts = s.chip.counts ∧ t.mem = s.chip.mem ∧ SameCores s.chip t c) ∧
    (∀ (s : State) (c : Nat) (v : BitVec 32), s.chip.present c = true → s.chip.fabricUp = true → (s.chip.core c).inReset = false →
      let fields := fun (t : Chip) => t.get (pgSYNC c) fSyncKSeq = bf v 0 16 ∧ t.get (pgSYNC c) fSyncKScope = bf v 16 2 ∧
        t.mem = s.chip.mem ∧ t.net = s.chip.net ∧ t.counts = s.chip.counts ∧ SameCores s.chip t c
      (v.getLsbD 31 = true → s.chip.get (pgSYNC c) fSyncKBusy = 0 → s.chip.seqState c ≠ sqFAULTED → Runs (.kprobeGo c v) s fun t =>
        t.get (pgSYNC c) fSyncKBusy = 1 ∧
        t.core c = { s.chip.core c with probes := (s.chip.core c).probes ++
          [(⟨s.chip.devId, .kiln⟩, bf v 0 16, bf v 16 2, s.chip.probeBound c (bf v 0 16))] } ∧
        SameRegs s.chip t [pgSYNC c + 0x170, pgSYNC c + 0x174] ∧ fields t) ∧
      (v.getLsbD 31 = false ∨ s.chip.get (pgSYNC c) fSyncKBusy = 1 → Runs (.kprobeGo c v) s fun t =>
        t.core c = s.chip.core c ∧ SameRegs s.chip t [pgSYNC c + 0x170] ∧ fields t)) ∧
    (∀ (s : State) (c : Nat), s.chip.present c = true → s.chip.fabricUp = true → (s.chip.core c).inReset = false →
      let st := s.chip.seqState c
      (st = sqIDLE ∨ st = sqHELD ∨ st = sqHALTED ∨ st = sqFAULTED → Runs (.flushAll c) s fun t =>
        (∀ a, t.byte a = gatherByte s.chip c (s.chip.core c).gather a) ∧ t.core c = { s.chip.core c with gather := [] } ∧
        (s.chip.errs = [] → SameCounts s.chip t [pgSYNC c + 0x0E] ∧ t.regs = s.chip.regs) ∧ t.net = s.chip.net ∧
        t.slots = s.chip.slots ∧ SameCores s.chip t c) ∧
      (st = sqLOADING ∨ st = sqARMED ∨ st = sqRUNNING → Runs (.flushAll c) s fun t => t = s.chip)))

/-- OPEN (R283, R284, R286): a receiving end of a closed channel listens with its ring and the credits of its queue; a sending
end asks its peer and holds the channel queue until it is answered. That the credits are set aside at LISTEN, and that OPEN
holds the head of its queue, is log 40; the cause 0xFF of a refusal that execution finds is log 8. The answers of an open
(R284, R285): a listening end whose peer asks with a message length that it takes opens, and the asking end opens with the
credits it is given; a not-ready answer makes it ask again, and a refusal faults the core with its cause; an end that is
closed is not ready. -/
def Obligations.ChannelOpens : Prop :=
  (∀ (s : State) (c : Nat) (w : IWord), Takes s.chip c w → Quiet s.chip c → opcode w = 0x60 → s.chip.chState c (cCH w) = chCLOSED →
      let n := cCH w
      let p := pgCHAN c
      (cROLE w = true → s.chip.rqResv c (cRQ w) + s.chip.get p (fRqCred (cRQ w)) ≤ 64 → Runs (.openReceiveEnd c w) s fun t =>
        t.chState c n = chLISTEN ∧ t.chRecv c n = true ∧ t.get p (fChRq n) = cRQ w ∧ t.get p (fChPdev n) = cPDEV w ∧
        t.get p (fChPcore n) = cPCORE w ∧ t.get p (fChMlen n) = cMLEN w ∧
        t.chan c n = ⟨cRBASE w, cRLEN w, cRBASE w, [], none, s.chip.get p (fRqCred (cRQ w))⟩ ∧ (t.core c).q = [] ∧ Retired s.chip t c ∧
        SameRegs s.chip t (seqRegs c ++ [p + 0x400 + 16 * n, p + 0x404 + 16 * n, p + 0x40C + 16 * n]) ∧ t.mem = s.chip.mem ∧
        t.net = s.chip.net) ∧
      (cROLE w = false → (cPDEV w = s.chip.devId ∨ (s.chip.route (cPDEV w)).testBit 4 = true ∨
          (s.chip.route (cPDEV w)).testBit 5 = true) → Runs (.openSendEnd c w) s fun t =>
        t.chState c n = chOPENING ∧ t.get p (fChPdev n) = cPDEV w ∧ t.get p (fChPcore n) = cPCORE w ∧ t.get p (fChMlen n) = cMLEN w ∧
        t.net = s.chip.net ++ [⟨s.chip.coreNode c, ⟨cPDEV w, .core (cPCORE w)⟩, .openReq n (cMLEN w)⟩] ∧
        ((t.core c).queue uCHAN).map (fun m => (m.id, m.w, m.prog)) = [((s.chip.core c).nextId, w, wtReply)] ∧
        Retired s.chip t c ∧ SameRegs s.chip t (seqRegs c ++ [p + 0x400 + 16 * n, p + 0x404 + 16 * n]) ∧ t.mem = s.chip.mem)) ∧
  ((∀ (s : State) (c n mlen : Nat) (p : Packet) (rest : List Packet), Arriving s.chip c p rest → p.body = .openReq n mlen → n < 64 →
      (s.chip.core c).inReset = false →
      (s.chip.chState c n = chLISTEN → s.chip.chRecv c n = true → s.chip.chNode c n = p.src →
        mlen ≤ s.chip.get (pgCHAN c) (fChMlen n) → Runs (.openRequestArrive p) s fun t =>
          t.chState c n = chOPEN ∧
          t.net = rest ++ [⟨s.chip.coreNode c, p.src, .openReply n (.accepted (s.chip.get (pgCHAN c) (fChMlen n)) (s.chip.chan c n).qcap
            ((s.chip.chan c n).rlen / 64))⟩] ∧ SameRegs s.chip t [pgCHAN c + 0x400 + 16 * n] ∧ t.mem = s.chip.mem ∧
          t.cores = s.chip.cores) ∧
      (s.chip.chState c n = chCLOSED → Runs (.openRequestArrive p) s fun t =>
          t.net = rest ++ [⟨s.chip.coreNode c, p.src, .openReply n .notReady⟩] ∧ t.regs = s.chip.regs ∧ t.mem = s.chip.mem ∧
          t.cores = s.chip.cores)) ∧
    (∀ (s : State) (c n : Nat) (v : OpenVerdict) (p : Packet) (rest : List Packet) (m : Cmd), Arriving s.chip c p rest →
      p.body = .openReply n v → n < 64 → (s.chip.core c).q = [(uCHAN, [m])] → (s.chip.core c).running uSYNC = [] → opcode m.w = 0x60 →
      cCH m.w = n → m.prog = wtReply →
      (∀ ml q r, v = .accepted ml q r → q < 2 ^ 7 → r < 2 ^ 16 → Runs (.openReplyArrive p) s fun t =>
        t.chState c n = chOPEN ∧ t.get (pgCHAN c) (fChQcred n) = q ∧ t.get (pgCHAN c) (fChRcred n) = r ∧ (t.core c).q = [] ∧
        t.net = rest ∧ t.mem = s.chip.mem ∧
        SameRegs s.chip t [pgCHAN c + 0x400 + 16 * n, pgCHAN c + 0x404 + 16 * n, pgCHAN c + 0x408 + 16 * n] ∧ SameCores s.chip t c) ∧
      (v = .notReady → Runs (.openReplyArrive p) s fun t =>
        (t.core c).queue uCHAN = [{ m with prog := wtRetry }] ∧ t.net = rest ∧ t.regs = s.chip.regs ∧ t.mem = s.chip.mem ∧
        SameCores s.chip t c) ∧
      (∀ k, v = .refused k → k < 8 → s.chip.seqState c = sqRUNNING → Runs (.openReplyArrive p) s fun t =>
        Faults s.chip t c eCHAN_REFUSED 0xFF (m.pc % 8192) ∧ t.get (pgCHAN c) fFaultChCause = k ∧ t.get (pgCHAN c) fFaultCh = n ∧
        t.chState c n = chCLOSED)) ∧
    (∀ (s : State) (c : Nat) (m : Cmd), c < 144 → s.chip.fabricUp = true → (s.chip.core c).queue uCHAN = [m] → opcode m.w = 0x60 →
      m.prog = wtRetry → Runs (.openRetry c m.id) s fun t =>
        t.net = s.chip.net ++ [⟨s.chip.coreNode c, ⟨cPDEV m.w, .core (cPCORE m.w)⟩, .openReq (cCH m.w) (cMLEN m.w)⟩] ∧
        (t.core c).queue uCHAN = [{ m with prog := wtReply }] ∧ t.regs = s.chip.regs ∧ t.mem = s.chip.mem ∧ SameCores s.chip t c))

/-- SEND and SENDT on an open sending end with credit, whose peer is not absent: the message leaves in packets of up to 1,024
B with its header, ring place and number, the credit it needs is taken, and the command waits for its acknowledgement; SENDT
without credit gives its counter 1 and sends nothing; a SEND that waited for credit leaves when it has come (R290, R292, R293,
R294, R295; that each packet carries header, ring place and number is log 20, and that credit is taken before the slots log
40). -/
def Obligations.SendsLeave : Prop :=
  ∀ (s : State) (c n len : Nat), s.chip.slotsOf c = [] → s.chip.errs = [] → s.chip.poison = [] → s.chip.chState c n = chOPEN →
    s.chip.chRecv c n = false → n < 64 → len ≤ s.chip.get (pgCHAN c) (fChMlen n) →
    s.chip.peerAbsent (s.chip.chPeer c n).1 (s.chip.chPeer c n).2 = false →
    let p := pgCHAN c
    let e := s.chip.chan c n
    let u := unitsOf len
    let pad := padOf e.rlen e.tail u
    let mseq := s.chip.get p (fChMseq n)
    let leaves := fun (id o : Nat) (t : Chip) =>
      (let ps := pieces 1024 (len / 1024 + 1) (s.chip.tbytes (tunAddr c o) len)
       t.net = s.chip.net ++ (List.range ps.length).map fun i => ⟨s.chip.coreNode c, s.chip.chNode c n,
        .message (msgHdr 0 s.chip.devId c mseq n 0 (u ≠ 0) len) (if pad = 0 then e.tail else 0) pad (1024 * i) ((ps[i]?).getD [])⟩) ∧
      t.get p (fChQcred n) = s.chip.get p (fChQcred n) - 1 ∧ t.get p (fChRcred n) = s.chip.get p (fChRcred n) - (u + pad) ∧
      t.get p (fChMseq n) = (mseq + 1) % 2 ^ 16 ∧ (t.chan c n).sent = e.sent ++ [(id, mseq)] ∧
      ((t.core c).running uCHAN).map (·.id) = ((s.chip.core c).running uCHAN).map (·.id) ++ [id] ∧ (t.core c).q = [] ∧
      t.mem = s.chip.mem ∧ SameCores s.chip t c
    (∀ w, Takes s.chip c w → Quiet s.chip c → cCH w = n → cMLEN w = len → s.chip.hasCredit c n len = true →
      (opcode w = 0x62 → Runs (.send c w) s fun t => leaves (s.chip.core c).nextId (wOFF w) t ∧ Retired s.chip t c ∧
        (t.core c).cntPend = (s.chip.core c).cntPend) ∧
      (opcode w = 0x63 → Runs (.sendt c w) s fun t => leaves (s.chip.core c).nextId (wOFF w) t ∧ Retired s.chip t c ∧
        (t.core c).cntPend = ((s.chip.core c).supersede (cCA w)).cntPend ++ [((s.chip.core c).nextId, cCA w)])) ∧
    (∀ w, Takes s.chip c w → Quiet s.chip c → cCH w = n → cMLEN w = len → s.chip.hasCredit c n len = false → opcode w = 0x63 →
      Runs (.sendt c w) s fun t => t.cnt c (cCA w) = 1 ∧ (t.core c).cntPend = ((s.chip.core c).supersede (cCA w)).cntPend ∧
        t.net = s.chip.net ∧ (t.core c).q = [] ∧ Retired s.chip t c ∧ t.mem = s.chip.mem ∧
        SameRegs s.chip t (seqRegs c ++ [pgSEQ c + 0x160 + 4 * cCA w]) ∧ SameCores s.chip t c) ∧
    (∀ m : Cmd, c < 144 → s.chip.fabricUp = true → (s.chip.core c).q = [(uCHAN, [m])] → (s.chip.core c).running uSYNC = [] →
      opcode m.w = 0x62 → m.prog = wtCredit → cCH m.w = n → cMLEN m.w = len → s.chip.hasCredit c n len = true →
      Runs (.sendStart c) s fun t => leaves m.id (wOFF m.w) t)

/-- MESSAGE_ARRIVE at an open receiving end (R291, R292, R294): a short message joins the end of its receive queue with its
data and is acknowledged; the packets of a longer one are placed in its ring in order, and with the last it joins the queue
and is acknowledged; DELIVERY_ACK_ARRIVE completes the send it names, and gives the counter of a SENDT 0 (R295);
CHANNEL_CREDIT_RETURN adds to the sender's credits (R293). How a message is cut into packets is log 20; which messages are
acknowledged, log 41. RECV waits at the head of the channel queue with its counter awaited; RECV_TAKE of a message without a
token stores the data of the oldest message of its channel, from its queue entry or its ring, gives the counter its length
unless a later instruction has written that, takes the message from its queue and returns its credit (R97, R291, R293, R296,
R297). -/
def Obligations.MessagesReceived : Prop :=
  (∀ (s : State) (c n : Nat) (p : Packet) (rest : List Packet), Arriving s.chip c p rest → n < 64 → s.chip.chState c n = chOPEN →
      s.chip.chNode c n = p.src →
      (∀ h off pos data, p.body = .message h off 0 pos data → hdCh h = n → s.chip.chRecv c n = true → Quiet s.chip c →
        (s.chip.core c).inReset = false →
        let q := s.chip.get (pgCHAN c) (fChRq n)
        let e := s.chip.chan c n
        let joined := fun (t : Chip) (d : List TByte) =>
          (t.rq c q).map (fun x => (x.hdr, x.data, x.ring, x.units)) =
            (s.chip.rq c q).map (fun x => (x.hdr, x.data, x.ring, x.units)) ++ [(h, d, e.rbase + off, unitsOf (hdLen h))] ∧
          t.net = rest ++ [⟨s.chip.coreNode c, p.src, .deliveryAck n (hdMseq h)⟩] ∧ (t.chan c n).part = none ∧ t.cores = s.chip.cores
        let placed := fun (t : Chip) =>
          (∀ i, ∀ k : i < data.length, t.byte (tunAddr c (e.rbase + off) + 16 + pos + i) = data[i].1) ∧
          SameBytes s.chip t (tunAddr c (e.rbase + off)) (64 * unitsOf (hdLen h))
        (hdLen h ≤ 48 → pos = 0 → data.length = hdLen h → Runs (.messageArrive p) s fun t =>
          joined t data ∧ t.mem = s.chip.mem ∧ t.regs = s.chip.regs) ∧
        (48 < hdLen h → (pos = 0 ∨ e.part = some (hdMseq h, pos)) → pos + data.length < hdLen h → Runs (.messageArrive p) s fun t =>
          placed t ∧ t.rqs = s.chip.rqs ∧ (t.chan c n).part = some (hdMseq h, pos + data.length) ∧ t.net = rest ∧
          t.regs = s.chip.regs ∧ t.cores = s.chip.cores) ∧
        (48 < hdLen h → (pos = 0 ∨ e.part = some (hdMseq h, pos)) → pos + data.length = hdLen h → Runs (.messageArrive p) s fun t =>
          placed t ∧ joined t [] ∧ SameRegs s.chip t [pgCHAN c + 0x40C + 16 * n])) ∧
      (∀ id mseq m, p.body = .deliveryAck n mseq → (s.chip.chan c n).sent = [(id, mseq)] → Quiet s.chip c →
        (s.chip.core c).running uCHAN = [m] → m.id = id → (opcode m.w = 0x62 ∨ opcode m.w = 0x63) →
        Runs (.deliveryAckArrive p) s fun t =>
          (t.chan c n).sent = [] ∧ (t.core c).running uCHAN = [] ∧ (t.core c).due = (s.chip.core c).due ++ m.uses ∧ t.net = rest ∧
          t.mem = s.chip.mem ∧ (opcode m.w = 0x62 → t.regs = s.chip.regs) ∧
          (opcode m.w = 0x63 → (id, cCA m.w) ∈ (s.chip.core c).cntPend → t.cnt c (cCA m.w) = 0) ∧
          SameRegs s.chip t [pgSEQ c + 0x160 + 4 * cCA m.w] ∧ SameCores s.chip t c) ∧
      (∀ q u, p.body = .chanCredit n q u → s.chip.chRecv c n = false → Runs (.channelCreditReturn p) s fun t =>
          t.get (pgCHAN c) (fChQcred n) = (s.chip.get (pgCHAN c) (fChQcred n) + q) % 2 ^ 7 ∧
          t.get (pgCHAN c) (fChRcred n) = (s.chip.get (pgCHAN c) (fChRcred n) + u) % 2 ^ 16 ∧ t.net = rest ∧ t.cores = s.chip.cores ∧
          t.mem = s.chip.mem ∧ SameRegs s.chip t [pgCHAN c + 0x404 + 16 * n, pgCHAN c + 0x408 + 16 * n])) ∧
  ((∀ (s : State) (c : Nat) (w : IWord), Takes s.chip c w → Quiet s.chip c → opcode w = 0x64 → s.chip.chState c (cCH w) = chOPEN →
      s.chip.chRecv c (cCH w) = true → s.chip.oldestOf c (cCH w) = none → Runs (.recv c w) s fun t =>
        ((t.core c).queue uCHAN).map (fun m => (m.id, m.w, m.prog)) = [((s.chip.core c).nextId, w, wtCredit)] ∧
        (t.core c).cntPend = ((s.chip.core c).supersede (cCA w)).cntPend ++ [((s.chip.core c).nextId, cCA w)] ∧ Retired s.chip t c ∧
        t.net = s.chip.net ∧ t.mem = s.chip.mem ∧ SameRegs s.chip t (seqRegs c) ∧ SameCores s.chip t c) ∧
    (∀ (s : State) (c n : Nat) (m : Cmd) (e : QEntry), c < 144 → s.chip.fabricUp = true → (s.chip.core c).q = [(uCHAN, [m])] →
      (s.chip.core c).running uSYNC = [] → opcode m.w = 0x64 → cCH m.w = n → n < 64 → s.chip.chState c n = chOPEN → s.chip.chRecv c n = true →
      s.chip.slotsOf c = [] → s.chip.errs = [] → s.chip.oldestOf c n = some e → (e.units = 0 → hdLen e.hdr = e.data.length) →
      hdLen e.hdr ≤ cMLEN m.w → hdKind e.hdr ≠ 2 → Runs (.recvTake c m.id) s fun t =>
        (∀ i, i < hdLen e.hdr → t.byte (tunAddr c (wOFF m.w) + i) =
          if e.units = 0 then ((e.data[i]?).map (·.1)).getD 0 else s.chip.byte (tunAddr c (e.ring + 16) + i)) ∧
        SameBytes s.chip t (tunAddr c (wOFF m.w)) (hdLen e.hdr) ∧
        t.cnt c (cCA m.w) = (if (m.id, cCA m.w) ∈ (s.chip.core c).cntPend then BitVec.ofNat 32 (hdLen e.hdr)
          else s.chip.cnt c (cCA m.w)) ∧
        t.rq c (s.chip.get (pgCHAN c) (fChRq n)) = (s.chip.rq c (s.chip.get (pgCHAN c) (fChRq n))).erase e ∧
        t.net = s.chip.net ++ [⟨s.chip.coreNode c, s.chip.chNode c n, .chanCredit n 1 (e.units + e.pad)⟩] ∧ (t.core c).q = [] ∧
        (t.core c).cntPend = (s.chip.core c).cntPend.erase (m.id, cCA m.w) ∧
        SameRegs s.chip t [pgSEQ c + 0x160 + 4 * cCA m.w, pgCHAN c + 0x408 + 16 * n, pgCHAN c + 0x40C + 16 * n] ∧ SameCores s.chip t c))

/-- CLOSE (R286, R287): a listening end becomes CLOSED at once; an open receiving end discards its messages, tells its peer
and is CLOSED; a sending end whose every send is acknowledged is CLOSING and tells its peer; the notice of a receiving end
closes the sending end, that of a sending end makes the receiving end PEER_CLOSED, and its delivery, here or on another device
once it has left this one (log 21), closes the sending end and completes its CLOSE. -/
def Obligations.ChannelCloses : Prop :=
  (∀ (s : State) (c : Nat) (w : IWord), Takes s.chip c w → Quiet s.chip c → opcode w = 0x61 →
    let n := cCH w
    (s.chip.chState c n = chLISTEN → Runs (.close c w) s fun t =>
      t.chState c n = chCLOSED ∧ t.net = s.chip.net ∧ (t.core c).q = [] ∧ Retired s.chip t c ∧ t.mem = s.chip.mem) ∧
    (s.chip.chState c n = chOPEN → s.chip.chRecv c n = true → Runs (.close c w) s fun t =>
      t.chState c n = chCLOSED ∧
      t.net = s.chip.net ++ [⟨s.chip.coreNode c, s.chip.chNode c n, .closeNotice n false⟩] ∧
      t.rq c (s.chip.get (pgCHAN c) (fChRq n)) =
        (s.chip.rq c (s.chip.get (pgCHAN c) (fChRq n))).filter (fun e => hdCh e.hdr ≠ n) ∧ (t.core c).q = [] ∧ Retired s.chip t c ∧
      t.mem = s.chip.mem) ∧
    (s.chip.chState c n = chOPEN → s.chip.chRecv c n = false → (s.chip.chan c n).sent = [] → Runs (.close c w) s fun t =>
      t.chState c n = chCLOSING ∧ t.net = s.chip.net ++ [⟨s.chip.coreNode c, s.chip.chNode c n, .closeNotice n true⟩] ∧
      (t.core c).q = [] ∧ Retired s.chip t c ∧ t.mem = s.chip.mem)) ∧
  (∀ (s : State) (c n : Nat) (p : Packet) (rest : List Packet), Arriving s.chip c p rest → Quiet s.chip c → n < 64 →
    s.chip.chState c n = chOPEN → s.chip.chNode c n = p.src →
    (p.body = .closeNotice n false → s.chip.chRecv c n = false → Runs (.closeNoticeArrive p) s fun t =>
      t.chState c n = chCLOSED ∧ t.net = rest ∧ t.mem = s.chip.mem) ∧
    (p.body = .closeNotice n true → s.chip.chRecv c n = true → s.chip.localCore p.src = none → Runs (.closeNoticeArrive p) s fun t =>
      t.chState c n = chPEER_CLOSED ∧ t.net = rest ∧ t.mem = s.chip.mem ∧ t.cores = s.chip.cores ∧
      SameRegs s.chip t [pgCHAN c + 0x400 + 16 * n]) ∧
    (∀ d, p.body = .closeNotice n true → s.chip.chRecv c n = true → s.chip.localCore p.src = some d → s.chip.chState d n = chCLOSING →
      Runs (.closeNoticeArrive p) s fun t =>
        t.chState c n = chPEER_CLOSED ∧ t.chState d n = chCLOSED ∧
        (t.core d).running uCHAN = ((s.chip.core d).running uCHAN).filter (fun m => !(opcode m.w = 0x61 && cCH m.w = n)) ∧
        t.net = rest ∧ t.mem = s.chip.mem ∧ SameCores s.chip t d)) ∧
  (∀ (s : State) (c n : Nat) (p : Packet), c < 144 → n < 64 → s.chip.fabricUp = true → Quiet s.chip c → p.dst.dev ≠ s.chip.devId →
    p.body = .closeNotice n true → s.chip.localCore p.src = some c → s.chip.chState c n = chCLOSING → s.chip.chNode c n = p.dst →
    (s.chip.chan c n).sent = [] →
    (p ∉ s.chip.net → Runs (.closeNoticeArrive p) s fun t =>
      t.chState c n = chCLOSED ∧ (t.core c).running uCHAN = ((s.chip.core c).running uCHAN).filter (fun m => !(opcode m.w = 0x61 && cCH m.w = n)) ∧
      t.net = s.chip.net ∧ t.mem = s.chip.mem ∧ SameCores s.chip t c) ∧
    (p ∈ s.chip.net → Runs (.closeNoticeArrive p) s fun t => t = s.chip))

/-- Completions at slots (R111): a producer's completion counts, and the last of a fill makes the slot FULL and writes to the
tun the gather entries that hold bytes of engines in its region (R140; R106 and R140 differ, log 10); a counted read's
completion counts, and the last empties the slot and counts a generation. SLOT_ADMISSION: a TCOPY that waits on a slot as a
producer is admitted when the slot takes it, and copies (R110, R112, R113, R114; that TCOPY writes past the gather buffer is
log 80). Any command of the cellar queue, the data mover, the matrix, adjunct or vector engine whose operands lie in slots,
issued to an idle core (R110 to R114, R118): a producer of a slot with an accumulate operation is refused with ACC_RULE and
the slot named; one that its slots do not all take at once, or before whom an earlier waiter comes, waits from now on behind
all who wait (which waiters count is log 46), and nothing else changes; otherwise it is admitted to every one, each producer
and counted read once, and it starts. A landing slot is not interlocked. -/
def Obligations.SlotLife : Prop :=
  (∀ (s : State) (c n : Nat), c < 144 → n < 4096 → s.chip.fabricUp = true → Quiet s.chip c → (s.chip.core c).vane = [] →
      let sl := s.chip.slot c n
      ((n, true) ∈ (s.chip.core c).due → sl.state = 1 → Runs (.producerDone c n) s fun t =>
        t.slot c n = { sl with done := sl.done + 1, next := sl.next + 1, state := if sl.done + 1 = sl.ncontrib then 2 else 1 } ∧
        (t.core c).due = (s.chip.core c).due.erase (n, true) ∧ SameCores s.chip t c ∧
        (sl.done + 1 ≠ sl.ncontrib ∨ s.chip.errs = [] → t.regs = s.chip.regs ∧ t.counts = s.chip.counts) ∧
        (sl.done + 1 ≠ sl.ncontrib → t.mem = s.chip.mem) ∧
        (sl.done + 1 = sl.ncontrib →
          let out := (s.chip.core c).gather.filter fun g => g.bytes.any fun p =>
            decide (p.2.1 ≠ 0) && decide (sl.base ≤ p.1) && decide (p.1 < sl.base + sl.len)
          ∀ a, t.byte a = gatherByte s.chip c out a)) ∧
      ((n, false) ∈ (s.chip.core c).due → sl.state = 3 → sl.nread ≠ 0 → Runs (.countedReadDone c n) s fun t =>
        t.slot c n = (if sl.reads = sl.nread ∧ sl.readsDone + 1 = sl.reads then
          { sl with state := 0, started := 0, done := 0, reads := 0, next := 0, readsDone := 0, gen := (sl.gen + 1) % 256 }
          else { sl with readsDone := sl.readsDone + 1 }) ∧
        (t.core c).due = (s.chip.core c).due.erase (n, false) ∧ t.regs = s.chip.regs ∧ t.counts = s.chip.counts ∧ t.mem = s.chip.mem ∧
        SameCores s.chip t c)) ∧
  (∀ (s : State) (c n : Nat) (m : Cmd), c < 144 → n < 4096 → s.chip.fabricUp = true → Quiet s.chip c → s.chip.errs = [] → s.chip.poison = [] →
      (s.chip.core c).running uMOV = [m] → opcode m.w = 0x43 → m.prog = 0 → m.began.isSome = true →
      s.chip.usesOf c m = [(n, true)] →
      let sl := s.chip.slot c n
      sl.state = 1 → sl.acc = 0 → sl.land = false → sl.ord = false → sl.started + sl.crdout < sl.ncontrib →
      s.chip.overtakes c m.ord [(n, true)] = false → Runs (.slotAdmission c uMOV m.id) s fun t =>
        t.slot c n = { sl with started := sl.started + 1 } ∧ (t.core c).due = (s.chip.core c).due ++ [(n, true)] ∧
        (t.core c).running uMOV = [] ∧ (∀ i, i < dLEN m.w → t.byte (tunAddr c (m.val + i)) = s.chip.byte (tunAddr c (m.addr + i))) ∧
        SameBytes s.chip t (tunAddr c m.val) (dLEN m.w) ∧ t.regs = s.chip.regs ∧ SameCores s.chip t c) ∧
  (∀ (s : State) (c : Nat) (w : IWord), Takes s.chip c w → (s.chip.core c).q = [] → (s.chip.core c).run = [] →
      let m := s.chip.capture c w
      let uses := s.chip.usesOf c m
      let takes := fun (u : Nat × Bool) =>
        let sl := s.chip.slot c u.1
        sl.land = true ∨
        (u.2 = true ∧ (sl.state = 0 ∨ sl.state = 1) ∧ sl.started + sl.crdout < sl.ncontrib ∧ (sl.ord = true → sl.started = sl.done)) ∨
        (u.2 = false ∧ if sl.nread = 0 then sl.state = 2 else (sl.state = 2 ∨ sl.state = 3) ∧ sl.reads < sl.nread)
      let may := (∀ u ∈ uses, takes u) ∧ s.chip.overtakes c s.chip.waitNo uses = false
      let rows : List (Nat × Nat × Instr) :=
        [(0x40, uCEL, .cfetch c w), (0x41, uCEL, .cstore c w), (0x42, uMOV, .nwr c w), (0x43, uMOV, .tcopy c w), (0x80, uMTX, .mmul c w),
         (0x81, uMTX, .mdrain c w), (0x84, uADJ, .abind c w), (0x85, uADJ, .acorr c w)] ++
        vectorCommands.map fun v => (v.1, uVEC, v.2 c w)
      ∀ r ∈ rows, opcode w = r.1 →
        (∀ n, uses.find? (fun u => u.2 && decide ((s.chip.slot c u.1).acc ≠ 0)) = some (n, true) → Runs r.2.2 s fun t =>
          Faults s.chip t c eACC 0xFF (s.chip.pc c) ∧ t.get (pgSYNC c) fSyncFaultSlot = n % 4096) ∧
        ((∀ n, (n, true) ∈ uses → (s.chip.slot c n).acc = 0) →
          (¬may → Runs r.2.2 s fun t =>
            ((t.core c).queue r.2.1 ++ (t.core c).running r.2.1).map (fun x => (x.id, x.w, x.began, x.tmo, x.ord)) =
              [(m.id, w, some s.chip.edges, s.chip.cmdTmo c, s.chip.waitNo)] ∧
            t.waitNo = s.chip.waitNo + 1 ∧ t.slots = s.chip.slots ∧ t.mem = s.chip.mem ∧ t.net = s.chip.net ∧ Retired s.chip t c ∧
            SameRegs s.chip t (seqRegs c) ∧ SameCores s.chip t c) ∧
          (may → Runs r.2.2 s fun t => (t.core c).queue r.2.1 = [] ∧
            ∀ n, n < 4096 → let sl := s.chip.slot c n
              t.slot c n =
                if sl.land = true then sl
                else if (n, true) ∈ uses then { sl with started := sl.started + 1, state := if sl.state = 0 then 1 else sl.state }
                else if (n, false) ∈ uses ∧ sl.nread ≠ 0 then { sl with state := 3, reads := sl.reads + 1 }
                else sl)))

/-- A wait of the sequencer, a slot wait, a drain's wait and a GRANT's wait that have expired before their end has come fault
the core (R93, R94, R113, R144, R189), as does an exceeded limit of consecutive overruns (R52). The cause 0xFF of a fault that
execution finds is log 8. What timers count is log 28. -/
def Obligations.Timeouts : Prop :=
  ∀ (s : State) (c : Nat), c < 144 → s.chip.fabricUp = true → s.chip.seqState c = sqRUNNING →
    (∀ x, (s.chip.core c).wait = some x → x.tmo ≠ 0 → x.began + x.tmo ≤ s.chip.edges →
      s.chip.waitOver c x = false →
      (x.code ≠ 9 → Runs (.waitTimeout c) s fun t => Faults s.chip t c eCMD_TIMEOUT 0xFF (s.chip.pc c)) ∧
      (x.code = 9 → x.val ≠ 0 → x.val ≤ 4096 → Runs (.commandTimeout (.seq c)) s fun t =>
        Faults s.chip t c eSLOT_TIMEOUT 0xFF (s.chip.pc c) ∧ t.get (pgSYNC c) fSyncFaultSlot = x.val - 1)) ∧
    (∀ m b, (s.chip.core c).running uMTX = [m] → m.began = some b → m.tmo ≠ 0 → b + m.tmo ≤ s.chip.edges → m.pc < 8192 →
      s.chip.corrReady c m.prog = false → Runs (.commandTimeout (.drain c)) s fun t => Faults s.chip t c eCMD_TIMEOUT 0xFF m.pc) ∧
    (∀ m b, (s.chip.core c).queue uSYNC = [] → (s.chip.core c).running uSYNC = [m] → opcode m.w = 0x24 → m.began = some b →
      m.tmo ≠ 0 → b + m.tmo ≤ s.chip.edges → m.pc < 8192 → s.chip.mayGrant c (sySlot m) (syDir m) = false →
      Runs (.commandTimeout (.command c uSYNC m.id)) s fun t =>
        Faults s.chip t c eSLOT_TIMEOUT 0xFF m.pc ∧ t.get (pgSYNC c) fSyncFaultSlot = sIDX m.w % 4096 ∧
        t.get (pgSYNC c) fSyncFaultUnit = uSYNC) ∧
    (s.chip.get (pgSEQ c) fSeqOvrLimit ≠ 0 → s.chip.get (pgSEQ c) fSeqOvrLimit < s.chip.get (pgSEQ c) fSeqOvrConsec →
      s.chip.get (pgSEQ c) fSeqIgmAct = 0 → Runs (.overrunLimit c) s fun t => Faults s.chip t c eOVERRUN 0xFF ((s.chip.core c).ovrPc % 8192))

/-- A write of four owner entries (R253, R255, R256): each entry takes its byte unless the old or the new KIND is the
hardware's; KIND 5 queues a scrub; no other entry changes. A scrub starts by KIND 5, keeps its extent's CTX, and ends with the
extent zero, its entry FREE and the interrupt raised; one that ends in a RELEASE shows that its cores are scrubbed no more
(log 67) (R256, R272, R274, R409, R475; that CTX is kept is log 59). Refresh (R263 to R267, R272 to R274): a burst that falls
due inside the quiet window, or too shortly before it, is postponed and counted so; one that falls due outside runs with those
postponed; one postponed for too long runs at once, is counted so and raises its interrupt; the policy takes 0 and 1. No byte
changes. Which bursts run with the next one due, and which FORCED_BURST runs, is log 59. -/
def Obligations.CellarController : Prop :=
  (∀ (s : State) (n idx : Nat) (v : BitVec 32), n < 36 → idx < 32 → s.chip.fabricUp = true →
      s.chip.bit (pgCEL n) fResetActive = false →
      let kept := fun (e b : Nat) => s.chip.extKind n e ∈ [3, 4, 5] ∨ b / 16 % 8 ∈ [3, 4, 6, 7]
      Runs (.extOwnWrite n idx v) s fun t =>
        (∀ i, i < 4 → kept (4 * idx + i) (bf v (8 * i) 8) →
          t.get (pgCEL n) (fExtOwn (4 * idx + i)) = s.chip.get (pgCEL n) (fExtOwn (4 * idx + i))) ∧
        (∀ i, i < 4 → ¬ kept (4 * idx + i) (bf v (8 * i) 8) →
          t.get (pgCEL n) (fExtOwn (4 * idx + i)) = bf v (8 * i) 8 % 128) ∧
        t.scrubQ = s.chip.scrubQ ++ ((List.range 4).filter fun i =>
          decide (¬ kept (4 * idx + i) (bf v (8 * i) 8) ∧ bf v (8 * i) 8 / 16 % 8 = 5)).map (fun i => (n, 4 * idx + i)) ∧
        SameRegs s.chip t [pgCEL n + 0x200 + 4 * idx] ∧ t.mem = s.chip.mem ∧ t.cores = s.chip.cores) ∧
  ((∀ (s : State) (n e : Nat), n < 36 → e < 128 → s.chip.fabricUp = true → s.chip.bit (pgCEL n) fResetActive = false →
      s.chip.extKind n e ∉ [3, 4, 5] → Runs (.extentScrubStart n e) s fun t =>
        t.get (pgCEL n) (fExtOwn e) = 5 * 16 + s.chip.extCtx n e ∧ t.scrubQ = s.chip.scrubQ ++ [(n, e)] ∧
        SameRegs s.chip t [pgCEL n + 0x200 + e / 4 * 4] ∧ t.mem = s.chip.mem) ∧
    (∀ (s : State) (n e : Nat) (rest : List (Nat × Nat)), n < 36 → e < 128 → s.chip.fabricUp = true →
      s.chip.scrubQ = (n, e) :: rest → Runs (.extentScrubDone n) s fun t =>
        let a := celAddr (n * 2 ^ 28 + e * 2 ^ 21)
        let x := s.chip.extCtx n e
        (∀ b, a ≤ b → b < a + 2 ^ 21 → t.byte b = 0) ∧ SameBytes s.chip t a (2 ^ 21) ∧ t.scrubQ = rest ∧
        t.get (pgCEL n) (fExtOwn e) = 0 ∧ t.bit (pgCEL n) ⟨0x028, 2, 1⟩ = true ∧
        t.countOf (pgCEL n) 0x0A = min (s.chip.countOf (pgCEL n) 0x0A + 32768) (2 ^ 64 - 1) ∧
        SameRegs s.chip t [pgCEL n + 0x200 + e / 4 * 4, pgCEL n + 0x028] ∧ SameCounts s.chip t [pgCEL n + 0x0A] ∧
        (s.chip.ctxState x ≠ 3 ∨ (∀ r ∈ s.chip.clearing, r.1 ≠ x) → t.cores = s.chip.cores) ∧
        (∀ r, s.chip.ctxState x = 3 → s.chip.clearing.find? (fun r => r.1 = x) = some r →
          ∀ c, t.core c = if c ∈ r.2 then { s.chip.core c with scrubbing := false } else s.chip.core c))) ∧
  (∀ (s : State) (n k off : Nat), n < 36 → k < 2 → s.chip.fabricUp = true → s.chip.errs = [] →
      let held := s.chip.postponedOf n k
      let ran := fun (t : Chip) (j : Nat) =>
        t.countOf (pgCEL n) 0x04 = min (s.chip.countOf (pgCEL n) 0x04 + j) (2 ^ 64 - 1) ∧
        sget natReset t.bursts (2 * n + k) = sget natReset s.chip.bursts (2 * n + k) + j ∧ t.mem = s.chip.mem ∧ t.cores = s.chip.cores
      (s.chip.quietAt n off = true → Runs (.refreshBurst n ⟨k, off⟩) s fun t =>
        t.postponedOf n k = held + 1 ∧ t.countOf (pgCEL n) 0x06 = min (s.chip.countOf (pgCEL n) 0x06 + 1) (2 ^ 64 - 1) ∧
        ran t 0 ∧ t.regs = s.chip.regs) ∧
      (s.chip.quietAt n off = false → Runs (.refreshBurst n ⟨k, off⟩) s fun t =>
        t.postponedOf n k = 0 ∧ ran t (held + 1) ∧ SameRegs s.chip t [pgCEL n + 0x10C]) ∧
      (held ≠ 0 → Runs (.forcedBurst n k) s fun t =>
        t.postponedOf n k = held - 1 ∧ t.countOf (pgCEL n) 0x05 = min (s.chip.countOf (pgCEL n) 0x05 + 1) (2 ^ 64 - 1) ∧
        t.bit (pgCEL n) ⟨0x028, 1, 1⟩ = true ∧ ran t 1 ∧ SameRegs s.chip t [pgCEL n + 0x10C, pgCEL n + 0x028]) ∧
      (∀ v : BitVec 2, s.chip.bit (pgCEL n) fResetActive = false → v.toNat < 2 → Runs (.refPolicyWrite n v) s fun t =>
        t.get (pgCEL n) ⟨0x100, 0, 2⟩ = v.toNat ∧ SameRegs s.chip t [pgCEL n + 0x100] ∧ t.mem = s.chip.mem ∧ t.counts = s.chip.counts))

/-- The kiln's accesses to a tun and, in machine mode, to the cellar within one extent (R3, R19, R102, R251, R403, R410,
R442): a read is answered with the bytes, a write stores them and nothing else; a read of a closed context's data and a write
to a partition that is SCRUBBING meet an access fault and change no byte, and an absent core's tun reads zeros and takes no
write. Its accesses at the edges are log 61. The kiln's physical map (R442, R449): an address in no region is an access fault;
the ROM is read, and the SRAM, the frame buffers and the mailbox are read and written; the flash is read, and written in the
image region only in an update session, else refused as an access fault, as a write of the ROM is (the model's choice, log
36); no other byte changes. -/
def Obligations.KilnApertures : Prop :=
  (∀ (s : State), s.chip.up = true → s.chip.errs = [] → s.chip.poison = [] → s.chip.rstBusy = false →
      let refused := fun (t : Chip) => t.resp = [] ∧ t.countOf pgFLT 5 = min (s.chip.countOf pgFLT 5 + 1) (2 ^ 64 - 1) ∧
        t.mem = s.chip.mem ∧ t.regs = s.chip.regs
      (∀ c o n, n ≠ 0 → o + n ≤ 0x300000 → c < 144 →
        (s.chip.present c = true → s.chip.closed (s.chip.ownerOf c) = false → Runs (.tunApertureAccess c (.read o n)) s fun t =>
          t.resp = s.chip.bytes (tunAddr c o) n ∧ t.mem = s.chip.mem ∧ t.regs = s.chip.regs) ∧
        (s.chip.present c = true → s.chip.closed (s.chip.ownerOf c) = true → Runs (.tunApertureAccess c (.read o n)) s refused) ∧
        (s.chip.present c = false → Runs (.tunApertureAccess c (.read o n)) s fun t =>
          t = { s.chip with resp := List.replicate n 0 })) ∧
      (∀ c o l, l ≠ [] → o + l.length ≤ 0x300000 → c < 144 →
        (s.chip.present c = true → s.chip.ctxState (s.chip.ownerOf c) ≠ 3 → Runs (.tunApertureAccess c (.write o l)) s fun t =>
          t.resp = [0] ∧ (∀ i, ∀ h : i < l.length, t.byte (tunAddr c o + i) = l[i]) ∧ SameBytes s.chip t (tunAddr c o) l.length ∧
          t.regs = s.chip.regs) ∧
        (s.chip.present c = true → s.chip.ctxState (s.chip.ownerOf c) = 3 → Runs (.tunApertureAccess c (.write o l)) s fun t =>
          t = { s.chip with resp := [] }) ∧
        (s.chip.present c = false → Runs (.tunApertureAccess c (.write o l)) s fun t =>
          t.resp = [0] ∧ t.mem = s.chip.mem ∧ (s.chip.get pgGERP fGfeCode = 0 → t.get pgGERP fGfeCode = eABSENT))) ∧
      (∀ o n, n ≠ 0 → o + n ≤ 36 * 2 ^ 28 → o / 2 ^ 21 = (o + n - 1) / 2 ^ 21 → s.chip.bit (pgCEL (sliceOf o)) fResetActive = false →
        (s.chip.extClosed (sliceOf o) (extOf o) = false → Runs (.cellarApertureAccess .aperture true (.read o n)) s fun t =>
          t.resp = (List.range n).map (fun i => s.chip.byte (celAddr (o + i))) ∧ t.mem = s.chip.mem ∧ t.regs = s.chip.regs) ∧
        (s.chip.extClosed (sliceOf o) (extOf o) = true → Runs (.cellarApertureAccess .aperture true (.read o n)) s refused)) ∧
      (∀ o l, l ≠ [] → o + l.length ≤ 36 * 2 ^ 28 → o / 2 ^ 21 = (o + l.length - 1) / 2 ^ 21 →
        s.chip.bit (pgCEL (sliceOf o)) fResetActive = false →
        (s.chip.extScrubbing (sliceOf o) (extOf o) = false → Runs (.cellarApertureAccess .aperture true (.write o l)) s fun t =>
          t.resp = [0] ∧ (∀ i, ∀ h : i < l.length, t.byte (celAddr o + i) = l[i]) ∧ SameBytes s.chip t (celAddr o) l.length ∧
          t.regs = s.chip.regs) ∧
        (s.chip.extScrubbing (sliceOf o) (extOf o) = true → Runs (.cellarApertureAccess .aperture true (.write o l)) s fun t =>
          t = { s.chip with resp := [] }))) ∧
  (∀ (s : State) (m : Bool), s.chip.up = true → s.chip.errs = [] → s.chip.poison = [] →
      let acc := Instr.cellarApertureAccess .map m
      let within := fun (l : List (Nat × Nat)) (a n : Nat) => n ≠ 0 ∧ ∃ r ∈ l, r.1 ≤ a ∧ a + n ≤ r.1 + r.2
      let own := [(0x01000000, 0x200000), (0x03000000, 0x10000), (0x03100000, 0x10000)]
      let refused := fun (t : Chip) => t = { s.chip with resp := [] }
      (∀ k, s.chip.regionOf (kaOff k) (kaSize k) = none → Runs (acc k) s refused) ∧
      (∀ a n, within ((0x20000000, 0x10000000) :: own) a n → Runs (acc (.read a n)) s fun t =>
        t = { s.chip with resp := s.chip.bytes a n }) ∧
      (∀ a n, n ≠ 0 → a + n ≤ 0x40000 → Runs (acc (.read a n)) s fun t =>
        t = { s.chip with resp := (List.range n).map fun i => Config.romByte (a + i) }) ∧
      (∀ a l, within [(0, 0x40000)] a l.length → Runs (acc (.write a l)) s refused) ∧
      (∀ a l, within own a l.length ∨ (within [(0x20000000, 0x10000000)] a l.length ∧
          (s.chip.sec.session = true ∨ a + l.length ≤ 0x20000000 + imageBase ∨ 0x20000000 + imageBase + imageLen ≤ a)) →
        Runs (acc (.write a l)) s fun t =>
          (∀ i, ∀ h : i < l.length, t.byte (a + i) = l[i]) ∧ SameBytes s.chip t a l.length ∧ t.resp = [0] ∧ t.regs = s.chip.regs ∧
          t.cores = s.chip.cores) ∧
      (∀ a l, within [(0x20000000, 0x10000000)] a l.length → s.chip.sec.session = false → 0x20000000 + imageBase < a + l.length →
        a < 0x20000000 + imageBase + imageLen → Runs (acc (.write a l)) s refused))

/-- The debug windows of a core, written with 4 or 8 bytes (R14, R70, R77, R110, R145, R470, R471): while its sequencer runs
nothing the instruction memory takes the bytes and their block is VALID, a tile descriptor takes the bits but the reserved
ones, a slot descriptor those of its low half when it fits; what does not fit and every write while the sequencer runs is
discarded and shown so. -/
def Obligations.CoreWindows : Prop :=
  ∀ (s : State) (c off size : Nat) (v : BitVec 64), s.chip.present c = true → s.chip.fabricUp = true →
    (s.chip.core c).inReset = false → (size = 4 ∨ size = 8) → off % size = 0 →
    let n := off / 16
    let d := slotKeep (setBf (s.chip.slot c n).desc (8 * (off % 8)) (8 * size) (v.toNat % 2 ^ (8 * size)))
    (s.chip.windowOpen c = true →
      (off + size ≤ 0x18000 → Runs (.imDebugWrite c off size v) s fun t =>
        t.num (imAddr c 0 + off) size = v.toNat % 2 ^ (8 * size) ∧ SameBytes s.chip t (imAddr c 0 + off) size ∧
        (∀ b, (t.core c).block b = if b = off / 1024 then 2 else (s.chip.core c).block b) ∧ t.resp = [0] ∧ t.regs = s.chip.regs ∧
        SameCores s.chip t c) ∧
      (off + size ≤ 0x1000 → Runs (.tileDescWindowWrite c off size v) s fun t =>
        (∀ i, i < 8 * size → (t.desc c n).getLsbD (8 * (off % 16) + i) = (v.getLsbD i && decide (8 * (off % 16) + i < 105))) ∧
        (∀ j, j < 8 * (off % 16) ∨ 8 * (off % 16) + 8 * size ≤ j →
          (t.desc c n).getLsbD j = ((s.chip.desc c n).getLsbD j && decide (j < 105))) ∧
        (∀ k, k ≠ c * 256 + n → sget descReset t.descs k = sget descReset s.chip.descs k) ∧
        t = { s.chip with descs := t.descs, resp := [0] }) ∧
      (off + size ≤ 0x10000 → off % 16 < 8 → slotFits d = true → s.chip.slotApart c n d = true →
        Runs (.slotDescWindowWrite c off size v) s fun t =>
          t.slot c n = { s.chip.slot c n with desc := d } ∧
          (∀ k, k ≠ c * 4096 + n → sget slotReset t.slots k = sget slotReset s.chip.slots k) ∧
          t = { s.chip with slots := t.slots, resp := [0] }) ∧
      (off + size ≤ 0x10000 → off % 16 < 8 → (slotFits d = false ∨ s.chip.slotApart c n d = false) →
        Runs (.slotDescWindowWrite c off size v) s fun t =>
          t.get (pgSYNC c) fSyncSdRej = 1 ∧ SameRegs s.chip t [pgSYNC c + 0x104] ∧ t = { s.chip with regs := t.regs, resp := [0] })) ∧
    (s.chip.windowOpen c = false →
      (off + size ≤ 0x18000 → Runs (.imDebugWrite c off size v) s fun t =>
        t.get (pgSEQ c) fSeqImRej = 1 ∧ SameRegs s.chip t [pgSEQ c + 0x104] ∧ t = { s.chip with regs := t.regs, resp := [0] }) ∧
      (off + size ≤ 0x1000 → Runs (.tileDescWindowWrite c off size v) s fun t =>
        t.get (pgSEQ c) fSeqImRej = 1 ∧ SameRegs s.chip t [pgSEQ c + 0x104] ∧ t = { s.chip with regs := t.regs, resp := [0] }) ∧
      (off + size ≤ 0x10000 → Runs (.slotDescWindowWrite c off size v) s fun t =>
        t.get (pgSYNC c) fSyncSdRej = 1 ∧ SameRegs s.chip t [pgSYNC c + 0x104] ∧ t = { s.chip with regs := t.regs, resp := [0] }))

/-- A packet between two cores passes the routers along its row and then along its column (R275, R276, R281, R301, R303,
R304): it enters the local input of its core's router behind what stands there, and leaves the input's front, east, west,
south, north or to the core, when the output's rotation has come to that input and the next place has room; otherwise it waits
and nothing changes. Its flits are counted at the output and the input that takes it shows its peak; a single bit error of its
header is corrected and counted, and with two the packet is lost and MESH_HDR logged. Traffic that is a command of its own is
only counted (the model's choice, log 43). Which headers are beyond correction is log 60. -/
def Obligations.PacketHops : Prop :=
  ∀ (s : State) (a b x y i : Nat) (p : Packet), a < 144 → b < 144 → x < 12 → y < 12 → i < 5 → s.chip.fabricUp = true →
    p.src = s.chip.coreNode a → p.dst = s.chip.coreNode b →
    ((y = yOf a ∧ ((xOf a ≤ x ∧ x ≤ xOf b) ∨ (xOf b ≤ x ∧ x ≤ xOf a))) ∨
      (x = xOf b ∧ ((yOf a ≤ y ∧ y ≤ yOf b) ∨ (yOf b ≤ y ∧ y ≤ yOf a)))) →
    let o := if x < xOf b then 1 else if xOf b < x then 3 else if y < yOf b then 2 else if yOf b < y then 0 else 4
    let pg := pgCHAN (12 * y + x)
    let here := 8 * (12 * y + x) + i
    let on := s.chip.nextPlace x y o p
    let kept := fun (t : Chip) (l : List Nat) => (∀ j, j ∉ l → t.held j = s.chip.held j) ∧ t.mem = s.chip.mem ∧ t.cores = s.chip.cores
    let peak := fun (t : Chip) (k : Nat) => k < 1152 → t.get (pgCHAN (k / 8)) ⟨0xC08, 8, 5⟩ =
      max (s.chip.get (pgCHAN (k / 8)) ⟨0xC08, 8, 5⟩) ((s.chip.held k ++ [p]).map flitsOf).sum
    let counted := fun (t : Chip) =>
      t.countOf pg (0x200 + o) = min (s.chip.countOf pg (0x200 + o) + (packetBytes p + 127) / 128) (2 ^ 64 - 1) ∧ t.net = s.chip.net
    let moved := fun (t : Chip) => t.held here = (s.chip.held here).drop 1 ∧ t.held on = s.chip.held on ++ [p] ∧ kept t [here, on] ∧
      counted t ∧ peak t on ∧ sget natReset t.turn (8 * (12 * y + x) + o) = (i + 1) % 5
    (bodyKind p.body = 16 → packetBytes p ≤ 1040 → Runs (.packetHop x y i p 0) s fun t =>
      counted t ∧ kept t [] ∧ SameRegs s.chip t [pg + 0xC08] ∧ SameCounts s.chip t [pg + (0x200 + o)]) ∧
    (bodyKind p.body ≠ 16 → p ∈ s.chip.net →
      ((s.chip.held here).head? = some p →
        (s.chip.serves x y o i = true → s.chip.takes on p = true →
          Runs (.packetHop x y i p 0) s (fun t => moved t ∧ SameCounts s.chip t [pg + (0x200 + o)] ∧
            SameRegs s.chip t [pgCHAN (on / 8) + 0xC08]) ∧
          Runs (.packetHop x y i p 1) s fun t =>
            moved t ∧ t.get pg ⟨0xC00, 0, 32⟩ = min (s.chip.get pg ⟨0xC00, 0, 32⟩ + 1) (2 ^ 32 - 1)) ∧
        (s.chip.serves x y o i = false ∨ s.chip.takes on p = false → ∀ e, e < 2 → Runs (.packetHop x y i p e) s fun t => t = s.chip) ∧
        Runs (.packetHop x y i p 2) s fun t =>
          t.net = s.chip.net.erase p ∧ t.routers = eraseHeld p s.chip.routers ∧
          t.get pg ⟨0xC04, 0, 32⟩ = min (s.chip.get pg ⟨0xC04, 0, 32⟩ + 1) (2 ^ 32 - 1) ∧
          t.bit pg ⟨0x010, errBit eMESH_HDR, 1⟩ = true ∧ t.mem = s.chip.mem ∧ t.cores = s.chip.cores ∧ t.counts = s.chip.counts) ∧
      ((∀ r ∈ s.chip.routers, p ∉ r.2) → i = 4 → x = xOf a → y = yOf a → s.chip.roomAt here p = true →
        s.chip.net.find? (fun q => sameWay p q && !(s.chip.routers.any fun r => r.2.contains q)) = some p → ∀ e, e < 2 →
        (s.chip.held here ≠ [] → Runs (.packetHop x y i p e) s fun t =>
          t.held here = s.chip.held here ++ [p] ∧ kept t [here] ∧ peak t here ∧ t.net = s.chip.net ∧ t.counts = s.chip.counts) ∧
        (s.chip.held here = [] → Runs (.packetHop x y i p e) s fun t =>
          (t.held here = [p] ∨ t.held on = s.chip.held on ++ [p]) ∧ kept t [here, on] ∧ t.net = s.chip.net)))

/-- A beat edge that the unit makes by itself, at the tick at which it falls due and at no other, counts the beat or takes the
load value; the next falls due a steered period later, every slice that always refreshes at the hot rate is hot, and every
port that is UP sends the beat's marker (R32, R34, R38, R264, R313, R484, R485); the fields EN, START and CLR_FAULT move the
unit, and do nothing in its other states (R34, R40, R42, R485); EN = 0 lets the next edge still count and stops the beat there
(log 47), and an ACQUIRE with a context ACTIVE keeps to the slow rate (log 48). -/
def Obligations.BeatEdges : Prop :=
  ∀ (s : State), s.chip.fabricUp = true →
    (∀ tick d, s.chip.beatState ≠ bsDISABLED → s.chip.beatU.next = some d →
      (s.chip.isMaster = false ∨ (s.chip.extMaster = false ∧ s.chip.beatState ≠ bsACQUIRE) ∨
        (s.chip.extMaster = true ∧ s.chip.beatState ≠ bsLOCKED ∧ (s.chip.beatState = bsACQUIRE → s.chip.calm = true))) →
      (tick = d / 256 → Runs (.beatEdge tick) s fun t =>
        t.beat = (if s.chip.beatU.loadNext then s.chip.get64 pgBEAT 0x108 else s.chip.beat + 1) % 2 ^ 64 ∧
        t.edges = s.chip.edges + 1 ∧ t.beatState = (if s.chip.beatU.stopNext then bsDISABLED else s.chip.beatState) ∧
        (s.chip.beatU.stopNext = false → t.beatU.last = some d ∧ t.beatU.next = some ((d + s.chip.finePeriod : Int) +
          (if s.chip.calm then max (-8) (min 8 s.chip.beatU.step) else s.chip.beatU.step)).toNat) ∧
        (∀ n, n < 36 → s.chip.get (pgCEL n) ⟨0x100, 0, 2⟩ = 1 → t.get (pgCEL n) ⟨0x108, 0, 1⟩ = 1) ∧
        (∀ p, p < 16 → s.chip.portPresent p = true → s.chip.portState p = psUP →
          t.countOf (pgLNK p) 0x10 = min (s.chip.countOf (pgLNK p) 0x10 + 1) (2 ^ 64 - 1) ∧
          ((t.port p).sent.bind (·.mark)).map (fun m => (m.beat.toNat, m.period, m.hops, m.masterId)) =
            some (t.beat, s.chip.get pgBEAT fBeatPeriod, s.chip.get pgBEAT fBeatHops, s.chip.get pgBEAT fBeatMasterId)) ∧
        t.mem = s.chip.mem ∧ t.cores = s.chip.cores) ∧
      (tick ≠ d / 256 → Runs (.beatEdge tick) s fun t => t = s.chip)) ∧
    (s.chip.beatState = bsDISABLED → Runs .beatEnable s fun t =>
      t.beatState = bsACQUIRE ∧ t.get pgBEAT fBeatEn = 1 ∧ t.beatU = BeatUnit.reset ∧
      (s.chip.isMaster = true → t.get pgBEAT fBeatHops = 0 ∧ t.get pgBEAT fBeatMasterId = s.chip.devId) ∧
      SameRegs s.chip t [pgBEAT + 0x100, pgBEAT + 0x110, pgBEAT + 0x114] ∧ t.mem = s.chip.mem ∧ t.cores = s.chip.cores) ∧
    (s.chip.beatState ≠ bsDISABLED → Runs .beatEnable s fun t => t = s.chip) ∧
    (s.chip.beatState ≠ bsDISABLED → (∀ x, x < 16 → s.chip.ctxState x = 0) → Runs .beatDisable s fun t =>
      t = { s.chip with beatU := { s.chip.beatU with stopNext := true } }) ∧
    (∀ x, x < 16 → s.chip.ctxState x ≠ 0 → Runs .beatDisable s fun t => t = s.chip) ∧
    (s.chip.isMaster = true → s.chip.extMaster = false → s.chip.beatState = bsACQUIRE → Runs .beatStart s fun t =>
      t.beatState = bsLOCKED ∧ t.beatU = { s.chip.beatU with loadNext := true } ∧ t.bit pgBEAT ⟨0x028, 0, 1⟩ = true ∧
      SameRegs s.chip t [pgBEAT + 0x028, pgBEAT + 0x110] ∧ t.mem = s.chip.mem ∧ t.cores = s.chip.cores) ∧
    (s.chip.isMaster = false ∨ s.chip.extMaster = true ∨ s.chip.beatState ≠ bsACQUIRE → Runs .beatStart s fun t => t = s.chip) ∧
    (s.chip.beatState = bsFAULT → Runs .clrFault s fun t =>
      t.beatState = bsACQUIRE ∧ t.beatU.good = 0 ∧ t.beatU.acq = 0 ∧ t.beatU.synced = false ∧ SameRegs s.chip t [pgBEAT + 0x110] ∧
      t.mem = s.chip.mem ∧ t.cores = s.chip.cores) ∧
    (s.chip.beatState ≠ bsFAULT → Runs .clrFault s fun t => t = s.chip)

/-- A master on BEATREF (R32, R35, R36, R37): in an ACQUIRE with no context to spare each edge of BEATREF is a beat edge and
BEATSYNC loads the counter, but in one that follows a HOLDOVER an edge more than a tick off sends it back; with a context
ACTIVE the edge is only steered towards BEATREF; in LOCKED an edge within a tick of the prediction is a beat edge, and one
that is not at its very tick counts as a miss (R498); another counts as a miss and makes none; a missing one is counted, once
with a stray one, and the beat made at the prediction (log 48); four in a row give HOLDOVER, which ends with three edges a
period apart; in ACQUIRE, calm while a context is ACTIVE (log 48), three aligned edges give LOCKED (logs 47, 91). -/
def Obligations.BeatMaster : Prop :=
  ∀ (s : State) (tick : Nat) (sync : Bool), s.chip.fabricUp = true → s.chip.extMaster = true →
    let u := s.chip.beatU
    let n := fun (load : Bool) => (if load || u.loadNext then s.chip.get64 pgBEAT 0x108 else s.chip.beat + 1) % 2 ^ 64
    let kept := fun (t : Chip) => t.beat = s.chip.beat ∧ t.edges = s.chip.edges ∧ t.mem = s.chip.mem ∧ t.cores = s.chip.cores
    let made := fun (t : Chip) (load : Bool) =>
      t.beat = n load ∧ t.edges = s.chip.edges + 1 ∧ t.mem = s.chip.mem ∧ t.cores = s.chip.cores
    let back := fun (t : Chip) => t.beatState = bsHOLDOVER ∧ t.countOf pgBEAT 0 = min (s.chip.countOf pgBEAT 0 + 1) (2 ^ 64 - 1) ∧
      t.countOf pgBEAT 4 = min (s.chip.countOf pgBEAT 4 + 1) (2 ^ 64 - 1)
    let far := fun (d : Nat) => d / 256 + 1 < tick ∨ tick + 1 < d / 256
    (s.chip.beatState = bsACQUIRE → s.chip.calm = false → (u.again = false ∨ ∀ d, u.next = some d → ¬far d) →
      Runs (.beatrefEdge tick sync) s fun t => made t sync) ∧
    (∀ d, s.chip.beatState = bsACQUIRE → s.chip.calm = false → u.again = true → u.next = some d → far d →
      Runs (.beatrefEdge tick sync) s fun t => kept t ∧ back t) ∧
    (∀ l, s.chip.beatState = bsACQUIRE → s.chip.calm = true → u.lastRef = none → u.last = some l →
      let d : Int := (256 * tick : Nat) - (l : Int)
      let e := if (s.chip.finePeriod : Int) < 2 * d then d - s.chip.finePeriod else d
      Runs (.beatrefEdge tick sync) s fun t =>
        kept t ∧ t.beatU.step = max (-8) (min 8 e) ∧ t.beatU.next = some (l + s.chip.finePeriod + max (-8) (min 8 e)).toNat ∧
        t.regs = s.chip.regs) ∧
    (∀ d, s.chip.beatState = bsLOCKED → u.next = some d →
      (tick = d / 256 → Runs (.beatrefEdge tick sync) s fun t => made t false ∧ (u.stopNext = false → t.beatU.misses = 0)) ∧
      (tick ≠ d / 256 → ¬far d → Runs (.beatrefEdge tick sync) s fun t =>
        made t false ∧ (u.stopNext = false → t.beatU.misses = u.misses + 1) ∧
        t.countOf pgBEAT 0 = min (s.chip.countOf pgBEAT 0 + 1) (2 ^ 64 - 1)) ∧
      (far d → Runs (.beatrefEdge tick sync) s fun t =>
        kept t ∧ t.beatU = { u with misses := u.misses + 1, stray := true } ∧ t.regs = s.chip.regs ∧
        t.countOf pgBEAT 0 = min (s.chip.countOf pgBEAT 0 + 1) (2 ^ 64 - 1)) ∧
      (tick = d / 256 → u.stopNext = false → Runs (.referenceMiss tick) s fun t =>
        made t false ∧ t.beatU.misses = u.misses + (if u.stray then 0 else 1) ∧
        t.countOf pgBEAT 0 = min (s.chip.countOf pgBEAT 0 + (if u.stray then 0 else 1)) (2 ^ 64 - 1))) ∧
    (∀ d, s.chip.beatState = bsACQUIRE → s.chip.calm = false → u.again = true → u.next = some d → tick = d / 256 → u.stopNext = false →
      Runs (.referenceMiss tick) s fun t => made t false ∧ back t) ∧
    (s.chip.beatState = bsLOCKED → 4 ≤ u.misses → Runs .masterHoldover s fun t =>
      t.beatState = bsHOLDOVER ∧ t.bit pgBEAT ⟨0x028, 1, 1⟩ = true ∧ SameRegs s.chip t [pgBEAT + 0x028, pgBEAT + 0x110] ∧
      t.countOf pgBEAT 4 = min (s.chip.countOf pgBEAT 4 + 1) (2 ^ 64 - 1) ∧ kept t) ∧
    (s.chip.beatState = bsHOLDOVER → s.chip.get pgBEAT fBeatPeriod ≤ tick → u.lastRef = some (tick - s.chip.get pgBEAT fBeatPeriod) →
      2 ≤ u.refRun → s.chip.anyActive = true → Runs (.beatrefEdge tick sync) s fun t =>
        t.beatState = bsACQUIRE ∧ t.beatU.slow = true ∧ kept t ∧ SameRegs s.chip t [pgBEAT + 0x110]) ∧
    (s.chip.beatState = bsACQUIRE → 3 ≤ u.refRun → u.synced = true → Runs .beatLock s fun t =>
      t.beatState = bsLOCKED ∧ t.bit pgBEAT ⟨0x028, 0, 1⟩ = true ∧ SameRegs s.chip t [pgBEAT + 0x028, pgBEAT + 0x110] ∧ kept t)

/-- A disciplined device (R38, R40, R42, R313): the first marker of its port gives it the beat; another period is a fault; in
LOCKED a marker steers the edge by at most 200 ps, steers nothing when it is more than 16 ns off, and is a fault when its
number differs; in HOLDOVER a marker of the primary port gives ACQUIRE; eight good ones lock; 4,096 beats without a lock are a
fault; four beats without a marker give HOLDOVER. The first marker adopted is log 48; which beat a marker is judged against,
log 90. -/
def Obligations.BeatDisciplined : Prop :=
  ∀ (s : State), s.chip.fabricUp = true → s.chip.isMaster = false →
    (∀ (port : Nat) (m : Marker) (arrival : Int), s.chip.portPresent port = true → s.chip.portState port = psUP →
      port = s.chip.upstream → let at_ : Int := arrival - m.depart - s.chip.get (pgLNK port) fDelay
      (s.chip.beatState = bsACQUIRE → s.chip.beatU.last = none → m.period = s.chip.get pgBEAT fBeatPeriod →
        (s.chip.calm = false ∨ m.beat.toNat = s.chip.beat) →
        Runs (.markerReceive port m arrival) s fun t =>
          t.beat = m.beat.toNat ∧ t.get pgBEAT fBeatHops = (m.hops + 1) % 16 ∧ t.get pgBEAT fBeatMasterId = m.masterId % 1024 ∧
          t.beatU.last = some at_.toNat ∧ t.beatState = bsACQUIRE ∧ t.mem = s.chip.mem ∧
          t.countOf (pgLNK port) 0x11 = min (s.chip.countOf (pgLNK port) 0x11 + 1) (2 ^ 64 - 1)) ∧
      (s.chip.beatState = bsACQUIRE → m.period ≠ s.chip.get pgBEAT fBeatPeriod → Runs (.markerReceive port m arrival) s fun t =>
        t.beatState = bsFAULT ∧ t.get pgBEAT fBeatCause = 2 ∧ t.bit pgBEAT ⟨0x010, errBit eBEAT_LOSS, 1⟩ = true) ∧
      (∀ l d, s.chip.beatState = bsLOCKED → s.chip.beatU.last = some l → d = at_ - l → 2 * d ≤ s.chip.finePeriod →
        (m.beat.toNat = s.chip.beat → d < -640 ∨ 640 < d → Runs (.markerReceive port m arrival) s fun t =>
          t.beatState = bsLOCKED ∧ t.beatU = s.chip.beatU ∧ t.beat = s.chip.beat ∧ t.mem = s.chip.mem ∧ t.cores = s.chip.cores) ∧
        (m.beat.toNat = s.chip.beat → -640 ≤ d → d ≤ 640 → Runs (.markerReceive port m arrival) s fun t =>
          t.beat = s.chip.beat ∧ t.beatState = bsLOCKED ∧ (t.reg (pgBEAT + 0x114)).toInt = d ∧
          t.beatU.step = max (-8) (min 8 d) ∧ t.beatU.next = some (l + s.chip.finePeriod + max (-8) (min 8 d)).toNat ∧
          t.mem = s.chip.mem ∧ t.cores = s.chip.cores) ∧
        (m.beat.toNat ≠ s.chip.beat → Runs (.markerReceive port m arrival) s fun t =>
          t.beatState = bsFAULT ∧ t.get pgBEAT fBeatCause = 3 ∧ t.bit pgBEAT ⟨0x010, errBit eBEAT_LOSS, 1⟩ = true))) ∧
    (∀ (port : Nat) (m : Marker) (arrival d : Int) (l : Nat), s.chip.portPresent port = true → s.chip.portState port = psUP →
      port = s.chip.get pgBEAT fBeatUpPort → s.chip.beatState = bsHOLDOVER → m.period = s.chip.get pgBEAT fBeatPeriod →
      m.beat.toNat = s.chip.beat → s.chip.beatU.last = some l → d = arrival - m.depart - s.chip.get (pgLNK port) fDelay - l →
      2 * d ≤ s.chip.finePeriod → Runs (.markerReceive port m arrival) s fun t =>
        t.beatState = bsACQUIRE ∧ t.get pgBEAT fBeatOnBk = 0 ∧ t.beat = s.chip.beat ∧ t.beatU.again = true ∧ t.mem = s.chip.mem ∧
        t.cores = s.chip.cores) ∧
    (s.chip.beatState = bsACQUIRE → 8 ≤ s.chip.beatU.good → Runs .beatLock s fun t =>
      t.beatState = bsLOCKED ∧ t.bit pgBEAT ⟨0x028, 0, 1⟩ = true ∧ SameRegs s.chip t [pgBEAT + 0x028, pgBEAT + 0x110]) ∧
    (s.chip.beatState = bsACQUIRE → 4096 ≤ s.chip.beatU.acq → Runs .lockTimeout s fun t =>
      t.beatState = bsFAULT ∧ t.get pgBEAT fBeatCause = 1 ∧ t.bit pgBEAT ⟨0x010, errBit eBEAT_LOSS, 1⟩ = true ∧ t.mem = s.chip.mem) ∧
    (s.chip.beatState = bsLOCKED → 4 ≤ s.chip.beatU.missing → Runs .markerLoss s fun t =>
      t.beatState = bsHOLDOVER ∧ t.bit pgBEAT ⟨0x028, 1, 1⟩ = true ∧ SameRegs s.chip t [pgBEAT + 0x028, pgBEAT + 0x110] ∧
      t.mem = s.chip.mem)

/-- Frequency switches and the voltage (R60, R421, R423): a request that breaks a rule is refused with the cause of the first
that it breaks, one that keeps them is pending, with its charge where it rises; at its beat it takes effect, at 1,600 MHz in
STANDBY (log 66); a setting below V(f) is rejected and one above the rail's 860 mV ignored (log 50); V_OK stays where old and
new lie within 5 mV; settled, it is 1. The governor, gusts and lane adaptation (R422, R428, R431): at its tick the governor
keeps the readings; when only heat asks for it, it writes the lower code and its beat and requests the switch (log 49); a gust
counts in its region's window or saturates it (log 89); an adaptation ends. -/
def Obligations.ClocksAndGovernor : Prop :=
  (∀ (s : State), s.chip.fabricUp = true →
      (let f := s.chip.get pgCLK fFswFreq
       let b := s.chip.get64 pgCLK 0x104
       let rise := s.chip.get pgCLK fCurFreq < f
       let volts := s.chip.bit pgGOV fVOk = true ∧ s.chip.vNeed f ≤ 2 * (s.chip.get pgGOV fVddSet : Int)
       let fits := s.chip.rampFits b (s.chip.switchCharge f) = true
       let refused := fun (k : Nat) => Runs .fswGo s fun t =>
         t.get pgCLK fFswReject = k ∧ t.bit pgCLK ⟨0x028, 1, 1⟩ = true ∧ t.pow = s.chip.pow ∧
         SameRegs s.chip t [pgCLK + 0x10C, pgCLK + 0x028] ∧ t.mem = s.chip.mem ∧ t.cores = s.chip.cores
       (b < s.chip.beat + 4 → refused 1) ∧
       (s.chip.beat + 4 ≤ b → b < s.chip.lastSwitch + 8 → refused 2) ∧
       (s.chip.beat + 4 ≤ b → s.chip.lastSwitch + 8 ≤ b →
         (rise → ¬volts → refused 3) ∧ (rise → volts → ¬fits → refused 4) ∧
         ((rise → volts ∧ fits) → s.chip.pow.pend ≠ none → refused 5) ∧
         ((rise → volts ∧ fits) → s.chip.pow.pend = none → 16 < f → refused 6) ∧
         ((rise → volts ∧ fits) → s.chip.pow.pend = none → f ≤ 16 → Runs .fswGo s fun t =>
           t.pow.pend = some (f, b, false) ∧ t.get pgCLK fFswPend = 1 ∧ SameRegs s.chip t [pgCLK + 0x10C] ∧
           (¬rise → t.pow = { s.chip.pow with pend := some (f, b, false) }) ∧
           (rise → t.chargeAt b = s.chip.chargeAt b + s.chip.switchCharge f) ∧ t.mem = s.chip.mem ∧ t.cores = s.chip.cores))) ∧
      (∀ f b em, s.chip.pow.pend = some (f, b, em) → f ≤ 16 →
        (b ≤ s.chip.beat → Runs .switchBeat s fun t =>
          t.get pgCLK fCurFreq = (if s.chip.get pgGOV fPstate = 1 then 0 else f) ∧ t.lastSwitch = b % 2 ^ 64 ∧ t.get pgCLK fFswDone = 1 ∧
          t.bit pgCLK ⟨0x028, 0, 1⟩ = true ∧ (s.chip.pow.want = none → t.get pgCLK fFswPend = 0 ∧ t.pow.pend = none) ∧
          t.mem = s.chip.mem ∧ t.cores = s.chip.cores) ∧
        (s.chip.beat < b → Runs .switchBeat s fun t => t = s.chip)) ∧
      (∀ mv : Nat, mv < 2 ^ 11 →
        let g := max (s.chip.get pgCLK fCurFreq) ((s.chip.pow.pend.map (·.1)).getD 0)
        let near := fun (v : Nat) => mv ≤ v + 5 ∧ v ≤ mv + 5
        (860 < mv → Runs (.vddSetWrite mv) s fun t => t = s.chip) ∧
        (mv ≤ 860 → s.chip.vNeed g ≤ 2 * (mv : Int) → Runs (.vddSetWrite mv) s fun t =>
          t.get pgGOV fVddSet = mv ∧ SameRegs s.chip t [pgGOV + 0x124] ∧ t.mem = s.chip.mem ∧
          (near s.chip.vLevel ∧ near (s.chip.get pgGOV fVddSet) → t.get pgGOV fVOk = s.chip.get pgGOV fVOk) ∧
          (¬(near s.chip.vLevel ∧ near (s.chip.get pgGOV fVddSet)) → t.get pgGOV fVOk = 0)) ∧
        (mv ≤ 860 → 2 * (mv : Int) < s.chip.vNeed g → Runs (.vddSetWrite mv) s fun t =>
          t.get pgGOV fVddSet = s.chip.get pgGOV fVddSet ∧ t.get pgGOV fVsetReject = 1 ∧ SameRegs s.chip t [pgGOV + 0x124])) ∧
      (s.chip.pow.want = none → Runs .vddSettled s fun t =>
        t.get pgGOV fVOk = 1 ∧ t.vLevel = s.chip.get pgGOV fVddSet ∧ SameRegs s.chip t [pgGOV + 0x124] ∧ t.mem = s.chip.mem)) ∧
  (∀ (s : State), s.chip.fabricUp = true →
      (∀ r : PowerReadings, s.chip.pow.lastTick + s.chip.get pgGOV fGovPeriod ≤ s.chip.edges →
        Runs (.governorTick r) s (fun t =>
          t.get pgGOV fVinMv = r.vinMv % 2 ^ 16 ∧ t.get pgGOV fIinMa = r.iinMa.headD 0 % 2 ^ 16 ∧
          t.get pgGOV fPinW = r.pinW.headD 0 % 2 ^ 11 ∧ t.get pgGOV fPinTau = r.pinTau1 % 2 ^ 11 ∧
          t.get pgGOV fVinMin = min (s.chip.get pgGOV fVinMin) (r.vinMv % 2 ^ 16) ∧
          t.get pgGOV fThrottling = (if s.chip.hot then 1 else 0) ∧ t.pow.lastTick = s.chip.edges ∧
          (∀ k, k < 10 → t.get64 pgGOV (0x200 + 8 * k) = (s.chip.get64 pgGOV (0x200 + 8 * k) + r.energy.getD k 0) % 2 ^ 64) ∧
          t.mem = s.chip.mem ∧ t.cores = s.chip.cores) ∧
        (∀ f, s.chip.hot = true → s.chip.overLimit r = false → s.chip.bit pgTHM fEmerg = false → s.chip.pow.pend = none →
          s.chip.get pgCLK fCurFreq = f → f ≤ 16 → s.chip.get pgGOV fPstate ≠ 1 →
          let low := max (min (f - s.chip.get pgGOV fThrStep) (s.chip.get pgGOV fFMax)) s.chip.highFloor
          low < f → Runs (.governorTick r) s fun t =>
            let b := max (s.chip.beat + 4) (s.chip.lastSwitch + 8)
            t.pow.pend = some (low, b, false) ∧ t.get pgCLK fFswPend = 1 ∧ t.get pgCLK fFswFreq = low ∧ t.get64 pgCLK 0x104 = b % 2 ^ 64)) ∧
      (∀ (region : Nat) (new : Bool), region < 42 → s.chip.bit pgCLK fDroopEn = true →
        let n := if new then 0 else sget natReset s.chip.pow.gustWin region
        (n < 64 → Runs (.gust region new) s fun t =>
          t.get pgCLK (fGustCnt region) = min (s.chip.get pgCLK (fGustCnt region) + 1) (2 ^ 32 - 1) ∧
          t.get pgCLK (fGustMax region) = max (s.chip.get pgCLK (fGustMax region)) (n + 1) ∧
          sget natReset t.pow.gustWin region = n + 1 ∧ SameRegs s.chip t [pgCLK + 0x200 + 8 * region, pgCLK + 0x204 + 8 * region]) ∧
        (64 ≤ n → Runs (.gust region new) s fun t =>
          t.get pgCLK (fGustSat region) = 1 ∧ t.bit pgCLK ⟨0x028, 2, 1⟩ = true ∧ t.pow = { s.chip.pow with gustSat := true } ∧
          SameRegs s.chip t [pgCLK + 0x204 + 8 * region, pgCLK + 0x028])) ∧
      (∀ p, p < 16 → (s.chip.port p).adapting = true → (∀ q, q < 16 → s.chip.adaptDue q = false) → Runs (.laneAdaptationDone p) s fun t =>
        t.port p = { s.chip.port p with adapting := false } ∧ t.regs = s.chip.regs ∧ t.mem = s.chip.mem))

/-- The sensors (R425, R426, R427): a conversion gives each reading, the greatest of 158 with the lowest index that has it
(log 52) and each slice's whole degrees; at T_EMERG it is an emergency that switches to 1,600 MHz; a reading of 110 °C or more
turns the device off, with every memory but the flash lost; it does nothing to a device that is off already or does not run.
Power states (R418, R419): STANDBY is refused while a context is not FREE; a request makes the module busy, and one that is
under way or already met changes nothing (log 66); from STANDBY the tuns, instruction memories, descriptors and slots of the
present cores are zero and the module is in IDLE, or ACTIVE with a context, to STANDBY every port is DISABLED and the
frequency is 1,600 MHz. That STANDBY gates the cores is log 51. -/
def Obligations.HeatAndPowerStates : Prop :=
  (∀ (s : State) (l : List Nat), l.length = 160 →
      (s.chip.fabricUp = true → (∀ n, n < 160 → l.getD n 0 < 440) → Runs (.sensorConversion l) s fun t =>
        (∀ n, n < 160 → t.get pgTHM (fTemp n) = l.getD n 0) ∧
        (∀ n, n < 158 → l.getD n 0 ≤ t.get pgTHM fTmax) ∧
        (∃ n, n < 158 ∧ t.get pgTHM fTmax = l.getD n 0 ∧ t.get pgTHM fTmaxIdx = n ∧ ∀ m, m < n → l.getD m 0 < l.getD n 0) ∧
        (∀ n, n < 36 → t.get (pgCEL n) ⟨0x108, 8, 8⟩ =
          max (max (l.getD (4 * n) 0) (l.getD (4 * n + 1) 0)) (max (l.getD (4 * n + 2) 0) (l.getD (4 * n + 3) 0)) / 4) ∧
        ((∀ n, n < 158 → l.getD n 0 < 4 * s.chip.get pgTHM fTEmerg) → s.chip.bit pgTHM fEmerg = false →
          t.bit pgTHM fEmerg = false ∧ t.pow = s.chip.pow) ∧
        (∀ n, n < 158 → 4 * s.chip.get pgTHM fTEmerg ≤ l.getD n 0 → s.chip.bit pgTHM fEmerg = false →
          t.bit pgTHM fEmerg = true ∧ t.bit pgTHM ⟨0x010, errBit eTHERMAL, 1⟩ = true ∧ (t.pow.pend.map (·.1)) = some 0 ∧
          t.get pgCLK fFswPend = 1) ∧ t.mem = s.chip.mem ∧ t.cores = s.chip.cores) ∧
      (s.chip.fabricUp = false → (∀ n, n < 160 → l.getD n 0 < 440) → Runs (.sensorConversion l) s fun t => t = s.chip) ∧
      (∀ n, n < 160 → s.chip.board.rails = 0 → 440 ≤ l.getD n 0 → Runs (.sensorConversion l) s fun t => t = s.chip) ∧
      (∀ n, n < 160 → s.chip.board.rails ≠ 0 → 440 ≤ l.getD n 0 → (∀ m, m < n → l.getD m 0 < 440) → Runs (.sensorConversion l) s fun t =>
        t.board.rails = 0 ∧ t.board.trip = some n ∧ t.up = false ∧ t.cores = [] ∧
        (∀ a, a < 0x20000000 ∨ 0x30000000 ≤ a → t.byte a = 0) ∧ (∀ a, 0x20000000 ≤ a → a < 0x30000000 → t.byte a = s.chip.byte a))) ∧
  (∀ (s : State), s.chip.fabricUp = true →
      (s.chip.bit pgGOV fPsBusy = false →
        (∀ x, x < 16 → s.chip.ctxState x ≠ 0 → Runs .psReqStandby s fun t =>
          t.get pgGOV fPsReject = 1 ∧ t.get pgGOV fPsBusy = 0 ∧ SameRegs s.chip t [pgGOV + 0x104]) ∧
        ((∀ x, x < 16 → s.chip.ctxState x = 0) → s.chip.get pgGOV fPstate ≠ 1 → Runs .psReqStandby s fun t =>
          t.get pgGOV fPsBusy = 1 ∧ SameRegs s.chip t [pgGOV + 0x104] ∧ t.mem = s.chip.mem) ∧
        ((∀ x, x < 16 → s.chip.ctxState x = 0) → s.chip.get pgGOV fPstate = 1 → Runs .psReqStandby s fun t => t = s.chip) ∧
        (s.chip.get pgGOV fPstate = 1 → Runs .psReqIdle s fun t =>
          t.get pgGOV fPsBusy = 1 ∧ SameRegs s.chip t [pgGOV + 0x104] ∧ t.mem = s.chip.mem) ∧
        (s.chip.get pgGOV fPstate ≠ 1 → Runs .psReqIdle s fun t => t = s.chip) ∧
        Runs .powerStateDone s fun t => t = s.chip) ∧
      (s.chip.bit pgGOV fPsBusy = true →
        (Runs .psReqStandby s fun t => t = s.chip) ∧ (Runs .psReqIdle s fun t => t = s.chip) ∧
        Runs .powerStateDone s fun t =>
          t.get pgGOV fPsBusy = 0 ∧ t.bit pgGOV ⟨0x028, 0, 1⟩ = true ∧
          (s.chip.get pgGOV fPstate = 1 →
            t.get pgGOV fPstate = (if s.chip.anyActive then 3 else 2) ∧
            (∀ c o, s.chip.present c = true → o < tunSize → t.byte (tunAddr c o) = 0) ∧
            (∀ c o, s.chip.present c = true → o < 0x18000 → t.byte (imAddr c 0 + o) = 0) ∧
            (∀ c n, s.chip.present c = true → n < 256 → t.desc c n = 0) ∧
            (∀ c n, s.chip.present c = true → n < 4096 → t.slot c n = Slot.reset)) ∧
          (s.chip.get pgGOV fPstate ≠ 1 → t.get pgGOV fPstate = 1 ∧ t.get pgCLK fCurFreq = 0 ∧ t.mem = s.chip.mem ∧
            (∀ p, s.chip.portPresent p = true → t.portState p = psDISABLED))))

/-- Function resets of a core's parts (R3, R400, R407, R408): an engine abandons what it has queued and what runs, its buffers
are empty and its page is as at reset but for LOCK, and the mover's lines leave the mesh (log 57); a core reset leaves an IDLE
sequencer, no valid block, EMPTY slots with their descriptors and with GEN one higher, and no report of its vane port; the
context of a RUNNING or HELD core faults with KILLED first; a cluster reset holds its cores and keeps the owner entries; one
of an absent core is discarded, one of a block in reset ignored; the end of each releases what it held. -/
def Obligations.CoreResets : Prop :=
  ∀ (s : State) (c : Nat), s.chip.fabricUp = true →
    let off := fun (d : Nat) => s.chip.seqState d ≠ sqRUNNING ∧ s.chip.seqState d ≠ sqHELD
    let units := [uMTX, uVEC, uMOV, uADJ, uSYNC, uCHAN]
    (s.chip.present c = true → (s.chip.core c).inReset = false →
      (∀ u, u ∈ units → s.chip.bit (unitPage c u) fResetActive = false →
        let pg := unitPage c u
        (off c → Runs (.engineFreset c u) s fun t =>
          (t.core c).queue u = [] ∧ (t.core c).running u = [] ∧ t.bit pg fResetActive = true ∧ t.bit pg fLock = s.chip.bit pg fLock ∧
          (u = uMTX → (t.core c).chain = none) ∧ (u = uMOV → (t.core c).loads = [] ∧ (t.core c).queue uCEL = []) ∧
          (u = uADJ → (t.core c).rowMap = none) ∧
          (u = uSYNC → (t.core c).rels = [] ∧ (t.core c).probes = [] ∧ (t.core c).creds = [] ∧ (t.core c).granted = []) ∧
          (u = uCHAN → ∀ e ∈ t.chans, e.1 / 64 ≠ c) ∧ (u ≠ uSYNC → SameCores s.chip t c ∧ t.slots = s.chip.slots) ∧
          (u ≠ uSYNC → u ≠ uMOV → t.net = s.chip.net) ∧
          (u = uMOV → (s.chip.core c).running uSYNC = [] → t.net = s.chip.net.filter fun q => !(lineOf (s.chip.coreNode c) q)) ∧
          (∀ v, v ≠ u → v ≠ uCEL → (t.core c).queue v = (s.chip.core c).queue v ∧ (t.core c).running v = (s.chip.core c).running v) ∧
          (∀ k, k < pg ∨ pg + 0x1000 ≤ k → t.reg k = s.chip.reg k) ∧ t.resets = s.chip.resets ++ [.engine c u] ∧
          t.descs = s.chip.descs ∧ t.mem = s.chip.mem) ∧
        (¬ off c → s.chip.ctxState (s.chip.ctxOf c) = 1 → Runs (.engineFreset c u) s fun t =>
          t.ctxState (s.chip.ctxOf c) = 2 ∧ t.seqState c = sqFAULTED ∧ t.bit pg fResetActive = true ∧
          t.bit pgFLT ⟨0x010, errBit eKILLED, 1⟩ = true)) ∧
      (off c → Runs (.coreFreset c) s fun t =>
        t.seqState c = sqIDLE ∧ (t.core c).inReset = true ∧ (t.core c).q = [] ∧ (t.core c).run = [] ∧ (t.core c).gather = [] ∧
        (∀ b, (t.core c).block b = 0) ∧ .core c ∈ t.resets ∧ t.descs = s.chip.descs ∧
        (∀ q ∈ t.net, isReportOf (s.chip.coreNode c) q = false) ∧ (∀ e ∈ (t.core c).vane, e.2.2 = 0) ∧
        (∀ n, n < 4096 → (t.slot c n).state = 0 ∧ (t.slot c n).started = 0 ∧ (t.slot c n).done = 0 ∧ (t.slot c n).crdout = 0 ∧
          ((s.chip.slot c n).desc ≠ 0 → (t.slot c n).desc = (s.chip.slot c n).desc ∧
            ((t.slot c n).gen + (t.core c).genBase) % 256 = ((s.chip.slot c n).gen + (s.chip.core c).genBase + 1) % 256)) ∧
        ((∀ q ∈ s.chip.net, isReportOf (s.chip.coreNode c) q = false) → t.mem = s.chip.mem)) ∧
      (¬ off c → s.chip.ctxState (s.chip.ctxOf c) = 1 → Runs (.coreFreset c) s fun t =>
        t.ctxState (s.chip.ctxOf c) = 2 ∧ t.seqState c = sqIDLE ∧ (t.core c).inReset = true ∧
        t.bit pgFLT ⟨0x010, errBit eKILLED, 1⟩ = true)) ∧
    (c < 144 → s.chip.present c = false → ∀ u,
      Runs (.engineFreset c u) s (fun t => t = s.chip.absentWrite) ∧ Runs (.coreFreset c) s (fun t => t = s.chip.absentWrite)) ∧
    (s.chip.present c = true → (s.chip.core c).inReset = true → ∀ u,
      Runs (.engineFreset c u) s (fun t => t = s.chip) ∧ Runs (.coreFreset c) s (fun t => t = s.chip)) ∧
    (s.chip.present c = true → s.chip.bit (pgCEL (clusterOf c)) fResetActive = false → Runs (.clusterFreset (clusterOf c)) s fun t =>
      (t.core c).inReset = true ∧ t.seqState c = sqIDLE ∧ t.bit (pgCEL (clusterOf c)) fResetActive = true ∧
      .cluster (clusterOf c) ∈ t.resets ∧
      (∀ e, e < 128 → t.get (pgCEL (clusterOf c)) (fExtOwn e) = s.chip.get (pgCEL (clusterOf c)) (fExtOwn e)) ∧
      ((∀ d ∈ s.chip.clusterCores (clusterOf c), off d) → (∀ q ∈ s.chip.net, bodyKind q.body ≠ 15) → t.mem = s.chip.mem)) ∧
    (∀ n, n < 36 → s.chip.bit (pgCEL n) fResetActive = true → Runs (.clusterFreset n) s fun t => t = s.chip) ∧
    (∀ r, r ∈ s.chip.resets → Runs (.fresetDone r) s fun t =>
      t.resets = s.chip.resets.filter (· ≠ r) ∧ t.mem = s.chip.mem ∧
      (r = .core c → (t.core c).inReset = false) ∧
      (s.chip.present c = true → r = .cluster (clusterOf c) → (t.core c).inReset = false ∧ t.bit (pgCEL (clusterOf c)) fResetActive = false) ∧
      (∀ u, u ∈ units → r = .engine c u → t.bit (unitPage c u) fResetActive = false) ∧
      (r = .streamEngine → t.bit pgSE fResetActive = false) ∧ (r = .vane → t.bit pgVAN fResetActive = false) ∧
      (r = .mgmt → t.bit pgMGT fResetActive = false) ∧ (r = .kiln → t.bit pgKLN fResetActive = false))

/-- Function resets of the other units (R3, R286, R329, R333, R389, R407, R408): a port loses its cells and counts, reports
cause 7 and, where cells pass on its link, starts a down notice; the stream engine loses its streams, versions and contexts,
the vane its open occurrences and reports, the management port its link and every field of its page but OS_OWNS; each is in
reset from then on, and a reset of a block in reset is ignored. What a reset does at once is log 57. Chip resets (R44, R269,
R326, R468, R482): a wrong key, and a request while one is under way, is rejected and changes nothing else; with the kiln kept
up the fabric is reset while the carve-out and the kiln's memories stay, and every port is DOWN, in STANDBY DISABLED (log 56),
with LINK_DOWN in the global log where a port carried or trained a link; with a restart everything but the flash is reset and
the device is held; the end locks the generators and releases the fabric, and the ports leave DOWN and train that may. -/
def Obligations.UnitAndChipResets : Prop :=
  (∀ (s : State), s.chip.fabricUp = true →
      (∀ p, p < 16 → let pg := pgLNK p
        (s.chip.portPresent p = true → s.chip.bit pg fResetActive = false → Runs (.portFreset p) s fun t =>
          { t.port p with sent := none, idleRun := 0 } = Port.reset ∧
          (t.port p).sent.map (fun x => (x.type, x.lseq, x.ctl)) =
            (if psMEASURE ≤ s.chip.portState p ∧ s.chip.portState p ≤ psDEGRADING then some (4, (s.chip.port p).txSeq, some Control.down)
             else none) ∧
          t.portState p = psDISABLED ∧ t.get pg fDownCause = 7 ∧ t.get pg fTrainEn = s.chip.get pg fTrainEn ∧
          t.get pg fDegradeEn = s.chip.get pg fDegradeEn ∧ t.bit pg ⟨0x010, errBit eLINK_DOWN, 1⟩ = true ∧ t.bit pg ⟨0x028, 0, 1⟩ = true ∧
          t.countOf pg 0x0F = min (s.chip.heldCells p) (2 ^ 64 - 1) ∧ (∀ e, e < 0x200 → e ≠ 0x0F → t.countOf pg e = 0) ∧
          (∀ q, q < 16 → q ≠ p → ∀ e ∈ (t.port q).transit, e.2.inPort ≠ some p) ∧
          t.bit pg fResetActive = true ∧ t.resets = s.chip.resets ++ [.port p] ∧ t.mem = s.chip.mem ∧ t.cores = s.chip.cores) ∧
        (s.chip.portPresent p = true → s.chip.bit pg fResetActive = true → Runs (.portFreset p) s fun t => t = s.chip) ∧
        (s.chip.portPresent p = false → Runs (.portFreset p) s fun t => t = s.chip.absentWrite)) ∧
      (s.chip.bit pgSE fResetActive = false → Runs .streamEngineFreset s fun t =>
        t.se.used = [] ∧ t.se.vers = [] ∧ t.se.ctxs = [] ∧ t.se.records = [] ∧ (∀ x, x < 16 → t.cx x fCtxEn = 0) ∧
        t.bit pgSE fResetActive = true ∧ t.resets = s.chip.resets ++ [.streamEngine] ∧ t.cores = s.chip.cores) ∧
      (s.chip.bit pgSE fResetActive = true → Runs .streamEngineFreset s fun t => t = s.chip) ∧
      (s.chip.bit pgVAN fResetActive = false → Runs .vaneFreset s fun t =>
        t.vaneOpen = [] ∧ t.vaneCnt = [] ∧ t.get pgVAN fVanEn = 0 ∧ t.get pgVAN fNValid = 0 ∧ t.vaneTab = s.chip.vaneTab ∧
        (∀ c, s.chip.present c = true → (t.core c).vane = []) ∧ (∀ q, q ∈ t.net ↔ q ∈ s.chip.net ∧ bodyKind q.body ≠ 15) ∧
        t.bit pgVAN fResetActive = true ∧ t.resets = s.chip.resets ++ [.vane] ∧ t.mem = s.chip.mem ∧
        (∀ k, k < pgVAN ∨ pgVAN + 0x1000 ≤ k ∨ (pgVAN + 0x118 ≤ k ∧ k < pgVAN + 0x12C) → t.reg k = s.chip.reg k)) ∧
      (s.chip.bit pgVAN fResetActive = true → Runs .vaneFreset s fun t => t = s.chip) ∧
      (s.chip.bit pgMGT fResetActive = false → Runs .mgmtPortFreset s fun t =>
        t.get pgMGT fLinkUp = 0 ∧ (s.chip.bit pgMGT fLinkUp = true → t.bit pgMGT ⟨0x028, 0, 1⟩ = true) ∧
        t.get pgMGT ⟨0x100, 0, 1⟩ = s.chip.get pgMGT ⟨0x100, 0, 1⟩ ∧ t.bit pgMGT fLock = s.chip.bit pgMGT fLock ∧
        (∀ o, 0x104 ≤ o → o < 0x1000 → t.reg (pgMGT + o) = regReset (pgMGT + o)) ∧
        t.bit pgMGT fResetActive = true ∧ t.resets = s.chip.resets ++ [.mgmt] ∧ t.mem = s.chip.mem ∧ t.cores = s.chip.cores ∧
        (∀ k, k < pgMGT ∨ pgMGT + 0x1000 ≤ k → t.reg k = s.chip.reg k)) ∧
      (s.chip.bit pgMGT fResetActive = true → Runs .mgmtPortFreset s fun t => t = s.chip)) ∧
  (∀ (s : State) (key : BitVec 8), s.chip.up = true →
      (key ≠ 0x5A ∨ s.chip.rstBusy = true →
        Runs (.chipResetKeepKiln key) s (fun t => t.get pgRST ⟨0x104, 4, 1⟩ = 1 ∧ SameRegs s.chip t [pgRST + 0x104] ∧
          t.rstBusy = s.chip.rstBusy ∧ t.counts = s.chip.counts ∧ t.mem = s.chip.mem ∧ t.cores = s.chip.cores) ∧
        Runs (.chipResetRestartKiln key) s (fun t => t.get pgRST ⟨0x104, 4, 1⟩ = 1 ∧ SameRegs s.chip t [pgRST + 0x104] ∧
          t.rstBusy = s.chip.rstBusy ∧ t.counts = s.chip.counts ∧ t.mem = s.chip.mem ∧ t.cores = s.chip.cores)) ∧
      (key = 0x5A → s.chip.rstBusy = false → Runs (.chipResetKeepKiln key) s (fun t =>
          t.rstBusy = true ∧ t.get pgRST ⟨0x104, 0, 3⟩ = 3 ∧ t.get pgRST ⟨0x108, 0, 32⟩ = min (s.chip.get pgRST ⟨0x108, 0, 32⟩ + 1) (2 ^ 32 - 1) ∧
          t.cores = [] ∧ t.slots = [] ∧ t.net = [] ∧ t.ports = [] ∧ (∀ x, x < 16 → t.ctxState x = 0) ∧ t.get pgID fDevIdValid = 0 ∧
          (∀ p, s.chip.portPresent p = true → t.portState p = if s.chip.get pgGOV fPstate = 1 then psDISABLED else psDOWN) ∧
          (∀ p, s.chip.portPresent p = true → s.chip.portState p ≠ psDISABLED → s.chip.portState p ≠ psDOWN →
            s.chip.get pgGERP fGfeCode = 0 → t.get pgGERP fGfeCode = eLINK_DOWN) ∧
          (∀ a, t.byte a = if inKilnMem a = true ∨ s.chip.inCarveMem a = true then s.chip.byte a else 0) ∧ t.up = true) ∧
        Runs (.chipResetRestartKiln key) s (fun t =>
          t.up = false ∧ t.board.held = true ∧ t.board.bootDue = true ∧ t.get pgRST ⟨0x104, 0, 3⟩ = 4 ∧ t.cores = [] ∧ t.slots = [] ∧
          t.net = [] ∧ t.ports = [] ∧ (∀ x, x < 16 → t.ctxState x = 0) ∧ t.get pgID fDevIdValid = 0 ∧
          (∀ a, t.byte a = if inFlash a = true then s.chip.byte a else 0))) ∧
      (s.chip.rstBusy = true → Runs .chipResetDone s fun t =>
        t.rstBusy = false ∧ t.pow = { s.chip.pow with locked := true } ∧ t.mem = s.chip.mem ∧ t.cores = s.chip.cores ∧
        (∀ p, s.chip.portPresent p = true → s.chip.portState p = psDISABLED ∨ s.chip.portState p = psDOWN →
          t.portState p = if s.chip.bit (pgLNK p) fTrainEn = true ∧ 2 ≤ s.chip.get pgGOV fPstate then psTRAINING else psDISABLED)) ∧
      (s.chip.rstBusy = false → Runs .chipResetDone s fun t => t = s.chip))

/-- The module's supply and pins (R418, R427, R495 to R502). Input power latches SLOT_ID and, with PWR_EN asserted and no
trip, rail fault or off time in force, starts the rails; its removal turns them off, loses every memory but the flash and
clears the latches. PWR_EN asserted starts the rails unless one of these holds them off; deasserted it turns them off, loses
the memories, clears a trip, a rail fault and a lost REFCLK, and starts the off time (log 73). Power-good brings rising rails
to good. A rail that leaves regulation while PWR_EN is asserted turns the rails off, is latched and asserts MOD_FAULT_N, with
rails already off as well. MOD_RESET_N resets everything but the flash, holds the device and records cause 2. A lost REFCLK is
latched, asserts MOD_FAULT_N and takes the generators' lock (R44, R497). The end of the off time lets the rails rise.
Calibration zeroes the cellar, once in a boot (R269). Each does nothing where it does not apply. -/
def Obligations.SupplyAndPins : Prop :=
  ∀ (s : State),
    let b := s.chip.board
    let same := fun (i : Instr) => Runs i s fun t => t = s.chip
    let lost := fun (t : Chip) => t.cores = [] ∧ (∀ a, t.byte a = if inFlash a then s.chip.byte a else 0)
    (∀ slot, (b.input = false → Runs (.inputPowerApplied slot) s fun t =>
        t = { s.chip with board := { b with
          input := true, slotId := slot,
          rails := if b.pwrEn = true ∧ b.trip = none ∧ b.railFault = false ∧ b.offTime = false ∧ b.rails = 0 then 1 else b.rails } }) ∧
      (b.input = true → same (.inputPowerApplied slot))) ∧
    (b.input = true → Runs .inputPowerRemoved s fun t =>
      t.board.input = false ∧ t.board.rails = 0 ∧ t.board.trip = none ∧ t.board.railFault = false ∧ t.board.refLost = false ∧ lost t) ∧
    (b.input = false → same .inputPowerRemoved) ∧
    Runs .pwrEnAssert s (fun t => t = { s.chip with board := { b with
      pwrEn := true,
      rails := if b.input = true ∧ b.trip = none ∧ b.railFault = false ∧ b.offTime = false ∧ b.rails = 0 then 1 else b.rails } }) ∧
    (b.input = true → b.pwrEn = true → b.rails ≠ 0 → Runs .pwrEnDeassert s fun t =>
      t.board.pwrEn = false ∧ t.board.rails = 0 ∧ t.board.trip = none ∧ t.board.railFault = false ∧ t.board.refLost = false ∧
      t.board.offTime = true ∧ lost t) ∧
    (b.input = true → b.pwrEn = true → b.rails = 0 → Runs .pwrEnDeassert s fun t =>
      t = { s.chip with board := { b with
        pwrEn := false, trip := none, railFault := false, refLost := false, offTime := true } }) ∧
    (b.input = false ∨ b.pwrEn = false → Runs .pwrEnDeassert s fun t => t = { s.chip with board := { b with pwrEn := false } }) ∧
    (b.rails = 1 → Runs .railsPowerGood s fun t => t = { s.chip with board := { b with rails := 2 } }) ∧
    (b.rails ≠ 1 → same .railsPowerGood) ∧
    (b.pwrEn = true → b.input = true → b.rails ≠ 0 → Runs .railFault s fun t =>
      t.board.rails = 0 ∧ t.board.railFault = true ∧ t.faultPin = true ∧ lost t) ∧
    (b.pwrEn = true → b.input = true → b.rails = 0 → Runs .railFault s fun t =>
      t = { s.chip with board := { b with railFault := true } } ∧ t.faultPin = true) ∧
    (b.pwrEn = false ∨ b.input = false → same .railFault ∧ same .refclkLoss) ∧
    (b.rails = 2 → Runs .modResetAssert s fun t =>
      t.up = false ∧ t.board.held = true ∧ t.board.rails = 2 ∧ t.get pgRST ⟨0x104, 0, 3⟩ = 2 ∧ lost t) ∧
    (b.rails ≠ 2 → same .modResetAssert) ∧
    (b.pwrEn = true → b.input = true → Runs .refclkLoss s fun t =>
      t = { s.chip with pow := { s.chip.pow with locked := false }, board := { b with refLost := true } } ∧ t.faultPin = true) ∧
    Runs .railsOffTimeExpire s (fun t => t = { s.chip with board := { b with
      offTime := false,
      rails := if b.input = true ∧ b.pwrEn = true ∧ b.trip = none ∧ b.railFault = false ∧ b.rails = 0 then 1 else b.rails } }) ∧
    (b.celReady = false → b.bootDue = false → s.chip.up = true → Runs .cellarCalibrationDone s fun t =>
      t.board.celReady = true ∧ (∀ a, a < 36 * 2 ^ 28 → t.byte (celAddr a) = 0) ∧ SameBytes s.chip t (celAddr 0) (36 * 2 ^ 28) ∧
      t.regs = s.chip.regs ∧ t.cores = s.chip.cores) ∧
    (b.celReady = true ∨ b.bootDue = true ∨ s.chip.up = false → same .cellarCalibrationDone)

/-- The boot ROM runs when the internal reset is released, with the generators locked (R44), when the kiln is reset or
restarted, and on a second watchdog expiry that asks for it (R407, R408, R441, R443, R444, R448, R452, R500); another byte of
KILN_RESTART only shows that a command has come; the watchdogs' first expiries and kicks; none of these does anything where it
does not apply. What each of them keeps, and how an image is judged, are logs 71 and 72. -/
def Obligations.RomRuns : Prop :=
  ∀ (s : State) (b : BootInputs),
    let came := { s with chip := { s.chip with board := { s.chip.board with smbCame := true } } }
    let due := s.chip.board.rails = 2 ∧ (s.chip.board.held = true ∨ s.chip.board.bootDue = true)
    (due → ∃ t, exec (.internalResetRelease b) s = .next t ∧ Boots s t b ∧ t.chip.up = true ∧ t.chip.board.bootDue = false ∧
      t.chip.pow.locked = true) ∧
    (¬ due → exec (.internalResetRelease b) s = .next s) ∧
    (s.chip.up = true →
      (∀ x, x ≠ 0xA5 → exec (.kilnRestart x b) s = .next came) ∧
      (s.chip.bit pgKLN fResetActive = true → exec (.kilnFreset b) s = .next s ∧ exec (.kilnRestart 0xA5 b) s = .next came ∧
        ∀ mask, exec (.wdogKick mask) s = .next s) ∧
      (s.chip.bit pgKLN fResetActive = false →
        (∃ t, exec (.kilnFreset b) s = .next t ∧ Boots s t b ∧ t.chip.bit pgKLN fResetActive = true ∧ .kiln ∈ t.chip.resets ∧
          t.chip.cores = s.chip.cores ∧ t.chip.wdogHit = [] ∧ t.chip.get pgKLN fKlnCarve = s.chip.get pgKLN fKlnCarve) ∧
        (∃ t, exec (.kilnRestart 0xA5 b) s = .next t ∧ Boots s t b ∧ t.chip.bit pgKLN fResetActive = true ∧ t.chip.cores = s.chip.cores) ∧
        (∀ mask, Runs (.wdogKick mask) s fun t =>
          t = { s.chip with wdogHit := s.chip.wdogHit.filter fun k => !(mask.getLsbD k) })) ∧
      (∀ k, k < 8 →
        (s.chip.get pgKLN (fWdogLoad k) = 0 → exec (.wdogFirstExpiry k) s = .next s ∧ exec (.wdogSecondExpiry k b) s = .next s) ∧
        (s.chip.get pgKLN (fWdogLoad k) ≠ 0 →
          (k ∉ s.chip.wdogHit → exec (.wdogSecondExpiry k b) s = .next s ∧ Runs (.wdogFirstExpiry k) s fun t =>
            (∀ j, j ∈ t.wdogHit ↔ j = k ∨ j ∈ s.chip.wdogHit) ∧ t = { s.chip with wdogHit := t.wdogHit }) ∧
          (k ∈ s.chip.wdogHit → exec (.wdogFirstExpiry k) s = .next s) ∧
          (k ∈ s.chip.wdogHit → s.chip.bit pgKLN fWdogResetEn = false → Runs (.wdogSecondExpiry k b) s fun t =>
            t.bit pgKLN fWdogTrip = true ∧ t.faultPin = true ∧ t.board.alert = true ∧
            t.bit pgKLN ⟨0x010, errBit eKILN_WDOG, 1⟩ = true ∧ t.mem = s.chip.mem ∧ t.cores = s.chip.cores) ∧
          (k ∈ s.chip.wdogHit → s.chip.bit pgKLN fWdogResetEn = true → s.chip.bit pgKLN fResetActive = false →
            ∃ t, exec (.wdogSecondExpiry k b) s = .next t ∧ Boots s t b ∧ t.chip.board.alert = true))))

/-- A context's life (R399, R400, R404, R409, R415, R418): FREE to ACTIVE by ACTIVATE; STOP faults it with KILLED and stops
its cores; CLEAR resets its cores, and when every one is released makes it ACTIVE again; RELEASE scrubs its cores and PRIVATE
extents, and when the scrub is over makes it FREE (logs 66, 67); a command in another state is counted and ignored, and a
CLEAR under way is not begun again. Which cores a fault stops is log 34. -/
def Obligations.ContextLife : Prop :=
  ∀ (s : State) (x : Nat), x < 16 → s.chip.fabricUp = true →
    let others := fun (t : Chip) => ∀ y, y < 16 → y ≠ x → t.ctxState y = s.chip.ctxState y
    let ignored := fun (i : Instr) => Runs i s fun t =>
      t.countOf pgFLT 4 = min (s.chip.countOf pgFLT 4 + 1) (2 ^ 64 - 1) ∧ t = { s.chip with counts := t.counts }
    (s.chip.ctxState x = 0 → Runs (.activate x) s fun t =>
      t.ctxState x = 1 ∧ t.get pgFLT (fFltCount x) = 0 ∧ t.get pgFLT (fFltFirst x) = 0 ∧ others t ∧
      (s.chip.get pgGOV fPstate = 2 → t.get pgGOV fPstate = 3) ∧ t.mem = s.chip.mem ∧ t.cores = s.chip.cores) ∧
    (s.chip.ctxState x ≠ 0 → ignored (.activate x)) ∧ (s.chip.ctxState x ≠ 1 → ignored (.stop x)) ∧
    (s.chip.ctxState x ≠ 2 → ignored (.clear x)) ∧ (s.chip.ctxState x ≠ 2 → ignored (.release x)) ∧
    (s.chip.ctxState x = 1 → Runs (.stop x) s fun t =>
      t.ctxState x = 2 ∧ t.get pgFLT (fFltFirst x) = eKILLED + blkSrc pgFLT * 256 ∧ t.bit pgFLT ⟨0x010, errBit eKILLED, 1⟩ = true ∧
      t.get pgFLT (fFltCount x) = min (s.chip.get pgFLT (fFltCount x) + 1) (2 ^ 32 - 1) ∧ others t ∧
      (∀ c, s.chip.present c = true → s.chip.ctxOf c = x → s.chip.seqState c ≠ sqIDLE → s.chip.seqState c ≠ sqFAULTED →
        t.seqState c = sqFAULTED ∧ (t.core c).q = [] ∧ (t.core c).run = [] ∧ (t.core c).wait = none)) ∧
    (s.chip.ctxState x = 2 → (∀ e ∈ s.chip.clearing, e.1 ≠ x) → Runs (.clear x) s fun t =>
      t.ctxState x = 2 ∧ others t ∧ (∀ c, s.chip.present c = true → s.chip.ctxOf c = x → (t.core c).inReset = true) ∧
      t.clearing = s.chip.clearing ++ [(x, s.chip.coresOf x)]) ∧
    ((∃ e ∈ s.chip.clearing, e.1 = x) → s.chip.ctxState x = 2 → Runs (.clear x) s fun t => t = s.chip) ∧
    (∀ e, s.chip.clearing.find? (fun e => e.1 = x) = some e →
      let free := e.2.all s.chip.coreReleased
      (s.chip.ctxState x = 2 → free = true → Runs (.clearDone x) s fun t =>
        t.ctxState x = 1 ∧ others t ∧ (∀ c ∈ e.2, (t.core c).inReset = false) ∧ t.bit pgFLT ⟨0x028, 2, 1⟩ = true ∧
        (s.chip.get pgGOV fPstate = 2 → t.get pgGOV fPstate = 3) ∧
        t.clearing = s.chip.clearing.filter (fun e => e.1 ≠ x) ∧ t.mem = s.chip.mem) ∧
      (s.chip.ctxState x ≠ 2 ∨ free = false → Runs (.clearDone x) s fun t => t = s.chip) ∧
      (s.chip.ctxState x = 3 → free = true → (∀ q ∈ s.chip.scrubQ, s.chip.extCtx q.1 q.2 ≠ x) → Runs (.partitionScrubDone x) s fun t =>
        t.ctxState x = 0 ∧ others t ∧ (∀ c ∈ e.2, (t.core c).inReset = false ∧ (t.core c).scrubbing = false) ∧
        t.bit pgFLT ⟨0x028, 1, 1⟩ = true ∧ t.clearing = s.chip.clearing.filter (fun e => e.1 ≠ x) ∧ t.mem = s.chip.mem) ∧
      (s.chip.ctxState x ≠ 3 ∨ free = false ∨ (∃ q ∈ s.chip.scrubQ, s.chip.extCtx q.1 q.2 = x) →
        Runs (.partitionScrubDone x) s fun t => t = s.chip)) ∧
    ((∀ e ∈ s.chip.clearing, e.1 ≠ x) →
      Runs (.clearDone x) s (fun t => t = s.chip) ∧ Runs (.partitionScrubDone x) s (fun t => t = s.chip)) ∧
    (s.chip.ctxState x = 2 → Runs (.release x) s fun t =>
      t.ctxState x = 3 ∧ others t ∧
      (∀ c ∈ s.chip.partition x, (t.core c).inReset = true ∧ (∀ o, o < tunSize → t.byte (tunAddr c o) = 0)) ∧
      (∀ n e, n < 36 → e < 128 → s.chip.extKind n e = 1 → s.chip.extCtx n e = x →
        t.extKind n e = 5 ∧ t.extCtx n e = x ∧ (n, e) ∈ t.scrubQ) ∧
      (x, s.chip.partition x) ∈ t.clearing)

/-- The command register of a context (R413): a write that sets more than one of ACTIVATE, STOP, CLEAR and RELEASE is counted
under CNT_SEL 0x04 and has no other effect; one that sets none changes nothing; one that sets a single bit is that command. -/
def Obligations.CommandRegister : Prop :=
  ∀ (s : State) (x : Nat) (v : BitVec 32), x < 16 → s.chip.up = true → s.chip.rstBusy = false →
    s.chip.bit pgFLT fResetActive = false →
    let reg := pgFLT + 0x204 + 0x40 * x
    let set := ((List.range 4).filter fun k => v.getLsbD k).length
    (2 ≤ set → Runs (.registerWrite reg (.w32 v)) s fun t =>
      t.countOf pgFLT 4 = min (s.chip.countOf pgFLT 4 + 1) (2 ^ 64 - 1) ∧ t = { s.chip with counts := t.counts, resp := [0] } ∧
      SameCounts s.chip t [pgFLT + 4]) ∧
    (set = 0 → Runs (.registerWrite reg (.w32 v)) s fun t => t = { s.chip with resp := [0] }) ∧
    (∀ r ∈ ([(1, .activate x), (2, .stop x), (4, .clear x), (8, .release x)] : List (Nat × Instr)), v.toNat % 16 = r.1 →
      ∃ t u, exec (.registerWrite reg (.w32 v)) s = .next t ∧ exec r.2 s = .next u ∧ t = { u with chip := { u.chip with resp := [0] } })

/-- The logs, interrupts and counts of a page (R3, R408, R464, R466, R472, R477, R483): ERR_CLR and GFE_CLR clear the first
error, INT_SET sets the page's bits (log 68), a read of CNT_VAL_LO answers the low half of the selected count and leaves the
high half in CNT_VAL_HI; a count of time or of line errors that can have gone on since it was cleared grows by a free number,
and no count falls or loses what a read has shown (the model's choice, log 35); writes to a block in reset are ignored, those
to an absent unit discarded and logged. Pins, identity and settings (R408, R451, R461, R479, R480, R483, R323, R331): each
write takes its value, DEV_ID only once, a rounding default only from 1 to 4 (log 27), the reserved bits of a route entry
never; a block in reset takes none. -/
def Obligations.LogsCountsAndSettings : Prop :=
  (∀ (s : State) (page : Nat) (mask : BitVec 32), s.chip.up = true →
      let ty := ((pageType page).map (·.1)).getD 0
      let sel := s.chip.get page fCntSel
      let writes := fun (P : Chip → Prop) => Runs (.errClr page) s P ∧ Runs (.intSet page mask) s P
      (pageType page = none → writes (fun t => t = s.chip) ∧ Runs (.cntValLoRead page) s fun t => t = { s.chip with resp := [] }) ∧
      (pageType page ≠ none → s.chip.pageThere page = false → writes (fun t => t = s.chip.absentWrite)) ∧
      (s.chip.pageThere page = true → s.chip.pageInReset page = true → writes (fun t => t = s.chip)) ∧
      (pageType page ≠ none → s.chip.pageThere page = false ∨ s.chip.pageInReset page = true ∨ hasErrRegs page = false →
        Runs (.cntValLoRead page) s fun t => t = { s.chip with resp := bytesOf 4 0 }) ∧
      (s.chip.pageThere page = true → s.chip.pageInReset page = false →
        Runs (.intSet page mask) s (fun t =>
          t.reg (page + 0x028) = s.chip.reg (page + 0x028) ||| (mask &&& BitVec.ofNat 32 (intBits page)) ∧
          SameRegs s.chip t [page + 0x028] ∧ t.mem = s.chip.mem ∧ t.cores = s.chip.cores) ∧
        (hasErrRegs page = false → Runs (.errClr page) s fun t => t = s.chip) ∧
        (hasErrRegs page = true →
          Runs (.errClr page) s (fun t =>
            t.get page fErrFirst = 0 ∧ t.get page fErrCtx = 0 ∧ t.get64 page 0x020 = 0 ∧ t.get page fErrStat = s.chip.get page fErrStat ∧
            SameRegs s.chip t [page + 0x018, page + 0x01C, page + 0x020, page + 0x024] ∧ t.mem = s.chip.mem ∧ t.cores = s.chip.cores) ∧
          Runs (.cntValLoRead page) s fun t => ∃ n,
            t.resp = bytesOf 4 n ∧ sget latchReset t.latch (page + 0x03C) = BitVec.ofNat 32 (n / 2 ^ 32) ∧
            ((lineCount ty sel = false ∧ timedCount ty sel = false) ∨ s.chip.ticked page sel = false → n = s.chip.countOf page sel) ∧
            s.chip.countOf page sel ≤ n ∧ t.countOf page sel = n ∧ SameCounts s.chip t [page + sel] ∧
            t.regs = s.chip.regs ∧ t.mem = s.chip.mem ∧ t.cores = s.chip.cores)) ∧
      Runs .gfeClr s (fun t =>
        t.get pgGERP fGfeCode = 0 ∧ t.get pgGERP fGfeCtx = 0 ∧ t.get pgGERP fGfeSrc = 0 ∧ t.get64 pgGERP 0x10C = 0 ∧
        t.get pgGERP fGfeMore = 0 ∧ SameRegs s.chip t [pgGERP + 0x100, pgGERP + 0x104, pgGERP + 0x108, pgGERP + 0x10C, pgGERP + 0x110,
          pgGERP + 0x114] ∧ t.mem = s.chip.mem ∧ t.cores = s.chip.cores)) ∧
  (∀ (s : State), s.chip.fabricUp = true →
      (∀ v : Bool, let b := if v then 1 else 0
        Runs (.modFaultWrite v) s (fun t => t.get pgGERP fModFault = b ∧ SameRegs s.chip t [pgGERP + 0x118] ∧ t.mem = s.chip.mem) ∧
        (s.chip.bit pgKLN fResetActive = false → Runs (.modReadyWrite v) s fun t =>
          t.readyPin = v ∧ SameRegs s.chip t [pgKLN + 0x100] ∧ t.mem = s.chip.mem) ∧
        (s.chip.bit pgKLN fResetActive = true → Runs (.modReadyWrite v) s fun t => t = s.chip) ∧
        (s.chip.bit pgMGT fResetActive = false → Runs (.osOwnsWrite v) s fun t =>
          t.get pgMGT ⟨0x100, 0, 1⟩ = b ∧ SameRegs s.chip t [pgMGT + 0x100] ∧ t.mem = s.chip.mem) ∧
        (s.chip.bit pgMGT fResetActive = true → Runs (.osOwnsWrite v) s fun t => t = s.chip)) ∧
      (∀ v : BitVec 32,
        (s.chip.get pgID fDevIdValid = 0 → Runs (.devIdWrite v) s fun t =>
          t.devId = v.toNat % 1024 ∧ t.get pgID fDevIdValid = 1 ∧ t.mem = s.chip.mem ∧ t.cores = s.chip.cores ∧
          ((∀ p, p < 16 → s.chip.portState p ≠ psPEER) → t.ports = s.chip.ports ∧ SameRegs s.chip t [pgID + 0x130])) ∧
        (s.chip.get pgID fDevIdValid = 1 → Runs (.devIdWrite v) s fun t => t = s.chip) ∧
        (1 ≤ bf v 0 3 → bf v 0 3 ≤ 4 → Runs (.settingsWrite v) s fun t =>
          t.get pgSET ⟨0x108, 0, 5⟩ = bf v 0 5 ∧ SameRegs s.chip t [pgSET + 0x108] ∧ t.mem = s.chip.mem) ∧
        (bf v 0 3 = 0 ∨ 5 ≤ bf v 0 3 → Runs (.settingsWrite v) s fun t => t = s.chip)) ∧
      (∀ (n : Nat) (v : BitVec 16), n < 1024 → Runs (.routeTableWrite n v) s fun t =>
        t.route n = v.toNat % 64 ∧ (∀ m, m < 1024 → m ≠ n → t.route m = s.chip.route m) ∧
        SameRegs s.chip t [pgLKC + 0x800 + n / 2 * 4] ∧ t.mem = s.chip.mem))

/-- REGISTER_WRITE (R13, R99, R464, R465, R466, R472): a counter of a quiet core takes the word and a running core's does not;
a bit of ERR_STAT is cleared by a 1; a core in reset takes none; a write to an absent core is discarded, with ABSENT_UNIT in
the global log and ERR_CTX zero; a misaligned offset or one where the window is not populated is an access fault, which
answers nothing (log 6). REGISTER_WRITE by the access codes of R13, on pages of several blocks, and by width (R407, R435,
R439, R465, R472, R479): an RW field takes its value, one outside its range is ignored (log 27); an RO field takes none; 1
sets a W1S bit, clears a W1C bit, and 0 does neither; a WO field acts; an RWS field is written as an RW one, and an RWO field
once; 64 bits to a page are its two registers, and any other width or a misaligned access is an access fault that changes
nothing. -/
def Obligations.RegisterWrites : Prop :=
  (∀ (s : State) (c n : Nat) (v : BitVec 32), s.chip.up = true → s.chip.rstBusy = false → c < 144 → n < 16 →
      let k := pgSEQ c + 0x160 + 4 * n
      (s.chip.present c = true → (s.chip.core c).inReset = false → s.chip.bit (pgSEQ c) fResetActive = false →
        (s.chip.seqState c ∈ [sqIDLE, sqHELD, sqHALTED] → Runs (.registerWrite k (.w32 v)) s fun t =>
          t.cnt c n = v ∧ SameRegs s.chip t [k] ∧ t.resp = [0] ∧ t.mem = s.chip.mem ∧ t.cores = s.chip.cores) ∧
        (s.chip.seqState c = sqRUNNING → Runs (.registerWrite k (.w32 v)) s fun t =>
          (∀ r, t.reg r = s.chip.reg r) ∧ t.resp = [0] ∧ t.mem = s.chip.mem ∧ t.cores = s.chip.cores) ∧
        Runs (.registerWrite (pgSEQ c + 0x010) (.w32 v)) s fun t =>
          t.reg (pgSEQ c + 0x010) = s.chip.reg (pgSEQ c + 0x010) &&& ~~~(v &&& 0x3FFFFFF) ∧ SameRegs s.chip t [pgSEQ c + 0x010]) ∧
      (s.chip.present c = true → (s.chip.core c).inReset = true → Runs (.registerWrite k (.w32 v)) s fun t => t = { s.chip with resp := [0] }) ∧
      (s.chip.present c = false → Runs (.registerWrite k (.w32 v)) s fun t =>
        t.reg k = s.chip.reg k ∧ t.bit pgGERP ⟨0x010, errBit eABSENT, 1⟩ = true ∧
        (s.chip.get pgGERP fGfeCode = 0 → t.get pgGERP fGfeCode = eABSENT ∧ t.get pgGERP fGfeCtx = 0) ∧ t.resp = [0] ∧ t.mem = s.chip.mem ∧ t.cores = s.chip.cores) ∧
      (∀ off, off % 4 ≠ 0 ∨ populated off = false → Runs (.registerWrite off (.w32 v)) s fun t => t = { s.chip with resp := [] })) ∧
  (∀ (s : State) (v : BitVec 32), s.chip.up = true → s.chip.rstBusy = false →
      let writes := fun (off : Nat) (P : Chip → Prop) => Runs (.registerWrite off (.w32 v)) s P
      let only := fun (t : Chip) (off : Nat) => SameRegs s.chip t [off] ∧ t.resp = [0] ∧ t.mem = s.chip.mem ∧ t.cores = s.chip.cores
      let there := fun (page : Nat) => s.chip.bit page fResetActive = false
      -- RW, with a range: GOV_PERIOD
      (there pgGOV →
        writes (pgGOV + 0x10C) (fun t => only t (pgGOV + 0x10C) ∧
          t.get pgGOV fGovPeriod = if 16 ≤ bf v 0 11 ∧ bf v 0 11 ≤ 1024 then bf v 0 11 else s.chip.get pgGOV fGovPeriod)) ∧
      -- RO: TMAX, the beat counter
      (there pgTHM → writes (pgTHM + 0x104) fun t => t = { s.chip with resp := [0] }) ∧
      (there pgBEAT → writes (pgBEAT + 0x118) (fun t => t = { s.chip with resp := [0] }) ∧
        -- W1S: LOCK; WO: ERR_CLR and INT_SET
        writes (pgBEAT + 0x008) (fun t => only t (pgBEAT + 0x008) ∧ t.bit pgBEAT fLock = (v.getLsbD 3 || s.chip.bit pgBEAT fLock)) ∧
        (v.getLsbD 31 = true → writes (pgBEAT + 0x018) fun t => t.get pgBEAT fErrFirst = 0 ∧ t.get pgBEAT fErrCtx = 0 ∧
          t.get64 pgBEAT 0x020 = 0 ∧ SameRegs s.chip t [pgBEAT + 0x018, pgBEAT + 0x01C, pgBEAT + 0x020, pgBEAT + 0x024]) ∧
        (v.getLsbD 31 = false → writes (pgBEAT + 0x018) fun t => t = { s.chip with resp := [0] }) ∧
        writes (pgBEAT + 0x030) fun t => only t (pgBEAT + 0x028) ∧
          t.reg (pgBEAT + 0x028) = s.chip.reg (pgBEAT + 0x028) ||| (v &&& BitVec.ofNat 32 (intBits pgBEAT))) ∧
      -- RWS: WDOG_RESET_EN; W1C: WDOG_TRIP; WO: the kick
      (there pgKLN → writes (pgKLN + 0x128) fun t => only t (pgKLN + 0x128) ∧ t.bit pgKLN fWdogResetEn = v.getLsbD 8 ∧
        t.bit pgKLN fWdogTrip = (s.chip.bit pgKLN fWdogTrip && !(v.getLsbD 9)) ∧
        t.wdogHit = s.chip.wdogHit.filter fun k => !((BitVec.ofNat 8 (bf v 0 8)).getLsbD k)) ∧
      -- RWS beside RO: OS_OWNS and LINK_UP
      (there pgMGT → writes (pgMGT + 0x100) fun t => only t (pgMGT + 0x100) ∧
        t.bit pgMGT ⟨0x100, 0, 1⟩ = v.getLsbD 0 ∧ t.bit pgMGT fLinkUp = s.chip.bit pgMGT fLinkUp) ∧
      -- RWO: DEV_ID
      (there pgID →
        (s.chip.get pgID fDevIdValid = 1 → writes (pgID + 0x130) fun t => t = { s.chip with resp := [0] }) ∧
        (s.chip.get pgID fDevIdValid = 0 → writes (pgID + 0x130) fun t => t.devId = v.toNat % 1024 ∧ t.get pgID fDevIdValid = 1)) ∧
      -- widths
      (there pgVAN → s.chip.bit pgVAN fVanEn = false → ∀ q : BitVec 64, Runs (.registerWrite (pgVAN + 0x118) (.w64 q)) s fun t =>
        t.get64 pgVAN 0x118 = q.toNat ∧ SameRegs s.chip t [pgVAN + 0x118, pgVAN + 0x11C] ∧ t.resp = [0] ∧ t.mem = s.chip.mem) ∧
      (∀ off, off % 8 ≠ 0 → ∀ q : BitVec 64, Runs (.registerWrite off (.w64 q)) s fun t => t = { s.chip with resp := [] }) ∧
      (∀ off n, Runs (.registerWrite off (.other n)) s fun t => t = { s.chip with resp := [] }))

/-- The management port (R448, R450, R451, R472, R506): the ROM's protocol answers a read with the register and a write with
its status, refuses both but for the identity page when the debug policy does not admit them, and a write to a locked page; a
recovery image is staged and, with its last block, tried (logs 6, 71, 72); frames land in the buffer, with the time of their
event latched (log 18); the link's changes interrupt. The SMBus (R443, R452): each command answers its bytes and, while the
device is up, shows the kiln that it has come (how long is the model's choice, log 85); it changes nothing else; the global
first-error log is answered in 12 B of a layout that is open (log 92); a command of the kiln answers 0xFF where the kiln does
not; the alert is released once its response has been read; without input power nobody answers. -/
def Obligations.ManagementPortAndSmbus : Prop :=
  (∀ (s : State) (sn v : BitVec 32), s.chip.up = true →
      let gives := fun (i : Instr) (n : Nat) => Runs i s fun t => t = { s.chip with resp := rapReply sn n [] }
      let latched := fun (t : Chip) (stamp : Option PtpTime) =>
        (stamp = none → t.board = s.chip.board) ∧
        (∀ e, stamp = some e → t.bit pgMGT ⟨0x028, 3, 1⟩ = true ∧
          t.board = { s.chip.board with stamp := some (e.sec % 2 ^ 48, e.ns % 2 ^ 32) })
      (s.chip.romServes = false → ∀ off data last, Runs (.rapRead sn off) s (fun t => t = s.chip) ∧
        Runs (.rapWrite sn off v) s (fun t => t = s.chip) ∧ Runs (.recoveryImageBlock sn off data last) s fun t => t = s.chip) ∧
      (s.chip.romServes = true →
        (∀ off, s.chip.rapOpen = false → (0x1000 ≤ off → gives (.rapRead sn off) 3) ∧ gives (.rapWrite sn off v) 3) ∧
        (∀ off, s.chip.rapOpen = true →
          (off % 4 ≠ 0 ∨ populated off = false → gives (.rapWrite sn off v) 2) ∧
          (off % 4 = 0 → populated off = true → pageType (off / 0x1000 * 0x1000) ≠ none → s.chip.bit (off / 0x1000 * 0x1000) fLock = true →
            gives (.rapWrite sn off v) 3)) ∧
        (s.chip.bit pgID fResetActive = false → Runs (.rapRead sn (pgID + 0x130)) s fun t =>
          t = { s.chip with resp := rapReply sn 0 (bytesOf 4 (s.chip.reg (pgID + 0x130)).toNat) }) ∧
        (∀ off, off < 0x1000 ∨ s.chip.rapOpen = true → Runs (.rapRead sn off) s fun t =>
          match s.chip.regRead s.otp off with
          | none => t = { (s.chip.windowSee off) with resp := rapReply sn 2 [] }
          | some r => t = { (r.2.windowSee off) with resp := rapReply sn 0 (bytesOf 4 r.1.toNat) }) ∧
        (∀ off, s.chip.rapOpen = true → off % 4 = 0 → populated off = true →
          pageType (off / 0x1000 * 0x1000) = none ∨ s.chip.bit (off / 0x1000 * 0x1000) fLock = false →
          exec (.rapWrite sn off v) s =
            .next { (s.regWrite off v) with chip := { (s.regWrite off v).chip with resp := rapReply sn 0 [] } }) ∧
        (∀ k, k < 8 → s.chip.rapOpen = true → s.chip.bit pgKLN fLock = false → s.chip.bit pgKLN fResetActive = false →
          Runs (.rapWrite sn (pgKLN + 0x108 + 4 * k) v) s fun t =>
            t.get pgKLN (fWdogLoad k) = v.toNat ∧ SameRegs s.chip t [pgKLN + 0x108 + 4 * k] ∧ t.resp = rapReply sn 0 [] ∧
            t.mem = s.chip.mem) ∧
        (∀ off data, s.chip.bit pgKLN fRecovery = true → off + data.length ≤ imageLen →
          Runs (.recoveryImageBlock sn off data false) s (fun t =>
            t.resp = rapReply sn 0 [] ∧ (∀ i, ∀ h : i < data.length, sget memReset t.sec.staged (off + i) = data[i]) ∧
            (∀ j, j < off ∨ off + data.length ≤ j → sget memReset t.sec.staged j = sget memReset s.chip.sec.staged j) ∧
            t.regs = s.chip.regs ∧ t.mem = s.chip.mem) ∧
          Runs (.recoveryImageBlock sn off data true) s fun t =>
            let image := fun o n => (List.range n).map fun i =>
              if o + i < imageBase then 0
              else if off ≤ o + i - imageBase ∧ o + i - imageBase < off + data.length then (data[o + i - imageBase - off]?).getD 0
              else sget memReset s.chip.sec.staged (o + i - imageBase)
            t.resp = rapReply sn 0 [] ∧ t.sec.staged = [] ∧
            match imageError s.otp image true with
            | some e => t.get pgKLN fBootStage = e % 256 ∧ t.get pgGERP fModFault = 1 ∧ t.mem = s.chip.mem
            | none => t.get pgKLN fBootStage = 4 ∧ t.get pgKLN fRecovery = 0 ∧ t.sec.booted = true)) ∧
      (∀ off data stamp, s.chip.linkUp = true → off + data.length ≤ 0x10000 → Runs (.mgmtFrameReceive off data stamp) s fun t =>
        (∀ i, ∀ h : i < data.length, t.byte (0x03000000 + off + i) = data[i]) ∧ SameBytes s.chip t (0x03000000 + off) data.length ∧
        t.bit pgMGT ⟨0x028, 1, 1⟩ = true ∧ latched t stamp ∧ SameRegs s.chip t [pgMGT + 0x028]) ∧
      (∀ off data stamp, s.chip.linkUp = false ∨ 0x10000 < off + data.length → Runs (.mgmtFrameReceive off data stamp) s fun t => t = s.chip) ∧
      (∀ stamp, s.chip.linkUp = true → Runs (.mgmtFrameSent stamp) s fun t =>
        t.bit pgMGT ⟨0x028, 2, 1⟩ = true ∧ latched t stamp ∧
        SameRegs s.chip t [pgMGT + 0x028] ∧ t.mem = s.chip.mem) ∧
      (∀ stamp, s.chip.linkUp = false → Runs (.mgmtFrameSent stamp) s fun t => t = s.chip) ∧
      (∀ up, s.chip.bit pgMGT fResetActive = false → s.chip.bit pgMGT fLinkUp ≠ up → Runs (.mgmtLinkChange up) s fun t =>
        t.bit pgMGT fLinkUp = up ∧ t.bit pgMGT ⟨0x028, 0, 1⟩ = true ∧ SameRegs s.chip t [pgMGT + 0x100, pgMGT + 0x028] ∧
        t.mem = s.chip.mem) ∧
      (∀ up, s.chip.bit pgMGT fResetActive = true ∨ s.chip.bit pgMGT fLinkUp = up → Runs (.mgmtLinkChange up) s fun t => t = s.chip)) ∧
  (∀ (s : State),
      (s.chip.board.input = false →
        (∀ i ∈ [.status, .identity, .temp, .power, .firstErr, .clearAlert, Instr.alertResponse], Runs i s fun t => t = s.chip) ∧
        ∀ off, Runs (.readFru off) s fun t => t = s.chip) ∧
      (s.chip.board.input = true →
        let c := if s.chip.up = true then { s.chip with board := { s.chip.board with smbCame := true } } else s.chip
        let answers := fun (i : Instr) (l : List (BitVec 8)) => Runs i s fun t => t = { c with resp := l }
        answers .status (bytesOf 1 (if s.chip.board.rails = 2 then s.chip.get pgGOV fPstate else 0) ++
          bytesOf 1 (s.chip.get pgKLN fBootStage) ++
          bytesOf 1 ((if s.chip.tripPin then 1 else 0) + (if s.chip.bit pgKLN fWdogTrip then 2 else 0) + (if s.chip.faultPin then 4 else 0) +
            (if s.chip.readyPin then 8 else 0) + (if s.chip.board.slotId.getLsbD 3 then 16 else 0)) ++
          bytesOf 1 (s.chip.board.trip.getD 0xFF) ++ bytesOf 4 0) ∧
        answers .identity (bytesOf 16 s.chip.ident.serial.toNat ++ bytesOf 1 s.chip.ident.part ++
          bytesOf 1 (if s.chip.ident.rev = 0 then 0xA0 else 0xB0) ++ bytesOf 2 (4096 - otpCount s.otp 5120 4096) ++ bytesOf 12 0) ∧
        (∀ off, answers (.readFru off) ((List.range 32).map fun i => Config.fruByte (off.toNat + i))) ∧
        (s.chip.kilnAnswers = true →
          answers .temp (bytesOf 2 (s.chip.get pgTHM fTmax)) ∧
          answers .power (bytesOf 2 (s.chip.get pgGOV fVinMv) ++ bytesOf 2 (s.chip.get pgGOV fIinMa / 16) ++
            bytesOf 2 (s.chip.get pgGOV fPinW)) ∧
          answers .firstErr ((List.range 12).map (Config.firstErr [s.chip.get pgGERP fGfeCode, s.chip.get pgGERP fGfeCtx,
            s.chip.get pgGERP fGfeSrc, s.chip.get64 pgGERP 0x10C, s.chip.get pgGERP fGfeMore]))) ∧
        (s.chip.kilnAnswers = false → answers .temp [0xFF] ∧ answers .power [0xFF] ∧ answers .firstErr [0xFF]) ∧
        (s.chip.board.alert = true → Runs .alertResponse s fun t =>
          (∃ b : BitVec 8, t.resp = [b] ∧ bf b 1 7 = s.chip.smbAddress) ∧
          t = { s.chip with resp := t.resp, fresh := t.fresh, board := { s.chip.board with answered := true } }) ∧
        (s.chip.board.alert = false → Runs .alertResponse s fun t => t = { s.chip with resp := [] }) ∧
        Runs .clearAlert s (fun t => t = if s.chip.board.answered = true then
          { c with board := { c.board with alert := false, answered := false } } else c)))

/-- A port's way to UP and its ends (R314, R320, R326, R329, R330): TRAIN_EN trains a DISABLED port from IDLE on and disables
any; four lanes, or the widest trained after the wait, go to ALIGN, the lock to MEASURE with every credit and an echo request,
the delay to PEER, and a peer of version 3 and another identity to UP; a time-out is DOWN with cause 3, another version with
4, the same identity with 5, a down notice with 6; TRAIN_EN trains a DOWN port again. The correction of the delay (log 82) and
the codes of CONTROL cells (log 81) are free constants. The order of the identity checks is log 55, what passes outside UP log
54. Width changes of an UP port (R314, R322, R326, R327, R328): lost lanes make it degrade, or go DOWN where it may not or
none is left; both ends say the new width, and the change ends in UP once the peer agrees and the delay is measured again,
with no adaptation of the lanes counted (logs 54 to 56); RESTORE widens it again or fails. -/
def Obligations.PortLife : Prop :=
  (∀ (s : State) (p : Nat),
      let pg := pgLNK p
      let k := s.chip.port p
      let same := fun (i : Instr) => Runs i s fun t => t = s.chip
      (∀ st, PortIn s.chip p st →
        Runs (.trainEnWrite p true) s (fun t =>
          t.portState p = (if st = psDISABLED ∧ 2 ≤ s.chip.get pgGOV fPstate then psTRAINING else st) ∧ t.get pg fTrainEn = 1 ∧
          (st ≠ psDISABLED → t.ports = s.chip.ports) ∧ SameRegs s.chip t [pg + 0x100, pg + 0x104] ∧ t.mem = s.chip.mem) ∧
        Runs (.trainEnWrite p false) s (fun t =>
          t.portState p = psDISABLED ∧ t.get pg fTrainEn = 0 ∧ t.get pg fLanes = 0 ∧ t.port p = { Port.reset with tables := k.tables, ran := k.ran } ∧
          t.mem = s.chip.mem ∧ t.cores = s.chip.cores)) ∧
      (PortIn s.chip p psTRAINING →
        (∀ l, Runs (.laneTrainingDone p l) s fun t =>
          t.port p = { k with trained := k.trained ||| l } ∧
          (k.trained ||| l = 15 → t.portState p = psALIGN ∧ t.get pg fLanes = 4 ∧ t.get pg fLaneUse = 15 ∧ SameRegs s.chip t [pg + 0x104]) ∧
          (k.trained ||| l ≠ 15 → t.regs = s.chip.regs)) ∧
        (s.chip.bit pg fDegradeEn = true → k.trained ≠ 0 → same (.trainingTimeout p) ∧ Runs (.narrowWidthTimeout p) s fun t =>
          t.portState p = psALIGN ∧ t.get pg fLaneUse = (widest k.trained).toNat ∧ t.get pg fLanes = laneCount (widest k.trained) ∧
          SameRegs s.chip t [pg + 0x104] ∧ t.ports = s.chip.ports) ∧
        (s.chip.bit pg fDegradeEn = false ∨ k.trained = 0 → same (.narrowWidthTimeout p) ∧
          Runs (.trainingTimeout p) s fun t => WentDown s.chip t p 3)) ∧
      (PortIn s.chip p psALIGN →
        Runs (.alignLock p) s (fun t =>
          t.portState p = psMEASURE ∧ t.get pg fCredS = 256 ∧ t.get pg fCredU = 256 ∧ t.port p = { k with ctl := k.ctl ++ [.echo] } ∧
          SameRegs s.chip t [pg + 0x104, pg + 0x110]) ∧
        Runs (.alignTimeout p) s (fun t => WentDown s.chip t p 3)) ∧
      (∀ t1 t2 t3 t4, let d := (((t4 - t1 - (t3 - t2)) / 2 : Nat) + Config.delayFix p : Int).toNat
        (PortIn s.chip p psMEASURE → k.peer = none → Runs (.delayMeasured p t1 t2 t3 t4) s fun t =>
          t.portState p = psPEER ∧ t.get pg fDelay = d % 2 ^ 32 ∧ (t.port p).measured = s.chip.edges ∧
          (t.port p).ctl = (if s.chip.bit pgID fDevIdValid then
            k.ctl ++ [.peer s.chip.devId p 3 (s.chip.get pgBEAT fBeatPeriod)] else k.ctl) ∧
          SameRegs s.chip t [pg + 0x104, pg + 0x10C]) ∧
        (∀ dev port, PortIn s.chip p psMEASURE → k.peer = some (dev, port, 3) → s.chip.bit pgID fDevIdValid = true → dev ≠ s.chip.devId →
          Runs (.delayMeasured p t1 t2 t3 t4) s fun t => t.portState p = psUP ∧ t.get pg fDelay = d % 2 ^ 32 ∧ t.bit pg ⟨0x028, 1, 1⟩ = true) ∧
        (∀ st, st ∈ [psUP, psDEGRADING] → PortIn s.chip p st → Runs (.delayMeasured p t1 t2 t3 t4) s fun t =>
          t.port p = { k with measured := s.chip.edges, remeasured := true } ∧ t.get pg fDelay = d % 2 ^ 32 ∧ SameRegs s.chip t [pg + 0x10C])) ∧
      (∀ (h : BitVec 128) (dev port ver per : Nat), PortIn s.chip p psPEER → hcGood h = true → hcType h = 4 → hcLseq h = k.rxSeq →
        hcInfo h % 256 = (Config.ctlCode 2).toNat →
        let cell := Instr.controlCellReceive p h (.peer dev port ver per)
        (s.chip.bit pgID fDevIdValid = true → ver = 3 → dev ≠ s.chip.devId → Runs cell s fun t =>
          t.portState p = psUP ∧ t.get pg fPeerDev = dev % 1024 ∧ t.get pg fPeerPort = port % 16 ∧
          t.bit pg ⟨0x028, 1, 1⟩ = true ∧ (t.port p).rxSeq = (k.rxSeq + 1) % 4096 ∧ (t.port p).retU = k.retU + 1) ∧
        (s.chip.bit pgID fDevIdValid = true → ver = 3 → dev = s.chip.devId → Runs cell s fun t => WentDown s.chip t p 5) ∧
        (ver ≠ 3 → Runs cell s fun t => WentDown s.chip t p 4) ∧
        (s.chip.bit pgID fDevIdValid = false → ver = 3 → Runs cell s fun t =>
          t.portState p = psPEER ∧ (t.port p).peer = some (dev, port, ver) ∧ t.get pg fPeerDev = dev % 1024)) ∧
      (∀ h : BitVec 128, PortIn s.chip p psUP → hcGood h = true → hcType h = 4 → hcLseq h = k.rxSeq →
        (hcInfo h % 256 = (Config.ctlCode 4).toNat → Runs (.controlCellReceive p h .down) s fun t => WentDown s.chip t p 6) ∧
        (hcInfo h % 256 = (Config.ctlCode 0).toNat → Runs (.controlCellReceive p h .echo) s fun t =>
          (t.port p).ctl = k.ctl ++ [.echoReply] ∧ (t.port p).retU = k.retU + 1 ∧ t.regs = s.chip.regs)) ∧
      (∀ st cause, PortIn s.chip p st →
        (k.downDue = some cause → st ≠ psDOWN → cause < 16 → Runs (.portDown p cause) s fun t => WentDown s.chip t p cause) ∧
        (k.downDue ≠ some cause ∨ st = psDOWN → same (.portDown p cause)) ∧
        (st ≠ psDOWN ∨ s.chip.bit pg fTrainEn = false → same (.downHoldExpire p))) ∧
      (PortIn s.chip p psDOWN → s.chip.bit pg fTrainEn = true → Runs (.downHoldExpire p) s fun t =>
        t.portState p = psTRAINING ∧ SameRegs s.chip t [pg + 0x104] ∧ t.ports = s.chip.ports) ∧
      (PortIn s.chip p psUP → k.measured + 4096 ≤ s.chip.edges → Runs (.delayRemeasure p) s fun t =>
        t.port p = { k with ctl := k.ctl ++ [.echo], measured := s.chip.edges } ∧ t.regs = s.chip.regs)) ∧
  (∀ (s : State) (p : Nat),
      let pg := pgLNK p
      let k := s.chip.port p
      let changing := fun (t : Chip) (l : BitVec 4) (agreed : Bool) =>
        t.portState p = psDEGRADING ∧ (t.port p).goal = l ∧ (t.port p).agreed = agreed ∧ (t.port p).remeasured = false ∧
        (t.port p).degradeDue = none ∧ (t.port p).ctl = k.ctl ++ [.width l, .echo] ∧ (t.port p).replay = k.replay ∧
        (t.port p).transit = k.transit ∧ t.net = s.chip.net
      (PortIn s.chip p psUP →
        (∀ lost : BitVec 4, let use := BitVec.ofNat 4 (s.chip.get pg fLaneUse)
          (use &&& ~~~lost = use → Runs (.lossOfSignal p lost) s fun t => t = s.chip) ∧
          (use &&& ~~~lost ≠ use → use &&& ~~~lost ≠ 0 → s.chip.bit pg fDegradeEn = true → Runs (.lossOfSignal p lost) s fun t =>
            t.port p = { k with degradeDue := some (widest (use &&& ~~~lost)) } ∧ t.regs = s.chip.regs) ∧
          (use &&& ~~~lost ≠ use → use &&& ~~~lost = 0 ∨ s.chip.bit pg fDegradeEn = false → Runs (.lossOfSignal p lost) s fun t =>
            t.port p = { k with downDue := some 2 } ∧ t.regs = s.chip.regs)) ∧
        (∀ l, k.degradeDue = some l → Runs (.degrade p l) s fun t =>
          changing t l false ∧ t.bit pg ⟨0x028, 2, 1⟩ = true ∧
          t.countOf pg 0x15 = min (s.chip.countOf pg 0x15 + 1) (2 ^ 64 - 1) ∧ SameRegs s.chip t [pg + 0x104, pg + 0x028]) ∧
        (∀ (h : BitVec 128) (l : BitVec 4), hcGood h = true → hcType h = 4 → hcLseq h = k.rxSeq →
          hcInfo h % 256 = (Config.ctlCode 3).toNat → Runs (.controlCellReceive p h (.width l)) s fun t =>
            changing t l true ∧ (laneCount l < s.chip.get pg fLanes → t.countOf pg 0x15 = min (s.chip.countOf pg 0x15 + 1) (2 ^ 64 - 1)) ∧
            SameRegs s.chip t [pg + 0x104, pg + 0x028]) ∧
        (s.chip.get pg fLanes < 4 → k.restoring = false → Runs (.restore p) s fun t =>
          t.port p = { k with restoring := true } ∧ t.regs = s.chip.regs) ∧
        (k.restoring = true →
          Runs (.restoreTrainTimeout p) s (fun t => t.get pg fRestoreFail = 1 ∧ t.bit pg ⟨0x028, 4, 1⟩ = true ∧
            t.port p = { k with restoring := false } ∧ SameRegs s.chip t [pg + 0x104, pg + 0x028]) ∧
          Runs (.restoreLanesTrained p) s (fun t => changing t 15 false ∧ (t.port p).restoring = true ∧ SameRegs s.chip t [pg + 0x104])) ∧
        (k.restoring = false → Runs (.restoreTrainTimeout p) s (fun t => t = s.chip) ∧ Runs (.restoreLanesTrained p) s fun t => t = s.chip)) ∧
      (∀ st, PortIn s.chip p st → 4 ≤ s.chip.get pg fLanes ∨ k.restoring = true ∨ st ≠ psUP → Runs (.restore p) s fun t =>
        t.get pg fRestoreFail = 1 ∧ t.bit pg ⟨0x028, 4, 1⟩ = true ∧ t.portState p = st ∧ t.get pg fLanes = s.chip.get pg fLanes ∧
        SameRegs s.chip t [pg + 0x104, pg + 0x028] ∧ t.ports = s.chip.ports) ∧
      (PortIn s.chip p psDEGRADING →
        (k.agreed = true → k.remeasured = true → Runs (.degradeDone p) s fun t =>
          t.portState p = psUP ∧ t.get pg fLaneUse = k.goal.toNat ∧ t.get pg fLanes = laneCount k.goal ∧ t.get pg fConsec = 0 ∧
          (t.port p).restoring = false ∧ (t.port p).replay = k.replay ∧ (t.port p).adTemp = k.adTemp ∧
          (t.port p).adEdge = k.adEdge ∧ (k.restoring = true → t.bit pg ⟨0x028, 4, 1⟩ = true) ∧
          SameRegs s.chip t [pg + 0x104, pg + 0x110, pg + 0x028]) ∧
        (k.agreed = false ∨ k.remeasured = false → Runs (.degradeDone p) s fun t => t = s.chip) ∧
        (∀ h : BitVec 128, hcGood h = true → hcType h = 4 → hcLseq h = k.rxSeq → hcInfo h % 256 = (Config.ctlCode 3).toNat →
          Runs (.controlCellReceive p h (.width k.goal)) s fun t =>
            (t.port p).agreed = true ∧ (t.port p).goal = k.goal ∧ t.regs = s.chip.regs)))

/-- Cells that a port receives (R309, R310, R312, R315, R320, R321, R322, R323, R324, R333): a DATA cell of the expected
number is delivered here, its words poisoned as POISON says, or passed on by the route table with its TTL less one, or
discarded; its credit is due back but while it waits in transit; the 64th accepted since the last ACK is acknowledged; another
number or a bad cell sends one NAK, and is counted by its fault; credits, acknowledgements, a NAK's retry (log 53) and
time-outs; a CONTROL cell whose code is not its content's does nothing (log 81). Cells that a port sends (R54, R104, R310,
R311, R312, R315, R318, R320, R321, R323, R333): an IDLE cell after 4,095 others; the oldest flow with a slot miss that waits,
within the group's capacity and for a static credit; with none, the flow that owns the group; else a resent cell, returned
credits, a CONTROL cell with its code and its number, unassigned traffic for a credit, or IDLE (log 19); a word that cannot be
corrected as it leaves is logged; a DOWN port discards what is bound for it (log 54); at the end of a flow's last group its
cells still waiting are counted as misses (log 56). -/
def Obligations.Cells : Prop :=
  (∀ (s : State) (p st : Nat), PortIn s.chip p st → psMEASURE ≤ st → st ≤ psDEGRADING →
      let pg := pgLNK p
      let k := s.chip.port p
      let plus := fun (t : Chip) (code n : Nat) => t.countOf pg code = min (s.chip.countOf pg code + n) (2 ^ 64 - 1)
      let back := fun (t : Chip) (h : BitVec 128) =>
        (t.port p).rxSeq = (k.rxSeq + 1) % 4096 ∧ (t.port p).nakHold = false ∧
        (if 64 ≤ k.rxRun + 1 then (t.port p).rxRun = 0 ∧ (t.port p).sent = some (s.chip.cell 3 (((k.rxSeq + 1) % 4096 + 4095) % 4096))
         else (t.port p).rxRun = k.rxRun + 1 ∧ (t.port p).sent = k.sent) ∧
        (t.port p).retU = k.retU + (if hcFlow h = 63 then 1 else 0) ∧ (t.port p).retS = k.retS + (if hcFlow h = 63 then 0 else 1)
      let nak := fun (t : Chip) =>
        (k.nakHold = true → t.ports = s.chip.ports) ∧
        (k.nakHold = false → t.port p = { k.start (s.chip.cell 3 (k.rxSeq + 2 ^ 12)) with nakHold := true } ∧ plus t 4 1) ∧
        t.net = s.chip.net ∧ t.regs = s.chip.regs
      (∀ (h : BitVec 128) (pkts : List Packet), st = psUP ∨ st = psDEGRADING →
        let cell := Instr.dataCellReceive p h pkts
        let r := s.chip.route (hcDst h)
        (hcGood h = false → Runs cell s fun t => nak t ∧ plus t 0x0B 1) ∧
        (hcGood h = true → 6 ≤ hcType h → Runs cell s fun t => plus t 0x0B 1 ∧ t = { s.chip with counts := t.counts }) ∧
        (hcGood h = true → hcType h = 0 → hcLseq h ≠ k.rxSeq → Runs cell s nak) ∧
        (hcGood h = true → hcType h = 0 → hcLseq h = k.rxSeq →
          (r.testBit 5 = true → Runs cell s fun t =>
            t.net = s.chip.net ++ unpack h pkts ∧
            (∀ q hd o pad pos d, pkts = [q] → q.body = .message hd o pad pos d → hcInfo h % 512 = 0 →
              let tagged := ((List.range d.length).zip d).map fun e => (e.2.1, (hcPoison h).getLsbD ((16 + e.1) / 8))
              t.net = s.chip.net ++ [{ q with body := .message hd o pad pos tagged }]) ∧
            back t h ∧ plus t 1 1 ∧ t.regs = s.chip.regs ∧ t.mem = s.chip.mem) ∧
          (r.testBit 5 = false → r.testBit 4 = true → s.chip.portPresent (r % 16) = true → s.chip.portState (r % 16) ≠ psDOWN → 2 ≤ hcTtl h →
            Runs cell s fun t =>
              ((t.port (r % 16)).transit.map fun e => (e.2.type, e.2.dst, e.2.src, e.2.len, e.2.ttl, e.2.poison, e.2.pkts, e.2.inPort)) =
                ((s.chip.port (r % 16)).transit.map fun e => (e.2.type, e.2.dst, e.2.src, e.2.len, e.2.ttl, e.2.poison, e.2.pkts, e.2.inPort)) ++
                  [(0, hcDst h, hcSrc h, hcLen h, hcTtl h - 1, hcPoison h, pkts, some p)] ∧
              (t.port p).rxSeq = (k.rxSeq + 1) % 4096 ∧ (t.port p).retU = k.retU ∧ (t.port p).retS = k.retS ∧
              plus t 1 1 ∧ t.net = s.chip.net ∧ t.regs = s.chip.regs ∧ t.mem = s.chip.mem) ∧
          (r.testBit 5 = false →
            r.testBit 4 = false ∨ s.chip.portPresent (r % 16) = false ∨ s.chip.portState (r % 16) = psDOWN ∨ hcTtl h ≤ 1 →
            Runs cell s fun t =>
              back t h ∧ plus t 1 1 ∧ plus t 0x0E 1 ∧ t.net = s.chip.net ∧ t.regs = s.chip.regs ∧ t.mem = s.chip.mem))) ∧
      (∀ (h : BitVec 128) (c : Control), hcGood h = true → hcType h = 4 →
        (hcInfo h % 256 ≠ (Config.ctlCode (controlKind c)).toNat → Runs (.controlCellReceive p h c) s fun t => t = s.chip) ∧
        (hcInfo h % 256 = (Config.ctlCode (controlKind c)).toNat → hcLseq h ≠ k.rxSeq → Runs (.controlCellReceive p h c) s nak)) ∧
      (Runs (.badCellReceive p .hcrc) s fun t => nak t ∧ plus t 0x0B 1) ∧
      (∀ l, Runs (.badCellReceive p (.fec l)) s fun t => nak t ∧ plus t 6 1 ∧ ∀ i, i < 4 → plus t (7 + i) ((l[i]?).getD 0)) ∧
      (Runs (.badCellReceive p .reservedType) s fun t => plus t 0x0B 1 ∧ t = { s.chip with counts := t.counts }) ∧
      (∀ n, Runs (.creditCellReceive p true n) s (fun t =>
          t.get pg fCredU = min (s.chip.get pg fCredU + n) 256 ∧ SameRegs s.chip t [pg + 0x110] ∧ t.ports = s.chip.ports) ∧
        Runs (.creditCellReceive p false n) s (fun t =>
          t.get pg fCredS = min (s.chip.get pg fCredS + n) 256 ∧ SameRegs s.chip t [pg + 0x110] ∧ t.ports = s.chip.ports)) ∧
      (∀ (x : LinkCell) (pre rest : List LinkCell), k.replay = pre ++ x :: rest → (∀ y ∈ pre, y.lseq ≠ x.lseq) →
        let consec := fun n => if 1024 ≤ k.ackedRun + n then 0 else s.chip.get pg fConsec
        Runs (.ackReceive p x.lseq) s (fun t =>
          (t.port p).replay = rest ∧ (t.port p).ackedRun = k.ackedRun + (pre.length + 1) ∧ t.get pg fReplayUsed = rest.length % 1024 ∧
          t.get pg fConsec = consec (pre.length + 1) ∧ SameRegs s.chip t [pg + 0x110] ∧ t.net = s.chip.net ∧ t.mem = s.chip.mem) ∧
        (∀ off, Runs (.nakReceive p x.lseq off) s fun t =>
          (t.port p).replay = x :: rest ∧ (t.port p).resend = rest.length + 1 ∧ t.get pg fConsec = min (consec pre.length + 1) 8 ∧
          SameRegs s.chip t [pg + 0x110, pg + 0x028] ∧ t.net = s.chip.net ∧ t.mem = s.chip.mem)) ∧
      (∀ off, k.replay ≠ [] → Runs (.ackTimeout p off) s fun t =>
        let n := min (s.chip.get pg fConsec + 1) 8
        t.get pg fConsec = n ∧ (t.port p).resend = k.replay.length ∧ (t.port p).replay = k.replay ∧ (t.port p).ackedRun = 0 ∧
        (n = 4 → t.bit pg ⟨0x028, 3, 1⟩ = true) ∧ (t.port p).downDue = (if n = 8 then some 1 else k.downDue) ∧
        (t.port p).degradeDue = (match off with
          | some l => if n = 4 ∧ s.chip.bit pg fDegradeEn = true ∧ laneCount (widest l) < s.chip.get pg fLanes then some (widest l) else k.degradeDue
          | none => k.degradeDue) ∧
        SameRegs s.chip t [pg + 0x110, pg + 0x028] ∧ t.net = s.chip.net) ∧
      (∀ off, k.replay = [] → Runs (.ackTimeout p off) s fun t => t = s.chip) ∧
      Runs (.idleCellReceive p) s (fun t => t = s.chip) ∧
      Runs (.ackTimer p) s (fun t => t.port p = { k.start (s.chip.cell 3 ((k.rxSeq + 4095) % 4096)) with rxRun := 0 } ∧ t.regs = s.chip.regs) ∧
      Runs (.nakHoldoffExpire p) s (fun t => t.port p = { k with nakHold := false } ∧ t.regs = s.chip.regs)) ∧
  (∀ (s : State) (p st g : Nat) (room : Bool) (errs : List Nat), PortIn s.chip p st →
      let pg := pgLNK p
      let k := s.chip.port p
      let j := if k.group = g then k else { k with group := g, inGroup := 0 }
      let send := Instr.cellTransmit p g ⟨room, errs⟩
      let plus := fun (t : Chip) (code n : Nat) => t.countOf pg code = min (s.chip.countOf pg code + n) (2 ^ 64 - 1)
      let only := fun (t : Chip) (x : LinkCell) => t.port p = j.start x ∧ t.regs = s.chip.regs ∧ t.net = s.chip.net ∧ t.mem = s.chip.mem
      let may := fun (f : Fld) => s.chip.get pg f ≠ 0 ∧ k.replay.length < 512
      (st < psMEASURE → Runs send s fun t => t = s.chip) ∧
      (psMEASURE ≤ st → st ≤ psDEGRADING → k.ended = [] → k.missed = [] → 4095 ≤ k.idleRun → Runs send s fun t => only t (s.chip.cell 5 0)) ∧
      (∀ q f, st = psUP → k.ended = [] → k.missed = [] → k.idleRun < 4095 → k.owner g = some f → k.transit = [] → k.partSent = [] →
        s.chip.outPackets p = [q] → k.localFlow q = some f → packetBytes q ≤ 256 → j.inGroup < s.chip.groupCap p g → may fCredS →
        (∀ e ∈ errs, e = 0) → Runs send s fun t =>
          t.net = s.chip.net.erase q ∧ t.get pg fCredS = s.chip.get pg fCredS - 1 ∧ (t.port p).inGroup = j.inGroup + 1 ∧
          (t.port p).sent.map (fun x => (x.type, x.lseq, x.dst, x.flow, x.len, x.pkts)) =
            some (0, k.txSeq, q.dst.dev, f, packetBytes q, [q]) ∧
          (t.port p).replay.length = k.replay.length + 1 ∧ plus t 0 1 ∧ plus t 0x0D 1 ∧ SameRegs s.chip t [pg + 0x110] ∧ t.mem = s.chip.mem) ∧
      (∀ q f n pre rest, st = psUP → k.ended = [] → k.missed = pre ++ (f, n) :: rest → (∀ e ∈ pre ++ rest, e.1 ≠ f ∧ e.2 ≠ 0) →
        (∀ e ∈ pre, s.chip.flowWaits p (some e.1) = false) → k.idleRun < 4095 → k.transit = [] → k.partSent = [] →
        s.chip.outPackets p = [q] → k.localFlow q = some f → packetBytes q ≤ 256 → j.inGroup < s.chip.groupCap p g → may fCredS →
        (∀ e ∈ errs, e = 0) → Runs send s fun t =>
          t.net = s.chip.net.erase q ∧ t.get pg fCredS = s.chip.get pg fCredS - 1 ∧ (t.port p).inGroup = j.inGroup + 1 ∧
          (t.port p).missed = pre ++ rest ∧ (t.port p).sent.map (fun x => (x.type, x.lseq, x.dst, x.flow, x.len, x.pkts)) =
            some (0, k.txSeq, q.dst.dev, f, packetBytes q, [q]) ∧
          plus t 0 1 ∧ plus t 0x0D 0 ∧ SameRegs s.chip t [pg + 0x110] ∧ t.mem = s.chip.mem) ∧
      (psMEASURE ≤ st → st ≤ psDEGRADING → k.ended = [] → k.missed = [] → k.idleRun < 4095 → (st = psUP → k.owner g = none ∧ room = true) →
        (∀ x, k.resend ≠ 0 → k.replay[k.replay.length - k.resend]? = some x → Runs send s fun t =>
          t.port p = { j.start x with resend := k.resend - 1 } ∧ plus t 3 1 ∧ t.regs = s.chip.regs ∧ t.net = s.chip.net) ∧
        (k.resend = 0 → k.retS ≠ 0 → Runs send s fun t =>
          t.port p = { j.start (s.chip.cell 2 k.retS) with retS := 0 } ∧ t.regs = s.chip.regs ∧ t.net = s.chip.net) ∧
        (k.resend = 0 → k.retS = 0 → k.retU ≠ 0 → Runs send s fun t =>
          t.port p = { j.start (s.chip.cell 2 (k.retU + 2 ^ 12)) with retU := 0 } ∧ t.regs = s.chip.regs ∧ t.net = s.chip.net) ∧
        (k.resend = 0 → k.retS = 0 → k.retU = 0 →
          (∀ c rest, k.ctl = c :: rest →
            (may fCredU → Runs send s fun t =>
              let x := { s.chip.cell 4 (Config.ctlCode (controlKind c)).toNat with
                len := Config.ctlLen (controlKind c) % 257, ctl := some c, lseq := k.txSeq }
              t.port p = { j.start x with ctl := rest, replay := k.replay ++ [x], txSeq := (k.txSeq + 1) % 4096 } ∧
              t.get pg fCredU = s.chip.get pg fCredU - 1 ∧ t.get pg fReplayUsed = k.replay.length + 1 ∧ SameRegs s.chip t [pg + 0x110] ∧
              t.net = s.chip.net) ∧
            (¬ may fCredU → Runs send s fun t => only t (s.chip.cell 5 0))) ∧
          (k.ctl = [] → st ≠ psUP ∨ s.chip.flowWaits p none = false ∨ ¬ may fCredU → Runs send s fun t => only t (s.chip.cell 5 0)) ∧
          (∀ x i, k.ctl = [] → st = psUP → k.transit = [(none, x)] → x.type = 0 → x.inPort = some i → i ≠ p → may fCredU → Runs send s fun t =>
            (t.port p).transit = [] ∧ (t.port p).sent = some { x with flow := 63, lseq := k.txSeq } ∧ plus t 0x14 1 ∧ plus t 0 1 ∧
            (t.port i).retU = (s.chip.port i).retU + (if x.flow = 63 then 1 else 0) ∧
            (t.port i).retS = (s.chip.port i).retS + (if x.flow = 63 then 0 else 1) ∧ t.net = s.chip.net ∧ SameRegs s.chip t [pg + 0x110]) ∧
          (∀ q, k.ctl = [] → st = psUP → k.transit = [] → k.partSent = [] → s.chip.outPackets p = [q] → k.localFlow q = none →
            packetBytes q ≤ 256 → may fCredU → Runs send s fun t =>
              t.net = s.chip.net.erase q ∧ t.get pg fCredU = s.chip.get pg fCredU - 1 ∧
              (t.port p).replay.map (fun x => (x.lseq, x.dst, x.src, x.flow, x.len, x.pkts, x.poison)) =
                k.replay.map (fun x => (x.lseq, x.dst, x.src, x.flow, x.len, x.pkts, x.poison)) ++
                  [(k.txSeq, q.dst.dev, s.chip.devId, 63, packetBytes q, [q], poisonOf ((packetTags q).take (packetBytes q)) errs)] ∧
              (t.port p).sent = (t.port p).replay.getLast? ∧ (t.port p).txSeq = (k.txSeq + 1) % 4096 ∧
              plus t 0 1 ∧ plus t 2 (packetBytes q) ∧
              plus t 0x16 ((errs.take ((packetBytes q + 7) / 8)).filter (fun e => 3 ≤ e)).length ∧
              ((∃ e ∈ errs.take ((packetBytes q + 7) / 8), 3 ≤ e) → t.bit pg ⟨0x010, errBit eUNCORR, 1⟩ = true) ∧
              ((∀ e ∈ errs, e = 0) → SameRegs s.chip t [pg + 0x110]) ∧ t.mem = s.chip.mem))) ∧
      (st = psDOWN → Runs send s fun t =>
        t.net = (s.chip.outPackets p).foldl (fun a q => a.erase q) s.chip.net ∧ plus t 0x0E (k.cellsIn (s.chip.outPackets p)) ∧
        t.regs = s.chip.regs ∧ t.ports = s.chip.ports) ∧
      (∀ f, st = psUP → k.ended = [] → k.missed = [] → k.owner g = some f → (∀ h, g < h → h < 32 → k.owner h ≠ some f) →
        Runs (.slotGroupEnd p g) s fun t =>
          (t.port p).ended = [f] ∧ (t.port p).missed = (if s.chip.flowCells p (some f) = 0 then [] else [(f, s.chip.flowCells p (some f))]) ∧
          plus t 0x0C (s.chip.flowCells p (some f)) ∧ t.net = s.chip.net ∧ t.regs = s.chip.regs) ∧
      ((k.owner g = none ∨ st ≠ psUP ∨ ∃ h f, g < h ∧ h < 32 ∧ k.owner g = some f ∧ k.owner h = some f) →
        Runs (.slotGroupEnd p g) s fun t => t = s.chip))

/-- Enabling and commanding a context of the stream engine (R334, R335, R341, R343, R372, R374, R408): each write of CTX_EN =
1 clears the context's counts; it takes effect where the conditions hold, is rejected where not, and leaves an enabled context
as it is; CTX_EN = 0 stops formation; CMD_W15 places a command in a FIFO of 128 or drops it with a report; a malformed command
is taken, counted and reported as 0x34; an engine in reset takes no write. When commands are taken is log 62. -/
def Obligations.ContextsAndCommands : Prop :=
  ∀ (s : State) (x : Nat), x < 16 → s.chip.fabricUp = true →
    let cx := pgCTX x
    (s.chip.bit pgSE fResetActive = true → ∀ w15 : BitVec 32, Runs (.ctxEnable x) s (fun t => t = s.chip) ∧
      Runs (.ctxDisable x) s (fun t => t = s.chip) ∧ Runs (.commandSubmit x w15) s fun t => t = s.chip) ∧
    (s.chip.bit pgSE fResetActive = false →
      let cleared := fun (t : Chip) => (∀ e, e < 16 → t.countOf pgSE (16 * x + e) = 0) ∧
        (∀ k, k < pgSE + 16 * x ∨ pgSE + 16 * x + 16 ≤ k → sget countReset t.counts k = sget countReset s.chip.counts k) ∧
        t.mem = s.chip.mem ∧ t.cores = s.chip.cores
      (s.chip.cx x fCtxEn = 1 → Runs (.ctxEnable x) s fun t => cleared t ∧ t = { s.chip with counts := t.counts }) ∧
      (s.chip.cx x fCtxEn = 0 →
        (s.chip.ctxOk x = true → Runs (.ctxEnable x) s fun t =>
          cleared t ∧ t.cx x fCtxEn = 1 ∧ t.cx x fStepNext = 0 ∧
          (t.seCtx x).nextK = (if s.chip.beat < s.chip.get64 cx 0x104 then 0
            else (s.chip.beat - s.chip.get64 cx 0x104) / s.chip.cx x fStepPeriod + 1) ∧
          SameRegs s.chip t [cx + 0x100, cx + 0x1C0]) ∧
        (s.chip.ctxOk x = false → Runs (.ctxEnable x) s fun t =>
          cleared t ∧ t.cx x fCtxEn = 0 ∧ t.cx x fCfgReject = 1 ∧ t.se = s.chip.se ∧ SameRegs s.chip t [cx + 0x100])) ∧
      Runs (.ctxDisable x) s (fun t => t.cx x fCtxEn = 0 ∧ SameRegs s.chip t [cx + 0x100] ∧ t.se = s.chip.se ∧ t.mem = s.chip.mem) ∧
      (∀ w15 : BitVec 32,
        ((s.chip.seCtx x).fifo.length < 128 → Runs (.commandSubmit x w15) s fun t =>
          (∃ m : BitVec 512, (t.seCtx x).fifo = (s.chip.seCtx x).fifo ++ [m] ∧ bf m 480 32 = w15.toNat ∧
            (∀ k, k < 15 → bf m (32 * k) 32 = (s.chip.reg (cx + 0x200 + 4 * k)).toNat)) ∧
          (t.seCtx x).out = (s.chip.seCtx x).out ∧ SameRegs s.chip t [cx + 0x23C] ∧ t.mem = s.chip.mem) ∧
        (128 ≤ (s.chip.seCtx x).fifo.length → Runs (.commandSubmit x w15) s fun t =>
          (t.seCtx x).fifo = (s.chip.seCtx x).fifo ∧ t.cx x fCmdDrop = 1 ∧ t.bit pgSE ⟨0x028, 1, 1⟩ = true ∧
          (∃ e, (t.seCtx x).out = (s.chip.seCtx x).out ++ [e] ∧ bf e 32 8 = 0x33) ∧ t.mem = s.chip.mem))) ∧
    (∀ m rest, (s.chip.seCtx x).fifo = m :: rest → s.chip.cx x fCtxEn = 1 → cmdBad m = true → Runs (.cmdBad x) s fun t =>
      (t.seCtx x).fifo = rest ∧ t.countOf pgSE (16 * x + 0xD) = min (s.chip.countOf pgSE (16 * x + 0xD) + 1) (2 ^ 64 - 1) ∧
      (∃ e, (t.seCtx x).out = (s.chip.seCtx x).out ++ [e] ∧ bf e 32 8 = 0x34 ∧ bf e 160 32 = cmdF m 4 4) ∧
      t.regs = s.chip.regs ∧ t.mem = s.chip.mem) ∧
    ((s.chip.seCtx x).fifo = [] ∨ s.chip.cx x fCtxEn = 0 →
      ∀ i ∈ [.cmdBad x, .streamAdmit x, .append x, .streamClose x, .adjload x, Instr.adjdrop x], Runs i s fun t => t = s.chip)

/-- The engine takes the command at the head of the FIFO (R254, R337 to R345, R359, R362, R363): ADMIT, with room and for a
stream without an adjunct, gives a new READY stream and a page table with nothing mapped; APPEND gives an IDLE stream its
input; CLOSE frees a stream that is in no step, whose pages wait to be zeroed, and is kept for one that is; ADJLOAD makes the
lowest free version the latest of its identifier and ADJDROP takes it away, freeing it when no stream is bound; each refusal
is reported with its status; a command whose entry lies in a slice in reset waits (logs 44, 62, 63; R269). -/
def Obligations.StreamCommands : Prop :=
  ∀ (s : State) (x : Nat) (m : BitVec 512) (rest : List (BitVec 512)), x < 16 → s.chip.fabricUp = true → s.chip.errs = [] →
    (s.chip.seCtx x).fifo = m :: rest → s.chip.cx x fCtxEn = 1 → cmdBad m = false →
    (let i := cmdF m 8 4 % 2 ^ 20
     i < s.chip.se.entryNext → s.chip.sliceWaits (tableAddr (64 * i) - celAddr 0) 64 = true →
      (cmdF m 0 1 = 2 → Runs (.append x) s fun t => t = s.chip) ∧ (cmdF m 0 1 = 3 → Runs (.streamClose x) s fun t => t = s.chip)) ∧
    ((∀ n, n < 36 → s.chip.bit (pgCEL n) fResetActive = false) →
    let adds := fun (t : Chip) (st : Nat) => ∃ e, (t.seCtx x).out = (s.chip.seCtx x).out ++ [e] ∧ bf e 32 8 = st
    let taken := fun (t : Chip) => (t.seCtx x).fifo = rest ∧ t.regs = s.chip.regs
    let refused := fun (t : Chip) (st : Nat) => taken t ∧ adds t st ∧ t.se.used = s.chip.se.used ∧ t.mem = s.chip.mem
    let named := s.chip.streamNamed x (cmdF m 8 4)
    (cmdF m 0 1 = 1 →
      let asked := s.chip.inputOk x m = true ∧ cmdF m 1 1 % 4 ≠ 3 ∧ cmdF m 24 2 ≤ 64 ∧
        ((cmdF m 1 1).testBit 3 = true → s.chip.cx x fSpecEn = 1)
      (asked → cmdF m 2 2 = 0xFFFF → s.chip.tableFull = false → s.chip.overQuota x = false →
        let i := if s.chip.se.entryNext < 2 ^ 20 then s.chip.se.entryNext else s.chip.se.entryFreed.headD 0
        let slot := lowestFree (s.chip.seCtx x).ptUsed
        s.chip.seDenied x (s.chip.ptAddr x slot 0) (4 * s.chip.cx x fPtlen) true = none → i < 2 ^ 20 → slot < 65535 →
        (∀ a, celAddr (s.chip.ptAddr x slot 0) ≤ a → a < celAddr (s.chip.ptAddr x slot 0) + 4 * s.chip.cx x fPtlen →
          a < tableAddr (64 * i) ∨ tableAddr (64 * i) + 64 ≤ a) →
        Runs (.streamAdmit x) s fun t =>
          taken t ∧ i ∈ t.se.used ∧ slot ∈ (t.seCtx x).ptUsed ∧ t.stState i = 1 ∧ t.stCtx i = x ∧ t.stClass i = cmdF m 1 1 % 4 ∧
          t.stVer i = none ∧ t.st i 8 8 = cmdF m 8 8 ∧ t.st i 36 4 = cmdF m 28 4 ∧ t.st i 40 4 = cmdF m 32 4 ∧ t.st i 52 2 = slot ∧
          (∀ k, k < s.chip.cx x fPtlen → t.pageAt x slot k = none) ∧ adds t 0x10) ∧
      (¬ asked → Runs (.streamAdmit x) s fun t => refused t 0x23) ∧
      (asked → cmdF m 2 2 ≠ 0xFFFF → s.chip.latestOf x (cmdF m 2 2) = none → Runs (.streamAdmit x) s fun t => refused t 0x22) ∧
      (asked → cmdF m 2 2 = 0xFFFF → cmdF m 1 1 % 4 ≠ 0 → s.chip.tableFull = true → Runs (.streamAdmit x) s fun t => refused t 0x20) ∧
      (asked → cmdF m 2 2 = 0xFFFF → cmdF m 1 1 % 4 ≠ 0 → s.chip.tableFull = false → s.chip.overQuota x = true →
        Runs (.streamAdmit x) s fun t => refused t 0x21)) ∧
    (cmdF m 0 1 = 2 →
      (s.chip.inputOk x m = false → Runs (.append x) s fun t => refused t 0x23) ∧
      (s.chip.inputOk x m = true → named = none → Runs (.append x) s fun t => refused t 0x25) ∧
      (∀ i, s.chip.inputOk x m = true → named = some i → s.chip.stState i ≠ 3 → Runs (.append x) s fun t => refused t 0x24) ∧
      (∀ i, s.chip.inputOk x m = true → named = some i → s.chip.stState i = 3 → Runs (.append x) s fun t =>
        taken t ∧ t.stState i = 1 ∧ t.stCtx i = x ∧ t.st i 36 4 = cmdF m 28 4 ∧ t.st i 40 4 = cmdF m 32 4 ∧ t.st i 44 4 = 0 ∧
        SameBytes s.chip t (tableAddr (64 * i)) 64)) ∧
    (cmdF m 0 1 = 3 →
      (named = none → Runs (.streamClose x) s fun t => refused t 0x25) ∧
      (∀ i, named = some i → s.chip.stState i = 2 → Runs (.streamClose x) s fun t =>
        taken t ∧ sget natReset t.se.closing i = 1 ∧ t.se.used = s.chip.se.used ∧ (t.seCtx x).out = (s.chip.seCtx x).out ∧ t.mem = s.chip.mem) ∧
      (∀ i, named = some i → s.chip.stState i ≠ 2 →
        (∀ v, s.chip.stVer i = some v → 2 ≤ (s.chip.version v).refs ∨ s.chip.latestOf (s.chip.version v).ctx (s.chip.version v).adj = some v) →
        let lists := s.chip.ptAddr x (s.chip.cx x fNpt) 0
        s.chip.seDenied x (s.chip.ptAddr x (s.chip.st i 52 2) 0) (4 * s.chip.cx x fPtlen) false = none →
        (s.chip.treeOf i = none ∨
          s.chip.seDenied x lists (s.chip.workBase x + (s.chip.reg (pgCTX x + 0x134)).toNat - lists) true = none) →
        Runs (.streamClose x) s fun t =>
          taken t ∧ i ∉ t.se.used ∧ adds t 0x13 ∧
          (t.seCtx x).zeroDue = (s.chip.seCtx x).zeroDue ++ (s.chip.mainPages x (s.chip.st i 52 2) ++ s.chip.treePages x (s.chip.treeOf i)) ∧
          (∀ v, s.chip.stVer i = some v → (t.version v).refs = (s.chip.version v).refs - 1) ∧
          (s.chip.treeOf i = none → t.stState i = 0 ∧ t.stGen i = (s.chip.stGen i + 1) % 4096 ∧
            SameBytes s.chip t (tableAddr (64 * i)) 4))) ∧
    (cmdF m 0 1 = 4 →
      let image := 4 * cmdF m 28 4
      let rejected := fun (t : Chip) (cause : Nat) => taken t ∧ t.se.vers = s.chip.se.vers ∧ t.mem = s.chip.mem ∧
        ∃ e, (t.seCtx x).out = (s.chip.seCtx x).out ++ [e] ∧ bf e 32 8 = 0x32 ∧ bf e 40 8 = cause
      (s.chip.imageOk x image (cmdF m 32 4) = false → Runs (.adjload x) s fun t => rejected t 1) ∧
      (s.chip.imageOk x image (cmdF m 32 4) = true → s.chip.num (celAddr image) 4 ≠ s.chip.cx x fNtile →
        Runs (.adjload x) s fun t => rejected t 2) ∧
      (s.chip.imageOk x image (cmdF m 32 4) = true → s.chip.num (celAddr image) 4 = s.chip.cx x fNtile →
        (65536 ≤ s.chip.se.vers.length → Runs (.adjload x) s fun t => rejected t 3) ∧
        (s.chip.se.vers.length < 65536 → s.chip.latestOf x (cmdF m 2 2) = none → Runs (.adjload x) s fun t =>
          let v := lowestFree (s.chip.se.vers.map (·.1))
          taken t ∧ t.latestOf x (cmdF m 2 2) = some v ∧ t.version v = ⟨image, x, cmdF m 2 2, 0⟩ ∧ adds t 0x30 ∧
          t.mem = s.chip.mem))) ∧
    (cmdF m 0 1 = 5 →
      (s.chip.latestOf x (cmdF m 2 2) = none → Runs (.adjdrop x) s fun t =>
        taken t ∧ t.se.vers = s.chip.se.vers ∧ (t.seCtx x).out = (s.chip.seCtx x).out ∧ t.mem = s.chip.mem) ∧
      (∀ v, s.chip.latestOf x (cmdF m 2 2) = some v → (s.chip.version v).refs ≠ 0 → Runs (.adjdrop x) s fun t =>
        taken t ∧ t.latestOf x (cmdF m 2 2) = none ∧ t.se.vers = s.chip.se.vers ∧ t.mem = s.chip.mem) ∧
      (∀ v, s.chip.latestOf x (cmdF m 2 2) = some v → (∃ e ∈ s.chip.se.vers, e.1 = v) → (s.chip.version v).refs = 0 →
        (s.chip.version v).ctx = x → (s.chip.version v).adj = cmdF m 2 2 → Runs (.adjdrop x) s fun t =>
          taken t ∧ t.latestOf x (cmdF m 2 2) = none ∧ t.se.vers = sdel s.chip.se.vers v ∧ adds t 0x31 ∧ t.mem = s.chip.mem)))

/-- A context's steps (R114, R118, R269, R335, R336, R347, R353, R354, R365, R366, R405): at a step beat, or after it where
its requests waited for a slice in reset (log 62), a step is formed, here with no stream ready, and waits for its targets; a
beat whose place is taken, or while the engine waits for the ring, is skipped and counted; a head goes into each target slot
that admits it in its place of the order of waiting, waits with a place of its own where the slot does not, and faults at one
that accumulates; the wait for the flag begins after the last; when the flag has reached the oldest step, here one with no
stream, its record joins the ring's queue; a record is written when the ring has room; OUT_TAIL frees room. When the ring is
full is log 17; a head at a slot that accumulates, log 65. A formation with READY streams (R346, R347, R350 to R352, R357; the
body's layout log 23, the head's log 64): with one stream that fits, it is IN_STEP, its step lists it, the head names one
sub-batch, and the body holds each row's record, the row map, the segment of its version, its pending commit; one that does
not fit is delayed for the first cause that applies, and reported. Of several, the guaranteed ones come first, then the others
by deadline and age, then SPOT by age. The result of a step with one stream (R354 to R357, R366 to R368, R396; the parts of
the block that the engine reads, and the entry, log 64): its sample, the accepted node of a one-draft tree, its probability
and its status; positions, generated tokens, next token, state, pending commit; a prefill that has more input goes on; a valid
draft record becomes the next tree, an invalid one is dropped with status TREE_BAD; a stream that ends leaves the table. A bad
word of RFLAG faults the context, one of the result block with POISON_CONSUMED. -/
def Obligations.StepsAndRecords : Prop :=
  (∀ (s : State) (x : Nat), x < 16 → s.chip.fabricUp = true → s.chip.errs = [] → s.chip.poison = [] →
      let depth := s.chip.cx x fDepth
      let no := s.chip.cx x fStepNext
      let since := s.chip.beat - s.chip.get64 (pgCTX x) 0x104
      let comes := s.chip.cx x fCtxEn = 1 ∧ s.chip.get64 (pgCTX x) 0x104 ≤ s.chip.beat ∧ since % s.chip.cx x fStepPeriod = 0 ∧
        (s.chip.seCtx x).nextK ≤ since / s.chip.cx x fStepPeriod
      ((comes ∨ (s.chip.cx x fCtxEn = 1 ∧ (s.chip.seCtx x).due = true) →
        ((∀ p ∈ (s.chip.seCtx x).steps, p.no % depth ≠ no % depth) → s.chip.bit pgSE fOutWait = false →
          (∀ i ∈ s.chip.streamsOf x, s.chip.stState i ≠ 1) → (s.chip.seCtx x).zeroDue = [] → s.chip.shortTarget x 64 = false →
          Runs (.stepFormation x) s fun t =>
            (∃ st : Step, (t.seCtx x).steps = (s.chip.seCtx x).steps ++ [st] ∧ st.no = no ∧ st.beat = s.chip.beat ∧ st.placed = [] ∧
              st.head.length = 64 ∧ st.head.take 4 = bytesOf 4 no ∧ st.targets = s.chip.targetsOf x ∧ st.waits = []) ∧ (t.seCtx x).due = false ∧
            t.cx x fStepNext = (no + 1) % 2 ^ 32 ∧ t.mem = s.chip.mem ∧ SameRegs s.chip t [pgCTX x + 0x1C0])) ∧
        (comes → (∃ p ∈ (s.chip.seCtx x).steps, p.no % depth = no % depth) ∨ s.chip.bit pgSE fOutWait = true → Runs (.stepFormation x) s fun t =>
          (t.seCtx x).steps = (s.chip.seCtx x).steps ∧ t.mem = s.chip.mem ∧ t.regs = s.chip.regs ∧
          t.countOf pgSE (16 * x + 1) = min (s.chip.countOf pgSE (16 * x + 1) + 1) (2 ^ 64 - 1))) ∧
      (¬ comes → (s.chip.seCtx x).due = false ∨ s.chip.cx x fCtxEn = 0 → Runs (.stepFormation x) s fun t => t = s.chip) ∧
      (∀ (p : Step) (tg c n : Nat), (s.chip.seCtx x).steps = [p] → tg ∈ p.targets → c = s.chip.get (pgCTX x) (fTgtCore tg) →
        n = s.chip.get (pgCTX x) (fTgtSlot tg) →
        let place := (p.waits.find? fun w => w.1 = tg).map (·.2)
        let open_ := (s.chip.core c).inReset = false ∧ s.chip.sliceWaits p.body.1 p.body.2 = false
        let may := open_ ∧ s.chip.admits c (place.getD s.chip.waitNo) [(n, true)] = true
        (may → (s.chip.slot c n).acc = 0 → (s.chip.slot c n).init = false → Quiet s.chip c → (s.chip.core c).gather = [] → (s.chip.core c).vane = [] →
          let a := tunAddr c (s.chip.slot c n).base
          Runs (.headWrite x tg) s fun t =>
            (∀ i, ∀ h : i < p.head.length, t.byte (a + i) = p.head[i]) ∧ SameBytes s.chip t a p.head.length ∧
            (t.seCtx x).steps.map (·.targets) = [p.targets.filter (· ≠ tg)] ∧
            ((∀ u ∈ p.targets, u = tg) → (t.seCtx x).steps.map (fun q => (q.began, q.waitTmo)) =
              [(s.chip.edges, s.chip.get pgFLT (fFltWaitTmo x))]) ∧ t.regs = s.chip.regs) ∧
        (¬ may → (s.chip.slot c n).acc = 0 →
          (¬ open_ ∨ place ≠ none → Runs (.headWrite x tg) s fun t => t = s.chip) ∧
          (open_ → place = none → Runs (.headWrite x tg) s fun t =>
            (t.seCtx x).steps = [{ p with waits := p.waits ++ [(tg, s.chip.waitNo)] }] ∧ t.waitNo = s.chip.waitNo + 1 ∧
            t = { s.chip with se := t.se, waitNo := t.waitNo })) ∧
        ((s.chip.slot c n).acc ≠ 0 → s.chip.ctxState x = 1 → Runs (.headWrite x tg) s fun t =>
          t.ctxState x = 2 ∧ (t.seCtx x).steps = [] ∧ t.cx x fCtxEn = 0)) ∧
      (∀ (p : Step) (more : List Step), (s.chip.seCtx x).steps = p :: more →
        let a := s.chip.rflagAddr x / 8 * 8
        let sees := p.targets = [] ∧ s.chip.se.records = [] ∧ s.chip.bit pgSE fOutWait = false ∧ s.chip.sliceWaits a 8 = false
        let flag := BitVec.ofNat 64 (s.chip.num (celAddr a) 8)
        (sees → s.chip.seDenied x a 8 false = none →
          (tkReached flag p.no = false → Runs (.rflagPoll x) s fun t =>
            (t.seCtx x).steps = p :: more ∧ t.se.records = [] ∧ t.regs = s.chip.regs ∧ t.mem = s.chip.mem) ∧
          (tkReached flag p.no = true → p.placed = [] → p.delayed = [] → (s.chip.seCtx x).out = [] → Runs (.rflagPoll x) s fun t =>
            (t.seCtx x).steps.length = more.length ∧
            t.se.records = [⟨x, 1, recordBytes 1 x p.no p.beat s.chip.beat []⟩] ∧ t.mem = s.chip.mem)) ∧
        (¬ sees → Runs (.rflagPoll x) s fun t => (t.seCtx x).steps = p :: more ∧ t.regs = s.chip.regs ∧ t.mem = s.chip.mem)) ∧
      (∀ (r : OutRecord) (more : List OutRecord), s.chip.se.records = r :: more → r.ctx = x →
        s.chip.ringRoom r.bytes.length = true → s.chip.get pgSE fOutHead + r.bytes.length < 2 ^ s.chip.get pgSE fOutLog2 →
        s.chip.get pgSE fOutLog2 ≤ 26 →
        let a := s.chip.get64 pgSE 0x110 + s.chip.get pgSE fOutHead
        Runs (.stepRecordWrite x) s fun t =>
          t.se.records = more ∧ t.get pgSE fOutHead = s.chip.get pgSE fOutHead + r.bytes.length ∧ t.bit pgSE ⟨0x028, 0, 1⟩ = true ∧
          t.bit pgSE fOutWait = (match more with
            | [] => false
            | q :: _ => !(t.ringRoom q.bytes.length)) ∧
          (a % 32 = 0 → ∀ i, ∀ h : i < r.bytes.length, t.byte (physAddr (a + i)) = r.bytes[i])) ∧
      (∀ (r : OutRecord) (more : List OutRecord), s.chip.se.records = r :: more →
        (r.ctx ≠ x → Runs (.stepRecordWrite x) s fun t => t = s.chip) ∧
        (r.ctx = x → s.chip.ringRoom r.bytes.length = false → Runs (.stepRecordWrite x) s fun t =>
          t.se = s.chip.se ∧ t.bit pgSE fOutWait = true ∧ t.mem = s.chip.mem)) ∧
      (s.chip.bit pgSE fResetActive = false → ∀ v : BitVec 32, Runs (.outTailWrite v) s fun t =>
        t.get pgSE fOutTail = v.toNat % 2 ^ 26 ∧ (s.chip.bit pgSE fOutWait = false → t.bit pgSE fOutWait = false) ∧
        SameRegs s.chip t [pgSE + 0x120, pgSE + 0x124] ∧ t.mem = s.chip.mem) ∧
      (s.chip.bit pgSE fResetActive = true → ∀ v : BitVec 32, Runs (.outTailWrite v) s fun t => t = s.chip)) ∧
  ((∀ (s : State) (x i : Nat), x < 16 → s.chip.fabricUp = true → s.chip.errs = [] → s.chip.poison = [] →
      let d := s.chip
      let no := d.cx x fStepNext
      let since := d.beat - d.get64 (pgCTX x) 0x104
      d.cx x fCtxEn = 1 → d.get64 (pgCTX x) 0x104 ≤ d.beat → since % d.cx x fStepPeriod = 0 →
      (d.seCtx x).nextK ≤ since / d.cx x fStepPeriod → d.stepBarred x = false → (d.seCtx x).due = false → (d.seCtx x).zeroDue = [] →
      d.streamsOf x = [i] → d.stState i = 1 → d.stClass i ≤ 2 →
      let line := tableAddr (64 * i) - celAddr 0
      let drafts := d.draftsOf i
      let len := d.st i 28 4
      let slot := d.st i 52 2
      let kind := if d.st i 40 4 ≠ 0 then 0 else if d.stFlag i 3 = true ∧ drafts ≠ [] then 1 else 2
      let n := if kind = 0 then min (d.cx x fChunk) (d.st i 40 4) else if kind = 1 then 1 + drafts.length else 1
      let body := d.bodyBase x + no % d.cx x fDepth * d.cx x fBodyStride
      let ver := d.stVer i
      let mapLen := (n + 63) / 64 * 64
      let segLen := if ver = none then 0 else 64
      let comLen := if d.commitOf i = none then 0 else 64
      let bodyLen := 64 * n + mapLen + segLen + comLen
      let may := fun (a k : Nat) (wr : Bool) => d.seDenied x a k wr = none ∧ d.sliceWaits a k = false
      d.sliceWaits line 64 = false → (kind = 0 → may (4 * d.st i 36 4) (4 * n) false) →
      (d.cx x fMaxStreams ≠ 0 → n ≤ d.cx x fRowsMax → may (d.ptAddr x slot 0) (4 * d.cx x fPtlen) false → may body bodyLen true →
        d.shortTarget x 80 = false → (d.stFlag i 2 = false ∨ ver = none) → d.pagesWanted x i = [] → (kind = 1 → d.treeOf i ≠ none) →
        len + n ≤ 16 * d.cx x fPtlen → (∀ k, k < bodyLen → celAddr body + k ≠ tableAddr (64 * i)) →
        let u := d.setStState i 2
        let pos := fun j => if kind = 0 then len + j else if kind = 1 then len + treeDepth drafts j else len
        let inTree := fun j => kind = 1 ∧ j ≠ 0
        let trees := d.treePages x (d.treeOf i)
        ∀ page : Nat → Nat,
          (∀ j, j < n → (¬inTree j → u.pageAt x slot (pos j / 16) = some (page j)) ∧ (inTree j → trees[j / 16]? = some (page j))) →
          let token := fun j => if kind = 0 then u.num (celAddr (4 * (d.st i 36 4 + j))) 4 else if j = 0 then d.st i 32 4 else treeToken drafts j
          let row := fun j => bytesOf 8 (d.st i 8 8) ++ bytesOf 4 (d.handleOf i) ++ bytesOf 4 no ++ bytesOf 4 (pos j) ++ bytesOf 4 (d.st i 16 4) ++
            bytesOf 4 (d.st i 20 4) ++ bytesOf 2 (d.st i 24 2) ++ bytesOf 2 0 ++ bytesOf 4 (d.handleOf i) ++ bytesOf 4 (token j) ++
            bytesOf 4 (page j) ++ bytesOf 1 (if kind = 1 ∧ j ≠ 0 then j % 16 else pos j % 16) ++ bytesOf 1 (if kind = 1 then j else 0) ++
            bytesOf 1 ((if j = 0 then 1 else 0) + (if kind = 0 ∧ j + 1 ≠ d.st i 40 4 then 0 else 2) + (if kind = 0 then 4 else 0) +
              (if kind = 1 then 8 else 0)) ++
            bytesOf 1 0 ++ bytesOf 8 (if kind = 1 then treeMask drafts j else 0) ++ bytesOf 2 slot ++ bytesOf 2 0 ++ bytesOf 4 len
          let map := List.replicate n (if ver = none then 0xFF else (0 : BitVec 8)) ++ List.replicate (mapLen - n) 0
          let seg := match ver with
            | none => []
            | some v => bytesOf 8 (d.version v).image ++ bytesOf 2 v ++ bytesOf 6 0 ++ List.replicate 48 0
          let commit := match d.commitOf i with
            | none => []
            | some (p, l) => bytesOf 4 (d.handleOf i) ++ bytesOf 2 slot ++ bytesOf 1 l.length ++ bytesOf 1 0 ++ bytesOf 4 p ++
                ((List.range 4).flatMap fun k => bytesOf 4 ((trees[k]?).getD 0)) ++
                ((List.range 15).flatMap fun k => bytesOf 1 ((l[k]?).getD 0)) ++ bytesOf 21 0
          Runs (.stepFormation x) s fun t =>
            (t.seCtx x).steps = (d.seCtx x).steps ++ [{ no := no, beat := d.beat, nrows := n, placed := [⟨i, 0, n, kind, d.stFlag i 3⟩], delayed := [], head := bytesOf 4 no ++ bytesOf 4 1 ++ bytesOf 4 n ++ bytesOf 2 1 ++ bytesOf 2 (comLen / 64) ++ bytesOf 4 0 ++ bytesOf 4 0 ++ bytesOf 8 body ++ bytesOf 8 d.beat ++ bytesOf 4 (64 * n + mapLen + segLen) ++ bytesOf 4 bodyLen ++ bytesOf 16 0 ++ bytesOf 4 0 ++ bytesOf 2 n ++ bytesOf 1 (segLen / 64) ++ bytesOf 1 0 ++ bytesOf 4 (64 * n) ++ bytesOf 4 (64 * n + mapLen), targets := d.targetsOf x, waits := [], began := d.edges, cmdTmo := d.get pgFLT (fFltCmdTmo x), waitTmo := 0, body := (body, bodyLen) }] ∧
            t.stState i = 2 ∧ t.cx x fStepNext = (no + 1) % 2 ^ 32 ∧ t.se.delays = sdel d.se.delays i ∧
            (∀ k, ∀ h : k < ((List.range n).flatMap row ++ map ++ seg ++ commit).length,
              t.byte (celAddr body + k) = ((List.range n).flatMap row ++ map ++ seg ++ commit)[k]) ∧
            (∀ a, a < celAddr body ∨ celAddr body + bodyLen ≤ a → a ≠ tableAddr (64 * i) → t.byte a = d.byte a)) ∧
      (let wanted := (d.pagesWanted x i).length + if kind = 1 ∧ d.treeOf i = none then 4 else 0
       let cause := if d.cx x fMaxStreams = 0 then 1 else if d.cx x fRowsMax < n then 2 else 3
       (cause = 3 → may (d.ptAddr x slot 0) (4 * d.cx x fPtlen) false ∧ d.freePages x < wanted) → d.shortTarget x 64 = false →
       let past := sget natReset d.se.delays i
       Runs (.stepFormation x) s fun t =>
         ∃ st : Step, (t.seCtx x).steps = (d.seCtx x).steps ++ [st] ∧ st.placed = [] ∧ st.nrows = 0 ∧ t.stState i = 1 ∧
           sget natReset t.se.delays i = past + 1 ∧
           (past ≠ 0 → (d.cx x fDlyPeriod = 0 ∨ past % d.cx x fDlyPeriod ≠ 0) → st.delayed = []) ∧
           (past = 0 ∨ (d.cx x fDlyPeriod ≠ 0 ∧ past % d.cx x fDlyPeriod = 0) →
             ∃ e : BitVec 256, st.delayed = [e] ∧ bf e 0 32 = d.handleOf i % 2 ^ 32 ∧ bf e 32 8 = 0x11 ∧ bf e 40 8 = cause ∧
               bf e 64 32 = 0xFFFFFFFF ∧ bf e 128 32 = 1 ∧ bf e 160 32 = d.st i 4 4))) ∧
    (∀ (s : Chip) (x : Nat),
      let o := s.formOrder x
      let age := fun i => (s.st i 60 4, i)
      let rank := fun i => if i ∈ o.1 then 0 else if s.stClass i ≤ 1 then 1 else 2
      let deadline := fun i => if s.stFlag i 5 = true then (2 ^ 40 : Int) else sgn 32 ((s.st i 56 4 + 2 ^ 32 - s.beat % 2 ^ 32) % 2 ^ 32)
      let notAfter := fun (a b : Nat × Nat) => a.1 < b.1 ∨ (a.1 = b.1 ∧ a.2 ≤ b.2)
      let reserved := (s.streamsOf x).filter fun i => s.stState i = 1 && s.stClass i = 0
      (∀ i, i ∈ o.2 ↔ i ∈ s.streamsOf x ∧ s.stState i = 1 ∧ s.stClass i ≤ 2) ∧
      o.1.length = min (s.cx x fResSlots) reserved.length ∧ (∀ i ∈ o.1, i ∈ reserved) ∧
      (∀ i ∈ reserved, i ∉ o.1 → ∀ j ∈ o.1, notAfter (age j) (age i)) ∧
      o.2.Pairwise (fun a b => rank a < rank b ∨ (rank a = rank b ∧
        if rank a = 1 then deadline a < deadline b ∨ (deadline a = deadline b ∧ s.st a 60 4 ≤ s.st b 60 4)
        else notAfter (age a) (age b))))) ∧
  (∀ (s : State) (x : Nat) (p : Step) (e : Placed), x < 16 → s.chip.fabricUp = true → (s.chip.seCtx x).steps = [p] → p.placed = [e] →
      p.targets = [] → p.delayed = [] → s.chip.se.records = [] → s.chip.bit pgSE fOutWait = false → (s.chip.seCtx x).out = [] →
      let d := s.chip
      let i := e.idx
      let flag := d.rflagAddr x / 8 * 8
      let may := fun (a k : Nat) => d.seDenied x a k false = none ∧ d.sliceWaits a k = false
      let block := d.resBase x + p.no % d.cx x fDepth * d.cx x fResStride
      let row := fun j => block + 8 * (e.first + j)
      let draft := block + (8 * p.nrows + 63) / 64 * 64
      let faults := fun (t : Chip) (code : Nat) => t.ctxState x = 2 ∧ t.get pgFLT (fFltFirst x) % 256 = code ∧ t.cx x fCtxEn = 0 ∧
        (t.seCtx x).steps = []
      may flag 8 →
      (d.ctxState x = 1 →
        (∀ code, Meets d (celAddr flag) 8 code → Runs (.rflagPoll x) s fun t => faults t code) ∧
        (tkReached (BitVec.ofNat 64 (d.num (celAddr flag) 8)) p.no = true → d.errs = [] → celAddr flag / 8 ∉ d.poison → e.kind = 2 →
          e.rows = 1 → e.spec = false → may (row 0) 8 → HoldsPoison d (celAddr (row 0)) 8 → Runs (.rflagPoll x) s fun t => faults t 0x04)) ∧
      (tkReached (BitVec.ofNat 64 (d.num (celAddr flag) 8)) p.no = true → d.errs = [] → d.poison = [] →
        d.sliceWaits (tableAddr (64 * i) - celAddr 0) 64 = false → sget natReset d.se.closing i = 0 →
        let len := d.st i 28 4
        let pending := d.st i 40 4
        let made := d.st i 44 4
        let most := d.st i 48 4
        let record := fun (t : Chip) (ws : List (BitVec 256)) => t.se.records = [⟨x, 1, recordBytes 1 x p.no p.beat d.beat ws⟩] ∧
          (t.seCtx x).steps = []
        let entry := fun (w : BitVec 256) (status token accepted : Nat) => bf w 0 32 = d.handleOf i % 2 ^ 32 ∧ bf w 32 8 = status ∧
          bf w 64 32 = token ∧ bf w 192 8 = accepted ∧ bf w 160 32 = d.st i 4 4
        (e.kind = 0 → e.spec = false → e.rows < pending → Runs (.rflagPoll x) s fun t =>
          t.st i 28 4 = (len + e.rows) % 2 ^ 32 ∧ t.st i 40 4 = pending - e.rows ∧ t.st i 36 4 = (d.st i 36 4 + e.rows) % 2 ^ 32 ∧
          t.stState i = 1 ∧ t.st i 44 4 = made ∧ t.commitOf i = none ∧ ∃ w, record t [w] ∧ entry w 0 0xFFFFFFFF 0) ∧
        (let last := if e.kind = 0 then e.rows - 1 else 0
         let grow := if e.kind = 0 then e.rows else 1
         let tok := d.num (celAddr (row last)) 4
         let fail := decide (tok = 0xFFFFFFFF)
         let gen := made + if fail then 0 else 1
         let now := (len + grow) % 2 ^ 32
         let full := decide (16 * d.cx x fPtlen < now + 1)
         let status := if fail then 0x05 else if tok = d.cx x fStopToken then 0x02 else if most ≠ 0 ∧ gen = most then 0x03 else 0x01
         let words := (List.range 64).map fun k => d.num (celAddr (draft + 4 * k)) 4
         (e.kind = 0 ∧ e.rows = pending ∧ e.rows ≠ 0 ∨ e.kind = 2 ∧ e.rows = 1) → may (row last) 8 → (most = 0 ∨ made < most) →
         (e.spec = true → may draft 256 ∧ ∀ j k, j < 256 → k < 64 → celAddr draft + j ≠ tableAddr (64 * i) + k) →
         (full = false → ((status = 2 ∨ status = 3) → d.stFlag i 4 = false) → Runs (.rflagPoll x) s fun t =>
           t.st i 28 4 = now ∧ t.st i 44 4 = gen % 2 ^ 32 ∧ t.st i 32 4 = (if fail then d.st i 32 4 else tok) ∧
           (e.kind = 0 → t.st i 40 4 = 0 ∧ t.st i 36 4 = (d.st i 36 4 + e.rows) % 2 ^ 32) ∧
           t.stState i = (if status = 1 then 1 else 3) ∧ t.commitOf i = none ∧ t.se.used = d.se.used ∧
           (e.spec = true → t.draftsOf i = (draftTree words).getD []) ∧ (e.spec = false → t.draftsOf i = d.draftsOf i) ∧
           ∃ w, record t [w] ∧ entry w (if status = 1 ∧ e.spec = true ∧ draftTree words = none then 6 else status)
             (if fail then 0xFFFFFFFF else tok) 0 ∧ bf w 128 32 = now ∧ (fail = false → bf w 96 32 = d.num (celAddr (row last) + 4) 4)) ∧
         (full = true ∨ ((status = 2 ∨ status = 3) ∧ d.stFlag i 4 = true) → d.st i 54 2 = 0xFFFF → d.stVer i = none → e.spec = false →
           may (d.ptAddr x (d.st i 52 2) 0) (4 * d.cx x fPtlen) → Runs (.rflagPoll x) s fun t =>
           i ∉ t.se.used ∧ t.stState i = 0 ∧ t.stGen i = (d.stGen i + 1) % 4096 ∧ t.commitOf i = none ∧ t.draftsOf i = [] ∧
           ∃ w, record t [w] ∧ entry w (if full then 4 else status) (if fail then 0xFFFFFFFF else tok) 0)) ∧
        (∀ draft1, d.draftsOf i = [(draft1, 0)] → e.kind = 1 → e.rows = 2 → e.spec = false → may (row 0) 16 →
          most = 0 →
          let t0 := d.num (celAddr (row 0)) 4
          let t1 := d.num (celAddr (row 1)) 4
          t0 ≠ 0xFFFFFFFF → t1 ≠ 0xFFFFFFFF → t0 ≠ d.cx x fStopToken → t1 ≠ d.cx x fStopToken → (len + 2) % 2 ^ 32 < 16 * d.cx x fPtlen →
          (len + 1) % 2 ^ 32 < 16 * d.cx x fPtlen →
          (t0 = draft1 → Runs (.rflagPoll x) s fun t =>
            t.st i 28 4 = (len + 2) % 2 ^ 32 ∧ t.st i 44 4 = (made + 2) % 2 ^ 32 ∧ t.st i 32 4 = t1 ∧ t.stState i = 1 ∧
            t.commitOf i = some (len + 1, [1]) ∧ ∃ w v, record t [w, v] ∧ entry w 1 t1 1 ∧ bf w 200 8 = 1 ∧
              bf w 96 32 = d.num (celAddr (row 1) + 4) 4 ∧ bf v 0 32 = d.handleOf i % 2 ^ 32 ∧ bf v 32 8 = 0xFF ∧ bf v 64 32 = t0 ∧
              bf v 96 32 = 0xFFFFFFFF) ∧
          (t0 ≠ draft1 → Runs (.rflagPoll x) s fun t =>
            t.st i 28 4 = (len + 1) % 2 ^ 32 ∧ t.st i 44 4 = (made + 1) % 2 ^ 32 ∧ t.st i 32 4 = t0 ∧ t.stState i = 1 ∧
            t.commitOf i = none ∧ ∃ w, record t [w] ∧ entry w 1 t0 0 ∧ bf w 96 32 = d.num (celAddr (row 0) + 4) 4))))

/-- The vane collector (R383 to R388, R390): EN = 1 clears the counts and, from EN 0, gives each port its valid entries, or is
rejected; EN = 0 closes every occurrence and empties the ports; a report is added to its occurrence, those four behind close
INCOMPLETE, and the last one expected writes the occurrence's record, or drops it when the ring is full; a report that finds
EN 0, or whose occurrence one four beyond it has closed, is not added (log 69). When its ring is full is log 17. -/
def Obligations.VaneCollector : Prop :=
  ∀ (s : State), s.chip.fabricUp = true →
    (s.chip.bit pgVAN fResetActive = true → Runs .vaneEnable s (fun t => t = s.chip) ∧ Runs .vaneDisable s fun t => t = s.chip) ∧
    (s.chip.bit pgVAN fResetActive = false →
      let cleared := fun (t : Chip) => (∀ e, e < 16 → t.countOf pgVAN e = 0) ∧ t.get pgVAN fDropped = 0 ∧ t.mem = s.chip.mem
      (s.chip.bit pgVAN fVanEn = false →
        (s.chip.tagsBad = false → Runs .vaneEnable s fun t =>
          cleared t ∧ t.get pgVAN fVanEn = 1 ∧ t.vaneOpen = [] ∧ t.vaneCnt = [] ∧
          (∀ c, s.chip.present c = true →
            (t.core c).vane = (s.chip.validTags.filter fun e => tagCore e.2 = c).map fun e => (e.1, e.2, (0 : BitVec 64))) ∧
          SameRegs s.chip t [pgVAN + 0x100, pgVAN + 0x12C, pgVAN + 0x130]) ∧
        (s.chip.tagsBad = true → Runs .vaneEnable s fun t =>
          cleared t ∧ t.get pgVAN fVanEn = 0 ∧ t.get pgVAN fTabReject = 1 ∧ t.cores = s.chip.cores ∧
          SameRegs s.chip t [pgVAN + 0x100, pgVAN + 0x12C]) ∧
        Runs .vaneDisable s fun t => t = s.chip) ∧
      (s.chip.bit pgVAN fVanEn = true →
        Runs .vaneEnable s (fun t => cleared t ∧ t.vaneOpen = s.chip.vaneOpen ∧ t.cores = s.chip.cores ∧
          SameRegs s.chip t [pgVAN + 0x12C]) ∧
        Runs .vaneDisable s fun t =>
          t.get pgVAN fVanEn = 0 ∧ t.vaneOpen = [] ∧ (∀ c, s.chip.present c = true → (t.core c).vane = []) ∧
          (∀ q ∈ t.net, bodyKind q.body ≠ 15))) ∧
    (∀ (p : Packet) (rest : List Packet) (entry occ ctx : Nat) (d : BitVec 64), s.chip.net = p :: rest → p.dst = ⟨s.chip.devId, .vane⟩ →
      p.body = .vaneReport entry occ ctx d → s.chip.inRouter p = false →
      (s.chip.bit pgVAN fVanEn = false → Runs (.vaneReportArrive p) s fun t =>
        t = { s.chip with net := rest, routers := eraseHeld p s.chip.routers }) ∧
      (let layer := tagLayer (s.chip.tagEntry entry)
       s.chip.bit pgVAN fVanEn = true → occ + 5 ≤ sget natReset s.chip.vaneHigh layer → Runs (.vaneReportArrive p) s fun t =>
        t.vaneOpen = s.chip.vaneOpen ∧ t.net = rest ∧ t.regs = s.chip.regs ∧ t.mem = s.chip.mem) ∧
      (let layer := tagLayer (s.chip.tagEntry entry)
       s.chip.bit pgVAN fVanEn = true → sget natReset s.chip.vaneHigh layer < occ + 5 →
        let expect := s.chip.vaneExpect layer
        let ring := s.chip.get64 pgVAN 0x118 + s.chip.get pgVAN fVanHead
        let head := fun n => (s.chip.get pgVAN fVanHead + 32 * n) % 2 ^ s.chip.get pgVAN fVanLog2 % 2 ^ 24
        let record := fun o inc => vaneRecord o inc s.chip.vaneLost s.chip.beat expect
        (s.chip.vaneOpen = [] → 2 ≤ expect → Runs (.vaneReportArrive p) s fun t =>
          t.vaneOpen = [⟨layer, occ, d, 1, ctx⟩] ∧ occ + 1 ≤ sget natReset t.vaneHigh layer ∧ t.net = rest ∧ t.regs = s.chip.regs ∧
          t.mem = s.chip.mem) ∧
        (∀ d0 n c0, s.chip.vaneOpen = [⟨layer, occ, d0, n, c0⟩] →
          let now : VaneOcc := ⟨layer, occ, d0 + d, n + 1, if n = 0 then ctx else c0⟩
          (n + 1 < expect → Runs (.vaneReportArrive p) s fun t =>
            t.vaneOpen = [now] ∧ t.net = rest ∧ t.regs = s.chip.regs ∧ t.mem = s.chip.mem) ∧
          (expect ≤ n + 1 → s.chip.vaneRoom = true → Runs (.vaneReportArrive p) s fun t =>
            t.vaneOpen = [] ∧ t.get pgVAN fVanHead = head 1 ∧ t.bit pgVAN ⟨0x028, 0, 1⟩ = true ∧ t.vaneLost = false ∧
            (∀ i, ∀ h : i < (record now false).length, t.byte (physAddr ring + i) = (record now false)[i]) ∧ t.net = rest) ∧
          (expect ≤ n + 1 → s.chip.vaneRoom = false → Runs (.vaneReportArrive p) s fun t =>
            t.vaneOpen = [] ∧ t.vaneLost = true ∧ t.get pgVAN fDropped = min (s.chip.get pgVAN fDropped + 1) (2 ^ 32 - 1) ∧
            t.bit pgVAN ⟨0x028, 2, 1⟩ = true ∧ t.mem = s.chip.mem ∧ t.net = rest)) ∧
        (∀ o0 d0 n c0, s.chip.vaneOpen = [⟨layer, o0, d0, n, c0⟩] → o0 + 4 ≤ occ → 2 ≤ expect → s.chip.vaneRoom = true →
          Runs (.vaneReportArrive p) s fun t =>
            t.vaneOpen = [⟨layer, occ, d, 1, ctx⟩] ∧ t.get pgVAN fVanHead = head 1 ∧ t.bit pgVAN ⟨0x028, 1, 1⟩ = true ∧
            (∀ i, ∀ h : i < (record ⟨layer, o0, d0, n, c0⟩ true).length,
              t.byte (physAddr ring + i) = (record ⟨layer, o0, d0, n, c0⟩ true)[i]) ∧ t.net = rest)))

/-- The commands of the security engine (R454, R456 to R460): what each does, burns and answers, and its status, when the
engine is free (when its effect takes place is log 30, its statuses at the edges log 70, its keys and signatures log 15); a
command to a busy engine is ignored and sets OVERRUN; the end of a command shows its status. What a signature covers is log
23. -/
def Obligations.SecurityCommands : Prop :=
  ∀ (s : State), s.chip.up = true →
    let sec := s.chip.sec
    let same := fun (t : Chip) => SameRegs s.chip t [pgSEC + 0x104]
    let only := fun (i : Instr) (otp : List Nat) (status : Nat) => SecStarts i s otp status fun t => same t ∧ t.sec = { sec with status := some status }
    (∀ (nonce d : BitVec 256) (k n : Nat) (a b : List (BitVec 8)),
      s.chip.bit pgSEC fSecBusy = true → ∀ i ∈ [.quote nonce, .cert, .extend k d, .challenge, .unlock a n b, .setDebug k a, .claimOwner d,
        .rotateOwner d a, .rotateVendor d a, .setSvn k, .setKilnMem k a, .updateBegin a, Instr.updateEnd], Runs i s fun t =>
      t.get pgSEC fSecOverrun = 1 ∧ same t ∧ t.sec = sec ∧ t.mem = s.chip.mem ∧ t.resp = s.chip.resp) ∧
    (∀ st, sec.status = some st → st < 8 → Runs .secCommandEnd s fun t =>
      t.get pgSEC fSecBusy = 0 ∧ t.get pgSEC fSecResult = st ∧ t.bit pgSEC ⟨0x028, 0, 1⟩ = true ∧ t.sec = { sec with status := none } ∧
      SameRegs s.chip t [pgSEC + 0x104, pgSEC + 0x028] ∧ t.mem = s.chip.mem) ∧
    (sec.status = none → Runs .secCommandEnd s fun t => t = s.chip) ∧
    (∀ r, sec.range = some r → sec.booted = true → sec.ready = false → s.chip.get pgSEC fLeavesLeft ≠ 0 →
      Runs .perBootKeyCertified s fun t =>
        t.sec.ready = true ∧ t.sec.spent = 0 ∧ t.sec.keys = sec.keys + 1 ∧
        t.get pgSEC fLeavesLeft = s.chip.get pgSEC fLeavesLeft - 1 ∧ SameRegs s.chip t [pgSEC + 0x110] ∧ t.mem = s.chip.mem) ∧
    (sec.range = none ∨ sec.booted = false ∨ sec.ready = true ∨ s.chip.get pgSEC fLeavesLeft = 0 →
      Runs .perBootKeyCertified s fun t => t = s.chip) ∧
    (s.chip.bit pgSEC fSecBusy = false →
      (∀ nonce : BitVec 256, (sec.range = none → only (.quote nonce) s.otp 4) ∧
        (∀ r, sec.range = some r → sec.ready = false →
          only (.quote nonce) s.otp (if s.chip.get pgSEC fLeavesLeft = 0 then 4 else 2)) ∧
        (∀ r, sec.range = some r → sec.ready = true → SecStarts (.quote nonce) s s.otp 0 fun t =>
          same t ∧ t.sec.spent = sec.spent + 1 ∧ t.sec.ready = decide (sec.spent + 1 < 1024) ∧
          t.resp = Config.xmssSign (1 + 256 * r + (sec.keys - 1)) sec.spent
            (sha (bytesOf 32 nonce.toNat ++ (List.range 8).flatMap s.chip.meas)))) ∧
      (sec.range = none → only .cert s.otp 4) ∧ (sec.range ≠ none → sec.cert = [] → only .cert s.otp 2) ∧
      (sec.range ≠ none → sec.cert ≠ [] → SecStarts .cert s s.otp 0 fun t => same t ∧ t.resp = sec.cert) ∧
      (∀ (k : Nat) (d : BitVec 256), (2 ≤ k → k ≤ 7 → SecStarts (.extend k d) s s.otp 0 fun t =>
          (∀ j, j < 8 → t.reg (pgSEC + 0x140 + 32 * k + 4 * j) =
            BitVec.ofNat 32 (natOf (((sha (s.chip.meas k ++ bytesOf 32 d.toNat)).drop (4 * j)).take 4))) ∧
          SameRegs s.chip t ((pgSEC + 0x104) :: (List.range 8).map fun j => pgSEC + 0x140 + 32 * k + 4 * j)) ∧
        (k < 2 ∨ 7 < k → only (.extend k d) s.otp 1)) ∧
      SecStarts .challenge s s.otp 0 (fun t => same t ∧ ∃ n : BitVec 256, t.sec.nonce = some n ∧
        t.resp = bytesOf 32 n.toNat ++ s.chip.serialBytes ++ bytesOf 2 (s.chip.get pgSEC fAttestRange)) ∧
      (∀ (key : List (BitVec 8)) (scope : Nat) (sig : List (BitVec 8)),
        let spent := fun (t : Chip) => t.sec.nonce = none ∧ SameRegs s.chip t [pgSEC + 0x104, pgSEC + 0x108]
        let admitted := ∃ g n, activeGen s.otp ownerBase = some g ∧ sec.nonce = some n ∧ sha key = genHash s.otp ownerBase g ∧
          Config.xmssVerify (genHash s.otp ownerBase g) (sha (bytesOf 32 n.toNat ++ s.chip.serialBytes ++
            bytesOf 2 (s.chip.get pgSEC fAttestRange) ++ bytesOf 4 scope)) sig = true
        (s.chip.get pgSEC fSecDbg = 2 → SecStarts (.unlock key scope sig) s s.otp 3 spent) ∧
        (s.chip.get pgSEC fSecDbg ≠ 2 → admitted → SecStarts (.unlock key scope sig) s s.otp 0 fun t =>
          spent t ∧ t.get pgSEC fSecUnlocked = 1 ∧ t.sec.scope = scope) ∧
        (s.chip.get pgSEC fSecDbg ≠ 2 → ¬ admitted → SecStarts (.unlock key scope sig) s s.otp 1 fun t =>
          spent t ∧ t.get pgSEC fSecUnlocked = s.chip.get pgSEC fSecUnlocked)) ∧
      (∀ step sig, let signed := signedBy s.otp ownerBase 0x11 (bytesOf 1 step) sig ≠ some false
        (step ≠ 1 ∧ step ≠ 2 ∨ ¬ signed → only (.setDebug step sig) s.otp 1) ∧
        (step = 1 ∨ step = 2 → signed → step ≤ otpPolicy s.otp → only (.setDebug step sig) s.otp 2) ∧
        (step = 1 ∨ step = 2 → signed → otpPolicy s.otp < step →
          only (.setDebug step sig) (otpBurn s.otp [3197 + 3 * step, 3198 + 3 * step, 3199 + 3 * step]) 0)) ∧
      (∀ (hash : BitVec 256), ((∃ g, g < 4 ∧ genWritten s.otp ownerBase g = true) → only (.claimOwner hash) s.otp 2) ∧
        ((∀ g, g < 4 → genWritten s.otp ownerBase g = false) →
          (genStarted s.otp ownerBase 0 = true → only (.claimOwner hash) s.otp 4) ∧
          (genStarted s.otp ownerBase 0 = false → only (.claimOwner hash) (otpBurn s.otp (genBits ownerBase 0 hash.toNat)) 0))) ∧
      (∀ (hash : BitVec 256) (sig : List (BitVec 8)),
        ∀ r ∈ [(ownerBase, 0x21, Instr.rotateOwner hash sig), (vendorBase, 0x24, Instr.rotateVendor hash sig)],
        let signed := signedBy s.otp r.1 r.2.1 (bytesOf 32 hash.toNat) sig
        (activeGen s.otp r.1 = none → only r.2.2 s.otp 2) ∧ (signed = some false → only r.2.2 s.otp 1) ∧
        (signed = some true → nextGen s.otp r.1 = none → only r.2.2 s.otp 4) ∧
        (∀ a g, activeGen s.otp r.1 = some a → signed = some true → nextGen s.otp r.1 = some g →
          only r.2.2 (otpBurn s.otp (genBits r.1 g hash.toNat ++ [r.1 + 264 * a + 258])) 0)) ∧
      (∀ v, (sec.booted = false → only (.setSvn v) s.otp 2) ∧
        (sec.booted = true → v < otpSvn s.otp ∨ sec.svn < v → only (.setSvn v) s.otp 1) ∧
        (sec.booted = true → otpSvn s.otp ≤ v → v ≤ sec.svn →
          only (.setSvn v) (otpBurn s.otp ((otpFree s.otp 3216 64).take (v - otpSvn s.otp))) 0)) ∧
      (∀ code sig, let signed := signedBy s.otp ownerBase 0x23 (bytesOf 1 code) sig
        let good := 1 ≤ code ∧ code ≤ 8
        (¬ good ∨ signed = some false → only (.setKilnMem code sig) s.otp 1) ∧ (good → signed = none → only (.setKilnMem code sig) s.otp 2) ∧
        (good → signed = some true → otpBit s.otp 3292 = true → only (.setKilnMem code sig) s.otp 4) ∧
        (good → signed = some true → otpBit s.otp 3292 = false → only (.setKilnMem code sig) (otpBurn s.otp
          (if otpBit s.otp 3284 = true then onesOf code 3288 4 ++ [3292] else onesOf code 3280 4 ++ [3284])) 0)) ∧
      (∀ header, (headerError s.otp header = none → SecStarts (.updateBegin header) s s.otp 0 fun t => same t ∧ t.sec.session = true) ∧
        (headerError s.otp header ≠ none → only (.updateBegin header) s.otp 1)) ∧
      (sec.session = true → SecStarts .updateEnd s s.otp 0 fun t => same t ∧ t.sec.session = false) ∧
      (sec.session = false → only .updateEnd s.otp 2))

/-- The sources of the interrupt controller (R441, R443, R452, R474): after a write of INT_SET that sets a bit, the source of
the block is asserted exactly where an enabled bit of one of its pages is set; a tray controller's command asserts source 208,
the first expiry of a watchdog its own source and a kick takes that back; the reserved sources and those of absent cores and
ports are never asserted. What of the controller lies in the kiln is log 36; what takes back source 208, log 85. -/
def Obligations.InterruptSources : Prop :=
  ∀ (s : State),
    let level := fun (page : Nat) (mask : BitVec 32) =>
      ((s.chip.reg (page + 0x028) ||| (mask &&& BitVec.ofNat 32 (intBits page))) &&& s.chip.reg (page + 0x02C)) ≠ 0
    let free := fun (page : Nat) => s.chip.pageThere page = true ∧ s.chip.pageInReset page = false
    (s.chip.up = true → ∀ mask : BitVec 32,
      (∀ c k, s.chip.present c = true → k < 7 → free (pgSEQ c + 0x1000 * k) → Runs (.intSet (pgSEQ c + 0x1000 * k) mask) s fun t =>
        (t.irqSource (c + 1) = true ↔ level (pgSEQ c + 0x1000 * k) mask ∨
          ∃ j, j < 7 ∧ j ≠ k ∧ s.chip.get (pgSEQ c + 0x1000 * j) fIntStat &&& s.chip.get (pgSEQ c + 0x1000 * j) fIntEn ≠ 0) ∧
        SameRegs s.chip t [pgSEQ c + 0x1000 * k + 0x028]) ∧
      (∀ n, n < 36 → free (pgCEL n) → Runs (.intSet (pgCEL n) mask) s fun t => (t.irqSource (145 + n) = true ↔ level (pgCEL n) mask)) ∧
      (∀ p, s.chip.portPresent p = true → free (pgLNK p) → Runs (.intSet (pgLNK p) mask) s fun t =>
        (t.irqSource (181 + p) = true ↔ level (pgLNK p) mask)) ∧
      (∀ e ∈ [(197, pgLKC), (198, pgSE), (199, pgVAN), (200, pgFLT), (201, pgGOV), (202, pgCLK), (203, pgTHM), (204, pgBEAT), (205, pgGERP),
          (206, pgMGT), (207, pgSEC)], free e.2 → Runs (.intSet e.2 mask) s fun t => (t.irqSource e.1 = true ↔ level e.2 mask))) ∧
    (s.chip.up = true → s.chip.board.input = true → ∀ off, Runs (.readFru off) s fun t => t.irqSource 208 = true) ∧
    (s.chip.up = true → ∀ k, k < 8 →
      (s.chip.get pgKLN (fWdogLoad k) ≠ 0 → Runs (.wdogFirstExpiry k) s fun t => t.irqSource (209 + k) = true) ∧
      (s.chip.bit pgKLN fResetActive = false → ∀ mask : BitVec 8, mask.getLsbD k = true → Runs (.wdogKick mask) s fun t =>
        t.irqSource (209 + k) = false)) ∧
    (∀ n, n = 0 ∨ 217 ≤ n → s.chip.irqSource n = false) ∧
    (∀ c, c < 144 → s.chip.present c = false → s.chip.irqSource (c + 1) = false) ∧
    (∀ p, p < 16 → s.chip.portPresent p = false → s.chip.irqSource (181 + p) = false)
end

