-- ==== Sys2Proof/Laws/Cells.lean ====
section
/-! SUPPORT. What a built cell header reads back (R310). -/

namespace Sys2Proof.Machine

theorem crcStep_lt (c : Nat) (b : Bool) : crcStep c b < 2 ^ 16 := by
  have h : c * 2 % 2 ^ 16 < 2 ^ 16 := Nat.mod_lt _ (by decide)
  unfold crcStep
  split
  · exact Nat.xor_lt_two_pow h (by decide)
  · exact h

theorem crcFold_lt (f : Nat → Bool) (l : List Nat) : ∀ c, c < 2 ^ 16 → l.foldl (fun c i => crcStep c (f i)) c < 2 ^ 16 := by
  induction l with
  | nil => exact fun c h => h
  | cons i l ih => exact fun c _ => ih _ (crcStep_lt _ _)

/-- The check has 16 bits. -/
theorem hcrc_lt (h : BitVec 128) : hcrc h < 2 ^ 16 := crcFold_lt _ _ _ (by decide)

/-- The check reads none of the low 16 bits. -/
theorem hcrc_add (n k : Nat) (hk : k < 2 ^ 16) : hcrc (BitVec.ofNat 128 (n * 2 ^ 16 + k)) = hcrc (BitVec.ofNat 128 (n * 2 ^ 16)) := by
  have e : ∀ (l : List Nat) (c : Nat), (∀ i ∈ l, i < 112) →
      l.foldl (fun c i => crcStep c ((BitVec.ofNat 128 (n * 2 ^ 16 + k)).getLsbD (127 - i))) c =
      l.foldl (fun c i => crcStep c ((BitVec.ofNat 128 (n * 2 ^ 16)).getLsbD (127 - i))) c := by
    intro l
    induction l with
    | nil => intro c _; simp only [List.foldl_nil]
    | cons i l ih =>
      intro c hl
      have hi := hl i (by simp)
      have hb : (BitVec.ofNat 128 (n * 2 ^ 16 + k)).getLsbD (127 - i) = (BitVec.ofNat 128 (n * 2 ^ 16)).getLsbD (127 - i) := by
        obtain ⟨j, hj⟩ : ∃ j, 127 - i = 16 + j := ⟨111 - i, by omega⟩
        have h1 : (n * 2 ^ 16 + k) / 2 ^ (16 + j) = n * 2 ^ 16 / 2 ^ (16 + j) := by
          have h2 : (n * 2 ^ 16 + k) / 2 ^ 16 = n * 2 ^ 16 / 2 ^ 16 := by omega
          rw [Nat.pow_add, ← Nat.div_div_eq_div_mul, ← Nat.div_div_eq_div_mul, h2]
        simp only [BitVec.getLsbD_ofNat, hj, Nat.testBit_eq_decide_div_mod_eq, h1]
      simp only [List.foldl_cons, hb]
      exact ih _ (fun x hx => hl x (by simp [hx]))
  exact e _ _ (fun i hi => by simpa using hi)

/-- What stands over the check in a header. -/
def LinkCell.upper (x : LinkCell) : Nat :=
  x.type % 16 * 2 ^ 108 + x.dst % 1024 * 2 ^ 98 + x.src % 1024 * 2 ^ 88 + x.flow % 64 * 2 ^ 82 +
    x.lseq % 4096 * 2 ^ 70 + x.len % 512 * 2 ^ 61 + x.ttl % 32 * 2 ^ 56 + x.poison.toNat * 2 ^ 24 + x.info % 2 ^ 24

theorem header_toNat (x : LinkCell) : x.header.toNat = x.upper * 2 ^ 16 + hcrc (BitVec.ofNat 128 (x.upper * 2 ^ 16)) := by
  have hc := hcrc_lt (BitVec.ofNat 128 (x.upper * 2 ^ 16))
  have hp := x.poison.isLt
  have hu : x.upper < 2 ^ 112 := by unfold LinkCell.upper; omega
  have e : x.type % 16 * 2 ^ 124 + x.dst % 1024 * 2 ^ 114 + x.src % 1024 * 2 ^ 104 + x.flow % 64 * 2 ^ 98 +
    x.lseq % 4096 * 2 ^ 86 + x.len % 512 * 2 ^ 77 + x.ttl % 32 * 2 ^ 72 + x.poison.toNat * 2 ^ 40 + x.info % 2 ^ 24 * 2 ^ 16 =
      x.upper * 2 ^ 16 := by unfold LinkCell.upper; omega
  simp only [LinkCell.header, e, BitVec.toNat_ofNat]
  omega

theorem bf_toNat (h : BitVec 128) (lo len : Nat) : bf h lo len = h.toNat / 2 ^ lo % 2 ^ len := by
  simp [bf, BitVec.extractLsb'_toNat, Nat.shiftRight_eq_div_pow]

/-- A header that a port builds passes the check. -/
theorem hcGood_header (x : LinkCell) : hcGood x.header = true := by
  have hc := hcrc_lt (BitVec.ofNat 128 (x.upper * 2 ^ 16))
  have hx : x.header = BitVec.ofNat 128 (x.upper * 2 ^ 16 + hcrc (BitVec.ofNat 128 (x.upper * 2 ^ 16))) := by
    rw [← header_toNat]; simp
  have e : hcrc x.header = hcrc (BitVec.ofNat 128 (x.upper * 2 ^ 16)) := by
    rw [hx]; exact hcrc_add _ _ hc
  simp only [hcGood, e, bf_toNat, header_toNat, decide_eq_true_eq]
  omega

theorem hcType_header (x : LinkCell) : hcType x.header = x.type % 16 := by
  have hc := hcrc_lt (BitVec.ofNat 128 (x.upper * 2 ^ 16))
  have hp := x.poison.isLt
  simp only [hcType, bf_toNat, header_toNat]
  unfold LinkCell.upper at *
  omega

theorem hcLseq_header (x : LinkCell) : hcLseq x.header = x.lseq % 4096 := by
  have hc := hcrc_lt (BitVec.ofNat 128 (x.upper * 2 ^ 16))
  have hp := x.poison.isLt
  simp only [hcLseq, bf_toNat, header_toNat]
  unfold LinkCell.upper at *
  omega

theorem hcInfo_header (x : LinkCell) : hcInfo x.header = x.info % 2 ^ 24 := by
  have hc := hcrc_lt (BitVec.ofNat 128 (x.upper * 2 ^ 16))
  simp only [hcInfo, bf_toNat, header_toNat]
  unfold LinkCell.upper at *
  omega

end Sys2Proof.Machine
end

