-- ==== Sys2Proof/Tests/Slice0.lean ====
section
/-! SUPPORT. Small checks of the model, and for every statement a state and operands that meet its hypotheses. -/

namespace Sys2Proof.Tests

open Machine

set_option maxRecDepth 10000
set_option exponentiation.threshold 600

/-- Core 0 runs, and its first instruction is `w`. -/
def running (w : IWord) : Chip :=
  ((Chip.reset.put (pgSEQ 0) fSeqState sqRUNNING).updCore 0 fun k => k.setBlock 0 2).storeNum (imAddr 0 0) 16 w.toNat

/-- A word of opcode `op` with the fields (lowest bit, value). -/
def word (op : Nat) (l : List (Nat × Nat)) : IWord := BitVec.ofNat 128 (op * 2 ^ 120 + (l.map fun p => p.2 * 2 ^ p.1).sum)

/-- The machine with an empty queue and no OTP bit burnt. -/
def mach (s : Chip) : State := ⟨[], [], s⟩

/-- `Takes` as a test. -/
def takesOk (s : Chip) (c : Nat) (w : IWord) : Bool :=
  decide (c < 144) && s.fabricUp && s.mayIssue c w && decide (s.fetch c = .word w) && opDefined (opcode w) && !(resvBad w) &&
  !(s.pendingIn c (s.predCounters c w)) && s.condHolds c w && !(s.pendingIn c (readsCounters w)) && (s.issueBad c w).isNone &&
  decide (s.errs = [])

theorem takes_of {s : Chip} {c : Nat} {w : IWord} (h : takesOk s c w = true) : Takes s c w := by
  simp only [takesOk, Bool.and_eq_true, decide_eq_true_eq, Bool.not_eq_true', Option.isNone_iff_eq_none] at h
  obtain ⟨⟨⟨⟨⟨⟨⟨⟨⟨⟨h1, h2⟩, h3⟩, h4⟩, h5⟩, h6⟩, h7⟩, h8⟩, h9⟩, h10⟩, h11⟩ := h
  exact ⟨h1, h2, h3, h4, Chip.noteFetch_sound s c h11, h5, h6, h7, h8, h9, h10⟩

/-- A core at rest, as a test. -/
def restOk (s : Chip) (c : Nat) : Bool :=
  decide ((s.core c).q = []) && decide ((s.core c).run = []) && decide (s.slotsOf c = []) && decide ((s.core c).gather = []) &&
  decide ((s.core c).vane = []) && decide (s.poison = []) && decide (s.errs = [])

theorem rest_of {s : Chip} {c : Nat} (h : restOk s c = true) : AtRest s c := by
  simp only [restOk, Bool.and_eq_true, decide_eq_true_eq] at h
  obtain ⟨⟨⟨⟨⟨⟨h1, h2⟩, h3⟩, h4⟩, h5⟩, h6⟩, h7⟩ := h
  exact ⟨h1, h2, h3, h4, h5, h6, h7⟩

theorem quiet_of {s : Chip} {c : Nat} (h : (s.core c).q = [] ∧ (s.core c).running uSYNC = []) : Quiet s c := ⟨h.1, h.2⟩

theorem arriving_of {s : Chip} {c : Nat} {p : Packet} {rest : List Packet}
    (h : c < 144 ∧ s.fabricUp = true ∧ s.net = p :: rest ∧ s.inRouter p = false ∧ p.dst = s.coreNode c) : Arriving s c p rest :=
  ⟨h.1, h.2.1, h.2.2.1, h.2.2.2.1, h.2.2.2.2⟩

/-! ## Ill-formed commands, one for each check of WellFormed -/

/-- A packet between two nodes. -/
def between (a b : Node) : Packet := ⟨a, b, .nwrAck 3⟩
def badPackets : List Packet :=
  [between ⟨1024, .kiln⟩ ⟨0, .kiln⟩, between ⟨0, .kiln⟩ ⟨1024, .kiln⟩, between ⟨0, .core 144⟩ ⟨0, .kiln⟩, between ⟨0, .kiln⟩ ⟨0, .slice 64⟩]
def goodPacket : Packet := between ⟨1023, .slice 63⟩ ⟨0, .core 143⟩
/-- None of these is well formed. -/
def refused (l : List Instr) : Bool := l.all fun i => !i.WellFormed

theorem test_refuses_words : refused (issueRows.map fun r => r.2 144 (word r.1 [])) = true ∧
    refused (issueRows.map fun r => r.2 0 (word 0x12 [])) = true ∧
    refused [.undefinedOpcode 144 (word 0x12 []), .undefinedOpcode 0 (word 0xCB []), .openReceiveEnd 0 (word 0x60 []),
      .openSendEnd 0 (word 0x60 [(67, 1)])] = true := by decide
theorem test_accepts_words : (issueRows.all fun r => (r.2 143 (word r.1 [])).WellFormed) = true ∧
    (Instr.undefinedOpcode 143 (word 0x12 [])).WellFormed = true ∧ (Instr.openReceiveEnd 143 (word 0x60 [(67, 1)])).WellFormed = true := by
  decide
theorem test_refuses_cores : refused [.endComplete 144, .cldComplete 144 0, .cldComplete 0 16, .ovlLoadDone 144 0, .imageLoad 144 0 1 0,
    .imageLoadDone 144 0, .overrunLimit 144, .fenceMet 144, .cwaitComplete 144, .waitarrMet 144, .queueFullResume 144, .relTokenDelivery 144,
    .acqCellarPoll 144, .drainProbeReply 144 0, .acquireComplete 144 none, .creditGranted 144, .cellarLineRequest 144 0 0,
    .cellarLineReturn 144 0 0, .nwrRankRetry 144 0, .openRetry 144 0, .sendStart 144, .recvTake 144 0, .columnGroupDrain 144,
    .adjunctGroupDone 144, .vectorCmdComplete 144] = true := by decide
theorem test_refuses_more_cores : refused [.slotAdmission 144 1 0, .slotAdmission 0 8 0, .producerDone 144 0, .producerDone 0 4096,
    .countedReadDone 144 0, .countedReadDone 0 4096, .waitTimeout 144, .coreStart 144, .start 144, .holdSet 144, .holdClear 144,
    .imDebugWrite 144 0 4 0, .tileDescWindowWrite 144 0 4 0, .slotDescWindowWrite 144 0 4 0, .flushAll 144, .kprobeGo 144 0,
    .tunApertureAccess 144 (.read 0 4), .engineFreset 144 1, .engineFreset 0 0, .engineFreset 0 6, .coreFreset 144] = true := by decide
theorem test_refuses_waits_and_resets : refused ([WaitRef.seq 144, .command 144 0 0, .command 0 8 0, .drain 144, .streamWrite 16, .stepFlag 16].map
      .commandTimeout) = true ∧
    refused ([ResetTarget.engine 144 1, .engine 0 6, .core 144, .cluster 36, .port 16].map .fresetDone) = true := by decide
theorem test_refuses_packets : (badPackets.all fun p => refused [.drainProbeArrive p, .acquireComplete 0 (some p), .nwCreditArrive p,
    .nwCreditReturn p, .nwrRequestArrive p, .nwrDataArrive p, .nwrAck p, .openRequestArrive p, .openReplyArrive p, .closeNoticeArrive p,
    .messageArrive p, .deliveryAckArrive p, .channelCreditReturn p, .packetHop 0 0 0 p 0, .vaneReportArrive p, .nwrAdmissionArrive p,
    .revokeRequestArrive p, .dataCellReceive 0 0 [p]]) = true ∧
    refused [.packetHop 12 0 0 goodPacket 0, .packetHop 0 12 0 goodPacket 0, .packetHop 0 0 5 goodPacket 0] = true ∧
    (Instr.packetHop 11 11 4 goodPacket 0).WellFormed = true := by decide
theorem test_refuses_slices : refused [.extOwnWrite 36 0 0, .extOwnWrite 0 32 0, .extentScrubStart 36 0, .extentScrubStart 0 128, .extentScrubDone 36,
    .refreshBurst 36 ⟨0, 0⟩, .refreshBurst 0 ⟨2, 0⟩, .forcedBurst 36 0, .forcedBurst 0 2, .refPolicyWrite 36 0, .clusterFreset 36, .gust 42 false,
    .sensorConversion [], .wdogFirstExpiry 8, .wdogSecondExpiry 8 ⟨false, false, true, []⟩, .routeTableWrite 1024 0, .registerWrite 0 (.other 4),
    .registerWrite 0 (.other 8)] = true := by decide
theorem test_refuses_contexts : refused [.activate 16, .stop 16, .clear 16, .clearDone 16, .release 16, .partitionScrubDone 16, .ctxEnable 16,
    .ctxDisable 16, .commandSubmit 16 0, .streamAdmit 16, .append 16, .streamClose 16, .adjload 16, .adjdrop 16, .cmdBad 16, .stepFormation 16,
    .headWrite 16 0, .headWrite 0 16, .rflagPoll 16, .stepRecordWrite 16] = true := by decide
theorem test_refuses_ports : refused [.markerReceive 16 ⟨0, 0, 800, 0, 0, 0⟩ 0, .portFreset 16, .trainEnWrite 16 true, .restore 16,
    .restoreTrainTimeout 16, .laneTrainingDone 16 0, .narrowWidthTimeout 16, .trainingTimeout 16, .alignLock 16, .alignTimeout 16,
    .delayMeasured 16 0 0 0 0, .delayRemeasure 16, .badCellReceive 16 .hcrc, .creditCellReceive 16 true 1, .ackReceive 16 0,
    .nakReceive 16 0 none, .idleCellReceive 16, .cellTransmit 16 0 ⟨true, []⟩, .cellTransmit 0 32 ⟨true, []⟩, .cellTransmit 0 0 ⟨true, List.replicate 33 0⟩, .slotGroupEnd 16 0, .slotGroupEnd 0 32,
    .ackTimer 16, .nakHoldoffExpire 16, .ackTimeout 16 none, .degrade 16 0, .degradeDone 16, .lossOfSignal 16 0, .portDown 16 1,
    .downHoldExpire 16, .restoreLanesTrained 16, .laneAdaptationDone 16] = true := by decide
theorem test_refuses_cells : refused [.controlCellReceive 16 0 .down, .dataCellReceive 16 0 []] = true ∧
    (Instr.dataCellReceive 15 0 [goodPacket]).WellFormed = true := by decide

/-! ## Counters, descriptors, comparators -/

/-- Core 0 runs `w` with counters 3 and 4 at 2^32 - 1 and 7. -/
def counting (w : IWord) : Chip := ((running w).setReg (pgSEQ 0 + 0x16C) 0xFFFFFFFF).setReg (pgSEQ 0 + 0x170) 7

/-- The first instruction ends the one open level, which has two passes left. -/
def looping (w : IWord) (l : List Loop) : Chip := (counting w).updCore 0 fun k => { k with loops := l }

def wCset := word 0x05 [(111, 3), (0, 0xFFFFFFFF)]
def wCadd := word 0x06 [(111, 3), (0, 1)]
def wCaddC := word 0x06 [(111, 3), (107, 4), (106, 1)]
def wCmov := word 0x07 [(111, 3), (107, 4)]
def wLprem := word 0x04 [(111, 3), (103, 0)]

theorem wit_cset : Takes (counting wCset) 0 wCset ∧ opcode wCset = 0x05 := ⟨takes_of (by decide), by decide⟩
theorem wit_cadd : Takes (counting wCadd) 0 wCadd ∧ opcode wCadd = 0x06 ∧ sCS wCadd = false := ⟨takes_of (by decide), by decide⟩
theorem wit_cadd_counter : Takes (counting wCaddC) 0 wCaddC ∧ opcode wCaddC = 0x06 ∧ sCS wCaddC = true :=
  ⟨takes_of (by decide), by decide⟩
theorem wit_cmov : Takes (counting wCmov) 0 wCmov ∧ opcode wCmov = 0x07 := ⟨takes_of (by decide), by decide⟩
theorem wit_lprem : Takes (looping wLprem [⟨0, 0, 2⟩]) 0 wLprem ∧ opcode wLprem = 0x04 := ⟨takes_of (by decide), by decide⟩

def wTdset := word 0x0B [(92, 255), (103, 4), (0, 0x3FFFFF)]
def wTdadd := word 0x0C [(92, 255), (107, 4), (106, 1), (0, 0x3FFFFF)]
def wCmpcfg := word 0x0A [(103, 7), (100, 3), (111, 3), (0, 5)]
def wTdload := word 0x0D [(92, 254), (32, 2), (0, 64)]

theorem wit_tdset : Takes (counting wTdset) 0 wTdset ∧ opcode wTdset = 0x0B ∧ sSEL wTdset = 4 := ⟨takes_of (by decide), by decide⟩
theorem wit_tdadd : Takes (counting wTdadd) 0 wTdadd ∧ opcode wTdadd = 0x0C := ⟨takes_of (by decide), by decide⟩
theorem wit_cmpcfg : Takes (counting wCmpcfg) 0 wCmpcfg ∧ opcode wCmpcfg = 0x0A := ⟨takes_of (by decide), by decide⟩
theorem wit_tdload : let s := (counting wTdload).storeNum (tunAddr 0 64) 4 9
    Takes s 0 wTdload ∧ opcode wTdload = 0x0D ∧ s.slotsOn 0 (bf wTdload 0 22) (16 * bf wTdload 32 5) = [] ∧
      s.tunBad 0 (bf wTdload 0 22) (16 * bf wTdload 32 5) = none ∧ s.errs = [] := ⟨takes_of (by decide), by decide⟩

/-! ## Control flow -/

def wNop := word 0x00 []
def wBr := word 0x02 [(79, 100)]
def wLoop (n : Nat) := word 0x03 [(79, 6143), (0, n)]
def wLoopC := word 0x03 [(79, 9), (106, 1), (111, 4)]

theorem wit_nop : Takes (looping wNop [⟨0, 0, 0⟩, ⟨0, 0, 2⟩]) 0 wNop ∧ opcode wNop = 0 := ⟨takes_of (by decide), by decide⟩
theorem wit_br : Takes (looping wBr [⟨0, 5, 1⟩, ⟨0, 200, 2⟩]) 0 wBr ∧ opcode wBr = 2 := ⟨takes_of (by decide), by decide⟩
theorem wit_loop : Takes (looping (wLoop 3) []) 0 (wLoop 3) ∧ opcode (wLoop 3) = 3 := ⟨takes_of (by decide), by decide⟩
theorem wit_loop_counter : Takes (looping wLoopC [⟨0, 9, 2⟩]) 0 wLoopC ∧ opcode wLoopC = 3 := ⟨takes_of (by decide), by decide⟩
theorem wit_loop_zero : Takes (looping (wLoop 0) [⟨0, 6143, 4⟩]) 0 (wLoop 0) ∧ opcode (wLoop 0) = 3 := ⟨takes_of (by decide), by decide⟩

/-! ## Programs -/

def wEnd := word 0x01 []

/-- Core `c` in the sequencer state `st`, its context 0 in the state `x`. -/
def seqIn (st x : Nat) : Chip := ((Chip.reset.put (pgSEQ 0) fSeqState st).put pgFLT (fFltState 0) x).setReg (pgSEQ 0 + 0x10C) 64

def waiting (code : Nat) (w : IWord) (val : Nat) (ids : List Nat) : Chip :=
  (seqIn sqRUNNING 1).updCore 0 fun k => { k with wait := some ⟨code, 0, 0, 0, w, val, ids⟩ }

theorem wit_start : (seqIn sqIDLE 1).present 0 = true ∧ (seqIn sqIDLE 1).fabricUp = true ∧ ((seqIn sqIDLE 1).core 0).inReset = false ∧
    (seqIn sqIDLE 1).seqState 0 = sqIDLE ∧ (seqIn sqIDLE 1).ctxState ((seqIn sqIDLE 1).ctxOf 0) = 1 := by decide
theorem wit_hold : (seqIn sqRUNNING 1).seqState 0 = sqRUNNING ∧ (seqIn sqHELD 1).seqState 0 = sqHELD ∧
    (seqIn sqARMED 1).seqState 0 ≠ sqRUNNING ∧ (seqIn sqHELD 1).present 0 = true ∧ (seqIn sqHELD 1).fabricUp = true := by decide
theorem wit_end : Takes (running wEnd) 0 wEnd ∧ opcode wEnd = 1 := ⟨takes_of (by decide), by decide⟩
theorem wit_end_complete : let s := waiting 14 wEnd 0 []
    s.fabricUp = true ∧ (s.core 0).wait = some ⟨14, 0, 0, 0, wEnd, 0, []⟩ ∧ s.seqState 0 = sqRUNNING ∧
      (s.core 0).enginesIdle = true ∧ (s.core 0).gather = [] := by decide

/-- A core whose start beat has come, with a ramp budget of `b`. -/
def armed (b : Nat) : Chip := ((seqIn sqARMED 1).put pgGOV fPstate 3).put pgGOV fRampPct b

theorem wit_core_start : (armed 50).present 0 = true ∧ (armed 50).fabricUp = true ∧ ((armed 50).core 0).inReset = false ∧
    (armed 50).seqState 0 = sqARMED ∧ (armed 50).get64 (pgSEQ 0) 0x110 ≤ (armed 50).beat ∧
    2 ≤ (armed 50).get pgGOV fPstate ∧ (armed 50).pow.stopped = false ∧
    (∀ d, d < 144 → (armed 50).mayStart d = true → (armed 50).startsBefore d 0 = false) ∧
    (armed 50).rampFits (armed 50).beat (48 * (armed 50).actw 0) = true := by decide
/-- A core whose start beat has come while HOLD is set. -/
def armedHeld : Chip := (armed 50).put (pgSEQ 0) fBlkCtrlHold 1
theorem wit_core_start_held : armedHeld.seqState 0 = sqARMED ∧ armedHeld.bit (pgSEQ 0) fBlkCtrlHold = true ∧
    armedHeld.rampFits armedHeld.beat (48 * armedHeld.actw 0) = true := by decide
theorem wit_core_start_deferred : (armed 0).seqState 0 = sqARMED ∧ (armed 0).pow.stopped = false ∧
    (armed 0).rampFits (armed 0).beat (48 * (armed 0).actw 0) = false := by decide
/-- The ramp limiter has stopped for this beat. -/
def armedStopped : Chip := { armed 50 with pow := { (armed 50).pow with stopped := true } }
theorem wit_core_start_stopped : armedStopped.seqState 0 = sqARMED ∧ armedStopped.present 0 = true ∧ armedStopped.fabricUp = true ∧
    armedStopped.pow.stopped = true := by decide

/-! ## Loads, stores and waits of the sequencer -/

def wCld := word 0x08 [(111, 3), (0, 64)]
def wCst := word 0x09 [(111, 3), (0, 64)]
def wWaitb (n : Nat) := word 0x0F [(0, n)]
def wCwait := word 0x10 [(0, 2)]
def wWaitarr (n : Nat) := word 0x11 [(32, 15), (0, n)]

theorem wit_cld : Takes (counting wCld) 0 wCld ∧ opcode wCld = 8 ∧
    (counting wCld).slotsOn 0 ((counting wCld).cldAddr 0 wCld) 4 = [] := ⟨takes_of (by decide), by decide⟩
theorem wit_cld_complete : let s := ((seqIn sqRUNNING 1).storeNum (tunAddr 0 64) 4 9).updCore 0 fun k => { k with loadsPend := [⟨15, 64, none, true, 9⟩] }
    s.fabricUp = true ∧ (s.core 0).loadsPend = [⟨15, 64, none, true, 9⟩] ∧ s.tunBad 0 64 4 = none ∧ s.errs = [] := by decide
theorem wit_cst : Takes (counting wCst) 0 wCst ∧ opcode wCst = 9 ∧ ((counting wCst).core 0).gather = [] := ⟨takes_of (by decide), by decide⟩
theorem wit_waitb : Takes (running (wWaitb 5)) 0 (wWaitb 5) ∧ opcode (wWaitb 5) = 0x0F ∧
    (running (wWaitb 5)).beat < (running (wWaitb 5)).fenceTarget 0 (wWaitb 5) := ⟨takes_of (by decide), by decide⟩
theorem wit_waitb_overrun : Takes (running (wWaitb 0)) 0 (wWaitb 0) ∧ opcode (wWaitb 0) = 0x0F ∧
    (running (wWaitb 0)).fenceTarget 0 (wWaitb 0) ≤ (running (wWaitb 0)).beat := ⟨takes_of (by decide), by decide⟩
theorem wit_fence_met : let s := waiting 1 (wWaitb 0) 0 []
    s.fabricUp = true ∧ (s.core 0).wait = some ⟨1, 0, 0, 0, wWaitb 0, 0, []⟩ ∧ 0 ≤ s.beat ∧ s.seqState 0 = sqRUNNING := by decide
def tagCmd : Cmd := { (running wCwait).capture 0 wCwait with tag := 2 }
def fetching : Chip := (running wCwait).updCore 0 fun k => k.setRunning uCEL [tagCmd]
theorem wit_cwait : Takes (running wCwait) 0 wCwait ∧ opcode wCwait = 0x10 ∧ ((running wCwait).core 0).tagged (bf wCwait 0 4) = [] :=
  ⟨takes_of (by decide), by decide⟩
theorem wit_cwait_waits : Takes fetching 0 wCwait ∧ (fetching.core 0).tagged (bf wCwait 0 4) ≠ [] := ⟨takes_of (by decide), by decide⟩
theorem wit_waitarr : Takes (running (wWaitarr 0)) 0 (wWaitarr 0) ∧ opcode (wWaitarr 0) = 0x11 ∧
    0 ≤ (running (wWaitarr 0)).get (pgSYNC 0) (fArr 15) := ⟨takes_of (by decide), by decide⟩
theorem wit_waitarr_waits : Takes (running (wWaitarr 1)) 0 (wWaitarr 1) ∧ opcode (wWaitarr 1) = 0x11 ∧
    (running (wWaitarr 1)).get (pgSYNC 0) (fArr 15) < 1 := ⟨takes_of (by decide), by decide⟩
theorem wit_cwait_complete : let s := waiting 11 wCwait 0 [7]
    s.seqState 0 = sqRUNNING ∧ (∀ m ∈ (s.core 0).queue uCEL ++ (s.core 0).running uCEL, m.id ∉ [7]) := by decide
theorem wit_waitarr_met : let s := (waiting 12 (wWaitarr 1) (1 + 15 * 2 ^ 32) []).setReg (pgSYNC 0 + 0x15C) 1
    s.seqState 0 = sqRUNNING ∧ (1 + 15 * 2 ^ 32) % 2 ^ 32 ≤ s.get (pgSYNC 0) (fArr ((1 + 15 * 2 ^ 32) / 2 ^ 32)) := by decide

/-! ## Images and overlays -/

def loading : Chip := (((seqIn sqLOADING 1).updCore 0 fun k => { k with loads := [⟨0, 95, 1, 0x80000000, false⟩] }).storeNum 0x80000000 4 7)
theorem wit_image_load : (seqIn sqIDLE 1).present 0 = true ∧ (seqIn sqIDLE 1).fabricUp = true ∧ (seqIn sqIDLE 1).seqState 0 = sqIDLE ∧
    (1 : Nat) ≠ 0 ∧ 95 + 1 ≤ 96 := by decide
theorem wit_image_load_done : loading.errs = [] ∧ loading.fabricUp = true ∧ (loading.core 0).loads = [⟨0, 95, 1, 0x80000000, false⟩] ∧
    loading.seqState 0 = sqLOADING := by decide

def wOvl := word 0x0E [(0, 1)]
/-- Entry 1 of the overlay table gives two blocks from block 5 on, at cellar address `src`. -/
def overlaid (src : Nat) : Chip := (counting wOvl).storeNum (tunAddr 0 16) 16 (src + 5 * 2 ^ 34 + 2 * 2 ^ 41)
theorem wit_ovl : Takes (overlaid 0x1000) 0 wOvl ∧ AtRest (overlaid 0x1000) 0 ∧ opcode wOvl = 0x0E ∧
    let e : IWord := BitVec.ofNat 128 ((overlaid 0x1000).seenNum 0 0 ((overlaid 0x1000).get (pgSEQ 0) fSeqOvlBase + 16 * bf wOvl 0 8) 16)
    (ovlFirst e, ovlNblk e, ovlSrc e) = (5, 2, 0x1000) ∧ (overlaid 0x1000).pc 0 / 64 < 5 :=
  ⟨takes_of (by decide), rest_of (by decide), by decide⟩
/-- An overlay load whose lines have all come. -/
def ovlCmd : Cmd := { (overlaid 0x1000).capture 0 wOvl with tag := 16, addr := 0x1000, val := 2048, prog := 1, got := List.range 32 }
def ovlIn : Chip := (overlaid 0x1000).updCore 0 fun k =>
  { (k.setRunning uCEL [ovlCmd]) with loads := [⟨ovlCmd.id, 5, 2, 0x1000, true⟩] }
theorem wit_ovl_done : ovlIn.fabricUp = true ∧ Quiet ovlIn 0 ∧ (ovlIn.core 0).running uCEL = [ovlCmd] ∧
    (ovlIn.core 0).loads = [⟨ovlCmd.id, 5, 2, 0x1000, true⟩] ∧ opcode ovlCmd.w = 0x0E ∧ ovlCmd.got.length = celLines ovlCmd :=
  ⟨by decide, quiet_of (by decide), by decide⟩

/-! ## Engine queues and the vector engine -/

/-- A tile descriptor of FP32, UINT8 and so on by `fmt`. -/
def tile (base rows cols stride fmt : Nat) : IWord :=
  BitVec.ofNat 128 (base + rows * 2 ^ 22 + cols * 2 ^ 38 + stride * 2 ^ 54 + fmt * 2 ^ 98)

/-- Core 0 runs `w` with one row of four FP32 values in each of tiles 1 to 4, at 0, 64, 128 and 192, and UINT8 in tile 5. -/
def vecSt (w : IWord) : Chip :=
  (((((running w).setDesc 0 1 (tile 0 1 4 64 0)).setDesc 0 2 (tile 64 1 4 64 0)).setDesc 0 3 (tile 128 1 4 64 0)).setDesc 0 4
    (tile 192 1 4 64 0)).setDesc 0 5 (tile 256 1 4 64 0x0D)
  |>.storeNum (tunAddr 0 64) 16 0x3F800000_40000000_C0400000_3F000000
  |>.storeNum (tunAddr 0 128) 16 0x3F800000_3F800000_3F800000_40000000
  |>.storeNum (tunAddr 0 192) 16 0x40000000_40000000_40000000_40000000
  |>.storeNum (tunAddr 0 256) 4 0x00010001

def wVadd := word 0xA1 [(107, 1), (99, 2), (91, 3)]
def wVsub := word 0xA2 [(107, 1), (99, 2), (91, 3)]
def wVmul := word 0xA3 [(107, 1), (99, 2), (91, 3)]
def wVfma := word 0xA4 [(107, 1), (99, 2), (91, 3), (83, 4)]
def wVmax := word 0xA6 [(107, 1), (99, 2), (91, 3)]
def wVabs := word 0xA7 [(107, 1), (99, 2)]
def wVcmp := word 0xAA [(107, 5), (99, 2), (91, 3), (78, 4)]
def wVsel := word 0xAB [(107, 1), (99, 2), (91, 3), (83, 5)]
def wVfclr := word 0xAE []
def wVfst := word 0xAD [(0, 1024)]
def wVcfg := word 0xA0 [(78, 1)]

/-- The vector engine runs `m`. -/
def vecRun (s : Chip) (m : Cmd) : Chip := s.updCore 0 fun k => k.setRunning uVEC [m]
def vecCmd (w : IWord) : Cmd := (vecSt w).capture 0 w

theorem wit_vec_busy : let s := vecRun (vecSt wVadd) (vecCmd wVcfg)
    Takes s 0 wVadd ∧ Quiet s 0 ∧ (opcode wVadd, Instr.vadd) ∈ vectorCommands.map (fun p => (p.1, p.2)) ∧
      vecBusy (s.capture 0 wVadd) ((s.core 0).running uVEC) = true :=
  ⟨takes_of (by decide), quiet_of (by decide), by simp [vectorCommands, wVadd, word, opcode, bf], by decide⟩
theorem wit_vec_row : let m := (vecSt wVadd).capture 0 wVadd
    Takes (vecSt wVadd) 0 wVadd ∧ AtRest (vecSt wVadd) 0 ∧ opcode wVadd = 0xA1 ∧ tdRows m.dD = 1 ∧ tdScl m.dD ≠ 1 ∧
      tdBase m.dD % 64 + (packRow (fmtBits (tdFmt m.dD)) ((((vecSt wVadd).vecRow (vecSt wVadd) 0 m ((vecSt wVadd).vecMode 0 m) 0).1).map (·.1))).length ≤ 64 :=
  ⟨takes_of (by decide), rest_of (by decide), by decide, by decide, by decide, by decide⟩
theorem wit_vec_values : let m := (vecSt wVadd).capture 0 wVadd
    Takes (vecSt wVadd) 0 wVadd ∧ AtRest (vecSt wVadd) 0 ∧ (vecGiven wVadd)[0]? = some 0 ∧ (tdRows m.dD = 1 ∨ rangesMeet (vecReads m) (vecWrites m) = false) ∧
      tdScl m.dD ≠ 1 := ⟨takes_of (by decide), rest_of (by decide), by decide, by decide, by decide⟩
/-- MXFP8 in two rows of 64 elements, from FP32. -/
def mxTile : IWord := BitVec.ofNat 128 (0x2000 + 2 * 2 ^ 22 + 64 * 2 ^ 38 + 128 * 2 ^ 54 + 0x3000 * 2 ^ 76 + 5 * 2 ^ 98 + 2 ^ 103)
def wVcvt := word 0xA9 [(107, 1), (99, 2)]
def mxSt : Chip := ((running wVcvt).setDesc 0 1 mxTile).setDesc 0 2 (tile 0 2 64 256 0)
theorem wit_vec_microscaled : let m := mxSt.capture 0 wVcvt
    Takes mxSt 0 wVcvt ∧ AtRest mxSt 0 ∧ opcode wVcvt = 0xA9 ∧ tdScl m.dD = 1 ∧ rangesMeet (vecReads m) (vecWrites m) = false ∧
      tdBase m.dD + tdSpan m.dD ≤ tdScale m.dD := ⟨takes_of (by decide), rest_of (by decide), by decide, by decide, by decide, by decide⟩
/-- The value that a transcendental command rounds, where it is not special. -/
def rounded : Trans → Val
  | .value x _ _ => x
  | .special _ _ => Val.zero
theorem wit_fast_value : ∃ x, trans 0xC1 (.fin false 1 (-1)) Val.zero = .value x false 1 ∧ 2 ^ 23 ≤ (encodeFp 0 fp32 2 false false x).1 % 2 ^ 31 ∧
    (encodeFp 0 fp32 1 false false x).1 % 2 ^ 31 < 0x7F800000 :=
  ⟨rounded (trans 0xC1 (.fin false 1 (-1)) Val.zero), by decide, by decide, by decide⟩
def three : List Val := [.fin true 3 0, .fin false 1 2, .nan]
theorem wit_block : three.take 2 ≠ [] ∧ (∀ x ∈ three.take 2, x.isFin = true) ∧
    (Val.fin false 1 2) ∈ three.take 2 ∧ (1 : Nat) ≠ 0 ∧ (2 : Int) + bitLen 1 - 1 = 2 ∧ (0 : Int) + bitLen 3 - 1 ≤ 2 := by decide
theorem wit_best : three[1]? = some (.fin false 1 2) ∧ (Val.fin false 1 2).isNan = false ∧ (Val.fin true 3 0).ltz (.fin false 1 2) = true ∧
    (Val.fin false 1 2).ltz (.fin true 3 0) = false ∧ (∀ x ∈ [Val.nan], x.isNan = true) ∧
    (([(Val.fin false 1 2, 5), (Val.fin true 3 0, 6)] : List (Val × Nat)).map (·.2)).Nodup := by decide
theorem wit_sample : (∀ p ∈ ([(Val.zero, 0xFFFFFFFF)] : List (Val × Nat)), p.2 = 0xFFFFFFFF) ∧
    (([(Val.fin false 1 2, 5)] : List (Val × Nat)).filter fun p => p.2 ≠ 0xFFFFFFFF) = (.fin false 1 2, 5) :: [] ∧ (f32 0x7FC00000).isNan = true := by
  decide
theorem wit_vec_complete : let s := vecRun (vecSt wVadd) (vecCmd wVfclr)
    s.fabricUp = true ∧ Quiet s 0 ∧ (s.core 0).running uVEC = [vecCmd wVfclr] ∧ (vecCmd wVfclr).uses = [] :=
  ⟨by decide, quiet_of (by decide), by decide, by decide⟩
theorem wit_vec_complete_store : let s := vecRun (vecSt wVadd) (vecCmd wVfst)
    (s.core 0).running uVEC = [vecCmd wVfst] ∧ opcode (vecCmd wVfst).w = 0xAD ∧ (s.core 0).vane = [] ∧ bf (vecCmd wVfst).w 0 22 % 4 = 0 := by
  decide
theorem wit_vec_control : Takes (vecSt wVcfg) 0 wVcfg ∧ AtRest (vecSt wVcfg) 0 ∧ opcode wVcfg = 0xA0 :=
  ⟨takes_of (by decide), rest_of (by decide), by decide⟩

/-- Core 0 waits with `wVadd` for room in the vector queue, behind one command that a running VCFG holds back. -/
def stalled : Chip :=
  (((vecSt wVadd).updCore 0 fun k => { (k.setQueue uVEC [vecCmd wVadd]).setRunning uVEC [vecCmd wVcfg] with
    wait := some ⟨4, 0, 0, 0, wVadd, 0, []⟩ }))
theorem wit_queue_resumes : stalled.fabricUp = true ∧ stalled.seqState 0 = sqRUNNING ∧
    (stalled.core 0).wait = some ⟨4, 0, 0, 0, wVadd, 0, []⟩ ∧ 0xA1 ≤ opcode wVadd ∧ opDefined (opcode wVadd) = true ∧
    resvBad wVadd = false ∧ stalled.pendingIn 0 (stalled.predCounters 0 wVadd) = false ∧ stalled.condHolds 0 wVadd = true ∧
    stalled.pendingIn 0 (readsCounters wVadd) = false ∧ stalled.issueBad 0 wVadd = none ∧
    (stalled.core 0).q = [(uVEC, [vecCmd wVadd])] ∧ ([] : List Cmd).length < 15 ∧
    vecBusy (vecCmd wVadd) ((stalled.core 0).running uVEC) = true ∧ (stalled.core 0).running uSYNC = [] := by decide

/-! ## The data mover -/

def wTcopy := word 0x43 [(67, 8), (66, 1), (30, 64), (0, 1024)]
/-- A neighbour write of 8 bytes from offset 64 to slot 7 of the core to the east. -/
def wNwr (land : Nat) := word 0x42 [(98, 1), (97, land), (84, 7), (67, 8), (30, 64)]
def withCredit (s : Chip) : Chip := s.updCore 0 fun k => { k with creds := [(1, 7)] }
def moving (s : Chip) (m : Cmd) : Chip := s.updCore 0 fun k => k.setRunning uMOV [m]

theorem wit_tcopy : Takes (vecSt wTcopy) 0 wTcopy ∧ AtRest (vecSt wTcopy) 0 ∧ opcode wTcopy = 0x43 :=
  ⟨takes_of (by decide), rest_of (by decide), by decide⟩
theorem wit_nwr : Takes (vecSt (wNwr 0)) 0 (wNwr 0) ∧ AtRest (vecSt (wNwr 0)) 0 ∧ opcode (wNwr 0) = 0x42 ∧
    (vecSt (wNwr 0)).neighbour 0 (nDIR (wNwr 0)) = some 1 ∧ nLAND (wNwr 0) = false ∧
    (nDIR (wNwr 0), ((vecSt (wNwr 0)).capture 0 (wNwr 0)).slot) ∉ ((vecSt (wNwr 0)).core 0).creds :=
  ⟨takes_of (by decide), rest_of (by decide), by decide⟩
theorem wit_nwr_credit : let s := withCredit (vecSt (wNwr 0))
    Takes s 0 (wNwr 0) ∧ AtRest s 0 ∧ (nDIR (wNwr 0), (s.capture 0 (wNwr 0)).slot) ∈ (s.core 0).creds :=
  ⟨takes_of (by decide), rest_of (by decide), by decide⟩
theorem wit_nwr_land : Takes (vecSt (wNwr 1)) 0 (wNwr 1) ∧ AtRest (vecSt (wNwr 1)) 0 ∧ nLAND (wNwr 1) = true :=
  ⟨takes_of (by decide), rest_of (by decide), by decide⟩

def nwCmd (prog : Nat) : Cmd := { (vecSt (wNwr 0)).capture 0 (wNwr 0) with id := 3, prog := prog }
def packet (src dst : Nat) (b : Body) : Packet := ⟨Chip.reset.coreNode src, Chip.reset.coreNode dst, b⟩
def inNet (s : Chip) (p : Packet) : Chip := { s with net := [p] }
def landing (s : Chip) : Chip :=
  (s.setSlot 0 7 { Slot.reset with desc := BitVec.ofNat 64 (2 + 1 * 2 ^ 13 + 15 * 2 ^ 38 + 2 ^ 42 + 2 ^ 56) }).updCore 0 fun k =>
    { k with nwIn := [⟨s.coreNode 1, 3, 7, true⟩] }

theorem wit_owner : let p := packet 1 0 (.nwrRequest 3 7 0 8 0 255 true)
    let s := inNet (landing Chip.reset) p
    Arriving s 0 p [] ∧ Quiet s 0 ∧ s.localCore p.src = some 1 ∧ s.dirTo 0 1 = some 1 :=
  ⟨arriving_of (by decide), quiet_of (by decide), by decide, by decide⟩
theorem wit_sender : let p := packet 1 0 (.nwrAdmission 3 7 .admitted)
    let s := inNet (moving (vecSt (wNwr 0)) (nwCmd nwAsked)) p
    Arriving s 0 p [] ∧ (s.core 0).running uMOV = [nwCmd nwAsked] ∧ (nwCmd nwAsked).id = 3 ∧ s.errs = [] ∧ s.poison = [] ∧
      nOP (nwCmd nwAsked).w ≠ 4 ∧ dLEN (nwCmd nwAsked).w ≤ 1024 := ⟨arriving_of (by decide), by decide⟩
theorem wit_sender_retry : let p := packet 1 0 (.nwrAdmission 3 7 .retry)
    let s := inNet (moving (vecSt (wNwr 0)) (nwCmd nwAsked)) p
    Arriving s 0 p [] ∧ (s.core 0).running uMOV = [nwCmd nwAsked] := ⟨arriving_of (by decide), by decide⟩
theorem wit_sender_ack : let p := packet 1 0 (.nwrAck 3)
    let s := inNet (moving (vecSt (wNwr 0)) (nwCmd nwSent)) p
    Arriving s 0 p [] ∧ (s.core 0).running uMOV = [nwCmd nwSent] ∧ Quiet s 0 ∧ opcode (nwCmd nwSent).w = 0x42 :=
  ⟨arriving_of (by decide), by decide, quiet_of (by decide), by decide⟩
theorem wit_rank_retry : let s := moving (vecSt (wNwr 0)) (nwCmd nwRetry)
    s.fabricUp = true ∧ (s.core 0).running uMOV = [nwCmd nwRetry] ∧ opcode (nwCmd nwRetry).w = 0x42 ∧ (nwCmd nwRetry).prog = nwRetry ∧
      s.neighbour 0 (nDIR (nwCmd nwRetry).w) = some 1 := by decide
theorem wit_landing : let p := packet 1 0 (.nwrData 3 7 504 0 true true (List.replicate 8 (0xAB, false)))
    let s := inNet (landing Chip.reset) p
    Arriving s 0 p [] ∧ Quiet s 0 ∧ (s.core 0).inReset = false ∧ (⟨p.src, 3, 7, true⟩ : NwIn) ∈ (s.core 0).nwIn :=
  ⟨arriving_of (by decide), quiet_of (by decide), by decide, by decide⟩

/-! ## The matrix engine and the adjunct unit -/

/-- Core 0 runs `w`: C is tile 1 (INT32), A tile 2 (INT8, one row of 64), W tile 3 (INT8, four rows). -/
def mtxSt (w : IWord) : Chip :=
  (((running w).setDesc 0 1 (tile 1024 1 4 64 0x0A)).setDesc 0 2 (tile 0 1 64 64 0x0C)).setDesc 0 3 (tile 64 4 64 64 0x0C)
  |>.storeNum (tunAddr 0 0) 4 0x02FF0103 |>.storeNum (tunAddr 0 64) 4 0x01010101 |>.storeNum (tunAddr 0 128) 4 0x7F000002

/-- The same with BF16 operands and an FP32 result. -/
def mtxFloat (w : IWord) : Chip :=
  ((running w).setDesc 0 1 (tile 1024 1 4 64 0)).setDesc 0 2 (tile 0 1 32 64 1) |>.setDesc 0 3 (tile 64 4 32 64 1)

def wMmul := word 0x80 [(107, 1), (99, 2), (91, 3), (69, 1)]
def wMmulChain := word 0x80 [(107, 1), (99, 2), (91, 3), (69, 1), (76, 1)]
def wMmulAdj := word 0x80 [(107, 1), (99, 2), (91, 3), (69, 1), (75, 1)]
def wMdrain := word 0x81 [(107, 1), (69, 1)]
def chained (s : Chip) : Chip :=
  s.updCore 0 fun k => { k with chain := some ⟨1, 1, 4, 1, 64, [], [1, 2, 3, 4], []⟩, chainIssued := some (1, 1, 4, true) }
def mtxCmd (w : IWord) : Cmd := (mtxSt w).capture 0 w
def adjMul : Cmd := (mtxFloat wMmulAdj).capture 0 wMmulAdj
def mtxRun (s : Chip) (m : Cmd) : Chip := s.updCore 0 fun k => k.setRunning uMTX [m]

theorem wit_mmul : Takes (mtxSt wMmul) 0 wMmul ∧ AtRest (mtxSt wMmul) 0 ∧
    mADJ wMmul = false ∧ mCHAIN wMmul = false := ⟨takes_of (by decide), rest_of (by decide), by decide⟩
theorem wit_mmul_adj : Takes (mtxFloat wMmulAdj) 0 wMmulAdj ∧ AtRest (mtxFloat wMmulAdj) 0 ∧
    mADJ wMmulAdj = true := ⟨takes_of (by decide), rest_of (by decide), by decide⟩
theorem wit_mdrain : let s := chained (mtxSt wMdrain)
    Takes s 0 wMdrain ∧ AtRest s 0 ∧ (s.core 0).chain ≠ none :=
  ⟨takes_of (by decide), rest_of (by decide), by decide⟩
theorem wit_mdrain_closed : Takes (mtxSt wMdrain) 0 wMdrain ∧ AtRest (mtxSt wMdrain) 0 ∧ opcode wMdrain = 0x81 ∧
    ((mtxSt wMdrain).core 0).chain = none := ⟨takes_of (by decide), rest_of (by decide), by decide⟩
theorem wit_chain : let s := mtxSt wMmulChain
    let m := s.capture 0 wMmulChain
    Takes s 0 wMmulChain ∧ AtRest s 0 ∧ mADJ wMmulChain = false ∧ mCHAIN wMmulChain = true ∧ s.mtxExact 0 = false ∧
      (s.core 0).chain = none ∧ (s.core 0).chainIssued = none ∧ intPair m.dB m.dA = true ∧ tdCols m.dA ≤ 2 ^ 19 ∧ tdRows m.dA ≤ 64 ∧
      tdRows m.dB ≤ 128 := ⟨takes_of (by decide), rest_of (by decide), by decide⟩
theorem wit_integer_drain : let s := mtxRun (mtxSt wMmul) (mtxCmd wMmul)
    let m := mtxCmd wMmul
    s.fabricUp = true ∧ (s.core 0).q = [] ∧ (s.core 0).running uSYNC = [] ∧ (s.core 0).running uMTX = [m] ∧ (s.core 0).chain = none ∧
      (s.core 0).gather = [] ∧ (s.core 0).vane = [] ∧ s.poison = [] ∧ s.errs = [] ∧ opcode m.w = 0x80 ∧ mACCUM m.w = false ∧
      s.mtxExact 0 = false ∧ intPair m.dB m.dA = true ∧ m.prog = 0 ∧ tdRows m.dD = 1 ∧ tdRows m.dA = 1 ∧
      tdCols m.dD = tdRows m.dB ∧ 1 ≤ tdCols m.dD ∧ tdCols m.dD ≤ 128 ∧
      tdBase m.dD % 64 + (packRow 32 (List.replicate 4 0)).length ≤ 64 := by decide
theorem wit_drain_waits : let s := (mtxRun (mtxFloat wMmulAdj) adjMul).updCore 0 fun k => { k with adjMmul := 1 }
    s.fabricUp = true ∧ Quiet s 0 ∧ (s.core 0).running uMTX = [adjMul] ∧ opcode (adjMul).w = 0x80 ∧
      mADJ (adjMul).w = true ∧ s.corrReady 0 (adjMul).prog = false :=
  ⟨by decide, quiet_of (by decide), by decide, by decide, by decide, by decide⟩

def wAbind := word 0x84 [(32, 4), (0, 64)]
def wAcorr := word 0x85 [(32, 1), (0, 2048)]
theorem wit_abind : Takes (mtxSt wAbind) 0 wAbind ∧ AtRest (mtxSt wAbind) 0 ∧ opcode wAbind = 0x84 :=
  ⟨takes_of (by decide), rest_of (by decide), by decide⟩
theorem wit_acorr : Takes (mtxSt wAcorr) 0 wAcorr ∧ AtRest (mtxSt wAcorr) 0 ∧ opcode wAcorr = 0x85 :=
  ⟨takes_of (by decide), rest_of (by decide), by decide⟩
def acorrCmd : Cmd := { (mtxSt wAcorr).capture 0 wAcorr with prog := 1 }
def bigCmd : Cmd := { adjMul with dA := tile 0 192 64 64 0x0C }
/-- The list and the one segment are read: its block of block row 0 and block column 0, at offset 32, has one present entry. -/
def correcting : Chip :=
  ((mtxSt wAcorr).updCore 0 fun k => { (k.setRunning uADJ [acorrCmd]).setRunning uMTX [bigCmd] with
    adjMmul := 1, adjDone := 1, rowMap := some (List.replicate 192 0),
    adjRead := ⟨[0x10000], [⟨0x10000, 128, 1, false, [BitVec.ofNat 64 (32 * 2 ^ 32)]⟩], []⟩ }) |>.storeNum (tunAddr 0 0x10020) 4 1
  |>.storeNum (tunAddr 0 0x10040) 4 0x38
/-- The same, at the last of its groups. -/
def correctingLast : Chip := (correcting.updCore 0 fun k => { k with adjDone := 2 })
def isOk {ε α : Type} : Except ε α → Bool
  | .ok _ => true
  | .error _ => false
theorem wit_group : correcting.fabricUp = true ∧ Quiet correcting 0 ∧ correcting.slotsOf 0 = [] ∧ correcting.poison = [] ∧
    correcting.errs = [] ∧ (correcting.core 0).running uADJ = [acorrCmd] ∧ (correcting.core 0).running uMTX = [bigCmd] ∧
    opcode acorrCmd.w = 0x85 ∧ opcode bigCmd.w = 0x80 ∧ mADJ bigCmd.w = true ∧ mCHAIN bigCmd.w = false ∧
    correcting.get (pgADJ 0) ⟨0x110, 0, 32⟩ + 1 = (correcting.core 0).adjMmul :=
  ⟨by decide, quiet_of (by decide), by decide⟩
theorem wit_group_reads :
    let all := rowGroups (groupRows (correcting.mtxExact 0)) (tdRows bigCmd.dA) * colGroups (tdRows bigCmd.dB)
    let e := groupAt (correcting.mtxExact 0) (tdRows bigCmd.dA) (tdRows bigCmd.dB) 1
    let f := groupAt (correcting.mtxExact 0) (tdRows bigCmd.dA) (tdRows bigCmd.dB) 2
    all = 3 ∧ isOk (correcting.adjReads 0 acorrCmd bigCmd e.1 e.2.1 (e.2.2.1 / 128)) = true ∧
      isOk (correctingLast.adjReads 0 acorrCmd bigCmd f.1 f.2.1 (f.2.2.1 / 128)) = true := by decide
/-- The matrix engine is busy, or the adjunct unit, the data mover or the cellar queue, before `w` issues. -/
def busyWith (s : Chip) (u n : Nat) (m : Cmd) : Chip := s.updCore 0 fun k => k.setRunning u (List.replicate n m)
theorem wit_mtx_busy : let s := busyWith (mtxSt wMmul) uMTX 1 (mtxCmd wMmul)
    Takes s 0 wMmul ∧ Quiet s 0 ∧ (s.core 0).running uMTX ≠ [] := ⟨takes_of (by decide), quiet_of (by decide), by decide⟩
theorem wit_adj_busy : let s := busyWith (mtxSt wAcorr) uADJ 1 acorrCmd
    Takes s 0 wAcorr ∧ Quiet s 0 ∧ (s.core 0).running uADJ ≠ [] := ⟨takes_of (by decide), quiet_of (by decide), by decide⟩
theorem wit_mov_busy : let s := busyWith (vecSt wTcopy) uMOV 4 (nwCmd nwAsked)
    Takes s 0 wTcopy ∧ Quiet s 0 ∧ 4 ≤ ((s.core 0).running uMOV).length := ⟨takes_of (by decide), quiet_of (by decide), by decide⟩

/-! ## The cellar queue -/

def wCfetch := word 0x40 [(67, 128), (66, 1), (30, 64), (0, 512)]
def wCstore := word 0x41 [(67, 128), (66, 1), (30, 64), (0, 512)]
theorem wit_cfetch : Takes (running wCfetch) 0 wCfetch ∧ AtRest (running wCfetch) 0 ∧ opcode wCfetch = 0x40 :=
  ⟨takes_of (by decide), rest_of (by decide), by decide⟩
theorem wit_cstore : Takes (running wCstore) 0 wCstore ∧ AtRest (running wCstore) 0 ∧ opcode wCstore = 0x41 :=
  ⟨takes_of (by decide), rest_of (by decide), by decide⟩

/-- A transfer of core 0 of 128 bytes, admitted, its two requests sent, with `asked` and `got` of its lines; every extent of the
first slice has the owner byte `own`. -/
def celCmd (w : IWord) (asked got : List Nat) : Cmd := { (running w).capture 0 w with prog := 1, sent := 2, asked := asked, got := got }
def celSt (w : IWord) (asked got : List Nat) (own : Nat) : Chip :=
  ((((running w).updCore 0 fun k => k.setRunning uCEL [celCmd w asked got]).put (pgCEL 0) (fExtOwn 0) own).put pgFLT (fFltState 0) 1)
  |>.storeNum (celAddr 64) 4 0xDEADBEEF |>.storeNum (tunAddr 0 512) 4 0xCAFE

theorem wit_cel_busy : let s := busyWith (running wCfetch) uCEL 4 (celCmd wCfetch [] [])
    Takes s 0 wCfetch ∧ Quiet s 0 ∧ 4 ≤ ((s.core 0).running uCEL).length := ⟨takes_of (by decide), quiet_of (by decide), by decide⟩
theorem wit_line_request : let s := celSt wCstore [0] [] 0x10
    let m := celCmd wCstore [0] []
    s.fabricUp = true ∧ (s.core 0).running uCEL = [m] ∧ m.prog = 1 ∧ 1 < m.sent ∧ 1 ∉ m.asked ∧ ownSlice 0 m = true ∧
      s.bit (pgCEL (sliceOf (m.addr + (celLine m 1).1))) fResetActive = false ∧
      s.coreMay (s.ctxOf 0) (m.addr + (celLine m 1).1) (celWrites m) = true ∧ s.errs = [] := by decide
/-- The same transfer of a core of another cluster, whose request for line 1 is in the mesh. -/
def farBase : Chip := ((((running wCstore).updCore 143 fun k => k.setRunning uCEL [celCmd wCstore [0] []]).put (pgCEL 0) (fExtOwn 0) 0x10).put
    pgFLT (fFltState 0) 1)
def farSt : Chip := { farBase with net := [farBase.linePacket 143 (celCmd wCstore [0] []) 1] }
theorem line_packet_mem (s : Chip) (c k : Nat) (m : Cmd) :
    ({ s with net := [s.linePacket c m k] } : Chip).linePacket c m k ∈ ({ s with net := [s.linePacket c m k] } : Chip).net :=
  List.mem_singleton_self _
theorem line_answer_mem (s : Chip) (c k : Nat) (m : Cmd) :
    ({ s with net := [s.lineAnswer c m k] } : Chip).lineAnswer c m k ∈ ({ s with net := [s.lineAnswer c m k] } : Chip).net :=
  List.mem_singleton_self _
theorem wit_line_request_far : ownSlice 143 (celCmd wCstore [0] []) = false ∧
    (farSt.core 143).running uCEL = [celCmd wCstore [0] []] ∧
    farSt.coreMay (farSt.ctxOf 143) 64 true = true := by decide
theorem wit_line_packet : farSt.linePacket 143 (celCmd wCstore [0] []) 1 ∈ farSt.net := line_packet_mem farBase 143 1 _
theorem wit_line_refused : let s := celSt wCfetch [] [] 0
    let m := celCmd wCfetch [] []
    ownSlice 0 m = true ∧ s.coreMay (s.ctxOf 0) (m.addr + (celLine m 1).1) (celWrites m) = false ∧
      sliceOf (m.addr + (celLine m 1).1) < 36 ∧ s.seqState 0 = sqRUNNING := by decide
theorem wit_line_return : let s := celSt wCfetch [0] [] 0x10
    let m := celCmd wCfetch [0] []
    s.fabricUp = true ∧ Quiet s 0 ∧ (s.core 0).running uCEL = [m] ∧ m.sent = celLines m ∧ 0 ∈ m.asked ∧ 0 ∉ m.got ∧ m.uses = [] ∧
      opcode m.w = 0x40 := ⟨by decide, quiet_of (by decide), by decide⟩
/-- The last line of a store returns. -/
theorem wit_line_return_store : let s := celSt wCstore [0, 1] [1] 0x10
    let m := celCmd wCstore [0, 1] [1]
    Quiet s 0 ∧ (s.core 0).running uCEL = [m] ∧ m.got.length + 1 = celLines m ∧ opcode m.w = 0x41 ∧ s.errs = [] :=
  ⟨quiet_of (by decide), by decide⟩
/-- A line of another cluster's slice comes back to core 143. -/
def farHome : Chip := (running wCfetch).updCore 143 fun k => k.setRunning uCEL [celCmd wCfetch [0] []]
def farBack : Chip := { farHome with net := [farHome.lineAnswer 143 (celCmd wCfetch [0] []) 0] }
theorem wit_line_return_far : ownSlice 143 (celCmd wCfetch [0] []) = false := by decide
theorem wit_line_answer : farBack.lineAnswer 143 (celCmd wCfetch [0] []) 0 ∈ farBack.net := line_answer_mem farHome 143 0 _

/-! ## The synchronisation unit -/

def wFlush := word 0x20 [(32, 64), (0, 0)]
def wArrset := word 0x26 [(32, 15), (0, 0xFFFFFFFF)]
/-- SLSET of slot 7: 512 B at 1024, one producer, one read, to EMPTY. -/
def wSlset := word 0x23 [(79, 7), (100, 1), (56, 1), (48, 1), (13, 1), (0, 2)]
def gathered (s : Chip) : Chip := s.updCore 0 fun k => { k with gather := [⟨0, [(0, 0, 0x11), (63, 0, 0x22)]⟩, ⟨64, [(64, 0, 0x33)]⟩] }
theorem wit_flush : Takes (gathered (running wFlush)) 0 wFlush ∧ Quiet (gathered (running wFlush)) 0 ∧ opcode wFlush = 0x20 :=
  ⟨takes_of (by decide), quiet_of (by decide), by decide⟩
theorem wit_arrset : Takes (running wArrset) 0 wArrset ∧ Quiet (running wArrset) 0 ∧ opcode wArrset = 0x26 :=
  ⟨takes_of (by decide), quiet_of (by decide), by decide⟩
theorem wit_slset : let s := running wSlset
    Takes s 0 wSlset ∧ Quiet s 0 ∧ opcode wSlset = 0x23 ∧ (s.core 0).vane = [] ∧ s.slotBusy 0 7 = false ∧ (s.slot 0 7).crdout = 0 ∧ s.slotApart 0 7 (wSlset.extractLsb' 0 64) = true :=
  ⟨takes_of (by decide), quiet_of (by decide), by decide⟩

/-- Slot 7 of core 0: 512 B at 1024, `n` producers, in the state `st`. -/
def slotAt (n st : Nat) : Slot := { Slot.reset with desc := BitVec.ofNat 64 (2 + 2 ^ 13 + 2 ^ 48 + n * 2 ^ 56), state := st }
def wGrant := word 0x24 [(103, 1), (79, 7)]
def wRevoke := word 0x25 [(103, 1), (79, 7)]
def grantCmd (w : IWord) : Cmd := { (running w).capture 0 w with id := 9 }
def granting (w : IWord) : Chip := ((running w).setSlot 0 7 (slotAt 2 0)).updCore 0 fun k => k.setRunning uSYNC [grantCmd w]
theorem wit_grant : let s := (running wGrant).setSlot 0 7 (slotAt 2 0)
    Takes s 0 wGrant ∧ Quiet s 0 ∧ s.neighbour 0 (sSEL wGrant % 4) = some 1 ∧ s.mayGrant 0 7 (sSEL wGrant % 4) = true :=
  ⟨takes_of (by decide), quiet_of (by decide), by decide⟩
theorem wit_revoke : Takes (running wRevoke) 0 wRevoke ∧ Quiet (running wRevoke) 0 ∧ opcode wRevoke = 0x25 ∧
    (running wRevoke).neighbour 0 (sSEL wRevoke % 4) = some 1 := ⟨takes_of (by decide), quiet_of (by decide), by decide⟩
theorem wit_credit_granted : let s := granting wGrant
    s.fabricUp = true ∧ (s.core 0).q = [] ∧ (s.core 0).running uSYNC = [grantCmd wGrant] ∧ opcode (grantCmd wGrant).w = 0x24 ∧
      s.mayGrant 0 (sySlot (grantCmd wGrant)) (syDir (grantCmd wGrant)) = true ∧ s.neighbour 0 (syDir (grantCmd wGrant)) = some 1 := by
  decide
theorem wit_credit_arrives : let p := packet 1 0 (.nwrCredit 7)
    let s := inNet Chip.reset p
    Arriving s 0 p [] ∧ s.localCore p.src = some 1 ∧ s.dirTo 0 1 = some 1 ∧ (s.core 0).inReset = false ∧ (s.core 0).running uMOV = [] :=
  ⟨arriving_of (by decide), by decide⟩
theorem wit_credit_returns : let p := packet 1 0 (.nwrReturn 7 1)
    let s := inNet (Chip.reset.setSlot 0 7 { slotAt 2 0 with crdout := 1 }) p
    Arriving s 0 p [] ∧ s.localCore p.src = some 1 ∧ s.dirTo 0 1 = some 1 ∧ Quiet s 0 :=
  ⟨arriving_of (by decide), by decide, by decide, quiet_of (by decide)⟩
/-- A credit is outstanding for the slot, so that its SLSET waits. -/
def slsetHeld : Chip := (running wSlset).setSlot 0 7 { slotAt 2 0 with crdout := 1 }
theorem wit_slset_waits : Takes slsetHeld 0 wSlset ∧ Quiet slsetHeld 0 ∧ (slsetHeld.slot 0 7).crdout ≠ 0 :=
  ⟨takes_of (by decide), quiet_of (by decide), by decide⟩
theorem wit_credit_in_reset : let p := packet 1 0 (.nwrCredit 7)
    let s := inNet (Chip.reset.updCore 0 fun k => { k with inReset := true }) p
    Arriving s 0 p [] ∧ s.localCore p.src = some 1 ∧ s.dirTo 0 1 = some 1 ∧ (s.core 0).inReset = true ∧ (s.core 0).running uMOV = [] :=
  ⟨arriving_of (by decide), by decide⟩
/-- The REVOKE that asked for the credit completes with its return. -/
def revoking : Chip := ((Chip.reset.setSlot 0 7 { slotAt 2 0 with crdout := 1 }).updCore 0 fun k => k.setRunning uSYNC [grantCmd wRevoke])
theorem wit_credit_returns_revoke : let p := packet 1 0 (.nwrReturn 7 1)
    Arriving (inNet revoking p) 0 p [] ∧ ((inNet revoking p).core 0).running uSYNC = [grantCmd wRevoke] ∧
    opcode (grantCmd wRevoke).w = 0x25 ∧ sySlot (grantCmd wRevoke) = 7 ∧ syDir (grantCmd wRevoke) = 1 :=
  ⟨arriving_of (by decide), by decide⟩

/-! ## Releases, acquires and drain probes -/

def wRel := word 0x21 [(103, 1), (100, 3), (32, 0xFFFF), (0, 64)]
def wAcq := word 0x22 [(32, 5), (0, 64)]
def relCmd : Cmd := { (running wRel).capture 0 wRel with id := 4 }
def acqCmd : Cmd := { (running wAcq).capture 0 wAcq with id := 4 }
def syncRun (s : Chip) (m : Cmd) : Chip := s.updCore 0 fun k => k.setRunning uSYNC [m]
/-- A token of core 0 with this value at tun offset 64. -/
def tokened (s : Chip) (v : Nat) : Chip := s.storeNum (tunAddr 0 64) 8 (2 ^ 63 + 3 * 2 ^ 50 + v)
def polling (s : Chip) (cellar : Bool) : Chip :=
  (syncRun s acqCmd).updCore 0 fun k =>
    { k with acq := some ⟨0, cellar, 64, 5, none, 0, 0⟩, wait := some ⟨13, 0, 0, 0, wAcq, 0, []⟩ }

theorem wit_rel : Takes (running wRel) 0 wRel ∧ Quiet (running wRel) 0 ∧ opcode wRel = 0x21 :=
  ⟨takes_of (by decide), quiet_of (by decide), by decide⟩
theorem wit_rel_delivers : let s := syncRun (running wRel) relCmd
    s.fabricUp = true ∧ (s.core 0).q = [] ∧ (s.core 0).running uSYNC = [relCmd] ∧ opcode relCmd.w = 0x21 ∧ sSEL relCmd.w = 1 ∧
      s.writesLeft 0 relCmd.id (relScope relCmd) = false := by decide
/-- Releases to the slot 7, to the neighbour to the east, to cellar address 64, to the cellar of cluster 1 and to channel 63. -/
def wRelSlot := word 0x21 [(103, 0), (79, 7), (32, 9)]
def wRelNb := word 0x21 [(103, 2), (48, 1), (0, 64)]
def wRelCel := word 0x21 [(103, 3), (100, 1), (32, 9), (0, 64)]
def wRelFar := word 0x21 [(103, 3), (100, 2), (32, 9), (0, 2 ^ 28 + 64)]
def wRelChan := word 0x21 [(103, 4), (100, 2), (79, 63), (32, 9)]
def relOf (w : IWord) : Cmd := { (running w).capture 0 w with id := 4 }
def relAt (w : IWord) : Chip := syncRun (running w) (relOf w)
/-- Slot 7 takes three productions, of which `f` are begun and one is done. -/
def relSlot (f : Nat) : Chip := (relAt wRelSlot).setSlot 0 7 { slotAt 3 1 with started := f, done := 1 }
def relOwned (s : Chip) : Chip := (s.put (pgCEL 0) (fExtOwn 0) 0x10).put (pgCEL 1) (fExtOwn 0) 0x10
theorem wit_rel_cellar : let s := relOwned (relAt wRelCel)
    let m := relOf wRelCel
    s.fabricUp = true ∧ (s.core 0).q = [] ∧ (s.core 0).running uSYNC = [m] ∧ opcode m.w = 0x21 ∧ s.writesLeft 0 m.id (relScope m) = false ∧
      sSEL m.w = 3 ∧ s.ownFlag 0 m = true ∧ m.prog ≠ 3 ∧ s.bit (pgCEL (sliceOf (flagCell m))) fResetActive = false ∧
      s.coreMay (s.ctxOf 0) (flagCell m) true = true := by decide
theorem wit_rel_neighbour : let s := relAt wRelNb
    let m := relOf wRelNb
    s.fabricUp = true ∧ (s.core 0).q = [] ∧ (s.core 0).running uSYNC = [m] ∧ sSEL m.w = 2 ∧ s.neighbour 0 (bf m.w 48 2) = some 1 ∧
      m.prog = 0 := by decide
/-- The release to another slice stands at its step `k`, with these packets in the mesh. -/
def relFarAt (k : Nat) (l : Chip → List Packet) : Chip :=
  let s := relOwned (syncRun (running wRelFar) { relOf wRelFar with prog := k })
  { s with net := l s }
theorem wit_rel_far : let s := relFarAt 0 fun _ => []
    let m := relOf wRelFar
    s.fabricUp = true ∧ (s.core 0).running uSYNC = [m] ∧ sSEL m.w = 3 ∧ s.ownFlag 0 m = false ∧
      s.bit (pgCEL (sliceOf (flagCell m))) fResetActive = false ∧ s.coreMay (s.ctxOf 0) (flagCell m) true = true := by decide
theorem wit_rel_far_asked : let s := relFarAt 2 fun s => [s.wordAsk 0 (.slice 1) 4 (2 ^ 28 + 64) true]
    (s.arrive (s.wordAsk 0 (.slice 1) 4 (2 ^ 28 + 64) true)).isSome = true := by decide +kernel
theorem wit_rel_far_answered : let s := relFarAt 3 fun s => [s.wordAck 0 (.slice 1) 4 (2 ^ 28 + 64) true]
    (s.arrive (s.wordAck 0 (.slice 1) 4 (2 ^ 28 + 64) true)).isSome = true := by decide +kernel
theorem wit_rel_slot : let s := relSlot 1
    let m := relOf wRelSlot
    s.fabricUp = true ∧ (s.core 0).q = [] ∧ (s.core 0).running uSYNC = [m] ∧ sSEL m.w = 0 ∧ sySlot m = 7 ∧ (s.slot 0 7).land = false ∧
      (s.slot 0 7).unranked = false ∧ s.admits 0 s.waitNo [(7, true)] = true ∧ (s.slot 0 7).state = 1 ∧
      (s.slot 0 7).done + 1 < (s.slot 0 7).ncontrib ∧ m.prog ≠ 1 := by decide
theorem wit_rel_slot_waits : let s := relSlot 3
    (s.core 0).running uSYNC = [relOf wRelSlot] ∧ s.admits 0 s.waitNo [(7, true)] = false := by decide
def relChan : Chip := ((((relAt wRelChan).put (pgCHAN 0) (fChState 63) chOPEN).put (pgCHAN 0) (fChPcore 63) 1).put (pgCHAN 0) (fChQcred 63) 3)
theorem wit_rel_channel : let s := relChan
    let m := relOf wRelChan
    s.fabricUp = true ∧ (s.core 0).q = [] ∧ (s.core 0).running uSYNC = [m] ∧ sSEL m.w = 4 ∧ sIDX m.w % 64 = 63 ∧ s.chState 0 63 = chOPEN ∧
      s.chRecv 0 63 = false ∧ s.peerAbsent (s.chPeer 0 63).1 (s.chPeer 0 63).2 = false ∧ 0 < s.get (pgCHAN 0) (fChQcred 63) := by decide
/-- A token of core 1 with the core scope, which this core's ACQ must have widened. -/
def farToken : Chip := (running wAcq).storeNum (tunAddr 0 64) 8 (2 ^ 63 + 1 * 2 ^ 32 + 9 * 2 ^ 16 + 5)
theorem wit_acq_probes : let s := farToken
    let f : BitVec 64 := BitVec.ofNat 64 (s.seenNum 0 uSYNC (bf wAcq 0 22) 8)
    Takes s 0 wAcq ∧ Quiet s 0 ∧ opcode wAcq = 0x22 ∧ sSEL wAcq = 0 ∧ tkReached f 5 = true ∧
      s.seeToken 0 f = .probe (Chip.reset.coreNode 1) 9 (s.scopeTo 0 0 1) :=
  ⟨takes_of (by decide), quiet_of (by decide), by decide⟩
/-- The acquire waits for the answer of core 1. -/
def probing : Chip :=
  (syncRun (running wAcq) acqCmd).updCore 0 fun k =>
    { k with acq := some ⟨1, false, 64, 5, some (Chip.reset.coreNode 1), 9, 1⟩, wait := some ⟨13, 0, 0, 0, wAcq, 0, []⟩ }
theorem wit_probe_answered : let p := packet 1 0 (.probeReply 9 1)
    let s := inNet probing p
    Arriving s 0 p [] ∧ (s.core 0).q = [] ∧ (s.core 0).acq = some ⟨1, false, 64, 5, some p.src, 9, 1⟩ := ⟨arriving_of (by decide), by decide⟩
theorem wit_acq_waits : let s := tokened (running wAcq) 4
    let f : BitVec 64 := BitVec.ofNat 64 (s.seenNum 0 uSYNC (bf wAcq 0 22) 8)
    Takes s 0 wAcq ∧ Quiet s 0 ∧ opcode wAcq = 0x22 ∧ sSEL wAcq = 0 ∧ s.poison = [] ∧ s.errs = [] ∧ tkReached f 5 = false :=
  ⟨takes_of (by decide), quiet_of (by decide), by decide⟩
theorem wit_acq_done : let s := tokened (running wAcq) 5
    let f : BitVec 64 := BitVec.ofNat 64 (s.seenNum 0 uSYNC (bf wAcq 0 22) 8)
    Takes s 0 wAcq ∧ Quiet s 0 ∧ tkReached f 5 = true ∧ s.seeToken 0 f = .done :=
  ⟨takes_of (by decide), quiet_of (by decide), by decide⟩
/-- An ACQ of the flag word at cellar address `a`, which holds the value `v`. -/
def acqCel (a v : Nat) : Chip :=
  let w := word 0x22 [(103, 1), (32, 5), (0, a)]
  let m : Cmd := { (running w).capture 0 w with id := 4 }
  let s := (syncRun (running w) m).updCore 0 fun k => { k with acq := some ⟨0, true, a, 5, none, 0, 0⟩, wait := some ⟨13, 0, 0, 0, w, 0, []⟩ }
  (relOwned s).storeNum (celAddr a) 8 (2 ^ 63 + 3 * 2 ^ 50 + v)
def acqCelCmd (a : Nat) : Cmd := let w := word 0x22 [(103, 1), (32, 5), (0, a)]; { (running w).capture 0 w with id := 4 }
theorem wit_acq_polls : let s := acqCel 64 5
    let m := acqCelCmd 64
    let f : BitVec 64 := BitVec.ofNat 64 (s.num (celAddr 64) 8)
    s.fabricUp = true ∧ (s.core 0).q = [] ∧ (s.core 0).running uSYNC = [m] ∧ opcode m.w = 0x22 ∧
      (s.core 0).acq = some ⟨0, true, 64, 5, none, 0, 0⟩ ∧ s.poison = [] ∧ s.errs = [] ∧ s.ownFlag 0 m = true ∧
      s.bit (pgCEL 0) fResetActive = false ∧ s.coreMay (s.ctxOf 0) 64 false = true ∧ tkReached f 5 = true ∧ s.seeToken 0 f = .done := by decide
theorem wit_acq_not_yet : let s := acqCel 64 4
    tkReached (BitVec.ofNat 64 (s.num (celAddr 64) 8)) 5 = false ∧ s.coreMay (s.ctxOf 0) 64 false = true := by decide
def acqFar (l : List Packet) : Chip := { acqCel (2 ^ 28 + 64) 5 with net := l }
def acqAsk : Packet := Chip.reset.wordAsk 0 (.slice 1) 4 (2 ^ 28 + 64) false
def acqAck : Packet := Chip.reset.wordAck 0 (.slice 1) 4 (2 ^ 28 + 64) false
theorem wit_acq_far : (acqFar []).ownFlag 0 (acqCelCmd (2 ^ 28 + 64)) = false ∧ acqAck ∉ (acqFar []).net ∧ acqAsk ∉ (acqFar []).net := by decide
theorem wit_acq_far_asked : ((acqFar [acqAsk]).arrive acqAsk).isSome = true ∧ (acqFar [acqAsk]).coreMay ((acqFar [acqAsk]).ctxOf 0) (2 ^ 28 + 64) false = true ∧
    (acqFar [acqAsk]).bit (pgCEL 1) fResetActive = false := by decide
theorem wit_acq_far_answered : ((acqFar [acqAck]).arrive acqAck).isSome = true := by decide
theorem wit_acq_completes : let s := polling (tokened (running wAcq) 5) false
    let f : BitVec 64 := BitVec.ofNat 64 (s.seenNum 0 uSYNC 64 8)
    (s.core 0).running uSYNC = [acqCmd] ∧ (s.core 0).acq = some ⟨0, false, 64, 5, none, 0, 0⟩ ∧ tkReached f 5 = true ∧
      s.seeToken 0 f = .done := by decide
theorem wit_probe : let p := packet 1 0 (.probe 9 3)
    let s := inNet (seqIn sqHALTED 1) p
    Arriving s 0 p [] ∧ s.seqState 0 ≠ sqFAULTED ∧ (s.core 0).inReset = false := ⟨arriving_of (by decide), by decide⟩
theorem wit_probe_dropped : let p := packet 1 0 (.probe 9 3)
    let s := inNet (seqIn sqFAULTED 2) p
    Arriving s 0 p [] ∧ s.seqState 0 = sqFAULTED := ⟨arriving_of (by decide), by decide⟩
theorem wit_flush_all : (gathered (seqIn sqHALTED 1)).seqState 0 = sqHALTED ∧ (gathered (seqIn sqHALTED 1)).present 0 = true ∧
    (gathered (seqIn sqRUNNING 1)).seqState 0 = sqRUNNING ∧ ((gathered (seqIn sqRUNNING 1)).core 0).inReset = false := by decide
theorem wit_kprobe_busy : ((seqIn sqHALTED 1).put (pgSYNC 0) fSyncKBusy 1).get (pgSYNC 0) fSyncKBusy = 1 ∧
    (0x00030009 : BitVec 32).getLsbD 31 = false := by decide
def probed (n : Node) : Chip := (seqIn sqHALTED 1).updCore 0 fun k => { k with probes := [(n, 9, 3, 0)] }
theorem wit_probe_reply : (probed (Chip.reset.coreNode 1)).fabricUp = true ∧
    ((probed (Chip.reset.coreNode 1)).core 0).probes[0]? = some (Chip.reset.coreNode 1, 9, 3, 0) ∧
    (probed (Chip.reset.coreNode 1)).writesLeft 0 0 3 = false ∧ (probed ⟨0, .kiln⟩).writesLeft 0 0 3 = false := by decide
theorem wit_kprobe : (0x80030009 : BitVec 32).getLsbD 31 = true ∧ (seqIn sqHALTED 1).get (pgSYNC 0) fSyncKBusy = 0 ∧
    (seqIn sqHALTED 1).present 0 = true ∧ ((seqIn sqHALTED 1).core 0).inReset = false ∧ (seqIn sqHALTED 1).seqState 0 = sqHALTED := by
  decide

/-! ## Channels -/

/-- OPEN of channel 63: its receiving end takes messages of 48 B from core 1 on a ring of 1,024 B at 4,096. -/
def wOpenR := word 0x60 [(109, 63), (105, 15), (87, 1), (72, 48), (67, 1), (45, 4096), (23, 1024)]
def wOpenS := word 0x60 [(109, 63), (87, 1), (72, 48)]
def wClose := word 0x61 [(109, 63)]
def wSend := word 0x62 [(109, 63), (72, 8), (0, 64)]
def wSendt := word 0x63 [(109, 63), (72, 8), (68, 15), (0, 64)]
def wRecv := word 0x64 [(109, 63), (72, 48), (68, 15), (0, 64)]
/-- Channel 63 of core 0 in the state `st`: its receiving end where `recv`, with `q` queue credits, its peer core 1. -/
def chanAt (s : Chip) (st : Nat) (recv : Bool) (q : Nat) : Chip :=
  (((((s.put (pgCHAN 0) (fChState 63) st).put (pgCHAN 0) (fChRole 63) (if recv then 1 else 0)).put (pgCHAN 0) (fChPcore 63) 1).put
    (pgCHAN 0) (fChMlen 63) 48).put (pgCHAN 0) (fChQcred 63) q).put (pgCHAN 0) (fChRq 63) 15
def chanCmd (w : IWord) (prog : Nat) : Cmd := { (running w).capture 0 w with id := 2, prog := prog }
def chanQueue (s : Chip) (m : Cmd) : Chip := s.updCore 0 fun k => k.setQueue uCHAN [m]
def header (len : Nat) : BitVec 128 := BitVec.ofNat 128 (len + 63 * 2 ^ 18 + 5 * 2 ^ 24)

theorem wit_open_receive : Takes (running wOpenR) 0 wOpenR ∧ Quiet (running wOpenR) 0 ∧ opcode wOpenR = 0x60 ∧
    (running wOpenR).chState 0 63 = chCLOSED ∧ cROLE wOpenR = true ∧
    (running wOpenR).rqResv 0 15 + (running wOpenR).get (pgCHAN 0) (fRqCred 15) ≤ 64 :=
  ⟨takes_of (by decide), quiet_of (by decide), by decide⟩
theorem wit_open_send : Takes (running wOpenS) 0 wOpenS ∧ Quiet (running wOpenS) 0 ∧ opcode wOpenS = 0x60 ∧
    (running wOpenS).chState 0 63 = chCLOSED ∧ cROLE wOpenS = false ∧ cPDEV wOpenS = (running wOpenS).devId :=
  ⟨takes_of (by decide), quiet_of (by decide), by decide⟩
theorem wit_open_request : let p := packet 1 0 (.openReq 63 48)
    let s := inNet (chanAt (seqIn sqRUNNING 1) chLISTEN true 0) p
    Arriving s 0 p [] ∧ (s.core 0).inReset = false ∧ s.chState 0 63 = chLISTEN ∧ s.chRecv 0 63 = true ∧ s.chNode 0 63 = p.src ∧
      48 ≤ s.get (pgCHAN 0) (fChMlen 63) := ⟨arriving_of (by decide), by decide⟩
theorem wit_open_reply : let p := packet 1 0 (.openReply 63 (.accepted 48 8 16))
    let s := inNet (chanQueue (chanAt (running wOpenS) chOPENING false 0) (chanCmd wOpenS wtReply)) p
    Arriving s 0 p [] ∧ (s.core 0).q = [(uCHAN, [chanCmd wOpenS wtReply])] ∧ (s.core 0).running uSYNC = [] ∧
      opcode (chanCmd wOpenS wtReply).w = 0x60 ∧ cCH (chanCmd wOpenS wtReply).w = 63 ∧ (chanCmd wOpenS wtReply).prog = wtReply :=
  ⟨arriving_of (by decide), by decide⟩
theorem wit_open_refused : let p := packet 1 0 (.openReply 63 (.refused 2))
    let s := inNet (chanQueue (chanAt (running wOpenS) chOPENING false 0) (chanCmd wOpenS wtReply)) p
    Arriving s 0 p [] ∧ (s.core 0).q = [(uCHAN, [chanCmd wOpenS wtReply])] ∧ s.seqState 0 = sqRUNNING :=
  ⟨arriving_of (by decide), by decide⟩
theorem wit_open_not_ready : let p := packet 1 0 (.openReq 63 48)
    Arriving (inNet (seqIn sqRUNNING 1) p) 0 p [] ∧ (inNet (seqIn sqRUNNING 1) p).chState 0 63 = chCLOSED :=
  ⟨arriving_of (by decide), by decide⟩
theorem wit_open_retry : let s := chanQueue (chanAt (running wOpenS) chOPENING false 0) (chanCmd wOpenS wtRetry)
    s.fabricUp = true ∧ (s.core 0).queue uCHAN = [chanCmd wOpenS wtRetry] ∧ opcode (chanCmd wOpenS wtRetry).w = 0x60 ∧
      (chanCmd wOpenS wtRetry).prog = wtRetry := by decide
theorem wit_send : let s := chanAt (running wSend) chOPEN false 1
    Takes s 0 wSend ∧ Quiet s 0 ∧ s.slotsOf 0 = [] ∧ s.errs = [] ∧ s.poison = [] ∧ s.chState 0 63 = chOPEN ∧ s.chRecv 0 63 = false ∧
      8 ≤ s.get (pgCHAN 0) (fChMlen 63) ∧ cCH wSend = 63 ∧ cMLEN wSend = 8 ∧ s.hasCredit 0 63 8 = true ∧ opcode wSend = 0x62 :=
  ⟨takes_of (by decide), quiet_of (by decide), by decide⟩
/-- A message of 2,000 bytes leaves in two packets. -/
def wSendLong := word 0x62 [(109, 63), (72, 2000), (0, 64)]
def chanLong (s : Chip) (recv : Bool) : Chip :=
  (((chanAt s chOPEN recv 1).put (pgCHAN 0) (fChMlen 63) 2048).put (pgCHAN 0) (fChRcred 63) 100).setChan 0 63
    { ChanEnd.reset with rbase := 4096, rlen := 8192 }
theorem wit_send_long : let s := chanLong (running wSendLong) false
    Takes s 0 wSendLong ∧ Quiet s 0 ∧ s.chState 0 63 = chOPEN ∧ 2000 ≤ s.get (pgCHAN 0) (fChMlen 63) ∧ cMLEN wSendLong = 2000 ∧
      s.hasCredit 0 63 2000 = true ∧ s.peerAbsent (s.chPeer 0 63).1 (s.chPeer 0 63).2 = false :=
  ⟨takes_of (by decide), quiet_of (by decide), by decide⟩
theorem wit_sendt : let s := chanAt (running wSendt) chOPEN false 1
    Takes s 0 wSendt ∧ Quiet s 0 ∧ s.hasCredit 0 63 8 = true ∧ opcode wSendt = 0x63 ∧ cMLEN wSendt = 8 :=
  ⟨takes_of (by decide), quiet_of (by decide), by decide⟩
theorem wit_sendt_no_credit : let s := chanAt (running wSendt) chOPEN false 0
    Takes s 0 wSendt ∧ Quiet s 0 ∧ s.hasCredit 0 63 8 = false := ⟨takes_of (by decide), quiet_of (by decide), by decide⟩
theorem wit_send_start : let s := chanQueue (chanAt (running wSend) chOPEN false 1) (chanCmd wSend wtCredit)
    s.fabricUp = true ∧ (s.core 0).q = [(uCHAN, [chanCmd wSend wtCredit])] ∧ (s.core 0).running uSYNC = [] ∧
      s.hasCredit 0 63 8 = true ∧ cMLEN (chanCmd wSend wtCredit).w = 8 := by decide
theorem wit_message : let p := packet 1 0 (.message (header 8) 0 0 0 (List.replicate 8 (0xAB, false)))
    let s := inNet (chanAt (seqIn sqRUNNING 1) chOPEN true 0) p
    Arriving s 0 p [] ∧ s.chState 0 63 = chOPEN ∧ s.chNode 0 63 = p.src ∧ hdCh (header 8) = 63 ∧ s.chRecv 0 63 = true ∧ Quiet s 0 ∧
      (s.core 0).inReset = false :=
  ⟨arriving_of (by decide), by decide, by decide, by decide, by decide, quiet_of (by decide), by decide⟩
theorem wit_message_first : let p := packet 1 0 (.message (header 2000) 128 0 0 (List.replicate 1024 (0xAB, false)))
    let s := inNet (chanLong (seqIn sqRUNNING 1) true) p
    Arriving s 0 p [] ∧ s.chState 0 63 = chOPEN ∧ s.chNode 0 63 = p.src ∧ hdCh (header 2000) = 63 ∧ Quiet s 0 ∧
      48 < hdLen (header 2000) ∧ 0 + (List.replicate 1024 ((0xAB, false) : TByte)).length < hdLen (header 2000) :=
  ⟨arriving_of (by decide), by decide, by decide, by decide, quiet_of (by decide), by decide, by simp [header, hdLen, bf]⟩
def longRest (s : Chip) : Chip := s.setChan 0 63 { s.chan 0 63 with part := some (5, 1024) }
theorem wit_message_last : let p := packet 1 0 (.message (header 2000) 128 0 1024 (List.replicate 976 (0xCD, false)))
    let s := inNet (longRest (chanLong (seqIn sqRUNNING 1) true)) p
    Arriving s 0 p [] ∧ (s.chan 0 63).part = some (hdMseq (header 2000), 1024) ∧
      1024 + (List.replicate 976 ((0xAB, false) : TByte)).length = hdLen (header 2000) :=
  ⟨arriving_of (by decide), by decide, by simp [header, hdLen, bf]⟩
def sentSt : Chip :=
  ((chanAt (running wSend) chOPEN false 1).setChan 0 63 { ChanEnd.reset with sent := [(2, 5)] }).updCore 0 fun k =>
    k.setRunning uCHAN [chanCmd wSend wtAck]
theorem wit_delivered : let p := packet 1 0 (.deliveryAck 63 5)
    let s := inNet sentSt p
    Arriving s 0 p [] ∧ s.chState 0 63 = chOPEN ∧ s.chNode 0 63 = p.src ∧ (s.chan 0 63).sent = [(2, 5)] ∧ Quiet s 0 ∧
      (s.core 0).running uCHAN = [chanCmd wSend wtAck] :=
  ⟨arriving_of (by decide), by decide, by decide, by decide, quiet_of (by decide), by decide⟩
theorem wit_chan_credit : let p := packet 1 0 (.chanCredit 63 1 2)
    let s := inNet (chanAt (seqIn sqRUNNING 1) chOPEN false 127) p
    Arriving s 0 p [] ∧ s.chState 0 63 = chOPEN ∧ s.chNode 0 63 = p.src ∧ s.chRecv 0 63 = false :=
  ⟨arriving_of (by decide), by decide⟩
theorem wit_recv : let s := chanAt (running wRecv) chOPEN true 0
    Takes s 0 wRecv ∧ Quiet s 0 ∧ opcode wRecv = 0x64 ∧ s.chState 0 (cCH wRecv) = chOPEN ∧ s.chRecv 0 (cCH wRecv) = true ∧
      s.oldestOf 0 (cCH wRecv) = none := ⟨takes_of (by decide), quiet_of (by decide), by decide⟩
def queued : QEntry := ⟨header 8, List.replicate 8 (0xAB, false), 0, 0, 0⟩
theorem wit_recv_take : let s := (chanQueue (chanAt (running wRecv) chOPEN true 0) (chanCmd wRecv wtCredit)).setRq 0 15 [queued]
    let m := chanCmd wRecv wtCredit
    s.fabricUp = true ∧ (s.core 0).q = [(uCHAN, [m])] ∧ (s.core 0).running uSYNC = [] ∧ opcode m.w = 0x64 ∧ cCH m.w = 63 ∧
      s.chState 0 63 = chOPEN ∧ s.chRecv 0 63 = true ∧ s.slotsOf 0 = [] ∧ s.oldestOf 0 63 = some queued ∧
      hdLen queued.hdr = queued.data.length ∧ hdLen queued.hdr ≤ cMLEN m.w ∧ hdKind queued.hdr ≠ 2 := by decide
theorem wit_close : Takes (chanAt (running wClose) chLISTEN true 0) 0 wClose ∧ Quiet (chanAt (running wClose) chLISTEN true 0) 0 ∧
    opcode wClose = 0x61 ∧ (chanAt (running wClose) chLISTEN true 0).chState 0 63 = chLISTEN :=
  ⟨takes_of (by decide), quiet_of (by decide), by decide⟩
theorem wit_close_receiving : let s := (chanAt (running wClose) chOPEN true 0).setRq 0 15 [queued]
    Takes s 0 wClose ∧ Quiet s 0 ∧ s.chState 0 63 = chOPEN ∧ s.chRecv 0 63 = true :=
  ⟨takes_of (by decide), quiet_of (by decide), by decide⟩
theorem wit_close_sending : let s := chanAt (running wClose) chOPEN false 0
    Takes s 0 wClose ∧ Quiet s 0 ∧ s.chRecv 0 63 = false ∧ (s.chan 0 63).sent = [] :=
  ⟨takes_of (by decide), quiet_of (by decide), by decide⟩
theorem wit_close_notice : let p := packet 1 0 (.closeNotice 63 false)
    let s := inNet (chanAt (seqIn sqRUNNING 1) chOPEN false 0) p
    Arriving s 0 p [] ∧ Quiet s 0 ∧ s.chState 0 63 = chOPEN ∧ s.chNode 0 63 = p.src ∧ s.chRecv 0 63 = false :=
  ⟨arriving_of (by decide), quiet_of (by decide), by decide⟩
theorem wit_close_notice_remote : let p : Packet := ⟨⟨5, .core 1⟩, Chip.reset.coreNode 0, .closeNotice 63 true⟩
    let s := inNet ((chanAt (seqIn sqRUNNING 1) chOPEN true 0).put (pgCHAN 0) (fChPdev 63) 5) p
    Arriving s 0 p [] ∧ Quiet s 0 ∧ s.chState 0 63 = chOPEN ∧ s.chNode 0 63 = p.src ∧ s.chRecv 0 63 = true ∧
      s.localCore p.src = none := ⟨arriving_of (by decide), quiet_of (by decide), by decide⟩
theorem wit_delivered_token : let p := packet 1 0 (.deliveryAck 63 5)
    let m := chanCmd wSendt wtAck
    let s := inNet (sentSt.updCore 0 fun k => { (k.setRunning uCHAN [m]) with cntPend := [(2, 15)] }) p
    Arriving s 0 p [] ∧ (s.core 0).running uCHAN = [m] ∧ m.id = 2 ∧ opcode m.w = 0x63 ∧ (2, cCA m.w) ∈ (s.core 0).cntPend :=
  ⟨arriving_of (by decide), by decide⟩
/-- The sender of this device is CLOSING and its CLOSE in execution. -/
def closing : Chip :=
  ((chanAt (seqIn sqRUNNING 1) chOPEN true 0).put (pgCHAN 1) (fChState 63) chCLOSING).updCore 1 fun k =>
    k.setRunning uCHAN [chanCmd wClose wtAck]
theorem wit_close_notice_local : let p := packet 1 0 (.closeNotice 63 true)
    Arriving (inNet closing p) 0 p [] ∧ Quiet (inNet closing p) 0 ∧ (inNet closing p).chState 0 63 = chOPEN ∧
      (inNet closing p).chNode 0 63 = p.src ∧ (inNet closing p).chRecv 0 63 = true ∧ (inNet closing p).localCore p.src = some 1 ∧
      (inNet closing p).chState 1 63 = chCLOSING := ⟨arriving_of (by decide), quiet_of (by decide), by decide⟩
/-- The notice of core 0's CLOSE has left this device, to core 1 of device 5. -/
def closingFar (l : List Packet) : Chip :=
  { ((chanAt (seqIn sqRUNNING 1) chCLOSING false 0).put (pgCHAN 0) (fChPdev 63) 5).updCore 0 fun k => k.setRunning uCHAN [chanCmd wClose wtAck] with net := l }
def noticeFar : Packet := ⟨Chip.reset.coreNode 0, ⟨5, .core 1⟩, .closeNotice 63 true⟩
theorem wit_close_far : let s := closingFar []
    s.fabricUp = true ∧ Quiet s 0 ∧ noticeFar.dst.dev ≠ s.devId ∧ s.localCore noticeFar.src = some 0 ∧ s.chState 0 63 = chCLOSING ∧
      s.chNode 0 63 = noticeFar.dst ∧ (s.chan 0 63).sent = [] := ⟨by decide, quiet_of (by decide), by decide⟩

/-! ## Slots, refusals of issue, timeouts -/

/-- Slot 7 with two producers started, `done` of them done. -/
def filling (done : Nat) : Chip :=
  ((seqIn sqRUNNING 1).setSlot 0 7 { slotAt 2 1 with started := 2, done := done, next := done }).updCore 0 fun k => { k with due := [(7, true)] }
def draining : Chip :=
  ((seqIn sqRUNNING 1).setSlot 0 7 { slotAt 2 3 with started := 2, done := 2, reads := 1, next := 2, gen := 255 }).updCore 0 fun k =>
    { k with due := [(7, false)] }
theorem wit_producer : (filling 1).fabricUp = true ∧ Quiet (filling 1) 0 ∧ ((filling 1).core 0).vane = [] ∧
    (7, true) ∈ ((filling 1).core 0).due ∧ ((filling 1).slot 0 7).state = 1 ∧ ((filling 1).slot 0 7).done + 1 = ((filling 1).slot 0 7).ncontrib ∧
    ((filling 0).slot 0 7).done + 1 ≠ ((filling 0).slot 0 7).ncontrib :=
  ⟨by decide, quiet_of (by decide), by decide, by decide, by decide, by decide, by decide⟩
theorem wit_counted_read : draining.fabricUp = true ∧ Quiet draining 0 ∧ (7, false) ∈ (draining.core 0).due ∧
    (draining.slot 0 7).state = 3 ∧ (draining.slot 0 7).nread ≠ 0 ∧ (draining.slot 0 7).reads = (draining.slot 0 7).nread :=
  ⟨by decide, quiet_of (by decide), by decide, by decide, by decide, by decide⟩

/-- A TCOPY of 8 bytes from 64 to slot 7, which waits. -/
def wTcopySlot := word 0x43 [(84, 7), (67, 8), (30, 64)]
def waitCmd : Cmd := { ((vecSt wTcopySlot).setSlot 0 7 (slotAt 2 1)).capture 0 wTcopySlot with id := 6, began := some 0 }
def waitSt : Chip := ((vecSt wTcopySlot).setSlot 0 7 (slotAt 2 1)).updCore 0 fun k => k.setRunning uMOV [waitCmd]
theorem wit_slot_admission : waitSt.fabricUp = true ∧ Quiet waitSt 0 ∧ waitSt.errs = [] ∧ waitSt.poison = [] ∧
    (waitSt.core 0).running uMOV = [waitCmd] ∧ opcode waitCmd.w = 0x43 ∧ waitCmd.prog = 0 ∧ waitCmd.began.isSome = true ∧
    waitSt.usesOf 0 waitCmd = [(7, true)] ∧ (waitSt.slot 0 7).state = 1 ∧ (waitSt.slot 0 7).acc = 0 ∧ (waitSt.slot 0 7).land = false ∧
    (waitSt.slot 0 7).ord = false ∧ (waitSt.slot 0 7).started + (waitSt.slot 0 7).crdout < (waitSt.slot 0 7).ncontrib ∧
    waitSt.overtakes 0 waitCmd.ord [(7, true)] = false :=
  ⟨by decide, quiet_of (by decide), by decide, by decide, by decide, by decide, by decide, by decide, by decide, by decide, by decide,
    by decide, by decide, by decide, by decide⟩

/-- Slot 7 over the offsets 1,024 to 1,535: its state, its counts and its accumulate operation. -/
def slotHas (s : Chip) (st started reads acc : Nat) : Chip :=
  s.setSlot 0 7 { slotAt 2 st with desc := BitVec.ofNat 64 (2 + 2 ^ 13 + acc * 2 ^ 45 + 2 * 2 ^ 48 + 2 * 2 ^ 56), started := started, reads := reads }
theorem wit_interlock_clash : let s := slotHas (mtxSt wMmul) 0 0 0 2
    Takes s 0 wMmul ∧ (s.core 0).q = [] ∧ (s.core 0).run = [] ∧ opcode wMmul = 0x80 ∧
      (s.usesOf 0 (s.capture 0 wMmul)).find? (fun u => u.2 && decide ((s.slot 0 u.1).acc ≠ 0)) = some (7, true) :=
  ⟨takes_of (by decide), by decide, by decide, by decide, by decide⟩
theorem wit_interlock_waits : let s := slotHas (mtxSt wMmul) 2 2 0 0
    Takes s 0 wMmul ∧ s.usesOf 0 (s.capture 0 wMmul) = [(7, true)] ∧ (s.slot 0 7).acc = 0 ∧ (s.slot 0 7).state = 2 ∧ (s.slot 0 7).land = false :=
  ⟨takes_of (by decide), by decide, by decide, by decide, by decide⟩
theorem wit_interlock_admits : let s := slotHas (mtxSt wMmul) 1 1 0 0
    Takes s 0 wMmul ∧ s.usesOf 0 (s.capture 0 wMmul) = [(7, true)] ∧ (s.slot 0 7).state = 1 ∧
      (s.slot 0 7).started + (s.slot 0 7).crdout < (s.slot 0 7).ncontrib ∧ (s.slot 0 7).ord = false ∧
      s.overtakes 0 s.waitNo [(7, true)] = false := ⟨takes_of (by decide), by decide, by decide, by decide, by decide, by decide⟩

def wUndef := word 0x12 []
def wResv := word 0x00 [(0, 1)]
/-- CSET under the condition not P0, which is false while CNT0 is 0. -/
def wOff := word 0x05 [(119, 1), (118, 1), (111, 3), (0, 1)]
def ctxOn (s : Chip) : Chip := s.put pgFLT (fFltState 0) 1
def pcAt (s : Chip) (i : Nat) : Chip := s.put (pgSEQ 0) fSeqPc i
theorem wit_undefined : (ctxOn (running wUndef)).fabricUp = true ∧ (ctxOn (running wUndef)).mayIssue 0 wUndef = true ∧
    (ctxOn (running wUndef)).fetch 0 = .word wUndef ∧ opDefined (opcode wUndef) = false := by decide
theorem wit_reserved : (ctxOn (running wResv)).mayIssue 0 wResv = true ∧ (ctxOn (running wResv)).fetch 0 = .word wResv ∧
    opcode wResv = 0 ∧ resvBad wResv = true := by decide
theorem wit_bad_fetch : (pcAt (running wNop) 64).mayIssue 0 wNop = true ∧ (pcAt (running wNop) 64).pc 0 < 6144 ∧
    ((pcAt (running wNop) 64).core 0).block 1 = 0 ∧ (pcAt (running wNop) 6144).mayIssue 0 wNop = true ∧
    6144 ≤ (pcAt (running wNop) 6144).pc 0 := by decide
def blockLoading : Chip := (running wNop).updCore 0 fun k => k.setBlock 0 1
theorem wit_loading_fetch : blockLoading.mayIssue 0 wNop = true ∧ blockLoading.pc 0 < 6144 ∧ (blockLoading.core 0).block 0 = 1 ∧
    (blockLoading.core 0).wait = none := by decide
theorem wit_predicated : (running wOff).fabricUp = true ∧ (running wOff).mayIssue 0 wOff = true ∧ (running wOff).fetch 0 = .word wOff ∧ (running wOff).errs = [] ∧
    resvBad wOff = false ∧ (running wOff).pendingIn 0 ((running wOff).predCounters 0 wOff) = false ∧
    (running wOff).condHolds 0 wOff = false ∧ opcode wOff = 0x05 := by decide

/-- The sequencer of core 0 has waited since edge 0, and its time of 8 is over at edge 8: a CWAIT for a transfer that is in
execution, or a CLD for the read of slot 4,095, which is EMPTY. -/
def wCldSlot := word 0x08 [(111, 3), (0, 1024)]
def cwaitRef : SeqWait := ⟨11, 0, 8, 0, wNop, 0, [5]⟩
def slotRef : SeqWait := ⟨9, 0, 8, 0, wCldSlot, 4096, []⟩
def expired (x : SeqWait) : Chip :=
  { (((seqIn sqRUNNING 1).setSlot 0 4095 (slotAt 1 0)).updCore 0 fun k =>
      { (k.setRunning uCEL [{ celCmd wCfetch [] [] with id := 5 }]) with wait := some x }) with edges := 8 }
def expiredCmd (w : IWord) : Cmd := { (running w).capture 0 w with id := 9, began := some 0, tmo := 8 }
theorem wit_timeouts : (expired cwaitRef).fabricUp = true ∧ (expired cwaitRef).seqState 0 = sqRUNNING ∧
    0 + 8 ≤ (expired cwaitRef).edges ∧ (expired cwaitRef).waitOver 0 cwaitRef = false ∧ (expired slotRef).seqState 0 = sqRUNNING ∧
    (expired slotRef).waitOver 0 slotRef = false := by decide
def drainSt : Chip := { ((mtxRun (seqIn sqRUNNING 1) (expiredCmd wMmulAdj)).updCore 0 fun k => { k with adjMmul := 1 }) with edges := 8 }
def grantSt : Chip := { syncRun (seqIn sqRUNNING 1) (expiredCmd wGrant) with edges := 8 }
theorem wit_drain_timeout : let s := drainSt
    s.seqState 0 = sqRUNNING ∧ (s.core 0).running uMTX = [expiredCmd wMmulAdj] ∧ (expiredCmd wMmulAdj).began = some 0 ∧
      (expiredCmd wMmulAdj).tmo ≠ 0 ∧ 0 + 8 ≤ s.edges ∧ (expiredCmd wMmulAdj).pc < 8192 ∧
      s.corrReady 0 (expiredCmd wMmulAdj).prog = false := by decide
theorem wit_grant_timeout : let s := grantSt
    (s.core 0).queue uSYNC = [] ∧ (s.core 0).running uSYNC = [expiredCmd wGrant] ∧ opcode (expiredCmd wGrant).w = 0x24 ∧
      0 + 8 ≤ s.edges ∧ s.mayGrant 0 (sySlot (expiredCmd wGrant)) (syDir (expiredCmd wGrant)) = false := by decide
def overrun : Chip := ((seqIn sqRUNNING 1).put (pgSEQ 0) fSeqOvrConsec 17)
theorem wit_overrun_limit : overrun.get (pgSEQ 0) fSeqOvrLimit ≠ 0 ∧ overrun.get (pgSEQ 0) fSeqOvrLimit < overrun.get (pgSEQ 0) fSeqOvrConsec ∧
    overrun.get (pgSEQ 0) fSeqIgmAct = 0 ∧ overrun.seqState 0 = sqRUNNING := by decide

/-! ## The cellar's controller, the kiln's windows, the mesh -/

theorem wit_owner_entries : Chip.reset.fabricUp = true ∧ Chip.reset.bit (pgCEL 35) fResetActive = false ∧
    Chip.reset.extKind 35 127 ∈ [3, 4, 5] ∧ bf (0x15502010 : BitVec 32) 24 8 / 16 % 8 ∉ [3, 4, 6, 7] ∧ Chip.reset.extKind 0 0 = 0 ∧
    bf (0x15502010 : BitVec 32) 16 8 / 16 % 8 = 5 := by decide
def scrubbing : Chip := { ((Chip.reset.put (pgCEL 1) (fExtOwn 3) 0x52).setByte (celAddr (2 ^ 28 + 3 * 2 ^ 21)) 7) with scrubQ := [(1, 3), (2, 0)] }
theorem wit_scrub : Chip.reset.extKind 1 3 ∉ [3, 4, 5] ∧ Chip.reset.bit (pgCEL 1) fResetActive = false ∧ scrubbing.fabricUp = true ∧
    scrubbing.scrubQ = [(1, 3), (2, 0)] := by decide
/-- The extent is scrubbed for a context in RELEASE, whose cores 3 and 4 are being cleared. -/
def extClears : Chip :=
  { ((scrubbing.updCore 3 fun k => { k with scrubbing := true }).updCore 4 fun k => { k with scrubbing := true }).put pgFLT
      (fFltState (scrubbing.extCtx 1 3)) 3 with clearing := [(scrubbing.extCtx 1 3, [3, 4])] }
theorem wit_scrub_clears : extClears.ctxState (extClears.extCtx 1 3) = 3 ∧
    extClears.clearing.find? (fun r => r.1 = extClears.extCtx 1 3) = some (extClears.extCtx 1 3, [3, 4]) := by decide
/-- Slice 35 keeps the first of the 32 parts of a fine period quiet; a burst of its rank 1 has been postponed. -/
def quiet : Chip := ((Chip.reset.put (pgCEL 35) ⟨0x100, 2, 1⟩ 1).put (pgCEL 35) ⟨0x100, 8, 5⟩ 1).setPostponed 35 1 1
theorem wit_refresh : quiet.fabricUp = true ∧ quiet.errs = [] ∧ quiet.postponedOf 35 1 ≠ 0 ∧ quiet.quietAt 35 0 = true ∧
    quiet.quietAt 35 (quiet.finePeriod / 2) = false ∧ quiet.bit (pgCEL 35) fResetActive = false := by decide
/-- Core 143's context is FAULTED and not captured, or SCRUBBING; or its row is fused off. -/
def faulted143 (st : Nat) : Chip := Chip.reset.put pgFLT (fFltState 0) st
def fused11 : Chip := { Chip.reset with ident := { Chip.reset.ident with fusedRow := 11 } }
theorem wit_tun_aperture : Chip.reset.up = true ∧ Chip.reset.errs = [] ∧ Chip.reset.poison = [] ∧ Chip.reset.rstBusy = false ∧
    Chip.reset.present 143 = true ∧ 0x2FFFF8 + 8 ≤ 0x300000 ∧ Chip.reset.closed (Chip.reset.ownerOf 143) = false ∧
    Chip.reset.ctxState (Chip.reset.ownerOf 143) ≠ 3 ∧ (faulted143 2).closed ((faulted143 2).ownerOf 143) = true ∧
    (faulted143 3).ctxState ((faulted143 3).ownerOf 143) = 3 ∧ (faulted143 3).present 143 = true ∧
    fused11.present 143 = false ∧ fused11.up = true ∧ fused11.rstBusy = false ∧ fused11.get pgGERP fGfeCode = 0 := by decide
/-- The first extent of the cellar is owned by context 0 in the state `st`. -/
def firstExtent (st own : Nat) : Chip := (faulted143 st).put (pgCEL 0) (fExtOwn 0) own
theorem wit_cellar_aperture : 36 * 2 ^ 28 - 8 + 8 ≤ 36 * 2 ^ 28 ∧ (36 * 2 ^ 28 - 8) / 2 ^ 21 = (36 * 2 ^ 28 - 8 + 8 - 1) / 2 ^ 21 ∧
    Chip.reset.bit (pgCEL (sliceOf (36 * 2 ^ 28 - 8))) fResetActive = false ∧
    Chip.reset.extClosed (sliceOf (36 * 2 ^ 28 - 8)) (extOf (36 * 2 ^ 28 - 8)) = false ∧
    Chip.reset.extScrubbing (sliceOf (36 * 2 ^ 28 - 8)) (extOf (36 * 2 ^ 28 - 8)) = false ∧
    (firstExtent 2 0x10).extClosed (sliceOf (2 ^ 21 - 8)) (extOf (2 ^ 21 - 8)) = true ∧
    (firstExtent 3 0x50).extScrubbing (sliceOf (2 ^ 21 - 8)) (extOf (2 ^ 21 - 8)) = true := by decide
theorem wit_kiln_map : Chip.reset.up = true ∧ Chip.reset.errs = [] ∧ Chip.reset.poison = [] ∧ Chip.reset.regionOf 0x10000000 4 = none ∧
    Chip.reset.sec.session = false ∧ (0x01000000 ≤ (0x011FFFFC : Nat) ∧ (0x011FFFFC : Nat) + 4 ≤ 0x01000000 + 0x200000) ∧
    (0x20000000 + imageBase < 0x20000000 + imageBase + 1 + 1) ∧ 0x20000000 + imageBase + 1 < 0x20000000 + imageBase + imageLen := by decide
theorem wit_windows : Chip.reset.present 143 = true ∧ Chip.reset.fabricUp = true ∧ (Chip.reset.core 143).inReset = false ∧
    Chip.reset.windowOpen 143 = true ∧ (0x17FF8 : Nat) % 8 = 0 ∧ (0x17FFC : Nat) % 4 = 0 ∧ 0x17FF8 + 8 ≤ 0x18000 ∧ 0xFF8 + 8 ≤ 0x1000 ∧
    slotFits (slotKeep 0x0100000000002002) = true ∧ Chip.reset.slotApart 143 4095 (slotKeep 0x0100000000002002) = true ∧
    slotFits (slotKeep 0x01000000000020FF) = true ∧ slotFits (slotKeep 0x0100000007FFFFFF) = false ∧
    (seqIn sqRUNNING 1).windowOpen 0 = false := by decide
/-- A packet from core 0 to core 143. -/
def crossing : Packet := packet 0 143 (.nwrAck 3)
/-- The packet stands in the input from the west at (3, 0), or in the one from the north at the last router of its way. -/
def hopAt (k : Nat) : Chip := { inNet Chip.reset crossing with routers := [(k, [crossing])] }
/-- The input from the north at (11, 6) is full, and (11, 5) holds the packet. -/
def hopFull : Chip :=
  let big : Packet := packet 11 143 (.message 0 0 0 0 (List.replicate 1024 (0, false)))
  { inNet Chip.reset crossing with routers := [(8 * (12 * 5 + 11), [crossing]), (8 * (12 * 6 + 11), [big, big])] }
theorem wit_hop_head : let s := hopAt 27
    s.fabricUp = true ∧ crossing ∈ s.net ∧ (s.held 27).head? = some crossing ∧ s.serves 3 0 1 3 = true ∧ s.takes (s.nextPlace 3 0 1 crossing) crossing = true ∧
      bodyKind crossing.body ≠ 16 := by decide
theorem wit_hop_waits : (hopFull.held (8 * (12 * 5 + 11))).head? = some crossing ∧
    hopFull.takes (hopFull.nextPlace 11 5 2 crossing) crossing = false := by decide
theorem wit_hop_enters : let s := inNet Chip.reset crossing
    (∀ r ∈ s.routers, crossing ∉ r.2) ∧ s.roomAt 4 crossing = true ∧ s.held 4 = [] ∧
      s.net.find? (fun q => sameWay crossing q && !(s.routers.any fun r => r.2.contains q)) = some crossing := by decide
/-- An older packet of core 0 stands in the input of its own attachment. -/
def hopBehind : Chip :=
  let q : Packet := packet 0 11 (.nwrAck 4)
  { Chip.reset with net := [q, crossing], routers := [(4, [q])] }
theorem wit_hop_behind : hopBehind.held 4 ≠ [] ∧ hopBehind.roomAt 4 crossing = true ∧ (∀ r ∈ hopBehind.routers, crossing ∉ r.2) ∧
    hopBehind.net.find? (fun q => sameWay crossing q && !(hopBehind.routers.any fun r => r.2.contains q)) = some crossing := by decide
/-- A register access, which no row puts into the mesh. -/
def regPacket : Packet := packet 0 143 (.other 1 64)
theorem wit_hop_register : bodyKind regPacket.body = 16 ∧ packetBytes regPacket ≤ 1040 ∧ regPacket.src = Chip.reset.coreNode 0 := by decide
theorem wit_packet_hop : crossing ∈ (inNet Chip.reset crossing).net ∧ crossing.src = Chip.reset.coreNode 0 ∧
    crossing.dst = Chip.reset.coreNode 143 ∧ ((xOf 0 ≤ 11 ∧ 11 ≤ xOf 143)) ∧ 0 = yOf 0 ∧ (yOf 0 ≤ 11 ∧ 11 ≤ yOf 143) ∧ 11 = xOf 143 := by
  decide

/-! ## The beat -/

/-- The beat unit in the state `st`, as a master where `m`, on BEATREF where `x`, with `u` beside its registers. -/
def beatSt (st : Nat) (m x : Bool) (u : BeatUnit) : Chip :=
  { (((Chip.reset.put pgBEAT fBeatState st).put pgBEAT fBeatMaster (if m then 1 else 0)).put pgBEAT fBeatExt (if x then 1 else 0)) with beatU := u }
def dueAt (d : Nat) : BeatUnit := { BeatUnit.reset with next := some d, last := some 0 }

def upPort (s : Chip) : Chip := (s.put (pgLNK 0) ⟨0x104, 0, 4⟩ psUP).put pgBEAT fBeatPeriod 800
theorem wit_beat_edge : let s := (beatSt bsLOCKED true false (dueAt 204800)).put (pgCEL 7) ⟨0x100, 0, 2⟩ 1
    s.fabricUp = true ∧ s.beatState ≠ bsDISABLED ∧ s.isMaster = true ∧ s.extMaster = false ∧ s.beatU.next = some 204800 ∧
      800 = 204800 / 256 ∧ 801 ≠ 204800 / 256 ∧ s.get (pgCEL 7) ⟨0x100, 0, 2⟩ = 1 := by decide
theorem wit_beat_edge_marker : (upPort (beatSt bsLOCKED true false (dueAt 204800))).portPresent 0 = true ∧
    (upPort (beatSt bsLOCKED true false (dueAt 204800))).portState 0 = psUP := by decide
theorem wit_beat_edge_disciplined : (beatSt bsLOCKED false false (dueAt 204800)).isMaster = false ∧
    (beatSt bsHOLDOVER true true (dueAt 204800)).extMaster = true ∧ (beatSt bsHOLDOVER true true (dueAt 204800)).beatState ≠ bsLOCKED := by
  decide
theorem wit_beat_controls : (beatSt bsDISABLED true false BeatUnit.reset).beatState = bsDISABLED ∧
    (beatSt bsDISABLED true false BeatUnit.reset).isMaster = true ∧ (beatSt bsACQUIRE true false (dueAt 9)).beatState = bsACQUIRE ∧
    (∀ x, x < 16 → (beatSt bsACQUIRE true false (dueAt 9)).ctxState x = 0) ∧ (seqIn sqIDLE 1).ctxState 0 ≠ 0 ∧
    (beatSt bsFAULT false false BeatUnit.reset).beatState = bsFAULT := by decide
theorem wit_beatref : let s := beatSt bsACQUIRE true true BeatUnit.reset
    s.fabricUp = true ∧ s.extMaster = true ∧ s.beatState = bsACQUIRE ∧ s.calm = false ∧ s.beatU.again = false := by decide
def recovering (act : Bool) (u : BeatUnit) : Chip :=
  (beatSt bsACQUIRE true true { u with again := true }).put pgFLT (fFltState 0) (if act then 1 else 0)
theorem wit_beatref_again : (recovering false (dueAt 204800)).calm = false ∧ (recovering false (dueAt 204800)).beatU.next = some 204800 ∧
    204800 / 256 + 1 < 802 ∧ (recovering true (dueAt 204800)).calm = true ∧ (recovering true (dueAt 204800)).beatU.lastRef = none ∧
    (recovering true (dueAt 204800)).beatU.last = some 0 := by decide
/-- HOLDOVER after two reference edges a period apart, the last at tick 9. -/
def holding : Chip :=
  ((beatSt bsHOLDOVER true true { dueAt 204800 with lastRef := some 9, refRun := 2 }).put pgFLT (fFltState 0) 1)
theorem wit_holdover_ends : holding.get pgBEAT fBeatPeriod ≤ 9 + holding.get pgBEAT fBeatPeriod ∧
    holding.beatU.lastRef = some (9 + holding.get pgBEAT fBeatPeriod - holding.get pgBEAT fBeatPeriod) ∧ 2 ≤ holding.beatU.refRun ∧
    holding.anyActive = true ∧ holding.beatState = bsHOLDOVER ∧ holding.extMaster = true := by decide
theorem wit_beatref_locked : let s := beatSt bsLOCKED true true (dueAt 204800)
    s.extMaster = true ∧ s.beatState = bsLOCKED ∧ s.beatU.next = some 204800 ∧ s.beatU.stopNext = false ∧ 799 ≤ 204800 / 256 + 1 ∧
      204800 / 256 ≤ 799 + 1 ∧ 798 + 1 < 204800 / 256 := by decide
theorem wit_holdover : let s := beatSt bsLOCKED true true { dueAt 9 with misses := 4 }
    s.extMaster = true ∧ s.beatState = bsLOCKED ∧ 4 ≤ s.beatU.misses := by decide
theorem wit_beat_lock : let s := beatSt bsACQUIRE true true { dueAt 9 with refRun := 3, synced := true }
    s.extMaster = true ∧ s.beatState = bsACQUIRE ∧ 3 ≤ s.beatU.refRun ∧ s.beatU.synced = true := by decide
def mark (n : Nat) : Marker := { beat := BitVec.ofNat 64 n, depart := 0, period := 800, masterId := 5, hops := 15, state := 2 }
theorem wit_marker_first : let s := upPort (beatSt bsACQUIRE false false BeatUnit.reset)
    s.fabricUp = true ∧ s.isMaster = false ∧ s.portPresent 0 = true ∧ s.portState 0 = psUP ∧ 0 = s.upstream ∧ s.beatU.last = none ∧
      (mark 9).period = s.get pgBEAT fBeatPeriod ∧ { mark 9 with period := 640 }.period ≠ s.get pgBEAT fBeatPeriod := by decide
theorem wit_marker_locked : let s := upPort (beatSt bsLOCKED false false (dueAt 204800))
    s.beatState = bsLOCKED ∧ s.beatU.last = some 0 ∧ (640 : Int) = 640 - (0 : Nat) - s.get (pgLNK 0) fDelay - (0 : Nat) ∧
      2 * (640 : Int) ≤ s.finePeriod ∧ (mark 0).beat.toNat = s.beat ∧ (mark 1).beat.toNat ≠ s.beat ∧ ¬((641 : Int) ≤ 640) := by decide
theorem wit_marker_holdover : let s := upPort (beatSt bsHOLDOVER false false (dueAt 204800))
    s.beatState = bsHOLDOVER ∧ 0 = s.get pgBEAT fBeatUpPort ∧ (mark 0).period = s.get pgBEAT fBeatPeriod ∧
      (mark 0).beat.toNat = s.beat ∧ s.beatU.last = some 0 ∧ 2 * ((640 : Int) - 0 - s.get (pgLNK 0) fDelay - (0 : Nat)) ≤ s.finePeriod := by
  decide
theorem wit_disciplined : (beatSt bsACQUIRE false false { dueAt 9 with good := 8 }).beatU.good = 8 ∧
    4096 ≤ (beatSt bsACQUIRE false false { dueAt 9 with acq := 4096 }).beatU.acq ∧
    4 ≤ (beatSt bsLOCKED false false { dueAt 9 with missing := 4 }).beatU.missing ∧ (beatSt bsLOCKED false false (dueAt 9)).isMaster = false := by
  decide

/-! ## Clocks, heat, power states -/

/-- A frequency switch to code `f` at beat `b` is written, `last` beats after none; the present code is 8. -/
def fswSt (f b last vok : Nat) : Chip :=
  ((((Chip.reset.put pgCLK fFswFreq f).setReg (pgCLK + 0x104) (BitVec.ofNat 32 b)).setReg (pgCLK + 0x114) (BitVec.ofNat 32 last)).put
    pgCLK fCurFreq 8).put pgGOV fVOk vok
/-- The same with core 0 running, a voltage of 900 mV that is good, and no ramp budget where `pct` is 0. -/
def fswHigh (f pct : Nat) : Chip :=
  ((((fswSt f 8 0 1).put pgGOV fVddSet 900).put pgGOV fRampPct pct).put (pgSEQ 0) fSeqState sqRUNNING)
theorem wit_fsw : (fswSt 9 3 0 1).get64 pgCLK 0x104 < (fswSt 9 3 0 1).beat + 4 ∧
    (fswSt 9 4 0 1).beat + 4 ≤ (fswSt 9 4 0 1).get64 pgCLK 0x104 ∧ (fswSt 9 4 0 1).get64 pgCLK 0x104 < (fswSt 9 4 0 1).lastSwitch + 8 ∧
    (fswSt 9 8 0 0).lastSwitch + 8 ≤ (fswSt 9 8 0 0).get64 pgCLK 0x104 ∧ (fswSt 9 8 0 0).get pgCLK fCurFreq < 9 ∧
    (fswSt 9 8 0 0).bit pgGOV fVOk = false ∧ (fswSt 8 8 0 0).get pgCLK fFswFreq ≤ (fswSt 8 8 0 0).get pgCLK fCurFreq ∧
    (fswSt 8 8 0 0).pow.pend = none ∧ (fswSt 8 8 0 0).get pgCLK fFswFreq ≤ 16 := by decide
theorem wit_fsw_rise : (fswHigh 9 0).bit pgGOV fVOk = true ∧ (fswHigh 9 0).vNeed 9 ≤ 2 * ((fswHigh 9 0).get pgGOV fVddSet : Int) ∧
    (fswHigh 9 0).rampFits 8 ((fswHigh 9 0).switchCharge 9) = false ∧ (fswHigh 9 100).rampFits 8 ((fswHigh 9 100).switchCharge 9) = true ∧
    (fswHigh 17 100).vNeed 17 ≤ 2 * ((fswHigh 17 100).get pgGOV fVddSet : Int) ∧
    (fswHigh 17 100).rampFits 8 ((fswHigh 17 100).switchCharge 17) = true ∧ (fswHigh 9 100).pow.pend = none := by decide
/-- A lower code is asked for while another switch is pending. -/
def fswTwice : Chip := { fswSt 8 8 0 0 with pow := { Power.reset with pend := some (7, 9, false) } }
theorem wit_fsw_twice : fswTwice.pow.pend ≠ none ∧ fswTwice.get pgCLK fFswFreq ≤ fswTwice.get pgCLK fCurFreq := by decide
def pending (b : Nat) : Chip := { Chip.reset with pow := { Power.reset with pend := some (16, b, false) } }
theorem wit_switch : (pending 0).pow.pend = some (16, 0, false) ∧ 0 ≤ (pending 0).beat ∧ (pending 1).beat < 1 := by decide
theorem wit_vdd : Chip.reset.vNeed (Chip.reset.get pgCLK fCurFreq) ≤ 2 * (700 : Int) ∧
    2 * (1 : Int) < Chip.reset.vNeed (Chip.reset.get pgCLK fCurFreq) ∧ Chip.reset.pow.pend = none ∧
    (Chip.reset.put pgGOV fVOk 0).get pgGOV fVOk = 0 ∧ (Chip.reset.put pgGOV fVOk 0).pow.want = none := by decide
/-- The governor's tick is due, the device is hot, and its frequency code is 8. -/
def hotSt : Chip := { (((((Chip.reset.put pgGOV fPstate 2).put pgTHM fTmax 400).put pgCLK fCurFreq 8).put pgGOV fThrStep 2).put pgGOV fFMax 16) with edges := 4096 }
def reads : PowerReadings := { vinMv := 56000, pinW := [10], iinMa := [10], pinTau1 := 10, energy := [1, 2] }
theorem wit_governor : hotSt.pow.lastTick + hotSt.get pgGOV fGovPeriod ≤ hotSt.edges ∧ hotSt.hot = true ∧ hotSt.overLimit reads = false ∧
    hotSt.bit pgTHM fEmerg = false ∧ hotSt.pow.pend = none ∧ hotSt.get pgCLK fCurFreq = 8 ∧
    hotSt.get pgGOV fPstate ≠ 1 ∧ max (min (8 - hotSt.get pgGOV fThrStep) (hotSt.get pgGOV fFMax)) hotSt.highFloor < 8 := by decide
def gusty (n : Nat) : Chip := { (Chip.reset.put pgCLK fDroopEn 1) with pow := { Power.reset with gustWin := [(41, n)] } }
theorem wit_gust : (gusty 63).bit pgCLK fDroopEn = true ∧ sget natReset (gusty 63).pow.gustWin 41 < 64 ∧
    64 ≤ sget natReset (gusty 64).pow.gustWin 41 := by decide
def adapting : Chip := Chip.reset.setPort 15 { Port.reset with adapting := true }
theorem wit_adaptation : (adapting.port 15).adapting = true ∧ (∀ q, q < 16 → adapting.adaptDue q = false) := by decide

/-- 160 sensors at 40 °C, but sensor `n` at `v` quarter degrees. -/
def sensors (n v : Nat) : List Nat := (List.range 160).map fun i => if i = n then v else 160
theorem wit_sensors : (sensors 157 400).length = 160 ∧ (∀ n, n < 160 → (sensors 157 400).getD n 0 < 440) ∧
    4 * Chip.reset.get pgTHM fTEmerg ≤ (sensors 157 400).getD 157 0 ∧ Chip.reset.bit pgTHM fEmerg = false ∧
    (∀ n, n < 158 → (sensors 157 399).getD n 0 < 4 * Chip.reset.get pgTHM fTEmerg) := by decide
theorem wit_trip : Chip.reset.board.rails ≠ 0 ∧ 440 ≤ (sensors 159 440).getD 159 0 ∧ (∀ m, m < 159 → (sensors 159 440).getD m 0 < 440) := by
  decide
def noRails : Chip := { Chip.reset with board := { Chip.reset.board with rails := 0 } }
theorem wit_cold : noRails.fabricUp = false ∧ noRails.board.rails = 0 ∧ 440 ≤ (sensors 159 440).getD 159 0 ∧
    (∀ n, n < 160 → (sensors 157 400).getD n 0 < 440) := by decide
def standby : Chip := Chip.reset.put pgGOV fPstate 1
theorem wit_power_states : standby.bit pgGOV fPsBusy = false ∧ standby.get pgGOV fPstate = 1 ∧ (∀ x, x < 16 → standby.ctxState x = 0) ∧
    (seqIn sqIDLE 1).ctxState 0 ≠ 0 ∧ (Chip.reset.put pgGOV fPstate 2).get pgGOV fPstate ≠ 1 ∧
    (standby.put pgGOV fPsBusy 1).bit pgGOV fPsBusy = true := by decide

/-! ## Resets, the board, the boot ROM -/

/-- Core 0 is FAULTED, its matrix engine has work queued and running, and slot 7 is in use. -/
def worked : Chip :=
  ((seqIn sqFAULTED 2).setSlot 0 7 (slotAt 2 1)).updCore 0 fun k =>
    (k.setQueue uMTX [(seqIn sqFAULTED 2).capture 0 wNop]).setRunning uMTX [(seqIn sqFAULTED 2).capture 0 wNop]
theorem wit_core_resets : worked.present 0 = true ∧ worked.fabricUp = true ∧ (worked.core 0).inReset = false ∧
    worked.seqState 0 ≠ sqRUNNING ∧ worked.seqState 0 ≠ sqHELD ∧
    (∀ u ∈ [uMTX, uVEC, uMOV, uADJ, uSYNC, uCHAN], worked.bit (unitPage 0 u) fResetActive = false) ∧ (worked.slot 0 7).desc ≠ 0 ∧
    (seqIn sqRUNNING 1).seqState 0 = sqRUNNING ∧ (seqIn sqRUNNING 1).ctxState ((seqIn sqRUNNING 1).ctxOf 0) = 1 ∧
    worked.bit (pgCEL (clusterOf 0)) fResetActive = false := by decide
/-- Core 143's row is fused off; core 0 is in reset. -/
def fusedSt : Chip := { worked with ident := { worked.ident with fusedRow := 11 } }
def inResetSt : Chip := worked.updCore 0 fun k => { k with inReset := true }
theorem wit_core_resets_ignored : fusedSt.present 143 = false ∧ fusedSt.fabricUp = true ∧ inResetSt.present 0 = true ∧
    (inResetSt.core 0).inReset = true ∧ (worked.put (pgCEL 35) fResetActive 1).bit (pgCEL 35) fResetActive = true := by decide
/-- Three resets are under way. -/
def resetting : Chip :=
  { (((seqIn sqIDLE 1).updCore 0 fun k => { k with inReset := true }).put (unitPage 0 uMTX) fResetActive 1) with
    resets := [.engine 0 uMTX, .core 0, .cluster (clusterOf 0)] }
theorem wit_freset_done : resetting.present 0 = true ∧ resetting.fabricUp = true ∧
    (∀ r ∈ [ResetTarget.engine 0 uMTX, .core 0, .cluster (clusterOf 0)], r ∈ resetting.resets) := by decide
theorem wit_unit_resets : Chip.reset.fabricUp = true ∧ (∀ p, p < 16 → Chip.reset.portPresent p = true ∧
    Chip.reset.bit (pgLNK p) fResetActive = false) ∧ Chip.reset.bit pgSE fResetActive = false ∧
    Chip.reset.bit pgVAN fResetActive = false ∧ Chip.reset.bit pgMGT fResetActive = false := by decide
/-- A report of the vane waits beside another packet in the mesh, the management link is up, and port 15 is UP. -/
def unitSt : Chip :=
  { ((worked.put pgMGT fLinkUp 1).put (pgLNK 15) ⟨0x104, 0, 4⟩ psUP).updCore 0 (fun k => { k with vane := [(1, 2, 3)] }) with
    vaneOpen := [⟨1, 2, 3, 4, 0⟩], net := [packet 0 1 (.nwrAck 3)] }
theorem wit_units_in_reset : unitSt.bit pgMGT fLinkUp = true ∧ unitSt.portState 15 = psUP ∧
    (unitSt.put (pgLNK 15) fResetActive 1).bit (pgLNK 15) fResetActive = true ∧
    (unitSt.put pgSE fResetActive 1).bit pgSE fResetActive = true ∧ (unitSt.put pgVAN fResetActive 1).bit pgVAN fResetActive = true ∧
    (unitSt.put pgMGT fResetActive 1).bit pgMGT fResetActive = true ∧
    ({ unitSt with ident := { unitSt.ident with portAbsent := 0x8000 } } : Chip).portPresent 15 = false := by decide
def chipResetting : Chip := Chip.reset.put pgRST ⟨0x104, 3, 1⟩ 1
/-- A byte of flash, of SRAM, of tun and of the cellar holds something. -/
def stored (s : Chip) : Chip :=
  (((s.setByte 0x20000000 5).setByte 0x01000000 6).setByte (tunAddr 0 0) 7).setByte (celAddr 0) 8
theorem wit_chip_resets : (stored Chip.reset).up = true ∧ (stored Chip.reset).rstBusy = false ∧ (0x5B : BitVec 8) ≠ 0x5A ∧
    chipResetting.up = true ∧ chipResetting.rstBusy = true := by decide
theorem wit_chip_reset_trains : (chipResetting.put (pgLNK 3) fTrainEn 1).bit (pgLNK 3) fTrainEn = true ∧
    2 ≤ (chipResetting.put pgGOV fPstate 2).get pgGOV fPstate ∧ chipResetting.portState 3 = psDISABLED := by decide

def boardAt (b : Board) : Chip := { stored Chip.reset with board := b }
def noInput : Board := { Board.reset with input := false, pwrEn := true, rails := 0 }
theorem wit_board : (boardAt noInput).board.input = false ∧ Chip.reset.board.input = true ∧
    (let b := { Board.reset with pwrEn := false, rails := 0 }
     b.input = true ∧ b.trip = none ∧ b.railFault = false ∧ b.offTime = false ∧ b.rails = 0) ∧
    Board.reset.pwrEn = true ∧ Board.reset.rails ≠ 0 ∧ { Board.reset with rails := 1 }.rails = 1 ∧ Board.reset.rails = 2 ∧
    { Board.reset with offTime := true }.offTime = true ∧ { Board.reset with bootDue := false }.celReady = false ∧
    { Board.reset with bootDue := false }.bootDue = false ∧ (boardAt { Board.reset with bootDue := false }).up = true := by decide

/-- A device whose ROM has run, with the first vendor key written. -/
def keyed : List Nat := [vendorBase + 257]
def booted : Chip := boardAt { Board.reset with bootDue := false }
theorem wit_rom : Board.reset.rails = 2 ∧ Board.reset.bootDue = true ∧ Chip.reset.up = true ∧
    Chip.reset.bit pgKLN fResetActive = false ∧ (0xA4 : BitVec 8) ≠ 0xA5 ∧ (booted.put pgKLN (fWdogLoad 7) 9).get pgKLN (fWdogLoad 7) ≠ 0 ∧
    (booted.put pgKLN fResetActive 1).bit pgKLN fResetActive = true ∧ booted.get pgKLN (fWdogLoad 6) = 0 ∧
    ¬(booted.board.rails = 2 ∧ (booted.board.held = true ∨ booted.board.bootDue = true)) ∧
    7 ∉ (booted.put pgKLN (fWdogLoad 7) 9).wdogHit ∧ (booted.put pgKLN (fWdogLoad 7) 9).bit pgKLN fWdogResetEn = false ∧
    (booted.put pgKLN fWdogResetEn 1).bit pgKLN fWdogResetEn = true := by decide
theorem wit_rom_keyed : activeGen (otpBurn keyed (otpFree keyed 5120 4096).head?.toList) vendorBase = some 0 ∧
    activeGen (otpBurn [] (otpFree [] 5120 4096).head?.toList) vendorBase = none := by decide
theorem wit_rom_bad_image : imageError keyed Chip.reset.flashBytes false = some 0xE2 := by decide +kernel
/-- A flash image of one empty section, whose hashes are zeros. -/
def imaged : Chip :=
  [(0, 0x57), (1, 0x46), (2, 0x33), (3, 0x4A), (4, 1), (8, 1), (90, 4), (91, 1)].foldl
    (fun s (e : Nat × BitVec 8) => s.setByte (0x20010000 + e.1) e.2) Chip.reset
/-- Whatever the signature scheme accepts and the hash returns, an image can pass. -/
theorem wit_rom_image (hv : ∀ k m s, Config.xmssVerify k m s = true) (hs : ∀ l n, Config.shake256 l n = List.replicate n 0) :
    imageError keyed imaged.flashBytes false = none := by
  simp only [imageError, headerError, List.all_eq_true, sectionOk, sha, hv, hs]
  decide +kernel

/-! ## Contexts, logs, registers, the management port -/

/-- Context 3 is in the state `st`; core 0 belongs to it. -/
def ctxSt (st : Nat) : Chip :=
  (((seqIn sqRUNNING 0).put pgFLT (fFltState 3) st).put (pgSEQ 0) fSeqCtx 3).updCore 0 fun k => k.setQueue uVEC [(seqIn sqRUNNING 1).capture 0 wNop]
theorem wit_context : (ctxSt 0).fabricUp = true ∧ (ctxSt 0).ctxState 3 = 0 ∧ (ctxSt 1).ctxState 3 ≠ 0 ∧ (ctxSt 0).ctxState 3 ≠ 1 ∧
    (ctxSt 1).ctxState 3 ≠ 2 ∧ (ctxSt 1).ctxState 3 = 1 ∧ (ctxSt 1).present 0 = true ∧ (ctxSt 1).ctxOf 0 = 3 ∧
    (ctxSt 1).seqState 0 ≠ sqIDLE ∧ (ctxSt 1).seqState 0 ≠ sqFAULTED ∧ (ctxSt 2).ctxState 3 = 2 ∧
    (∀ e ∈ (ctxSt 2).clearing, e.1 ≠ 3) := by decide
def clearingSt (st : Nat) : Chip :=
  { (ctxSt st).updCore 0 fun k => { k with inReset := true, scrubbing := true } with clearing := [(3, [0]), (5, [1])] }
def scrubWaits : Chip := { (clearingSt 3).put (pgCEL 35) (fExtOwn 65) 0x53 with scrubQ := [(35, 65)] }
theorem wit_clear_done : (clearingSt 2).clearing.find? (fun e => e.1 = 3) = some (3, [0]) ∧
    [0].all (clearingSt 2).coreReleased = true ∧ (∃ e ∈ (clearingSt 2).clearing, e.1 = 3) ∧
    [0].all ({ clearingSt 2 with resets := [.core 0] } : Chip).coreReleased = false ∧
    (∃ q ∈ scrubWaits.scrubQ, scrubWaits.extCtx q.1 q.2 = 3) ∧ (clearingSt 2).ctxState 3 = 2 ∧ (clearingSt 3).ctxState 3 = 3 ∧
    (∀ q ∈ (clearingSt 3).scrubQ, (clearingSt 3).extCtx q.1 q.2 ≠ 3) := by decide
/-- Core 0 is context 3's partition, and so is extent 65 of slice 35. -/
def released : Chip := ((ctxSt 2).put (pgCEL 35) (fExtOwn 65) 0x13).setByte (tunAddr 0 5) 9
theorem wit_release : released.ctxState 3 = 2 ∧ 0 ∈ released.partition 3 ∧ released.extKind 35 65 = 1 ∧ released.extCtx 35 65 = 3 := by
  decide

theorem wit_command_register : Chip.reset.up = true ∧ Chip.reset.rstBusy = false ∧ Chip.reset.bit pgFLT fResetActive = false ∧
    2 ≤ ((List.range 4).filter fun k => (0xF3 : BitVec 32).getLsbD k).length ∧
    ((List.range 4).filter fun k => (0xF0 : BitVec 32).getLsbD k).length = 0 ∧ (0x38 : BitVec 32).toNat % 16 = 8 := by decide

def logged : Chip := (Chip.reset.logErr (pgSEQ 0) 5 7).logErr pgSE 6 8
theorem wit_logs : Chip.reset.up = true ∧ (∀ pg ∈ [pgSEQ 0, pgSE, pgFLT, pgLNK 15], hasErrRegs pg = true ∧ Chip.reset.pageThere pg = true ∧
    Chip.reset.pageInReset pg = false) ∧
    timedCount (((pageType pgFLT).map (·.1)).getD 0) (Chip.reset.get pgFLT fCntSel) = false ∧
    lineCount (((pageType pgFLT).map (·.1)).getD 0) (Chip.reset.get pgFLT fCntSel) = false := by decide
/-- Core 143 is fused off, and page counts of a port with line errors are selected. -/
def fused143 : Chip := { logged with ident := { Ident.reset with part := 2, fusedRow := 11 } }
def lineSt : Chip := (logged.put (pgLNK 15) fCntSel 5).count (pgLNK 15) 5 7
theorem wit_logs_pages : pageType 0x3FFF000 = none ∧ pageType (pgSEQ 143) ≠ none ∧ fused143.pageThere (pgSEQ 143) = false ∧
    (inResetSt.put (pgVAN) fResetActive 1).pageInReset pgVAN = true ∧ inResetSt.pageThere pgVAN = true ∧ hasErrRegs pgID = false ∧
    logged.pageThere pgID = true ∧ lineCount (((pageType (pgLNK 15)).map (·.1)).getD 0) (lineSt.get (pgLNK 15) fCntSel) = true := by
  decide
theorem wit_settings_in_reset : (logged.put pgKLN fResetActive 1).bit pgKLN fResetActive = true ∧
    (logged.put pgMGT fResetActive 1).bit pgMGT fResetActive = true ∧ (∀ p, p < 16 → logged.portState p ≠ psPEER) := by decide
theorem wit_settings : Chip.reset.fabricUp = true ∧ Chip.reset.bit pgKLN fResetActive = false ∧ Chip.reset.bit pgMGT fResetActive = false ∧
    Chip.reset.get pgID fDevIdValid = 0 ∧ (Chip.reset.put pgID fDevIdValid 1).get pgID fDevIdValid = 1 ∧
    (1 ≤ bf (4 : BitVec 32) 0 3 ∧ bf (4 : BitVec 32) 0 3 ≤ 4) ∧ bf (8 : BitVec 32) 0 3 = 0 ∧ 5 ≤ bf (5 : BitVec 32) 0 3 := by decide
theorem wit_register_writes : Chip.reset.up = true ∧ Chip.reset.rstBusy = false ∧ Chip.reset.present 0 = true ∧
    (Chip.reset.core 0).inReset = false ∧ Chip.reset.bit (pgSEQ 0) fResetActive = false ∧
    Chip.reset.seqState 0 ∈ [sqIDLE, sqHELD, sqHALTED] ∧ (seqIn sqRUNNING 1).seqState 0 = sqRUNNING ∧
    { Chip.reset with ident := { Ident.reset with part := 2, fusedRow := 11 } }.present 143 = false ∧
    (inResetSt.core 0).inReset = true ∧ inResetSt.rstBusy = false ∧ populated 0x3811000 = false ∧ 2 % 4 ≠ 0 := by decide

theorem wit_register_kinds : logged.up = true ∧ logged.rstBusy = false ∧
    (∀ page ∈ [pgGOV, pgTHM, pgBEAT, pgKLN, pgMGT, pgID, pgVAN], logged.bit page fResetActive = false) ∧
    (0x80000000 : BitVec 32).getLsbD 31 = true ∧ (1 : BitVec 32).getLsbD 31 = false ∧ logged.get pgID fDevIdValid = 0 ∧
    (logged.put pgID fDevIdValid 1).get pgID fDevIdValid = 1 ∧ logged.bit pgVAN fVanEn = false ∧ (pgVAN + 0x114) % 8 ≠ 0 := by decide

/-- The ROM serves the management port: stage `st`, in recovery where `r`. -/
def serving (st r : Nat) : Chip :=
  ((({ Chip.reset with board := { Board.reset with bootDue := false } }).put pgKLN fBootStage st).put pgKLN fRecovery r).put pgMGT fLinkUp 1
theorem wit_rap : (serving 0xE2 1).up = true ∧ (serving 0xE2 1).romServes = true ∧ (serving 0xE2 1).bit pgID fResetActive = false ∧
    (serving 0xE2 1).bit pgKLN fRecovery = true ∧ 0xFFFFFFFF + [1, 2].length > imageLen ∧ imageLen - 2 + [(1 : BitVec 8), 2].length ≤ imageLen ∧
    (serving 0xE2 1).rapOpen = true ∧ (serving 0xE2 1).bit pgKLN fLock = false ∧ (serving 0xE2 1).bit pgKLN fResetActive = false ∧
    ((serving 0xE2 1).put pgSEC fSecDbg 2).rapOpen = false ∧ Chip.reset.romServes = false ∧
    populated 0x3811000 = false ∧ ((serving 0xE2 1).put pgVAN fLock 1).bit pgVAN fLock = true ∧ pageType pgVAN ≠ none ∧
    pgVAN / 0x1000 * 0x1000 = pgVAN ∧ populated pgVAN = true := by decide
theorem wit_rap_any : (serving 8 0).romServes = true ∧ (serving 8 0).rapOpen = true ∧ (pgGOV + 0x10C) % 4 = 0 ∧
    populated (pgGOV + 0x10C) = true ∧ pageType pgGOV ≠ none ∧ (pgGOV + 0x10C) / 0x1000 * 0x1000 = pgGOV ∧ (serving 8 0).bit pgGOV fLock = false := by decide
theorem wit_mgmt : (serving 0xE2 1).linkUp = true ∧ 0xFFFE + [(1 : BitVec 8), 2].length ≤ 0x10000 ∧ Chip.reset.bit pgMGT fResetActive = false ∧
    Chip.reset.bit pgMGT fLinkUp ≠ true ∧ Chip.reset.linkUp = false ∧ 0x10000 < 0xFFFF + [(1 : BitVec 8), 2].length := by decide
theorem wit_smbus : Chip.reset.board.input = true ∧ (serving 8 0).kilnAnswers = true ∧ (serving 7 0).kilnAnswers = false ∧
    ({ Chip.reset with board := { Board.reset with input := false } } : Chip).board.input = false ∧
    { Board.reset with alert := true }.alert = true ∧ Board.reset.alert = false ∧ { Board.reset with answered := true }.answered = true := by decide

/-! ## Ports -/

/-- Port 15 is in the state `st` and otherwise `k`. -/
def portSt (st : Nat) (k : Port) : Chip := (Chip.reset.put (pgLNK 15) fPortState st).setPort 15 k
theorem portIn_of {s : Chip} {p st : Nat} (h : s.fabricUp = true ∧ s.portPresent p = true ∧ s.bit (pgLNK p) fResetActive = false ∧
    s.portState p = st) : PortIn s p st := ⟨h.1, h.2.1, h.2.2.1, h.2.2.2⟩
theorem wit_port_in : PortIn (portSt psDISABLED Port.reset) 15 psDISABLED ∧ PortIn (portSt psTRAINING { Port.reset with trained := 13 }) 15 psTRAINING ∧
    PortIn (portSt psALIGN Port.reset) 15 psALIGN ∧ PortIn (portSt psMEASURE Port.reset) 15 psMEASURE ∧
    PortIn (portSt psPEER Port.reset) 15 psPEER ∧ PortIn (portSt psUP { Port.reset with downDue := some 15 }) 15 psUP ∧
    PortIn (portSt psDOWN Port.reset) 15 psDOWN ∧ PortIn (portSt psDEGRADING { Port.reset with goal := 3, restoring := true }) 15 psDEGRADING :=
  ⟨portIn_of (by decide), portIn_of (by decide), portIn_of (by decide), portIn_of (by decide), portIn_of (by decide), portIn_of (by decide),
   portIn_of (by decide), portIn_of (by decide)⟩
def narrow : Chip := (portSt psTRAINING { Port.reset with trained := 13 }).put (pgLNK 15) fDegradeEn 1
theorem wit_training : 2 ≤ ((portSt psDISABLED Port.reset).put pgGOV fPstate 2).get pgGOV fPstate ∧ ((13 : BitVec 4) ||| 2 = 15) ∧ ((13 : BitVec 4) ||| 5 ≠ 15) ∧
    narrow.bit (pgLNK 15) fDegradeEn = true ∧ (narrow.port 15).trained ≠ 0 ∧ (narrow.put (pgLNK 15) fDegradeEn 0).bit (pgLNK 15) fDegradeEn = false ∧
    ((portSt psTRAINING Port.reset).port 15).trained = 0 := by decide
/-- The header of a cell of flow 63 with 256 bytes. -/
def cellOf (type dst lseq ttl : Nat) : LinkCell :=
  { type := type, dst := dst, src := 9, flow := 63, lseq := lseq, len := 256, ttl := ttl, poison := 1, info := 0, pkts := [],
    ctl := none, mark := none, inPort := none }
def hdrOf (type dst lseq ttl : Nat) : BitVec 128 := (cellOf type dst lseq ttl).header
def badHdr : BitVec 128 := hdrOf 0 0 0 31 ^^^ 2 ^ 77
theorem wit_headers : hcGood (hdrOf 4 0 4095 1) = true ∧ hcType (hdrOf 4 0 4095 1) = 4 ∧ hcLseq (hdrOf 4 0 4095 1) = 4095 ∧
    hcGood (hdrOf 4 0 0 1) = true ∧ hcGood badHdr = false ∧ hcGood (hdrOf 15 0 0 31) = true ∧ hcType (hdrOf 15 0 0 31) = 15 ∧
    hcGood (hdrOf 0 1023 0 2) = true ∧ hcDst (hdrOf 0 1023 0 2) = 1023 ∧ hcTtl (hdrOf 0 1023 0 2) = 2 ∧ hcFlow (hdrOf 0 1023 0 2) = 63 ∧
    hcLen (hdrOf 0 1023 0 2) = 256 ∧ hcPoison (hdrOf 0 1023 0 2) = 1 ∧ hcSrc (hdrOf 0 1023 0 2) = 9 ∧ hcInfo (hdrOf 0 1023 0 2) = 0 := by
  decide
/-- The header of a CONTROL cell with the code `b`. -/
def ctlHdr (n : Nat) (b : BitVec 8) : BitVec 128 := { cellOf 4 0 n 31 with info := b.toNat, poison := 0 }.header
/-- Whatever the codes of the CONTROL cells are, a cell can carry them, and another. -/
theorem wit_control (k : Nat) : hcGood (ctlHdr 4095 (Config.ctlCode k)) = true ∧ hcType (ctlHdr 4095 (Config.ctlCode k)) = 4 ∧
    hcLseq (ctlHdr 4095 (Config.ctlCode k)) = 4095 ∧ hcInfo (ctlHdr 4095 (Config.ctlCode k)) % 256 = (Config.ctlCode k).toNat ∧
    hcLseq (ctlHdr 0 (Config.ctlCode k)) = 0 ∧ hcInfo (ctlHdr 0 (Config.ctlCode k)) % 256 = (Config.ctlCode k).toNat ∧
    hcInfo (ctlHdr 0 (Config.ctlCode k + 1)) % 256 ≠ (Config.ctlCode k).toNat := by
  have h := (Config.ctlCode k).isLt
  simp only [ctlHdr, hcGood_header, hcType_header, hcLseq_header, hcInfo_header, cellOf, BitVec.toNat_add, true_and]
  have h1 : (1 : BitVec 8).toNat = 1 := rfl
  omega
def peering : Chip := ((portSt psPEER { Port.reset with rxSeq := 4095 }).put pgID fDevIdValid 1)
/-- The peer's cell has come before the delay. -/
def measuring : Chip := (portSt psMEASURE { Port.reset with peer := some (7, 2, 3) }).put pgID fDevIdValid 1
theorem wit_measure_peer : ((portSt psMEASURE Port.reset).port 15).peer = none ∧ (measuring.port 15).peer = some (7, 2, 3) ∧
    7 ≠ measuring.devId ∧ hcLseq (hdrOf 4 0 4095 1) = (peering.port 15).rxSeq ∧ peering.bit pgID fDevIdValid = true ∧ 1 ≠ peering.devId ∧
    0 = peering.devId ∧ (peering.put pgID fDevIdValid 0).bit pgID fDevIdValid = false := by decide
theorem wit_up_ends : ((portSt psUP { Port.reset with downDue := some 15 }).port 15).downDue = some 15 ∧ 15 < 16 ∧
    ((portSt psUP Port.reset).port 15).downDue ≠ some 1 ∧
    ((portSt psDOWN Port.reset).put (pgLNK 15) fTrainEn 1).bit (pgLNK 15) fTrainEn = true ∧
    (Port.reset.measured + 4096 ≤ { portSt psUP Port.reset with edges := 4096 }.edges) := by decide
def fourLanes : Chip := ((portSt psUP Port.reset).setWidth 15 15).put (pgLNK 15) fDegradeEn 1
theorem wit_lost_lanes : BitVec.ofNat 4 (fourLanes.get (pgLNK 15) fLaneUse) = 15 ∧ (15 : BitVec 4) &&& ~~~6 ≠ 15 ∧ (15 : BitVec 4) &&& ~~~6 ≠ 0 ∧
    fourLanes.bit (pgLNK 15) fDegradeEn = true ∧ (15 : BitVec 4) &&& ~~~15 = 0 ∧ 4 ≤ fourLanes.get (pgLNK 15) fLanes ∧
    ({ Port.reset with degradeDue := some 3 }.degradeDue = some 3) ∧ (fourLanes.setWidth 15 7).get (pgLNK 15) fLanes < 4 := by decide

def changed (agreed again : Bool) : Port := { Port.reset with goal := 3, restoring := true, agreed := agreed, remeasured := again }
theorem wit_width : PortIn (portSt psDEGRADING (changed true true)) 15 psDEGRADING ∧ ((portSt psDEGRADING (changed true true)).port 15).agreed = true ∧
    ((portSt psDEGRADING (changed true false)).port 15).remeasured = false ∧ ({ Port.reset with restoring := true }.restoring = true) :=
  ⟨portIn_of (by decide), by decide⟩

def sentCell (n : Nat) : LinkCell := cellOf 0 9 n 31
def replaying : Chip := (portSt psUP { Port.reset with replay := [sentCell 4094, sentCell 4095, sentCell 0] }).put (pgLNK 15) fCredU 250
/-- Device 1,023 lies behind port 0, which is UP; device 0 is this one. -/
def routed (st0 : Nat) : Chip :=
  ((((portSt psUP Port.reset).put pgLKC ⟨0x800 + 1023 / 2 * 4, 16, 16⟩ 16).put (pgLNK 0) fPortState st0).put pgLKC ⟨0x800, 0, 16⟩ 48)
theorem wit_cells : (routed psUP).route 1023 = 16 ∧ (routed psUP).portPresent 0 = true ∧ (routed psUP).portState 0 ≠ psDOWN ∧
    (routed psDOWN).portState 0 = psDOWN ∧ ((routed psUP).route 0).testBit 5 = true ∧ hcLseq (hdrOf 0 0 1 31) ≠ Port.reset.rxSeq ∧
    Port.reset.nakHold = false ∧ (replaying.port 15).replay = [sentCell 4094] ++ sentCell 4095 :: [sentCell 0] ∧
    (∀ y ∈ [sentCell 4094], y.lseq ≠ (sentCell 4095).lseq) ∧ (∀ y ∈ [sentCell 4094] ++ [sentCell 4095], ∀ q ∈ y.pkts, bodyKind q.body ≠ 9) ∧
    (replaying.put (pgLNK 15) fConsec 7).get (pgLNK 15) fConsec = 7 := by decide
/-- A packet of no flow waits for device 9, which is behind port 15. -/
def bound : Packet := ⟨⟨0, .core 0⟩, ⟨9, .core 3⟩, .nwrAck 3⟩
def leaving (st : Nat) (k : Port) : Chip :=
  { (((portSt st k).put pgLKC ⟨0x800 + 9 / 2 * 4, 16, 16⟩ 31).put (pgLNK 15) fCredU 1) with net := [packet 0 1 (.nwrAck 3), bound] }
/-- The same with a message whose data bytes are poisoned. -/
def poisoned : Packet := ⟨⟨0, .core 0⟩, ⟨9, .core 3⟩, .message (header 20) 0 0 0 (List.replicate 20 (0xAB, true))⟩
def leavingMsg : Chip := { leaving psUP Port.reset with net := [poisoned] }
theorem wit_transmit : let s := leaving psUP Port.reset
    s.outPackets 15 = [bound] ∧ (s.port 15).localFlow bound = none ∧ packetBytes bound ≤ 256 ∧ s.get (pgLNK 15) fCredU ≠ 0 ∧
    (s.port 15).owner 0 = none ∧ (s.port 15).ended = [] ∧ (s.port 15).missed = [] ∧ (leaving psDOWN Port.reset).outPackets 15 = [bound] ∧
    leavingMsg.outPackets 15 = [poisoned] ∧ 3 ≤ [0, 3, 1].getD 1 0 ∧ (s.put (pgLNK 15) fCredU 0).get (pgLNK 15) fCredU = 0 := by
  decide
def inTransit : LinkCell := { cellOf 0 9 5 30 with flow := 62, inPort := some 2 }
theorem wit_transmit_kinds : ({ Port.reset with idleRun := 4095 }.idleRun = 4095) ∧
    ({ Port.reset with replay := [sentCell 1, sentCell 2], resend := 1 }.replay[1]? = some (sentCell 2)) ∧
    ({ Port.reset with ctl := [.down] }.ctl = [Control.down]) ∧ (let x := inTransit; x.type = 0 ∧ x.inPort = some 2 ∧ 2 ≠ 15) ∧
    ({ Port.reset with retS := 3 }.retS ≠ 0) ∧ ({ Port.reset with retU := 4 }.retU ≠ 0) := by decide
/-- Group 31 belongs to flow 62, in which a message of core 0 on channel 63 waits. -/
def message (n : Nat) : Packet := ⟨⟨0, .core 0⟩, ⟨9, .core 3⟩, .message (header n) 0 0 0 (List.replicate n (0xAB, false))⟩
def owned (n : Nat) : Chip :=
  { ((leaving psUP { Port.reset with tables := [(0x200 + 4 * 31, 64 + 62), (0x300 + 4 * 62, 1 + 63 * 2 ^ 10)] }).put (pgLNK 15) fCredS 9).put
      (pgLNK 15) fLanes 4 with net := [message n] }
theorem wit_group_end : ((owned 1024).port 15).owner 31 = some 62 ∧ (∀ h, h < 32 → 31 < h → ((owned 1024).port 15).owner h ≠ some 62) ∧
    (owned 1024).flowCells 15 (some 62) = 5 ∧ ((owned 1024).port 15).owner 30 = none := by decide
theorem wit_static_send : (owned 200).outPackets 15 = [message 200] ∧ ((owned 200).port 15).localFlow (message 200) = some 62 ∧
    packetBytes (message 200) ≤ 256 ∧ 0 < (owned 200).groupCap 15 31 ∧ (owned 200).get (pgLNK 15) fCredS ≠ 0 := by decide
/-- The group of flow 62 has ended with its message left, after one of flow 3, which now has nothing to send. -/
def missed (n : Nat) : Chip := (owned n).updPort 15 fun k => { k with missed := [(3, 2), (62, 1)] }
theorem wit_missed_send : let s := missed 200
    (s.port 15).missed = [(3, 2)] ++ (62, 1) :: [] ∧ (∀ e ∈ ([(3, 2)] : List (Nat × Nat)) ++ [], e.1 ≠ 62 ∧ e.2 ≠ 0) ∧
      (∀ e ∈ ([(3, 2)] : List (Nat × Nat)), s.flowWaits 15 (some e.1) = false) ∧ s.outPackets 15 = [message 200] ∧
      (s.port 15).localFlow (message 200) = some 62 ∧ packetBytes (message 200) ≤ 256 ∧ 0 < s.groupCap 15 30 ∧
      s.get (pgLNK 15) fCredS ≠ 0 ∧ (s.port 15).replay.length < 512 := by decide

/-! ## The stream engine, the vane, the security engine -/

/-- A command whose bytes from each offset on are the value. -/
def command (l : List (Nat × Nat)) : BitVec 512 := BitVec.ofNat 512 (l.map fun e => e.2 * 2 ^ (8 * e.1)).sum
/-- Context 15 as the software sets it up in its extent 0 of slice 0, with core 0's slot 7 as target 15 and beat `b` the first. -/
def served (b : Nat) : Chip :=
  ((((((((((((((((((Chip.reset.put (pgCEL 0) (fExtOwn 0) 0x1F).put (pgCTX 15) fMaxStreams 16384).put (pgCTX 15) fRowsMax 65536).put (pgCTX 15)
    fSubb 4096).put (pgCTX 15) fChunk 4096).put (pgCTX 15) fDepth 16).put (pgCTX 15) fStepPeriod 4).put (pgCTX 15) fQuota 9).put (pgCTX 15)
    fNpt 9).put (pgCTX 15) fPtlen 2).put (pgCTX 15) fNpages 9).put (pgCTX 15) fBodyStride 4096).put (pgCTX 15) fResStride 4096).put
    (pgCTX 15) fNtile 3).put (pgCTX 15) (fTgtSlot 15) 7).put (pgCTX 15) (fTgtValid 15) 1).setReg (pgCTX 15 + 0x104) (BitVec.ofNat 32 b)).setReg
    (pgCTX 15 + 0x140) 0x10000).setReg (pgCTX 15 + 0x148) 0x80000 |>.setReg (pgCTX 15 + 0x150) 0x100000
def enabledSt : Chip := (served 0).put (pgCTX 15) fCtxEn 1
def withFifo (s : Chip) (l : List (BitVec 512)) : Chip := s.updSeCtx 15 fun k => { k with fifo := l }
theorem wit_ctx_enable : (served 1).fabricUp = true ∧ (served 1).bit pgSE fResetActive = false ∧ (served 1).cx 15 fCtxEn = 0 ∧
    (served 1).ctxOk 15 = true ∧ Chip.reset.ctxOk 15 = false ∧ enabledSt.cx 15 fCtxEn = 1 ∧
    (enabledSt.put pgSE fResetActive 1).bit pgSE fResetActive = true := by decide
def garbled : BitVec 512 := command [(0, 6), (4, 77)]
theorem wit_command_submit : ((withFifo enabledSt (List.replicate 127 garbled)).seCtx 15).fifo.length < 128 ∧
    128 ≤ ((withFifo enabledSt (List.replicate 128 garbled)).seCtx 15).fifo.length ∧
    ((withFifo enabledSt [garbled]).seCtx 15).fifo = garbled :: [] ∧ enabledSt.cx 15 fCtxEn = 1 ∧ cmdBad garbled = true ∧
    (enabledSt.seCtx 15).fifo = [] := by decide

def cAdmit (n : Nat) : BitVec 512 := command [(0, 1), (1, 1), (2, 0xFFFF), (4, 77), (8, 5), (24, 64), (28, 0x800), (32, n), (36, 3), (40, 9)]
/-- A stream that asks for adjunct 65,534. -/
def cAdmitAdj : BitVec 512 := command [(0, 1), (1, 1), (2, 0xFFFE), (4, 77), (8, 5), (24, 64), (28, 0x800), (32, 7), (36, 3), (40, 9)]
/-- Every table entry but the last has been used. -/
def lastEntry : Chip := { withFifo enabledSt [cAdmit 7] with se := { (withFifo enabledSt [cAdmit 7]).se with entryNext := 2 ^ 20 - 1 } }
/-- Every table entry has been used, and none is free again. -/
def fullTable : Chip := { lastEntry with se := { lastEntry.se with entryNext := 2 ^ 20 } }
theorem wit_admit : (lastEntry.seCtx 15).fifo = cAdmit 7 :: [] ∧ cmdBad (cAdmit 7) = false ∧ cmdF (cAdmit 7) 0 1 = 1 ∧
    lastEntry.inputOk 15 (cAdmit 7) = true ∧ cmdF (cAdmit 7) 1 1 % 4 = 1 ∧ cmdF (cAdmit 7) 24 2 ≤ 64 ∧
    (cmdF (cAdmit 7) 1 1).testBit 3 = false ∧ cmdF (cAdmit 7) 2 2 = 0xFFFF ∧ lastEntry.tableFull = false ∧ lastEntry.overQuota 15 = false ∧
    lastEntry.seDenied 15 (lastEntry.ptAddr 15 0 0) (4 * lastEntry.cx 15 fPtlen) true = none ∧
    celAddr (lastEntry.ptAddr 15 0 0) + 4 * lastEntry.cx 15 fPtlen ≤ tableAddr (64 * (2 ^ 20 - 1)) ∧
    lowestFree (lastEntry.seCtx 15).ptUsed = 0 ∧ lastEntry.inputOk 15 (cAdmit 0) = false ∧ lastEntry.errs = [] := by decide
theorem wit_admit_refused : cmdBad (cAdmit 0) = false ∧ cmdF (cAdmit 0) 0 1 = 1 ∧ enabledSt.inputOk 15 (cAdmit 0) = false ∧
    cmdBad cAdmitAdj = false ∧ cmdF cAdmitAdj 0 1 = 1 ∧ enabledSt.inputOk 15 cAdmitAdj = true ∧ cmdF cAdmitAdj 1 1 % 4 = 1 ∧
    cmdF cAdmitAdj 24 2 ≤ 64 ∧ (cmdF cAdmitAdj 1 1).testBit 3 = false ∧ cmdF cAdmitAdj 2 2 ≠ 0xFFFF ∧
    enabledSt.latestOf 15 (cmdF cAdmitAdj 2 2) = none ∧ fullTable.tableFull = true ∧ fullTable.inputOk 15 (cAdmit 7) = true ∧
    (withFifo (enabledSt.put (pgCTX 15) fQuota 0) [cAdmit 7]).overQuota 15 = true ∧
    (withFifo (enabledSt.put (pgCTX 15) fQuota 0) [cAdmit 7]).tableFull = false := by decide
/-- Stream 2^20 - 1 is the context's, in the state `st`, with generation 4,095. -/
def streamed (st : Nat) (m : BitVec 512) : Chip :=
  let i := 2 ^ 20 - 1
  let s := (((withFifo enabledSt [m]).setSt i 0 1 (st + 16 * 15)).setSt i 1 1 65).setSt i 2 2 4095
  { s with se := { s.se with used := [i] } }
def handle : Nat := 2 ^ 32 - 1
def cAppend (h n : Nat) : BitVec 512 := command [(0, 2), (4, 77), (8, h), (28, 0x800), (32, n), (36, 5), (40, 9)]
def cClose (h : Nat) : BitVec 512 := command [(0, 3), (4, 77), (8, h)]
theorem wit_append : cmdBad (cAppend handle 7) = false ∧ cmdF (cAppend handle 7) 0 1 = 2 ∧
    (streamed 3 (cAppend handle 7)).inputOk 15 (cAppend handle 7) = true ∧
    (streamed 3 (cAppend handle 7)).streamNamed 15 (cmdF (cAppend handle 7) 8 4) = some (2 ^ 20 - 1) ∧
    (streamed 3 (cAppend handle 7)).stState (2 ^ 20 - 1) = 3 ∧ (streamed 1 (cAppend handle 7)).stState (2 ^ 20 - 1) ≠ 3 ∧
    cmdBad (cAppend handle 0) = false ∧ enabledSt.inputOk 15 (cAppend handle 0) = false ∧ cmdBad (cAppend 5 7) = false ∧
    (streamed 3 (cAppend 5 7)).inputOk 15 (cAppend 5 7) = true ∧
    (streamed 3 (cAppend 5 7)).streamNamed 15 (cmdF (cAppend 5 7) 8 4) = none := by decide
theorem wit_close_cmd :
    let s := streamed 1 (cClose handle)
    cmdBad (cClose handle) = false ∧ cmdF (cClose handle) 0 1 = 3 ∧
    s.streamNamed 15 (cmdF (cClose handle) 8 4) = some (2 ^ 20 - 1) ∧ s.stState (2 ^ 20 - 1) ≠ 2 ∧ s.stVer (2 ^ 20 - 1) = none ∧
    s.seDenied 15 (s.ptAddr 15 (s.st (2 ^ 20 - 1) 52 2) 0) (4 * s.cx 15 fPtlen) false = none ∧
    (s.setSt (2 ^ 20 - 1) 54 2 0xFFFF).treeOf (2 ^ 20 - 1) = none ∧
    (let lists := s.ptAddr 15 (s.cx 15 fNpt) 0
     s.seDenied 15 lists (s.workBase 15 + (s.reg (pgCTX 15 + 0x134)).toNat - lists) true = none) ∧
    (streamed 2 (cClose handle)).stState (2 ^ 20 - 1) = 2 ∧ (streamed 1 (cClose 5)).streamNamed 15 (cmdF (cClose 5) 8 4) = none := by decide
def cAdjload : BitVec 512 := command [(0, 4), (2, 65534), (4, 77), (28, 0x800), (32, 64)]
def cAdjdrop : BitVec 512 := command [(0, 5), (2, 65534), (4, 77)]
def imageSt (tiles : Nat) : Chip := (withFifo enabledSt [cAdjload]).storeNum (celAddr 0x2000) 4 tiles
/-- The adjunct's image lies in another device's part. -/
def cAdjFar : BitVec 512 := command [(0, 4), (2, 65534), (4, 77), (28, 0xFFFFFFF0), (32, 64)]
def dropSt (refs : Nat) : Chip := ((withFifo enabledSt [cAdjdrop]).setVers [(4, ⟨0, 15, 65534, refs⟩)]).setLatest 15 65534 (some 4)
theorem wit_adjload : cmdBad cAdjload = false ∧ cmdF cAdjload 0 1 = 4 ∧
    (imageSt 3).imageOk 15 (4 * cmdF cAdjload 28 4) (cmdF cAdjload 32 4) = true ∧
    (imageSt 3).num (celAddr (4 * cmdF cAdjload 28 4)) 4 = (imageSt 3).cx 15 fNtile ∧ (imageSt 3).se.vers.length < 65536 ∧
    (imageSt 3).latestOf 15 (cmdF cAdjload 2 2) = none ∧
    (imageSt 4).imageOk 15 (4 * cmdF cAdjload 28 4) (cmdF cAdjload 32 4) = true ∧
    (imageSt 4).num (celAddr (4 * cmdF cAdjload 28 4)) 4 ≠ (imageSt 4).cx 15 fNtile ∧
    cmdBad cAdjFar = false ∧ cmdF cAdjFar 0 1 = 4 ∧ enabledSt.imageOk 15 (4 * cmdF cAdjFar 28 4) (cmdF cAdjFar 32 4) = false := by decide
theorem wit_adjload_full (l : List (Nat × AdjVersion)) (h : 65536 ≤ l.length) : ∃ s : Chip,
    s.imageOk 15 (4 * cmdF cAdjload 28 4) (cmdF cAdjload 32 4) = true ∧
    s.num (celAddr (4 * cmdF cAdjload 28 4)) 4 = s.cx 15 fNtile ∧ 65536 ≤ s.se.vers.length := by
  have same : ∀ (s : Chip) (x a n : Nat), (s.setVers l).imageOk x a n = s.imageOk x a n ∧ (s.setVers l).num a n = s.num a n ∧
      (s.setVers l).cx x fNtile = s.cx x fNtile ∧ (s.setVers l).se.vers = l := fun _ _ _ _ => ⟨rfl, rfl, rfl, rfl⟩
  refine ⟨(imageSt 3).setVers l, ?_, ?_, ?_⟩
  · rw [(same _ _ _ _).1]; exact wit_adjload.2.2.1
  · rw [(same _ 15 _ _).2.1, (same _ _ 0 0).2.2.1]; exact wit_adjload.2.2.2.1
  · rw [(same _ 0 0 0).2.2.2]; exact h
theorem wit_adjdrop : cmdBad cAdjdrop = false ∧ cmdF cAdjdrop 0 1 = 5 ∧ (dropSt 1).latestOf 15 (cmdF cAdjdrop 2 2) = some 4 ∧
    ((dropSt 1).version 4).refs ≠ 0 ∧ enabledSt.latestOf 15 (cmdF cAdjdrop 2 2) = none ∧
    (dropSt 0).latestOf 15 (cmdF cAdjdrop 2 2) = some 4 ∧ (∃ e ∈ (dropSt 0).se.vers, e.1 = 4) ∧ ((dropSt 0).version 4).refs = 0 ∧
    ((dropSt 0).version 4).ctx = 15 ∧ ((dropSt 0).version 4).adj = cmdF cAdjdrop 2 2 := by decide

/-- Core 0's slot 7 can take a head. -/
def targeted : Chip := enabledSt.setSlot 0 7 (slotAt 2 0)
def stepOf (no : Nat) (targets : List Nat) : Step :=
  { no := no, beat := 0, nrows := 0, placed := [], delayed := [], head := List.replicate 64 0xAB, targets := targets, waits := [], began := 0, cmdTmo := 9,
    waitTmo := 9, body := (0x10000, 0) }
def stepping (l : List Step) : Chip := targeted.updSeCtx 15 fun k => { k with steps := l }
theorem wit_step_formation : targeted.errs = [] ∧ targeted.poison = [] ∧ targeted.cx 15 fCtxEn = 1 ∧
    targeted.get64 (pgCTX 15) 0x104 ≤ targeted.beat ∧
    (targeted.beat - targeted.get64 (pgCTX 15) 0x104) % targeted.cx 15 fStepPeriod = 0 ∧ targeted.bit pgSE fOutWait = false ∧
    (targeted.seCtx 15).nextK ≤ (targeted.beat - targeted.get64 (pgCTX 15) 0x104) / targeted.cx 15 fStepPeriod ∧
    (∀ p ∈ (targeted.seCtx 15).steps, p.no % targeted.cx 15 fDepth ≠ targeted.cx 15 fStepNext % targeted.cx 15 fDepth) ∧
    (∀ i ∈ targeted.streamsOf 15, targeted.stState i ≠ 1) ∧ (targeted.seCtx 15).zeroDue = [] ∧ targeted.shortTarget 15 64 = false ∧
    stepOf 16 [] ∈ ((stepping [stepOf 16 []]).seCtx 15).steps ∧ (stepOf 16 []).no % targeted.cx 15 fDepth = targeted.cx 15 fStepNext % 16 ∧
    (served 0).cx 15 fCtxEn ≠ 1 := by
  decide
/-- Core 0's slot 7 accumulates, in an ACTIVE context. -/
def adding : Chip :=
  ((stepping [stepOf 0 [15]]).setSlot 0 7 { slotAt 2 0 with desc := (slotAt 2 0).desc ||| 0x800000000000 }).put pgFLT (fFltState 15) 1
theorem wit_head_write : let s := stepping [stepOf 0 [15]]
    (s.seCtx 15).steps = [stepOf 0 [15]] ∧ 15 ∈ (stepOf 0 [15]).targets ∧ s.get (pgCTX 15) (fTgtCore 15) = 0 ∧
      s.get (pgCTX 15) (fTgtSlot 15) = 7 ∧ Quiet s 0 ∧ (s.core 0).inReset = false ∧ (s.core 0).gather = [] ∧ (s.core 0).vane = [] ∧
      s.sliceWaits (stepOf 0 [15]).body.1 (stepOf 0 [15]).body.2 = false ∧ (s.slot 0 7).acc = 0 ∧
      (s.slot 0 7).init = false ∧ s.admits 0 s.waitNo [(7, true)] = true ∧
      ((s.setSlot 0 7 (slotAt 2 2)).slot 0 7).acc = 0 ∧ (s.setSlot 0 7 (slotAt 2 2)).admits 0 s.waitNo [(7, true)] = false := by
  refine ⟨by decide, by decide, by decide, by decide, ⟨by decide, by decide⟩, by decide, by decide, by decide, by decide, by decide, by decide,
    by decide, by decide, by decide⟩
theorem wit_head_refused : (adding.slot 0 7).acc ≠ 0 ∧ adding.ctxState 15 = 1 ∧ (adding.seCtx 15).steps = [stepOf 0 [15]] := by decide
def flagged (v : Nat) : Chip := (stepping [stepOf 5 [], stepOf 6 []]).storeNum (celAddr 0x100000) 8 (2 ^ 63 + v)
theorem wit_rflag : (flagged 4).rflagAddr 15 / 8 * 8 = 0x100000 ∧ (flagged 4).se.records = [] ∧ (stepOf 5 []).targets = [] ∧
    (flagged 4).bit pgSE fOutWait = false ∧ (flagged 4).sliceWaits 0x100000 8 = false ∧
    (flagged 4).seDenied 15 ((flagged 4).rflagAddr 15 / 8 * 8) 8 false = none ∧
    tkReached (BitVec.ofNat 64 ((flagged 4).num (celAddr 0x100000) 8)) 5 = false ∧
    tkReached (BitVec.ofNat 64 ((flagged 5).num (celAddr 0x100000) 8)) 5 = true ∧ ((flagged 5).seCtx 15).out = [] ∧
    ((flagged 5).put pgSE fOutWait 1).bit pgSE fOutWait = true := by decide
/-- Records wait for the ring of 64 B. -/
def ringing (tail : Nat) (l : List OutRecord) : Chip :=
  let s := ((enabledSt.put pgSE fOutLog2 6).setReg (pgSE + 0x110) 0x80000000).put pgSE fOutTail tail
  { s with se := { s.se with records := l } }
def recordOf (x : Nat) : OutRecord := ⟨x, 1, recordBytes 1 15 0 0 0 []⟩
theorem wit_record_write : (ringing 0 [recordOf 15]).ringRoom (recordOf 15).bytes.length = true ∧
    (ringing 0 [recordOf 15]).get pgSE fOutHead + (recordOf 15).bytes.length < 2 ^ (ringing 0 [recordOf 15]).get pgSE fOutLog2 ∧
    (ringing 0 [recordOf 15]).get pgSE fOutLog2 ≤ 26 ∧ (ringing 0 [recordOf 15]).se.records = recordOf 15 :: [] ∧
    (ringing 32 [recordOf 15]).ringRoom (recordOf 15).bytes.length = false ∧ (recordOf 15).ctx = 15 ∧ (recordOf 14).ctx ≠ 15 ∧
    (ringing 0 []).bit pgSE fResetActive = false ∧ ((ringing 0 []).put pgSE fResetActive 1).bit pgSE fResetActive = true := by decide

/-- A tag-table entry: core, slot, layer. -/
def tag (c n layer : Nat) : IWord := BitVec.ofNat 128 (c * 2 ^ 56 + 2 ^ 66 + n * 2 ^ 67 + layer * 2 ^ 79)
def tagged (l : List (Nat × IWord)) (on : Nat) : Chip :=
  { (((Chip.reset.put pgVAN fVanEn on).put pgVAN fVanLog2 6).setReg (pgVAN + 0x118) 0x80000000) with vaneTab := l }
def tags : List (Nat × IWord) := [(0, tag 143 4095 1023), (1023, tag 0 0 1023)]
theorem wit_vane_enable : Chip.reset.bit pgVAN fResetActive = false ∧ (tagged tags 0).bit pgVAN fVanEn = false ∧
    (tagged tags 0).tagsBad = false ∧ (tagged [(0, tag 1 2 3), (1, tag 1 2 4)] 0).tagsBad = true ∧ (tagged tags 1).bit pgVAN fVanEn = true ∧
    ((tagged tags 1).put pgVAN fResetActive 1).bit pgVAN fResetActive = true := by
  decide
def vaneReport : Packet := ⟨⟨0, .core 0⟩, ⟨0, .vane⟩, .vaneReport 1023 9 0 5⟩
def reporting (l : List VaneOcc) (tail : Nat) : Chip :=
  { ((tagged tags 1).put pgVAN fVanTail tail) with net := [vaneReport], vaneOpen := l }
theorem wit_vane_report : (reporting [] 0).net = vaneReport :: [] ∧ (reporting [] 0).bit pgVAN fVanEn = true ∧
    (reporting [] 0).devId = 0 ∧ tagLayer ((reporting [] 0).tagEntry 1023) = 1023 ∧ 2 ≤ (reporting [] 0).vaneExpect 1023 ∧
    1 + 1 = (reporting [] 0).vaneExpect 1023 ∧ 0 + 1 < (reporting [] 0).vaneExpect 1023 ∧ (reporting [] 0).vaneRoom = true ∧
    (reporting [] 32).vaneRoom = false ∧ ((reporting [] 0).put pgVAN fVanEn 0).bit pgVAN fVanEn = false ∧
    (reporting [⟨1023, 5, 7, 1, 0⟩] 0).vaneOpen = [⟨1023, 5, 7, 1, 0⟩] ∧ 5 + 4 ≤ 9 := by decide

def secured (f : Sec → Sec) : Chip := { Chip.reset with sec := f Sec.reset }
theorem wit_security : Chip.reset.up = true ∧ (Chip.reset.put pgSEC fSecBusy 1).bit pgSEC fSecBusy = true ∧
    Chip.reset.bit pgSEC fSecBusy = false ∧ (secured fun c => { c with status := some 7 }).sec.status = some 7 ∧
    (let s := (secured fun c => { c with range := some 4095, booted := true }).put pgSEC fLeavesLeft 256
     s.sec.range = some 4095 ∧ s.sec.booted = true ∧ s.sec.ready = false ∧ s.get pgSEC fLeavesLeft ≠ 0) ∧
    Sec.reset.range = none ∧ Sec.reset.booted = false ∧ (Chip.reset.put pgSEC fSecDbg 2).get pgSEC fSecDbg = 2 ∧
    Chip.reset.get pgSEC fSecDbg ≠ 2 ∧
    activeGen [] ownerBase = none ∧ otpPolicy [] = 0 ∧ (∀ g, g < 4 → genWritten [] ownerBase g = false) ∧ nextGen [] ownerBase = some 0 ∧
    otpSvn [] = 0 ∧ headerError [] [] ≠ none ∧ otpPolicy [3200, 3201, 3202] = 1 ∧ otpBit [3284] 3284 = true := by decide
/-- The owner's and the vendor's first key is written, and its hash is zero. -/
def owned2 : List Nat := otpBurn [] [ownerBase + 257, ownerBase + 256, vendorBase + 256, vendorBase + 257]
/-- Every key of the owner is written. -/
def spentKeys : List Nat := otpBurn [] ((List.range 4).map fun g => ownerBase + 264 * g + 257)
/-- What signatures admit, whatever the scheme accepts and the hash returns. -/
theorem wit_signed (hv : ∀ k m s, Config.xmssVerify k m s = true) (hs : ∀ l n, Config.shake256 l n = List.replicate n 0) :
    activeGen owned2 ownerBase = some 0 ∧ nextGen owned2 ownerBase = some 1 ∧ activeGen owned2 vendorBase = some 0 ∧
    nextGen owned2 vendorBase = some 1 ∧ signedBy owned2 ownerBase 0x23 (bytesOf 1 8) [] = some true ∧ otpBit owned2 3284 = false ∧
    otpBit owned2 3292 = false ∧ sha [] = genHash owned2 ownerBase 0 ∧ headerError keyed (imageHeader imaged.flashBytes) = none ∧
    (∃ g, g < 4 ∧ genWritten owned2 ownerBase g = true) ∧ nextGen spentKeys ownerBase = none ∧
    signedBy spentKeys ownerBase 0x21 (bytesOf 32 0) [] = some true := by
  simp only [signedBy, sha, headerError, hv, hs]
  repeat' apply And.intro
  all_goals decide +kernel
/-- What no signature admits, where the scheme refuses it. -/
theorem wit_unsigned (hv : ∀ k m s, Config.xmssVerify k m s = false) :
    signedBy owned2 ownerBase 0x11 (bytesOf 1 2) [] = some false ∧ signedBy owned2 ownerBase 0x23 (bytesOf 1 8) [] = some false ∧
    signedBy owned2 vendorBase 0x24 (bytesOf 32 5) [] = some false := by
  simp only [signedBy, hv]
  decide

/-! ## The queue and the whole machine -/

def waitingState : State := ⟨[.status, .nop 0 wNop], [3200], Chip.reset⟩
theorem wit_front : waitingState.pending = .status :: [.nop 0 wNop] := rfl
theorem wit_idle : State.reset.pending = [] := rfl
theorem wit_otp : (∃ t, step ⟨[.claimOwner 5], [3200, 3201], Chip.reset⟩ = .next t) ∧ [3200, 3201].Pairwise (· < ·) := ⟨⟨_, rfl⟩, by decide⟩
theorem wit_unpowered : ({ Chip.reset with board := { Board.reset with held := true } }).up = false ∧
    boardCommand (.nop 0 wNop) = false := by decide
theorem wit_well_formed : (Instr.extOwnWrite 35 31 0).WellFormed = true := by decide

/-- Interrupt bits that software can set and enable in a page. -/
def irqAt (page en : Nat) : Chip := Chip.reset.setReg (page + 0x02C) (BitVec.ofNat 32 en)
theorem wit_irq_set : Chip.reset.up = true ∧ Chip.reset.present 143 = true ∧ (irqAt (pgSEQ 143 + 0x6000) 1).pageThere (pgSEQ 143 + 0x6000) = true ∧
    (irqAt (pgSEQ 143) 1).pageInReset (pgSEQ 143) = false ∧ (irqAt (pgCEL 35) 1).pageThere (pgCEL 35) = true ∧
    (irqAt (pgCEL 35) 1).pageInReset (pgCEL 35) = false ∧ (irqAt (pgLNK 15) 1).portPresent 15 = true ∧
    (irqAt (pgLNK 15) 1).pageInReset (pgLNK 15) = false ∧ (irqAt pgSEC 1).pageThere pgSEC = true ∧ (irqAt pgSEC 1).pageInReset pgSEC = false ∧
    (irqAt pgLKC 1).pageThere pgLKC = true ∧ (irqAt pgLKC 1).pageInReset pgLKC = false := by decide
theorem wit_irq_kiln : Chip.reset.board.input = true ∧ (Chip.reset.put pgKLN (fWdogLoad 7) 9).get pgKLN (fWdogLoad 7) ≠ 0 ∧
    Chip.reset.bit pgKLN fResetActive = false ∧ (0x80 : BitVec 8).getLsbD 7 = true ∧
    fused11.present 143 = false ∧
    ({ Chip.reset with ident := { Chip.reset.ident with portAbsent := 0x8000 } } : Chip).portPresent 15 = false := by decide

/-! ## Values of the matrix engine -/

/-- BF16 operands: A = 1.5, −2, the rest 0; the rows of W begin 1, 2; 0.5, 0; −1, 3; 2^-120, 0. C's old first values are 7 and −1 in FP32. -/
def mtxReal (w : IWord) (fmtC strideC : Nat) : Chip :=
  (mtxFloat w).setDesc 0 1 (tile 1024 1 4 strideC fmtC) |>.storeNum (tunAddr 0 0) 4 0xC0003FC0 |>.storeNum (tunAddr 0 64) 4 0x40003F80
  |>.storeNum (tunAddr 0 128) 2 0x3F00 |>.storeNum (tunAddr 0 192) 4 0x4040BF80 |>.storeNum (tunAddr 0 256) 2 0x0380
  |>.storeNum (tunAddr 0 1024) 8 0xBF80000040E00000
def exactly (s : Chip) : Chip := s.put (pgMTX 0) ⟨0x100, 0, 1⟩ 1
def wMmulAcc := word 0x80 [(107, 1), (99, 2), (91, 3), (69, 1), (77, 1)]
def wMdrainAcc := word 0x81 [(107, 1), (69, 1), (77, 1)]
def inMatrix (s : Chip) (w : IWord) : Cmd := { s.capture 0 w with uses := [] }
/-- Core 0's matrix engine runs `w`, all of whose slots are admitted. -/
def inDrain (s : Chip) (w : IWord) : Chip := mtxRun s (inMatrix s w)
/-- A chain of four accumulators of the kind is open. -/
def chainOf (kind : Nat) (acc : List Int) (marks : List Nat) (s : Chip) : Chip :=
  s.updCore 0 fun k => { k with chain := some ⟨1, 1, 4, kind, 64, [(0, 1)], acc, marks⟩, chainIssued := some (1, 1, 4, true) }
/-- The corrections of its first group are complete. -/
def corrected (vals : List (Nat × Int)) (s : Chip) : Chip := s.updCore 0 fun k => { k with corr := [⟨0, vals, [], [(0, 2)]⟩] }
/-- What the values of a drain ask: the state, the command, the kind of the accumulation. -/
def drainOk (s : Chip) (m : Cmd) (kind : Nat) : Bool :=
  s.fabricUp && decide ((s.core 0).q = []) && decide ((s.core 0).running uSYNC = []) && decide ((s.core 0).running uMTX = [m]) &&
  decide ((s.core 0).gather = []) && decide ((s.core 0).vane = []) && decide (s.poison = []) && decide (s.errs = []) && tdOk m.dD &&
  decide (opcode m.w = 0x80 ∧ mCHAIN m.w = false ∧ (mADJ m.w = true → s.corrReady 0 m.prog = true) ∨
    opcode m.w = 0x81 ∧ (s.core 0).chain ≠ none) &&
  decide (kind = if opcode m.w = 0x80 then mtxKind (s.mtxExact 0) m.dB m.dA else ((s.core 0).chain.map (·.kind)).getD 0) &&
  decide (m.prog < rowGroups (groupRows (s.mtxExact 0)) (tdRows m.dD) * colGroups (tdCols m.dD)) &&
  decide ((s.core 0).chain.all fun x => decide (x.kind = kind ∧ x.acc.length = 4)) &&
  decide (groupAt (s.mtxExact 0) (tdRows m.dD) (tdCols m.dD) m.prog = (0, 1, 0, 4)) &&
  decide ((chainCount (s.core 0).chain).1 + 64 + 1 + 16 * mostBlocks (addBlocks (chainCount (s.core 0).chain).2 [(0, 2)]) ≤ 2 ^ 19)
def realChain : Chip := chainOf 0 [0x40E00000, 2, 3, 4] [] (mtxReal wMmulAcc 0 64)
theorem wit_values_float : drainOk (inDrain realChain wMmulAcc) (inMatrix realChain wMmulAcc) 0 = true ∧ mACCUM wMmulAcc = true := by
  decide +kernel
def exactChain : Chip := chainOf 2 [1, 2, -3, 4] [2] (exactly (mtxReal wMdrain 0x11 320))
theorem wit_values_exact : drainOk (inDrain exactChain wMdrain) (inMatrix exactChain wMdrain) 2 = true ∧
    ∀ k, k < 4 → laInRange (([1, 2, -3, 4][k]?).getD 0) = true := by decide +kernel
def intFixed : Chip := corrected [(0, 7), (3, -2)] (mtxSt wMmulAdj)
theorem wit_values_corrected : drainOk (inDrain intFixed wMmulAdj) (inMatrix intFixed wMmulAdj) 1 = true ∧
    (inDrain intFixed wMmulAdj).corrOf 0 0 = ⟨0, [(0, 7), (3, -2)], [], [(0, 2)]⟩ ∧ mADJ wMmulAdj = true := by decide +kernel
/-- A chained MMUL on an open chain of its kind. -/
theorem wit_chain_values : let s := chainOf 0 [0x40E00000, 2, 3, 4] [] (mtxReal wMmulChain 0 64)
    Takes s 0 wMmulChain ∧ AtRest s 0 ∧ mADJ wMmulChain = false ∧ mCHAIN wMmulChain = true ∧
      (∀ x ∈ (s.core 0).chain, x.kind = mtxKind (s.mtxExact 0) (s.desc 0 3) (s.desc 0 2)) ∧
      (chainCount (s.core 0).chain).1 + tdCols (s.desc 0 2) + 16 * mostBlocks (addBlocks (chainCount (s.core 0).chain).2 []) ≤ 2 ^ 19 :=
  ⟨takes_of (by decide +kernel), rest_of (by decide +kernel), by decide +kernel⟩
theorem wit_marks : (Val.inf true).isFin = false ∧ Val.zero.isFin = true := by decide
/-- Group 1 of a BF16 pair of 192 rows, whose row 64 begins 1.5, −2, and the bodies of one segment's two blocks of block row 0 are read: 1 at
(0, 0), 2 at (0, 1), 1 at (1, 1) in the first, 2 at (0, 0) in the second. -/
def bodiesRead : Chip :=
  ((mtxFloat wAcorr).updCore 0 fun k => { k with rowMap := some (List.replicate 192 0), adjRead := ⟨[0x10000],
    [⟨0x10000, 256, 1, false, [BitVec.ofNat 64 (32 * 2 ^ 32), BitVec.ofNat 64 (2 ^ 12 + 64 * 2 ^ 32)]⟩],
    [(0, 0, 2 ^ 0 + 2 ^ 1 + 2 ^ 17, 0x384038), (0, 1, 1, 0x40)]⟩ }) |>.storeNum (tunAddr 0 4096) 4 0xC0003FC0 |>.storeNum (tunAddr 0 4128) 2 0x3F80
def tallCmd : Cmd := { adjMul with dA := tile 0 192 32 64 1 }
theorem wit_corrections : groupAt false (tdRows tallCmd.dA) (tdRows tallCmd.dB) 1 = (64, 128, 0, 4) ∧
    (bodiesRead.core 0).adjRead.segs[(((bodiesRead.core 0).rowMap.getD [])[64]?).getD 255]? ≠ none ∧ bodiesRead.mtxExact 0 = false ∧
    (exactly bodiesRead).mtxExact 0 = true ∧ correcting.mtxExact 0 = false ∧
    (correcting.core 0).adjRead.segs[255]? = none := by decide +kernel

/-! ## The owner of a neighbour write, bad words -/

/-- The owner, core 0, has a filling slot 7 of 512 bytes at 1,024 with the accumulate operation, and has admitted core 1's write to it. -/
def owning (op : Nat) (land : Bool) (b : Body) : Chip :=
  let s := Chip.reset.setSlot 0 7 { slotAt 2 1 with desc := BitVec.ofNat 64 (2 + 2 ^ 13 + op * 2 ^ 45 + 2 * 2 ^ 48 + 2 * 2 ^ 56 + if land then 2 ^ 42 else 0), started := 1 }
  let s := (s.updCore 0 fun k => { k with nwIn := [⟨Chip.reset.coreNode 1, 3, 7, land⟩] }).storeNum (tunAddr 0 1024) 8 0xC0000000_3FC00000
  inNet (s.put (pgSEQ 0) fSeqState sqRUNNING) (packet 1 0 b)
/-- Values as the bytes of a packet. -/
def words (l : List Nat) (n : Nat) : List TByte := l.flatMap fun v => (bytesOf n v).map fun b => (b, false)
def wData (op : Nat) (land last : Bool) (l : List Nat) (n : Nat) : Body := .nwrData 3 7 0 op land last (words l n)
theorem wit_owner_performs : let b := wData 2 false true [0x7F7FFFFF, 0x33333333] 4
    let s := owning 2 false b
    Arriving s 0 (packet 1 0 b) [] ∧ Quiet s 0 ∧ (s.core 0).inReset = false ∧
      (⟨Chip.reset.coreNode 1, 3, 7, false⟩ : NwIn) ∈ (s.core 0).nwIn ∧ (s.core 0).gather = [] ∧ (s.core 0).vane = [] ∧ s.poison = [] ∧
      s.errs = [] ∧ (words [0x7F7FFFFF, 0x33333333] 4).length = 4 * 2 ∧ (s.slot 0 7).state = 1 :=
  ⟨arriving_of (by decide), quiet_of (by decide), by decide⟩
theorem wit_owner_la : let b := wData 4 false false [2 ^ 574] 72
    let s := (owning 4 false b).storeNum (tunAddr 0 1024) 72 (2 ^ 575 - 1)
    let sum := sgn 576 (s.num (tunAddr 0 1024) 72) + sgn 576 (natOf ((words [2 ^ 574] 72).map (·.1)))
    laInRange sum = false ∧ s.seqState 0 = sqRUNNING ∧ (words [2 ^ 574] 72).length = 72 * 1 ∧
      laInRange (sgn 576 ((owning 4 false b).num (tunAddr 0 1024) 72) + sgn 576 (natOf ((words [2 ^ 200] 72).map (·.1)))) = true := by
  decide +kernel
/-- The word at address `a` is uncorrectable, or poisoned. -/
def broken (a : Nat) (s : Chip) : Chip := { s with errs := [(a / 8, 3)] }
def spoilt (a : Nat) (s : Chip) : Chip := { s with poison := [a / 8] }
def cldBack : Chip := ((seqIn sqRUNNING 1).storeNum (tunAddr 0 64) 4 9).updCore 0 fun k => { k with loadsPend := [⟨15, 64, none, true, 9⟩] }
theorem wit_reset_canonical : Canonical Chip.reset := by constructor <;> decide
theorem wit_bad_words : let s := broken (tunAddr 0 64) cldBack
    s.fabricUp = true ∧ Canonical s ∧ s.seqState 0 = sqRUNNING ∧ (s.core 0).loadsPend = [⟨15, 64, none, true, 9⟩] ∧
      Meets s (tunAddr 0 64) 4 0x03 ∧ Meets (spoilt (tunAddr 0 64) cldBack) (tunAddr 0 64) 4 0x04 := by
  refine ⟨by decide, ?_, by decide, by decide, Or.inl ⟨rfl, by decide, (tunAddr 0 64 / 8, 3), by decide, by decide, by decide, by decide⟩, Or.inr ⟨rfl, ?_, by decide, tunAddr 0 64 / 8, by decide, by decide, by decide⟩⟩
  · constructor <;> decide
  · rintro ⟨-, p, h, -⟩
    rw [show (spoilt (tunAddr 0 64) cldBack).errs = [] from by decide] at h
    cases h
theorem wit_bad_fetch_word : let s := spoilt (imAddr 0 0) (running wNop)
    s.mayIssue 0 wNop = true ∧ s.pc 0 < 6144 ∧ (s.core 0).block (s.pc 0 / 64) = 2 ∧ imAddr 0 0 / 8 ∈ s.poison := by decide
theorem wit_bad_operands :
    Takes (spoilt (tunAddr 0 80) (running wTdload)) 0 wTdload ∧ (running wTdload).slotsOn 0 (bf wTdload 0 22) (16 * bf wTdload 32 5) = [] ∧
    Takes (spoilt (tunAddr 0 64) (mtxSt wAbind)) 0 wAbind ∧ Takes (spoilt (tunAddr 0 64) (vecSt wVadd)) 0 wVadd ∧
    (vecGiven wVadd)[0]? = some 0 ∧ Takes (spoilt (tunAddr 0 64) (vecSt wTcopy)) 0 wTcopy :=
  ⟨takes_of (by decide +kernel), by decide, takes_of (by decide +kernel), takes_of (by decide +kernel), by decide, takes_of (by decide +kernel)⟩
theorem wit_still : Still (spoilt (tunAddr 0 64) (vecSt wVadd)) 0 := by constructor <;> decide
theorem wit_bad_scales : let d := (vecSt wVadd).desc 0 2
    tdScl d = 0 ∧ tdCols d = tdCols ((vecSt wVadd).desc 0 1) ∧ tdBase d = 64 := by decide
theorem wit_bad_products : let s := spoilt (tunAddr 0 0) (mtxRun (mtxSt wMmul) (mtxCmd wMmul))
    s.seqState 0 = sqRUNNING ∧ (s.core 0).running uMTX = [mtxCmd wMmul] ∧ mCHAIN wMmul = false ∧ mADJ wMmul = false ∧ mACCUM wMmul = false ∧
      rowRanges (mtxCmd wMmul).dA 0 = [(0, 64)] := by decide
theorem wit_bad_token : let s := spoilt (tunAddr 0 64) (polling (tokened (running wAcq) 5) false)
    s.seqState 0 = sqRUNNING ∧ (s.core 0).running uSYNC = [acqCmd] ∧ (s.core 0).acq = some ⟨0, false, 64, 5, none, 0, 0⟩ := by decide
theorem wit_bad_line : let s := spoilt (celAddr 64) (celSt wCfetch [0, 1] [] 0x10)
    Quiet s 0 ∧ (s.core 0).running uCEL = [celCmd wCfetch [0, 1] []] ∧ (celCmd wCfetch [0, 1] []).sent = celLines (celCmd wCfetch [0, 1] []) ∧
      ownSlice 0 (celCmd wCfetch [0, 1] []) = true := ⟨quiet_of (by decide), by decide⟩
theorem wit_kiln_bad : (spoilt (tunAddr 0 64) Chip.reset).present 0 = true ∧ Chip.reset.closed (Chip.reset.ownerOf 0) = false ∧
    Chip.reset.ctxState (Chip.reset.ownerOf 0) ≠ 3 := by decide

/-! ## Batches and results -/

def idxS : Nat := 2 ^ 20 - 1
/-- Stream 2^20 − 1 is context 15's one stream, of class 1, with generation 4,095 and no adjunct, tree or deadline; it has 5 tokens, and page
table 0 maps pages 3 and 4; then its fields at the offsets are as the list says. -/
def servingOne (st : Nat) (l : List (Nat × Nat × Nat)) (s0 : Chip) : Chip :=
  let i := 2 ^ 20 - 1
  let f := [(0, 1, st + 16 * 15), (1, 1, 97), (2, 2, 4095), (4, 4, 77), (8, 8, 99), (28, 4, 5), (32, 4, 1234), (54, 2, 0xFFFF)] ++ l
  let s := (f.foldl (fun s e => s.setSt i e.1 e.2.1 e.2.2) s0).storeNum (celAddr (s0.ptAddr 15 0 0)) 8 (4 * 2 ^ 32 + 3)
  { s with se := { s.se with used := [i] } }
/-- The stream is IN_STEP, in step 5, whose result RFLAG shows, with a token and a probability in each row. -/
def served5 (e : Placed) (l : List (Nat × Nat × Nat)) (rows : List (Nat × Nat)) : Chip :=
  let s := servingOne 2 l targeted
  let s := (s.updSeCtx 15 fun k => { k with steps := [{ stepOf 5 [] with placed := [e], nrows := e.rows }] }).storeNum (celAddr 0x100000) 8 (2 ^ 63 + 5)
  let s := s.put pgFLT (fFltState 15) 1
  (rows.zipIdx).foldl (fun s r => s.storeNum (celAddr (s.resBase 15 + 5 * 4096 + 8 * r.2)) 8 (r.1.1 + 2 ^ 32 * r.1.2)) s
def stepFive (e : Placed) : Step := { stepOf 5 [] with placed := [e], nrows := e.rows }
def batch : Chip := servingOne 1 [] targeted
theorem wit_batch : let d := batch
    d.fabricUp = true ∧ d.errs = [] ∧ d.poison = [] ∧ d.cx 15 fCtxEn = 1 ∧ d.get64 (pgCTX 15) 0x104 ≤ d.beat ∧ d.stepBarred 15 = false ∧
      (d.seCtx 15).due = false ∧ (d.seCtx 15).zeroDue = [] ∧ d.streamsOf 15 = [idxS] ∧ d.stState idxS = 1 ∧ d.stClass idxS = 1 ∧
      d.sliceWaits (tableAddr (64 * idxS) - celAddr 0) 64 = false ∧ d.cx 15 fMaxStreams ≠ 0 ∧ 1 ≤ d.cx 15 fRowsMax ∧
      d.seDenied 15 (d.ptAddr 15 0 0) (4 * d.cx 15 fPtlen) false = none ∧ d.seDenied 15 (d.bodyBase 15) 128 true = none ∧
      d.sliceWaits (d.ptAddr 15 0 0) (4 * d.cx 15 fPtlen) = false ∧ d.sliceWaits (d.bodyBase 15) 128 = false ∧
      d.shortTarget 15 80 = false ∧ d.stVer idxS = none ∧ d.pagesWanted 15 idxS = [] ∧ d.st idxS 28 4 + 1 ≤ 16 * d.cx 15 fPtlen ∧
      celAddr (d.bodyBase 15) + 128 ≤ tableAddr (64 * idxS) ∧ (d.setStState idxS 2).pageAt 15 0 0 = some 3 := by decide +kernel
/-- The stream has input of three tokens. -/
theorem wit_batch_prefill : let d := servingOne 1 [(40, 4, 3), (36, 4, 0x800)] targeted
    d.st idxS 40 4 = 3 ∧ d.seDenied 15 (4 * d.st idxS 36 4) 12 false = none ∧ d.sliceWaits (4 * d.st idxS 36 4) 12 = false ∧
      d.st idxS 28 4 + 3 ≤ 16 * d.cx 15 fPtlen := by decide +kernel
theorem wit_delayed : (batch.put (pgCTX 15) fMaxStreams 0).cx 15 fMaxStreams = 0 ∧ (batch.put (pgCTX 15) fRowsMax 0).cx 15 fRowsMax = 0 ∧
    (let d := (((servingOne 1 [(28, 4, 20)] targeted).storeNum (celAddr 4) 4 0xFFFFFFFF).put (pgCTX 15) fNpages 0)
     d.freePages 15 < (d.pagesWanted 15 idxS).length) := by decide +kernel
theorem wit_result : let e : Placed := ⟨idxS, 0, 1, 2, false⟩
    let s := served5 e [] [(55, 66)]
    s.fabricUp = true ∧ (s.seCtx 15).steps = [stepFive e] ∧ (stepFive e).placed = [e] ∧ (stepFive e).targets = [] ∧ (stepFive e).delayed = [] ∧
      s.se.records = [] ∧ s.bit pgSE fOutWait = false ∧ (s.seCtx 15).out = [] ∧ s.seDenied 15 (s.rflagAddr 15 / 8 * 8) 8 false = none ∧
      s.sliceWaits (s.rflagAddr 15 / 8 * 8) 8 = false ∧ s.ctxState 15 = 1 ∧ s.errs = [] ∧ s.poison = [] ∧
      tkReached (BitVec.ofNat 64 (s.num (celAddr (s.rflagAddr 15 / 8 * 8)) 8)) 5 = true ∧
      s.sliceWaits (tableAddr (64 * idxS) - celAddr 0) 64 = false ∧ sget natReset s.se.closing idxS = 0 ∧
      s.seDenied 15 (s.resBase 15 + 5 * 4096) 8 false = none ∧ s.sliceWaits (s.resBase 15 + 5 * 4096) 8 = false ∧
      s.st idxS 48 4 = 0 := by decide +kernel
/-- The stream reaches the last position that its page table has. -/
theorem wit_result_full : let s := served5 ⟨idxS, 0, 1, 2, false⟩ [(28, 4, 31)] [(55, 66)]
    16 * s.cx 15 fPtlen < (s.st idxS 28 4 + 1) % 2 ^ 32 + 1 ∧ s.st idxS 54 2 = 0xFFFF ∧ s.stVer idxS = none ∧
      s.seDenied 15 (s.ptAddr 15 (s.st idxS 52 2) 0) (4 * s.cx 15 fPtlen) false = none := by decide +kernel
def treeStep (t0 : Nat) : Chip :=
  let s := served5 ⟨idxS, 0, 2, 1, false⟩ [(1, 1, 105), (54, 2, 2)] [(t0, 66), (78, 67)]
  { s with se := { s.se with drafts := [(idxS, [(77, 0)])] } }
theorem wit_result_tree : (treeStep 77).draftsOf idxS = [(77, 0)] ∧ (treeStep 77).num (celAddr (0x80000 + 5 * 4096)) 4 = 77 ∧
    (treeStep 76).num (celAddr (0x80000 + 5 * 4096)) 4 ≠ 77 ∧ (treeStep 77).cx 15 fStopToken ≠ 77 ∧ (treeStep 77).cx 15 fStopToken ≠ 78 ∧
    ((treeStep 77).st idxS 28 4 + 2) % 2 ^ 32 < 16 * (treeStep 77).cx 15 fPtlen := by decide +kernel

/-! ## Waits that go on -/

theorem wit_step_due : let s := targeted.updSeCtx 15 fun k => { k with due := true }
    s.cx 15 fCtxEn = 1 ∧ (s.seCtx 15).due = true ∧ s.bit pgSE fOutWait = false := by decide
/-- A head that has begun to wait keeps its place. -/
theorem wit_head_place : let p := { stepOf 0 [15] with waits := [(15, 0)] }
    (p.waits.find? fun w => w.1 = 15).map (·.2) = some 0 := by decide
theorem wit_revoke_asked : let p := packet 1 0 (.nwrRevoke 7)
    let s := inNet (Chip.reset.updCore 0 fun k => { k with creds := [(1, 7), (1, 8)] }) p
    Arriving s 0 p [] ∧ s.localCore p.src = some 1 ∧ s.dirTo 0 1 = some 1 ∧ (1, 7) ∈ (s.core 0).creds := ⟨arriving_of (by decide), by decide⟩
/-- A producer of the slot is at work, so that its SLSET waits. -/
theorem wit_slset_busy : let s := (running wSlset).setSlot 0 7 { slotAt 2 1 with started := 1 }
    Takes s 0 wSlset ∧ Quiet s 0 ∧ opcode wSlset = 0x23 ∧ s.slotBusy 0 7 = true :=
  ⟨takes_of (by decide), quiet_of (by decide), by decide⟩
/-- A program's end finds bytes in the gather buffer that a drain has written since END issued. -/
theorem wit_end_gathers : let s := gathered (waiting 14 wEnd 0 [])
    s.fabricUp = true ∧ (s.core 0).wait = some ⟨14, 0, 0, 0, wEnd, 0, []⟩ ∧ s.seqState 0 = sqRUNNING ∧ (s.core 0).enginesIdle = true ∧
      (s.core 0).gather ≠ [] := by decide

end Sys2Proof.Tests
end

section
/-! Every command is answered by a next state or names a unit that the spec does not number: one lemma per gate of a command, then
one case per command (R4, R18, R253, R399, R407). -/

namespace Sys2Proof.Machine

/-- An outcome that a command may come to: a next state with the same queue, or a fault for want of such a unit; where `ok`, a
next state. -/
def AnswersIf (ok : Bool) (s : State) (o : Host.Outcome State Fault Refusal) : Prop :=
  ((∃ t, o = .next t ∧ t.pending = s.pending) ∨ o = .fault .noSuchUnit) ∧ (ok = true → ∃ t, o = .next t)

section Gates

variable {ok : Bool} {s : State}

theorem answersIf_next {t : State} (h : t.pending = s.pending) : AnswersIf ok s (.next t) :=
  ⟨.inl ⟨t, rfl, h⟩, fun _ => ⟨t, rfl⟩⟩

/-- A command at a numbered unit answers as the unit does, and another faults. -/
theorem answersIf_numbered {n max : Nat} {o : Host.Outcome State Fault Refusal} (hn : ok = true → n < max)
    (h : AnswersIf ok s o) : AnswersIf ok s (if n < max then o else .fault .noSuchUnit) := by
  by_cases hlt : n < max
  · rwa [if_pos hlt]
  · rw [if_neg hlt]
    exact ⟨.inr rfl, fun hok => absurd (hn hok) hlt⟩

theorem onBoard_answersIf {f : Chip → Chip} : AnswersIf ok s (onBoard f s) := answersIf_next rfl

theorem onChip_answersIf {f : Chip → Chip} : AnswersIf ok s (onChip f s) :=
  answersIf_next (by split <;> rfl)

theorem onFabric_answersIf {f : Chip → Chip} : AnswersIf ok s (onFabric f s) :=
  answersIf_next (by split <;> rfl)

theorem onState_answersIf {f : State → State} (hf : ∀ t, (f t).pending = t.pending) : AnswersIf ok s (onState f s) :=
  answersIf_next (by split <;> simp [hf])

theorem onCore_answersIf {c : Nat} {f : Chip → Chip} (hc : ok = true → c < 144) : AnswersIf ok s (onCore c f s) :=
  answersIf_numbered hc onFabric_answersIf

theorem onUnit_answersIf {max n : Nat} {f : Chip → Chip} (hn : ok = true → n < max) : AnswersIf ok s (onUnit max n f s) :=
  answersIf_numbered hn onFabric_answersIf

theorem onUnitChip_answersIf {max n : Nat} {f : Chip → Chip} (hn : ok = true → n < max) :
    AnswersIf ok s (onUnitChip max n f s) :=
  answersIf_numbered hn onChip_answersIf

theorem issueUnit_answersIf {op c : Nat} {w : IWord} (hc : ok = true → c < 144) : AnswersIf ok s (issueUnit op c w s) :=
  onCore_answersIf hc

theorem onPort_answersIf {p : Nat} {f : Chip → Chip} (hp : ok = true → p < 16) : AnswersIf ok s (onPort p f s) :=
  onUnit_answersIf hp

theorem onPortWrite_answersIf {p : Nat} {f : Chip → Chip} (hp : ok = true → p < 16) : AnswersIf ok s (onPortWrite p f s) :=
  onUnit_answersIf hp

theorem secGo_pending (s : State) {f : State → Nat × State} (hf : ∀ t, (f t).2.pending = t.pending) :
    (s.secGo f).pending = s.pending := by
  unfold State.secGo
  split
  · rfl
  · split
    · rfl
    · exact hf s

theorem secRun_answersIf {f : State → Nat × State} (hf : ∀ t, (f t).2.pending = t.pending) : AnswersIf ok s (secRun f s) :=
  answersIf_next (secGo_pending s hf)

end Gates

/-! ## What the queue keeps -/

@[simp] theorem overChip_pending (f : Chip → Nat × Chip) (s : State) : (overChip f s).2.pending = s.pending := rfl

@[simp] theorem overOtp_pending (f : State → Nat × List Nat) (s : State) : (overOtp f s).2.pending = s.pending := rfl

@[simp] theorem unlock_pending (key : List (BitVec 8)) (scope : Nat) (sig : List (BitVec 8)) (s : State) :
    (s.unlock key scope sig).2.pending = s.pending := rfl

@[simp] theorem updateBegin_pending (header : List (BitVec 8)) (s : State) : (s.updateBegin header).2.pending = s.pending := by
  unfold State.updateBegin
  split <;> rfl

theorem rom_pending (s : State) (b : BootInputs) (whole : Bool) : (s.rom b whole).pending = s.pending := by
  simp only [State.rom]

@[simp] theorem kilnRestart_pending (s : State) (b : BootInputs) : (s.kilnRestart b).pending = s.pending := by
  unfold State.kilnRestart
  split
  · rfl
  · exact rom_pending _ b false

/-- Every command that the mailbox buffer can spell leaves the queue. -/
theorem mailCommand_pending {c : Chip} {code : Nat} {f : State → Nat × State} (h : c.mailCommand code = some f) (t : State) :
    (f t).2.pending = t.pending := by
  unfold Chip.mailCommand at h
  split at h <;> cases h <;> simp

@[simp] theorem secWrite_pending (s : State) (code : Nat) : (s.secWrite code).pending = s.pending := by
  unfold State.secWrite
  split
  · exact secGo_pending s (mailCommand_pending ‹_›)
  · split <;> rfl

@[simp] theorem regWrite_pending (s : State) (off : Nat) (v : Word) : (s.regWrite off v).pending = s.pending := by
  unfold State.regWrite
  simp only
  split
  · exact secWrite_pending _ _
  · split
    · exact kilnRestart_pending _ _
    · rfl

@[simp] theorem wideWrite_pending (s : State) (off : Nat) (v : RegData) : (s.wideWrite off v).pending = s.pending := by
  cases v with
  | w32 v => exact regWrite_pending s off v
  | w64 v =>
    simp only [State.wideWrite]
    split <;> simp
  | other n => rfl

theorem windowAccess_pending (s : State) (k : KilnAccess) : (s.windowAccess k).pending = s.pending := by
  cases k with
  | read o n => rfl
  | write o l => exact wideWrite_pending s o _

theorem mapAccess_pending (s : State) (machine : Bool) (k : KilnAccess) : (s.mapAccess machine k).pending = s.pending := by
  unfold State.mapAccess
  simp only
  split
  · rfl
  · rename_i r base _
    cases r with
    | window => exact windowAccess_pending s _
    | rom | flash => cases fromBase k base <;> rfl
    | sram | frames | mailbox | timers | plic | carve | aperture | tuns => rfl

theorem rapWriteGo_pending (s : State) (sn : BitVec 32) (off : Nat) (v : Word) :
    (s.rapWriteGo sn off v).pending = s.pending := by
  unfold State.rapWriteGo
  simp only
  repeat' split
  all_goals simp

/-! ## The numbers of units -/

theorem coreOk_lt {c : Nat} (h : coreOk c = true) : c < 144 := of_decide_eq_true h

theorem wordOk_core {c o : Nat} {w : BitVec 128} (h : wordOk c w o = true) : c < 144 := coreOk_lt (Bool.and_elim_left h)

theorem portOk_lt {p : Nat} (h : portOk p = true) : p < 16 := of_decide_eq_true h

theorem ctxOk_lt {x : Nat} (h : ctxOk x = true) : x < 16 := of_decide_eq_true h

theorem sliceOk_lt {n : Nat} (h : sliceOk n = true) : n < 36 := of_decide_eq_true h

/-! ## The commands -/

theorem commandTimeout_answersIf (s : State) (w : WaitRef) : AnswersIf w.ok s (execCommandTimeout w s) := by
  cases w with
  | seq | drain => exact onCore_answersIf coreOk_lt
  | command => exact onCore_answersIf fun h => coreOk_lt (Bool.and_elim_left h)
  | streamWrite | stepFlag => exact onUnit_answersIf ctxOk_lt

theorem cellarApertureAccess_answersIf {ok : Bool} (s : State) (full : KilnView) (machine : Bool) (k : KilnAccess) :
    AnswersIf ok s (execCellarApertureAccess full machine k s) :=
  onState_answersIf fun t => by
    cases full with
    | carve | aperture => rfl
    | map => exact mapAccess_pending t machine k

theorem wdogSecondExpiry_answersIf (s : State) (k : Nat) (b : BootInputs) :
    AnswersIf (decide (k < 8)) s (execWdogSecondExpiry k b s) :=
  answersIf_numbered of_decide_eq_true (onState_answersIf fun t => by
    simp only
    repeat' split
    all_goals simp)

/-- A command is answered by a next state with the same queue or faults for want of such a unit, and a well-formed one is
answered by a next state: by the gate that each command passes. -/
theorem exec_answersIf (s : State) (i : Instr) : AnswersIf i.WellFormed s (exec i s) := by
  delta exec
  cases i with
  | flush | rel | slset | grant | revoke | arrset | cfetch | cstore | nwr | tcopy | close | send | sendt | recv | mmul
  | mdrain | abind | acorr | vcfg | vadd | vsub | vmul | vfma | vmin | vmax | vabs | vneg | vcvt | vcmp | vsel | vpoly | vfst
  | vfclr | vred | vexp2 | vlog2 | vrcp | vrsqrt | vsqrt | vdiv | vtanh | vsigm | vrng | vtopk | vsample =>
    exact issueUnit_answersIf wordOk_core
  | nop | endI | br | loop | lprem | cset | cadd | cmov | cld | cst | cmpcfg | tdset | tdadd | tdload | ovl | waitb | cwait
  | waitarr | acq => exact onCore_answersIf wordOk_core
  | endComplete | ovlLoadDone | imageLoad | imageLoadDone | overrunLimit | fenceMet | cwaitComplete | waitarrMet
  | queueFullResume | relTokenDelivery | acqCellarPoll | drainProbeReply | creditGranted | cellarLineRequest
  | cellarLineReturn | nwrRankRetry | openRetry | sendStart | recvTake | columnGroupDrain | adjunctGroupDone
  | vectorCmdComplete | waitTimeout | coreStart | start | holdSet | holdClear | imDebugWrite | tileDescWindowWrite
  | slotDescWindowWrite | flushAll | kprobeGo | coreFreset => exact onCore_answersIf coreOk_lt
  | cldComplete | undefinedOpcode | acquireComplete | slotAdmission | producerDone | countedReadDone | engineFreset =>
    exact onCore_answersIf fun h => coreOk_lt (Bool.and_elim_left h)
  | openReceiveEnd | openSendEnd => exact onCore_answersIf fun h => wordOk_core (Bool.and_elim_left h)
  | restoreTrainTimeout | laneTrainingDone | narrowWidthTimeout | trainingTimeout | alignLock | alignTimeout | delayMeasured
  | delayRemeasure | controlCellReceive | badCellReceive | creditCellReceive | ackReceive | nakReceive | idleCellReceive
  | ackTimer | nakHoldoffExpire | ackTimeout | degrade | degradeDone | lossOfSignal | portDown | downHoldExpire
  | restoreLanesTrained => exact onPort_answersIf portOk_lt
  | dataCellReceive | slotGroupEnd => exact onPort_answersIf fun h => portOk_lt (Bool.and_elim_left h)
  | cellTransmit => exact onPort_answersIf fun h => portOk_lt (Bool.and_elim_left (Bool.and_elim_left h))
  | portFreset | trainEnWrite | restore => exact onPortWrite_answersIf portOk_lt
  | activate | stop | clear | clearDone | release | partitionScrubDone | ctxEnable | ctxDisable | commandSubmit | streamAdmit
  | append | streamClose | adjload | adjdrop | cmdBad | stepFormation | rflagPoll | stepRecordWrite =>
    exact onUnit_answersIf ctxOk_lt
  | headWrite => exact onUnit_answersIf fun h => ctxOk_lt (Bool.and_elim_left h)
  | markerReceive | laneAdaptationDone => exact onUnit_answersIf portOk_lt
  | extentScrubDone | refPolicyWrite | clusterFreset => exact onUnit_answersIf sliceOk_lt
  | extOwnWrite | extentScrubStart | refreshBurst | forcedBurst =>
    exact onUnit_answersIf fun h => sliceOk_lt (Bool.and_elim_left h)
  | gust | routeTableWrite => exact onUnit_answersIf of_decide_eq_true
  | tunApertureAccess => exact onUnitChip_answersIf coreOk_lt
  | wdogFirstExpiry => exact onUnitChip_answersIf of_decide_eq_true
  | drainProbeArrive | nwCreditArrive | nwCreditReturn | nwrRequestArrive | nwrDataArrive | nwrAck | openRequestArrive
  | openReplyArrive | closeNoticeArrive | messageArrive | deliveryAckArrive | channelCreditReturn | packetHop | beatEdge
  | beatEnable | beatDisable | beatStart | clrFault | beatrefEdge | referenceMiss | masterHoldover | beatLock | lockTimeout
  | markerLoss | fswGo | switchBeat | vddSetWrite | vddSettled | governorTick | psReqStandby | psReqIdle | powerStateDone
  | streamEngineFreset | vaneFreset | settingsWrite | outTailWrite | vaneEnable | vaneDisable | vaneReportArrive
  | nwrAdmissionArrive | revokeRequestArrive => exact onFabric_answersIf
  | mgmtPortFreset | fresetDone | chipResetKeepKiln | chipResetRestartKiln | chipResetDone | wdogKick | errClr | gfeClr
  | intSet | cntValLoRead | modFaultWrite | modReadyWrite | devIdWrite | osOwnsWrite | secCommandEnd | mgmtFrameReceive
  | mgmtFrameSent | mgmtLinkChange | cellarCalibrationDone | perBootKeyCertified => exact onChip_answersIf
  | sensorConversion | inputPowerApplied | inputPowerRemoved | pwrEnAssert | pwrEnDeassert | railsPowerGood | railFault
  | modResetAssert | refclkLoss | status | identity | readFru | temp | power | firstErr | clearAlert | alertResponse
  | railsOffTimeExpire => exact onBoard_answersIf
  | quote | cert | extend | challenge | updateEnd => exact secRun_answersIf (overChip_pending _)
  | setDebug | claimOwner | rotateOwner | rotateVendor | setSvn | setKilnMem => exact secRun_answersIf (overOtp_pending _)
  | unlock key scope sig => exact secRun_answersIf (unlock_pending key scope sig)
  | updateBegin header => exact secRun_answersIf (updateBegin_pending header)
  | commandTimeout w => exact commandTimeout_answersIf s w
  | wdogSecondExpiry k b => exact wdogSecondExpiry_answersIf s k b
  | cellarApertureAccess full machine k => exact cellarApertureAccess_answersIf s full machine k
  | kilnFreset inp => exact onState_answersIf fun t => kilnRestart_pending t inp
  | kilnRestart => exact onState_answersIf fun t => by simp only; split <;> simp
  | registerWrite off v => exact onState_answersIf fun t => wideWrite_pending t off v
  | recoveryImageBlock => exact onState_answersIf fun _ => rfl
  | rapRead => exact onState_answersIf fun t => by split <;> rfl
  | rapWrite => exact onState_answersIf fun t => by split <;> simp [rapWriteGo_pending]
  | internalResetRelease b =>
    refine answersIf_next ?_
    simp only
    split
    · exact rom_pending _ b true
    · rfl

/-- Settles O6: each command passes a gate that answers with the queue as it was, or is turned away by its unit's number. -/
theorem answersAndStops : Obligations.AnswersAndStops := by
  unfold Obligations.AnswersAndStops
  exact exec_answersIf

end Sys2Proof.Machine
end

section
/-! A write of a register through the window: which accesses reach a page (R464, R465, R466), what a page leaves in the register
by the access codes of R13, and what the rest of the device keeps. -/

namespace Sys2Proof.Machine

/-! ## Fields of a word -/

theorem bf_whole (v : Word) : bf v 0 32 = v.toNat := by
  simp [bf]

theorem setBf_whole (old v : Word) : setBf old 0 32 v.toNat = v := by
  apply BitVec.eq_of_getLsbD_eq
  intro i hi
  rw [getLsbD_setBf, if_pos (by omega)]
  simp [hi, BitVec.testBit_toNat]

theorem bf_bit {n : Nat} (w : BitVec n) (i : Nat) : bf w i 1 = (w.getLsbD i).toNat := by
  apply Nat.eq_of_testBit_eq
  intro j
  simp only [bf, BitVec.testBit_toNat, BitVec.getLsbD_extractLsb']
  cases j with
  | zero => cases w.getLsbD i <;> rfl
  | succ j => cases w.getLsbD i <;> simp [Nat.testBit_succ]

/-- A one-bit field takes its bit of a word. -/
theorem getLsbD_setBf_bit (w v : Word) {i : Nat} (hi : i < 32) : (setBf w i 1 (bf v i 1)).getLsbD i = v.getLsbD i := by
  rw [getLsbD_setBf, if_pos (by omega), bf_bit]
  cases v.getLsbD i <;> simp [hi]

theorem getLsbD_setBf_apart (w : Word) (x : Nat) {i j : Nat} (h : j ≠ i) : (setBf w i 1 x).getLsbD j = w.getLsbD j := by
  rw [getLsbD_setBf, if_neg (by omega)]

/-- A one-bit field is set when its bit is. -/
theorem Chip.bit_eq (s : Chip) (page o i : Nat) : s.bit page ⟨o, i, 1⟩ = (s.reg (page + o)).getLsbD i := by
  show decide (bf _ i 1 ≠ 0) = _
  rw [bf_bit]
  cases (s.reg (page + o)).getLsbD i <;> rfl

theorem putField_rwIn (old v : Word) (lo len least most : Nat) :
    putField old v (rwIn lo len least most) =
      if least ≤ bf v lo len ∧ bf v lo len ≤ most then setBf old lo len (bf v lo len) else old := by
  unfold putField rwIn
  congr 1
  simp

/-- A field that takes every value takes the word's. -/
theorem putField_rwAll (old v : Word) (lo len : Nat) : putField old v (rwAll lo len) = setBf old lo len (bf v lo len) := by
  have := bf_lt v lo len
  exact (putField_rwIn old v lo len 0 (2 ^ len - 1)).trans (if_pos ⟨Nat.zero_le _, by omega⟩)

theorem putField_whole (old v : Word) : putField old v (rwAll 0 32) = v := by
  rw [putField_rwAll, bf_whole, setBf_whole]

theorem Chip.get_put64_other (s : Chip) {page off page' : Nat} (v : Nat) {f : Fld} (h : page' + f.off ≠ page + off)
    (h2 : page' + f.off ≠ page + off + 4) : (s.put64 page off v).get page' f = s.get page' f := by
  rw [Chip.get, Chip.reg_put64_other _ _ _ _ _ h h2, Chip.get]

theorem Chip.get_raise_other (s : Chip) {page page' : Nat} (b : Nat) {f : Fld} (h : page' + f.off ≠ page + 0x028) :
    (s.raise page b).get page' f = s.get page' f := by
  rw [Chip.get, Chip.reg_raise_other _ _ _ _ h, Chip.get]

/-! ## What a write leaves in its register -/

/-- The word that a write leaves: the bits that a 1 clears are cleared, and the fields take theirs (R13). -/
def Chip.mergedWord (s : Chip) (t i o k : Nat) (v : Word) : Word :=
  (s.rwFields t i o).foldl (fun w f => putField w v f) (s.reg k &&& ~~~(v &&& BitVec.ofNat 32 (w1cMask t o)))

theorem Chip.mergeReg_eq (s : Chip) (t i o k : Nat) (v : Word) :
    s.mergeReg t i o k v = if s.mergedWord t i o k v = s.reg k then s else s.setReg k (s.mergedWord t i o k v) := rfl

theorem Chip.reg_mergeReg_same (s : Chip) (t i o k : Nat) (v : Word) :
    (s.mergeReg t i o k v).reg k = s.mergedWord t i o k v := by
  rw [Chip.mergeReg_eq]
  split
  · exact Eq.symm ‹_›
  · exact Chip.reg_setReg_same s k _

theorem Chip.reg_mergeReg_other (s : Chip) (t i o : Nat) {k j : Nat} (v : Word) (h : j ≠ k) :
    (s.mergeReg t i o k v).reg j = s.reg j := by
  rw [Chip.mergeReg_eq]
  split
  · rfl
  · exact Chip.reg_setReg_other s _ h

theorem Chip.mergeReg_rest (s : Chip) (t i o k : Nat) (v : Word) : RegsOnly s (s.mergeReg t i o k v) := by
  rw [Chip.mergeReg_eq]
  split
  · exact .refl s
  · exact regsOnly_setReg s k _

/-- Where no bit is one that a 1 clears, only the fields take part. -/
theorem Chip.mergedWord_fields {s : Chip} {t i o k : Nat} {v : Word} (hm : w1cMask t o = 0) :
    s.mergedWord t i o k v = (s.rwFields t i o).foldl (fun w f => putField w v f) (s.reg k) := by
  rw [Chip.mergedWord, hm, BitVec.and_zero, BitVec.not_zero, BitVec.and_allOnes]

/-- A register with no field that takes a value and no bit that a 1 clears stays as it is (R13: RO). -/
theorem Chip.mergeReg_readOnly {s : Chip} {t i o : Nat} (k : Nat) (v : Word) (hf : s.rwFields t i o = []) (hm : w1cMask t o = 0) :
    s.mergeReg t i o k v = s := by
  have hword : s.mergedWord t i o k v = s.reg k := by
    rw [Chip.mergedWord_fields hm, hf, List.foldl_nil]
  rw [Chip.mergeReg_eq, if_pos hword]

/-! ## Which accesses reach a page -/

/-- Register `o` of a page is reached by an aligned 32-bit write, which is no command of the security engine, no control of the
kiln and lies in no window of a core (R464, R465, R470). -/
def plainReg (page o : Nat) : Bool :=
  decide (page % 0x1000 = 0) && decide (o < 0x1000) && decide (o % 4 = 0) && populated (page + o) &&
  (inCore (page + o)).all (fun w => decide (w.2 < 0x8000)) && decide (page + o ≠ pgSEC + 0x100) &&
  decide (page + o ≠ pgKLN + 0x008)

theorem Chip.regWrite_plain (s : Chip) {page o : Nat} (v : Word) (h : plainReg page o = true) :
    s.regWrite (page + o) v = (s.pageWrite page o v).written := by
  simp only [plainReg, Bool.and_eq_true, decide_eq_true_eq] at h
  obtain ⟨⟨⟨⟨⟨⟨hpage, ho⟩, hal⟩, hpop⟩, hwin⟩, -⟩, -⟩ := h
  have hbase : (page + o) / 0x1000 * 0x1000 = page := by omega
  have hoff : (page + o) % 0x1000 = o := by omega
  have hno : ¬((page + o) % 4 ≠ 0 || !populated (page + o)) = true := by
    have : (page + o) % 4 = 0 := by omega
    simp [this, hpop]
  unfold Chip.regWrite
  rw [if_neg hno, hbase, hoff]
  cases hin : inCore (page + o) with
  | none => rfl
  | some w =>
    obtain ⟨c, q⟩ := w
    have hq : q < 0x8000 := by simpa [hin] using hwin
    have h1 : ¬0x8000 ≤ q := by omega
    have h2 : ¬0x10000 ≤ q := by omega
    have h3 : ¬0x30000 ≤ q := by omega
    simp [h1, h2, h3]

/-- A misaligned write, or one where the window is not populated, is an access fault (R464, R465). -/
theorem Chip.regWrite_fault (s : Chip) {off : Nat} (v : Word) (h : off % 4 ≠ 0 ∨ populated off = false) :
    s.regWrite off v = s.accessFault := by
  unfold Chip.regWrite
  rw [if_pos (by simpa using h)]

theorem State.regWrite_chip {s : State} {off : Nat} {v : Word} (hsec : off ≠ pgSEC + 0x100) (hkln : off ≠ pgKLN + 0x008) :
    s.regWrite off v = { s with chip := s.chip.regWrite off v } := by
  simp [State.regWrite, hsec, hkln]

theorem exec_registerWrite {s : State} (off : Nat) (d : RegData) (hup : s.chip.up = true) :
    exec (.registerWrite off d) s = .next (s.wideWrite off d) := by
  show execRegisterWrite off d s = _
  simp [execRegisterWrite, onState, hup]

theorem runs_registerWrite {s : State} {off : Nat} {v : Word} {P : Chip → Prop} (hup : s.chip.up = true)
    (hsec : off ≠ pgSEC + 0x100) (hkln : off ≠ pgKLN + 0x008) (hP : P (s.chip.regWrite off v)) :
    Runs (.registerWrite off (.w32 v)) s P := by
  refine ⟨_, (exec_registerWrite off _ hup).trans (congrArg _ (State.regWrite_chip hsec hkln)), rfl, rfl, hP⟩

theorem runs_pageWrite {s : State} {page o : Nat} {v : Word} {P : Chip → Prop} (hup : s.chip.up = true)
    (h : plainReg page o = true) (hP : P (s.chip.pageWrite page o v).written) :
    Runs (.registerWrite (page + o) (.w32 v)) s P := by
  have hplain := h
  simp only [plainReg, Bool.and_eq_true, decide_eq_true_eq] at h
  obtain ⟨⟨-, hsec⟩, hkln⟩ := h
  exact runs_registerWrite hup hsec hkln (s.chip.regWrite_plain v hplain ▸ hP)

/-- The block of a page takes writes: it has a type and a number, is there, and is not in reset (R408, R466). -/
structure OpenPage (s : Chip) (page t i : Nat) : Prop where
  type : pageType page = some (t, i)
  there : s.pageThere page = true
  free : s.pageInReset page = false

theorem Chip.toPage_open {s : Chip} {page t i : Nat} (h : OpenPage s page t i) (f : Chip → Chip) : s.toPage page f = f s := by
  simp [Chip.toPage, h.type, h.there, h.free]

theorem Chip.pageWrite_open {s : Chip} {page t i : Nat} (h : OpenPage s page t i) (o : Nat) (v : Word) :
    s.pageWrite page o v = (s.mergeReg t i o (page + o) v).sideWrite t i page o v := by
  unfold Chip.pageWrite
  rw [Chip.toPage_open h, h.type]

/-- A page of the device beside its cores and ports takes writes while it is not in reset. -/
theorem openPage_device {s : Chip} {page t : Nat} (ht : pageType page = some (t, 0)) (hlow : t < 0x10) (hrst : s.rstBusy = false)
    (hfree : s.bit page fResetActive = false) : OpenPage s page t 0 := by
  have h1 : ¬0x30 ≤ t := by omega
  have h2 : t ≠ 0x10 := by omega
  have h3 : t ≠ 0x41 := by omega
  exact ⟨ht, by simp [Chip.pageThere, ht, h1, h2], by simp [Chip.pageInReset, ht, h1, h3, hrst, hfree]⟩

theorem pageType_pgSEQ {c : Nat} (hc : c < 144) : pageType (pgSEQ c) = some (0x30, c) := by
  have h1 : ¬pgSEQ c < 0xE000 := by rw [pgSEQ_def]; omega
  have h2 : ¬pgSEQ c < 0x110000 := by rw [pgSEQ_def]; omega
  have h3 : pgSEQ c ≠ 0x110000 := by rw [pgSEQ_def]; omega
  have h4 : ¬pgSEQ c < 0x440000 := by rw [pgSEQ_def]; omega
  have h5 : 0x1000000 ≤ pgSEQ c ∧ pgSEQ c < 0x3400000 := by rw [pgSEQ_def]; omega
  have h6 : pgSEQ c % 0x40000 = 0 := by rw [pgSEQ_def]; omega
  have h7 : (pgSEQ c - 0x1000000) / 0x40000 = c := by rw [pgSEQ_def]; omega
  simp [pageType, h1, h2, h3, h4, h5, h6, h7]

theorem plainReg_pgSEQ {c o : Nat} (hc : c < 144) (ho : o < 0x1000) (hal : o % 4 = 0) : plainReg (pgSEQ c) o = true := by
  have hpage : pgSEQ c % 0x1000 = 0 := by rw [pgSEQ_def]; omega
  have h1 : 0x1000000 ≤ pgSEQ c + o ∧ pgSEQ c + o < 0x3400000 := by rw [pgSEQ_def]; omega
  have h2 : (pgSEQ c + o) % 0x40000 < 0x8000 := by rw [pgSEQ_def]; omega
  have h3 : pgSEQ c + o ≠ pgSEC + 0x100 ∧ pgSEQ c + o ≠ pgKLN + 0x008 := by simp only [pgSEC, pgKLN]; omega
  simp [plainReg, populated, inCore, hpage, ho, hal, h1, h2, h3]

theorem openPage_pgSEQ {s : Chip} {c : Nat} (hc : c < 144) (hrst : s.rstBusy = false) (hp : s.present c = true)
    (hin : (s.core c).inReset = false) (hfree : s.bit (pgSEQ c) fResetActive = false) : OpenPage s (pgSEQ c) 0x30 c :=
  ⟨pageType_pgSEQ hc, by simp [Chip.pageThere, pageType_pgSEQ hc, hp],
    by simp [Chip.pageInReset, pageType_pgSEQ hc, hrst, hin, hfree]⟩

/-! ## What a write keeps -/

/-- A write of register `k` was accepted and changed, of registers, memory and cores, that register only. -/
def OnlyReg (s t : Chip) (k : Nat) : Prop := SameRegs s t [k] ∧ t.resp = [0] ∧ t.mem = s.mem ∧ t.cores = s.cores

theorem RegsOnly.mem {s t : Chip} (h : RegsOnly s t) : t.mem = s.mem := by
  unfold RegsOnly at h
  exact (congrArg Chip.mem h).trans rfl

theorem RegsOnly.cores {s t : Chip} (h : RegsOnly s t) : t.cores = s.cores := by
  unfold RegsOnly at h
  exact (congrArg Chip.cores h).trans rfl


theorem Chip.reg_written (s : Chip) (k : Nat) : s.written.reg k = s.reg k := rfl
theorem Chip.get_written (s : Chip) (page : Nat) (f : Fld) : s.written.get page f = s.get page f := rfl
theorem Chip.get64_written (s : Chip) (page o : Nat) : s.written.get64 page o = s.get64 page o := rfl
theorem Chip.bit_written (s : Chip) (page : Nat) (f : Fld) : s.written.bit page f = s.bit page f := rfl

theorem sameRegs_written {s t : Chip} {l : List Nat} (h : SameRegs s t l) : SameRegs s t.written l :=
  fun k hk => (t.reg_written k).trans (h k hk)

theorem onlyReg_written {s t : Chip} {k : Nat} (h : RegsOnly s t) (hr : ∀ j, j ≠ k → t.reg j = s.reg j) :
    OnlyReg s t.written k :=
  ⟨fun j hj => hr j (by simpa using hj), rfl, h.mem, h.cores⟩

theorem onlyReg_mergeReg (s : Chip) (t i o k : Nat) (v : Word) : OnlyReg s (s.mergeReg t i o k v).written k :=
  onlyReg_written (s.mergeReg_rest t i o k v) fun _ hj => s.reg_mergeReg_other t i o v hj

end Sys2Proof.Machine
end

section
/-! REGISTER_WRITE by core, access code and width, one lemma per rule (R13, R99, R407, R435, R439, R464 to R466, R472, R479). -/

namespace Sys2Proof.Machine

/-! ## The pages of a core -/

section CorePages

variable {s : State} {c : Nat} {v : Word}

theorem Chip.rwFields_counter (s : Chip) {c n : Nat} (hn : n < 16) :
    s.rwFields 0x30 c (0x160 + 4 * n) = if s.coreQuiet c then [rwAll 0 32] else [] := by
  have h1 : ¬0x160 + 4 * n < 0x100 := by omega
  have h2 : inRun 0x160 4 16 (0x160 + 4 * n) = true := by
    simp only [inRun, Bool.and_eq_true, decide_eq_true_eq]
    omega
  have h3 : inRun 0x110 4 4 (0x160 + 4 * n) = false := by
    simp only [inRun, Bool.and_eq_false_iff, decide_eq_false_iff_not]
    omega
  have h4 : 0x160 + 4 * n ≠ 0x100 ∧ 0x160 + 4 * n ≠ 0x10C ∧ 0x160 + 4 * n ≠ 0x120 ∧ 0x160 + 4 * n ≠ 0x124 ∧
      0x160 + 4 * n ≠ 0x128 := by omega
  simp [Chip.rwFields, coreFields, h1, h2, h3, h4]

theorem w1cMask_counter (n : Nat) : w1cMask 0x30 (0x160 + 4 * n) = 0 := by
  have h1 : ¬0x160 + 4 * n < 0x100 := by omega
  have h2 : 0x160 + 4 * n ≠ 0x104 := by omega
  simp [w1cMask, h1, h2]

theorem Chip.sideWrite_counter (s : Chip) (c page n : Nat) (v : Word) : s.sideWrite 0x30 c page (0x160 + 4 * n) v = s := by
  have h1 : ¬0x160 + 4 * n < 0x100 := by omega
  have h2 : 0x160 + 4 * n ≠ 0x008 ∧ 0x160 + 4 * n ≠ 0x100 := by omega
  simp [Chip.sideWrite, h1, h2]

/-- A write of counter `n` of a core that takes writes is a write of its register alone. -/
theorem Chip.pageWrite_counter {s : Chip} {n : Nat} (h : OpenPage s (pgSEQ c) 0x30 c) :
    s.pageWrite (pgSEQ c) (0x160 + 4 * n) v =
      s.mergeReg 0x30 c (0x160 + 4 * n) (pgSEQ c + (0x160 + 4 * n)) v := by
  rw [Chip.pageWrite_open h, Chip.sideWrite_counter]

theorem runs_counterWrite {n : Nat} {P : Chip → Prop} (hup : s.chip.up = true) (hc : c < 144) (hn : n < 16)
    (hP : P (s.chip.pageWrite (pgSEQ c) (0x160 + 4 * n) v).written) :
    Runs (.registerWrite (pgSEQ c + 0x160 + 4 * n) (.w32 v)) s P := by
  rw [Nat.add_assoc]
  exact runs_pageWrite hup (plainReg_pgSEQ hc (by omega) (by omega)) hP

/-- A counter of a quiet core takes the word (R99). -/
theorem counterWrite_quiet {n : Nat} (hup : s.chip.up = true) (hc : c < 144) (hn : n < 16)
    (hopen : OpenPage s.chip (pgSEQ c) 0x30 c) (hq : s.chip.seqState c ∈ [sqIDLE, sqHELD, sqHALTED]) :
    Runs (.registerWrite (pgSEQ c + 0x160 + 4 * n) (.w32 v)) s fun t =>
      t.cnt c n = v ∧ SameRegs s.chip t [pgSEQ c + 0x160 + 4 * n] ∧ t.resp = [0] ∧ t.mem = s.chip.mem ∧
      t.cores = s.chip.cores := by
  have hquiet : s.chip.coreQuiet c = true := by simpa [Chip.coreQuiet, Chip.seqIn] using hq
  apply runs_counterWrite hup hc hn
  rw [Chip.pageWrite_counter hopen, Nat.add_assoc]
  refine ⟨?_, onlyReg_mergeReg s.chip _ _ _ _ v⟩
  rw [Chip.cnt, Chip.reg_written, Nat.add_assoc, Chip.reg_mergeReg_same, Chip.mergedWord_fields (w1cMask_counter n),
    Chip.rwFields_counter _ hn, if_pos hquiet]
  exact putField_whole _ v

/-- A running core's does not. -/
theorem counterWrite_running {n : Nat} (hup : s.chip.up = true) (hc : c < 144) (hn : n < 16)
    (hopen : OpenPage s.chip (pgSEQ c) 0x30 c) (hq : s.chip.seqState c = sqRUNNING) :
    Runs (.registerWrite (pgSEQ c + 0x160 + 4 * n) (.w32 v)) s fun t =>
      (∀ r, t.reg r = s.chip.reg r) ∧ t.resp = [0] ∧ t.mem = s.chip.mem ∧ t.cores = s.chip.cores := by
  have hquiet : ¬s.chip.coreQuiet c = true := by
    simp [Chip.coreQuiet, Chip.seqIn, hq, sqRUNNING, sqIDLE, sqHELD, sqHALTED]
  apply runs_counterWrite hup hc hn
  rw [Chip.pageWrite_counter hopen,
    Chip.mergeReg_readOnly _ v ((s.chip.rwFields_counter hn).trans (if_neg hquiet)) (w1cMask_counter n)]
  exact ⟨fun _ => rfl, rfl, rfl, rfl⟩

/-- A bit of ERR_STAT is cleared by a 1 (R472). -/
theorem errStatWrite (hup : s.chip.up = true) (hc : c < 144) (hopen : OpenPage s.chip (pgSEQ c) 0x30 c) :
    Runs (.registerWrite (pgSEQ c + 0x010) (.w32 v)) s fun t =>
      t.reg (pgSEQ c + 0x010) = s.chip.reg (pgSEQ c + 0x010) &&& ~~~(v &&& 0x3FFFFFF) ∧
      SameRegs s.chip t [pgSEQ c + 0x010] := by
  apply runs_pageWrite hup (plainReg_pgSEQ hc (by decide) (by decide))
  rw [Chip.pageWrite_open hopen]
  exact ⟨s.chip.reg_mergeReg_same 0x30 c 0x010 _ v, (onlyReg_mergeReg s.chip _ _ _ _ v).1⟩

/-- A core in reset takes no write (R408). -/
theorem counterWrite_inReset {n : Nat} (hup : s.chip.up = true) (hc : c < 144) (hn : n < 16) (hp : s.chip.present c = true)
    (hin : (s.chip.core c).inReset = true) :
    Runs (.registerWrite (pgSEQ c + 0x160 + 4 * n) (.w32 v)) s fun t => t = { s.chip with resp := [0] } := by
  have hpage : s.chip.pageWrite (pgSEQ c) (0x160 + 4 * n) v = s.chip := by
    simp [Chip.pageWrite, Chip.toPage, Chip.pageThere, Chip.pageInReset, pageType_pgSEQ hc, hp, hin]
  apply runs_counterWrite hup hc hn
  rw [hpage]
  rfl

end CorePages

/-! ## Writes that reach no block -/

/-- Logging an error sets its bit in ERR_STAT of the page (R473). -/
theorem Chip.reg_logLocal_stat (s : Chip) {page : Nat} (code cw : Nat) (h : hasErrRegs page = true) :
    (s.logLocal page code cw).reg (page + 0x010) = s.reg (page + 0x010) ||| BitVec.ofNat 32 (2 ^ errBit code) := by
  have h1 : page + 0x010 ≠ page + 0x018 := by omega
  have h2 : page + 0x010 ≠ page + 0x01C := by omega
  have h3 : page + 0x010 ≠ page + 0x020 := by omega
  have h4 : page + 0x010 ≠ page + 0x020 + 4 := by omega
  have h5 : page + 0x010 ≠ page + 0x028 := by omega
  unfold Chip.logLocal
  rw [if_pos h]
  dsimp only
  split <;> split <;>
    simp only [Chip.reg_raise_other _ _ _ _ h5, Chip.reg_put64_other _ _ _ _ _ h3 h4, Chip.reg_put_other _ _ fErrCtx _ _ h2,
      Chip.reg_put_other _ _ fErrFirst _ _ h1, Chip.reg_setReg_same]

/-- The global log writes its own registers and INT_STAT (R395, R483). -/
theorem Chip.reg_logGlobal_block (s : Chip) (page code cw : Nat) {o : Nat} (ho : o < 0x100) (hi : o ≠ 0x028) :
    (s.logGlobal page code cw).reg (pgGERP + o) = s.reg (pgGERP + o) := by
  have hr : pgGERP + o ≠ pgGERP + 0x028 := by omega
  have hp : ∀ q, 0x100 ≤ q → pgGERP + o ≠ pgGERP + q := fun q hq => by omega
  unfold Chip.logGlobal
  split
  · rfl
  · split
    · rw [Chip.reg_raise_other _ _ _ _ hr, Chip.reg_put64_other _ _ _ _ _ (hp _ (by decide)) (hp (0x10C + 4) (by decide)),
        Chip.reg_put_other _ _ _ _ _ (hp _ (by decide)), Chip.reg_put_other _ _ _ _ _ (hp _ (by decide)),
        Chip.reg_put_other _ _ _ _ _ (hp _ (by decide))]
    · exact Chip.reg_put_other _ _ _ _ _ (hp _ (by decide))

/-- The first error that the global log takes stands in it with its context (R395). -/
theorem Chip.logGlobal_first (s : Chip) {page code cw : Nat} (hc : code ≠ 1 ∧ code ≠ 2) (h : s.get pgGERP fGfeCode = 0) :
    (s.logGlobal page code cw).get pgGERP fGfeCode = code % 2 ^ 8 ∧
    (s.logGlobal page code cw).get pgGERP fGfeCtx = cw % 2 ^ 17 := by
  unfold Chip.logGlobal
  rw [if_neg (by simpa using hc), if_pos h]
  constructor
  · rw [Chip.get_raise_other _ _ (by decide), Chip.get_put64_other _ _ (by decide) (by decide),
      Chip.get_put_reg _ _ _ fGfeSrc _ _ (by decide), Chip.get_put_reg _ _ _ fGfeCtx _ _ (by decide)]
    exact Chip.get_put_same _ _ _ _ (by decide)
  · rw [Chip.get_raise_other _ _ (by decide), Chip.get_put64_other _ _ (by decide) (by decide),
      Chip.get_put_reg _ _ _ fGfeSrc _ _ (by decide)]
    exact Chip.get_put_same _ _ _ _ (by decide)

/-- A discarded write sets ABSENT_UNIT in the error block of the global log (R3, R466). -/
theorem Chip.absentWrite_bit (s : Chip) : s.absentWrite.bit pgGERP ⟨0x010, errBit eABSENT, 1⟩ = true := by
  rw [Chip.bit_eq, Chip.absentWrite, Chip.logErr, Chip.reg_logGlobal_block _ _ _ _ (by decide) (by decide),
    Chip.reg_logLocal_stat _ _ _ (by decide), BitVec.getLsbD_or]
  simp [errBit, eABSENT]

/-- As the first error of the device it stands in the global log, with no context. -/
theorem Chip.absentWrite_first (s : Chip) (h : s.get pgGERP fGfeCode = 0) :
    s.absentWrite.get pgGERP fGfeCode = eABSENT ∧ s.absentWrite.get pgGERP fGfeCtx = 0 := by
  have hlocal : (s.logLocal pgGERP eABSENT 0).get pgGERP fGfeCode = 0 := by
    rw [Chip.get, Chip.reg_logLocal_other _ _ _ _ _ (by decide)]
    exact h
  exact Chip.logGlobal_first _ (by decide) hlocal

/-- A write to an absent core is discarded and logged (R466). -/
theorem counterWrite_absent {s : State} {c n : Nat} {v : Word} (hup : s.chip.up = true) (hc : c < 144) (hn : n < 16)
    (hp : s.chip.present c = false) :
    Runs (.registerWrite (pgSEQ c + 0x160 + 4 * n) (.w32 v)) s fun t =>
      t.reg (pgSEQ c + 0x160 + 4 * n) = s.chip.reg (pgSEQ c + 0x160 + 4 * n) ∧
      t.bit pgGERP ⟨0x010, errBit eABSENT, 1⟩ = true ∧
      (s.chip.get pgGERP fGfeCode = 0 → t.get pgGERP fGfeCode = eABSENT ∧ t.get pgGERP fGfeCtx = 0) ∧ t.resp = [0] ∧
      t.mem = s.chip.mem ∧ t.cores = s.chip.cores := by
  have hpage : s.chip.pageWrite (pgSEQ c) (0x160 + 4 * n) v = s.chip.absentWrite := by
    simp [Chip.pageWrite, Chip.toPage, Chip.pageThere, pageType_pgSEQ hc, hp]
  have hfar : pgGERP + 0x1000 ≤ pgSEQ c + 0x160 + 4 * n := by rw [pgSEQ_def, pgGERP]; omega
  have hreg : s.chip.absentWrite.reg (pgSEQ c + 0x160 + 4 * n) = s.chip.reg (pgSEQ c + 0x160 + 4 * n) :=
    Chip.reg_logErr_other s.chip pgGERP eABSENT 0 _ (.inr (Nat.le_trans (by decide) hfar)) (.inr hfar)
  have hrest : RegsOnly s.chip s.chip.absentWrite := Chip.logErr_rest _ _ _ _
  apply runs_counterWrite hup hc hn
  rw [hpage]
  exact ⟨hreg, s.chip.absentWrite_bit, s.chip.absentWrite_first, rfl,
    hrest.mem, hrest.cores⟩

/-- A misaligned write, or one where the window is not populated, answers nothing (R464, R465). -/
theorem registerWrite_fault {s : State} {off : Nat} {v : Word} (hup : s.chip.up = true)
    (h : off % 4 ≠ 0 ∨ populated off = false) :
    Runs (.registerWrite off (.w32 v)) s fun t => t = { s.chip with resp := [] } := by
  have hsec : off ≠ pgSEC + 0x100 := by
    rintro rfl
    exact absurd h (by decide)
  have hkln : off ≠ pgKLN + 0x008 := by
    rintro rfl
    exact absurd h (by decide)
  exact runs_registerWrite hup hsec hkln (s.chip.regWrite_fault v h)

/-! ## The pages of the device -/

section DevicePages

variable {s : State} {v : Word}

theorem runs_deviceWrite {page t o : Nat} {P : Chip → Prop} (hup : s.chip.up = true) (hreg : plainReg page o = true)
    (h : OpenPage s.chip page t 0) (hP : P ((s.chip.mergeReg t 0 o (page + o) v).sideWrite t 0 page o v).written) :
    Runs (.registerWrite (page + o) (.w32 v)) s P :=
  runs_pageWrite hup hreg (Chip.pageWrite_open h o v ▸ hP)

/-- A register that is read-only, and of which a write brings nothing else about, stays (R13). -/
theorem runs_readOnly {page t o : Nat} (hup : s.chip.up = true) (hreg : plainReg page o = true) (h : OpenPage s.chip page t 0)
    (hf : s.chip.rwFields t 0 o = []) (hm : w1cMask t o = 0) (hside : s.chip.sideWrite t 0 page o v = s.chip) :
    Runs (.registerWrite (page + o) (.w32 v)) s fun u => u = { s.chip with resp := [0] } := by
  apply runs_deviceWrite hup hreg h
  rw [Chip.mergeReg_readOnly _ v hf hm, hside]
  rfl

/-- RW with a range: GOV_PERIOD (R435). -/
theorem govPeriodWrite (hup : s.chip.up = true) (h : OpenPage s.chip pgGOV 7 0) :
    Runs (.registerWrite (pgGOV + 0x10C) (.w32 v)) s fun t => OnlyReg s.chip t (pgGOV + 0x10C) ∧
      t.get pgGOV fGovPeriod = if 16 ≤ bf v 0 11 ∧ bf v 0 11 ≤ 1024 then bf v 0 11 else s.chip.get pgGOV fGovPeriod := by
  have hword : s.chip.mergedWord 7 0 0x10C (pgGOV + 0x10C) v = putField (s.chip.reg (pgGOV + 0x10C)) v (rwIn 0 11 16 1024) := by
    rw [Chip.mergedWord_fields rfl]
    rfl
  apply runs_deviceWrite hup (by decide) h
  refine ⟨onlyReg_mergeReg s.chip 7 0 0x10C _ v, ?_⟩
  rw [Chip.get_written]
  show bf ((s.chip.mergeReg 7 0 0x10C (pgGOV + 0x10C) v).reg (pgGOV + 0x10C)) 0 11 = _
  rw [Chip.reg_mergeReg_same, hword, putField_rwIn]
  split
  · exact (bf_setBf_same _ _ _ _ (by decide)).trans (Nat.mod_eq_of_lt (bf_lt v 0 11))
  · rfl

/-- RO: TMAX (R437). -/
theorem tmaxWrite (hup : s.chip.up = true) (h : OpenPage s.chip pgTHM 9 0) :
    Runs (.registerWrite (pgTHM + 0x104) (.w32 v)) s fun t => t = { s.chip with resp := [0] } :=
  runs_readOnly hup (by decide) h rfl rfl rfl

/-- RO: the beat counter (R484). -/
theorem beatCounterWrite (hup : s.chip.up = true) (h : OpenPage s.chip pgBEAT 5 0) :
    Runs (.registerWrite (pgBEAT + 0x118) (.w32 v)) s fun t => t = { s.chip with resp := [0] } :=
  runs_readOnly hup (by decide) h (by simp [Chip.rwFields]) rfl rfl

/-- W1S: LOCK (R472). -/
theorem lockWrite (hup : s.chip.up = true) (h : OpenPage s.chip pgBEAT 5 0) :
    Runs (.registerWrite (pgBEAT + 0x008) (.w32 v)) s fun t => OnlyReg s.chip t (pgBEAT + 0x008) ∧
      t.bit pgBEAT fLock = (v.getLsbD 3 || s.chip.bit pgBEAT fLock) := by
  have hside : s.chip.sideWrite 5 0 pgBEAT 0x008 v = if v.getLsbD 3 then s.chip.put pgBEAT fLock 1 else s.chip := by
    simp [Chip.sideWrite, Chip.ctrlWrite]
  apply runs_deviceWrite hup (by decide) h
  rw [Chip.mergeReg_readOnly _ v rfl rfl, hside, Chip.bit_written]
  cases hv : v.getLsbD 3 with
  | false => exact ⟨⟨fun _ _ => rfl, rfl, rfl, rfl⟩, rfl⟩
  | true =>
    refine ⟨onlyReg_written (regsOnly_put _ _ _ _) fun j hj => Chip.reg_put_other _ _ _ _ _ hj, ?_⟩
    rw [if_pos rfl, Chip.bit, Chip.get_put_same _ _ _ _ (by decide)]
    rfl

/-- ERR_CLR clears the log of a page that has one (R472). -/
theorem Chip.errClr_spec (s : Chip) {page : Nat} (h : hasErrRegs page = true) :
    (s.errClr page).get page fErrFirst = 0 ∧ (s.errClr page).get page fErrCtx = 0 ∧ (s.errClr page).get64 page 0x020 = 0 ∧
    SameRegs s (s.errClr page) [page + 0x018, page + 0x01C, page + 0x020, page + 0x024] := by
  unfold Chip.errClr
  rw [if_pos h]
  refine ⟨?_, ?_, Chip.get64_put64_same _ _ _ _ (by decide), ?_⟩
  · rw [Chip.get_put64_other _ _ (by simp [fErrFirst]) (by simp [fErrFirst, Nat.add_assoc]),
      Chip.get_put_reg _ _ _ fErrCtx _ _ (by simp [fErrFirst, fErrCtx])]
    exact Chip.get_put_same _ _ _ _ (by decide)
  · rw [Chip.get_put64_other _ _ (by simp [fErrCtx]) (by simp [fErrCtx, Nat.add_assoc])]
    exact Chip.get_put_same _ _ _ _ (by decide)
  · intro k hk
    simp only [List.mem_cons, List.not_mem_nil, or_false, not_or] at hk
    obtain ⟨h1, h2, h3, h4⟩ := hk
    rw [Chip.reg_put64_other _ _ _ _ _ h3 h4, Chip.reg_put_other _ _ fErrCtx _ _ h2, Chip.reg_put_other _ _ fErrFirst _ _ h1]

/-- WO: a 1 to ERR_CLR clears the error log of the page (R472). -/
theorem errClrWrite (hup : s.chip.up = true) (h : OpenPage s.chip pgBEAT 5 0) (hv : v.getLsbD 31 = true) :
    Runs (.registerWrite (pgBEAT + 0x018) (.w32 v)) s fun t => t.get pgBEAT fErrFirst = 0 ∧ t.get pgBEAT fErrCtx = 0 ∧
      t.get64 pgBEAT 0x020 = 0 ∧ SameRegs s.chip t [pgBEAT + 0x018, pgBEAT + 0x01C, pgBEAT + 0x020, pgBEAT + 0x024] := by
  have hside : s.chip.sideWrite 5 0 pgBEAT 0x018 v = s.chip.errClr pgBEAT := by
    simp [Chip.sideWrite, hv]
  apply runs_deviceWrite hup (by decide) h
  rw [Chip.mergeReg_readOnly _ v rfl rfl, hside]
  obtain ⟨hfirst, hctx, hbeat, hsame⟩ := s.chip.errClr_spec (page := pgBEAT) (by decide)
  rw [Chip.get_written, Chip.get_written, Chip.get64_written]
  exact ⟨hfirst, hctx, hbeat, sameRegs_written hsame⟩

/-- A 0 to it does nothing. -/
theorem errClrWrite_zero (hup : s.chip.up = true) (h : OpenPage s.chip pgBEAT 5 0) (hv : v.getLsbD 31 = false) :
    Runs (.registerWrite (pgBEAT + 0x018) (.w32 v)) s fun t => t = { s.chip with resp := [0] } :=
  runs_readOnly hup (by decide) h rfl rfl (by simp [Chip.sideWrite, -BitVec.getLsbD_eq_getElem, hv])

/-- WO: INT_SET sets bits of INT_STAT that the page has (R472). -/
theorem intSetWrite (hup : s.chip.up = true) (h : OpenPage s.chip pgBEAT 5 0) :
    Runs (.registerWrite (pgBEAT + 0x030) (.w32 v)) s fun t => OnlyReg s.chip t (pgBEAT + 0x028) ∧
      t.reg (pgBEAT + 0x028) = s.chip.reg (pgBEAT + 0x028) ||| (v &&& BitVec.ofNat 32 (intBits pgBEAT)) := by
  have hside : s.chip.sideWrite 5 0 pgBEAT 0x030 v = s.chip.intSet pgBEAT v := rfl
  apply runs_deviceWrite hup (by decide) h
  rw [Chip.mergeReg_readOnly _ v rfl rfl, hside]
  exact ⟨onlyReg_written (regsOnly_setReg _ _ _) fun j hj => Chip.reg_setReg_other _ _ hj, Chip.reg_setReg_same _ _ _⟩

/-- RWS, W1C and WO in one register: WDOG_RESET_EN, WDOG_TRIP and the kick (R439, R441). -/
theorem wdogCtrlWrite (hup : s.chip.up = true) (h : OpenPage s.chip pgKLN 0xB 0) :
    Runs (.registerWrite (pgKLN + 0x128) (.w32 v)) s fun t => OnlyReg s.chip t (pgKLN + 0x128) ∧
      t.bit pgKLN fWdogResetEn = v.getLsbD 8 ∧ t.bit pgKLN fWdogTrip = (s.chip.bit pgKLN fWdogTrip && !(v.getLsbD 9)) ∧
      t.wdogHit = s.chip.wdogHit.filter fun k => !((BitVec.ofNat 8 (bf v 0 8)).getLsbD k) := by
  have hword : s.chip.mergedWord 0xB 0 0x128 (pgKLN + 0x128) v =
      setBf (s.chip.reg (pgKLN + 0x128) &&& ~~~(v &&& BitVec.ofNat 32 (2 ^ 9))) 8 1 (bf v 8 1) := by
    rw [← putField_rwAll]
    rfl
  have hside : ∀ u : Chip, u.sideWrite 0xB 0 pgKLN 0x128 v = u.wdogKick (BitVec.ofNat 8 (bf v 0 8)) := fun _ => rfl
  have hkick : ∀ (u : Chip) (m : BitVec 8) (k : Nat), (u.wdogKick m).reg k = u.reg k := fun _ _ _ => rfl
  have hreg : (s.chip.mergeReg 0xB 0 0x128 (pgKLN + 0x128) v).reg (pgKLN + 0x128) = _ := (Chip.reg_mergeReg_same ..).trans hword
  have honly := onlyReg_mergeReg s.chip 0xB 0 0x128 (pgKLN + 0x128) v
  apply runs_deviceWrite hup (by decide) h
  rw [hside]
  refine ⟨honly, ?_, ?_, ?_⟩
  · rw [Chip.bit_written, fWdogResetEn, Chip.bit_eq, hkick, hreg, getLsbD_setBf_bit _ _ (by decide)]
  · rw [Chip.bit_written, fWdogTrip, Chip.bit_eq, Chip.bit_eq, hkick, hreg, getLsbD_setBf_apart _ _ (by decide)]
    simp
  · have hhit := congrArg Chip.wdogHit (s.chip.mergeReg_rest 0xB 0 0x128 (pgKLN + 0x128) v)
    exact congrArg (List.filter _) (hhit.trans rfl)

/-- RWS beside RO: OS_OWNS and LINK_UP (R439). -/
theorem osOwnsRegisterWrite (hup : s.chip.up = true) (h : OpenPage s.chip pgMGT 0xC 0) :
    Runs (.registerWrite (pgMGT + 0x100) (.w32 v)) s fun t => OnlyReg s.chip t (pgMGT + 0x100) ∧
      t.bit pgMGT ⟨0x100, 0, 1⟩ = v.getLsbD 0 ∧ t.bit pgMGT fLinkUp = s.chip.bit pgMGT fLinkUp := by
  have hword : s.chip.mergedWord 0xC 0 0x100 (pgMGT + 0x100) v = setBf (s.chip.reg (pgMGT + 0x100)) 0 1 (bf v 0 1) := by
    rw [Chip.mergedWord_fields rfl, ← putField_rwAll]
    rfl
  have hside : ∀ u : Chip, u.sideWrite 0xC 0 pgMGT 0x100 v = u := fun _ => rfl
  have hreg : (s.chip.mergeReg 0xC 0 0x100 (pgMGT + 0x100) v).reg (pgMGT + 0x100) = _ := (Chip.reg_mergeReg_same ..).trans hword
  apply runs_deviceWrite hup (by decide) h
  rw [hside]
  refine ⟨onlyReg_mergeReg s.chip 0xC 0 0x100 _ v, ?_, ?_⟩
  · rw [Chip.bit_written, Chip.bit_eq, hreg, getLsbD_setBf_bit _ _ (by decide)]
  · rw [Chip.bit_written, fLinkUp, Chip.bit_eq, Chip.bit_eq, hreg, getLsbD_setBf_apart _ _ (by decide)]

/-- RWO: DEV_ID, once it is valid, takes no further write (R479). -/
theorem devIdRegisterWrite_valid (hup : s.chip.up = true) (h : OpenPage s.chip pgID 1 0) (hv : s.chip.get pgID fDevIdValid = 1) :
    Runs (.registerWrite (pgID + 0x130) (.w32 v)) s fun t => t = { s.chip with resp := [0] } := by
  have hside : s.chip.sideWrite 1 0 pgID 0x130 v = s.chip := by
    show s.chip.devIdWrite v = s.chip
    simp [Chip.devIdWrite, Chip.bit, hv]
  exact runs_readOnly hup (by decide) h rfl rfl hside

/-! ### The first write of DEV_ID -/

theorem Chip.reg_setPort (s : Chip) (p : Nat) (v : Port) (k : Nat) : (s.setPort p v).reg k = s.reg k := rfl

theorem Chip.reg_transitLeft (s : Chip) (x : LinkCell) (k : Nat) : (s.transitLeft x).reg k = s.reg k := by
  unfold Chip.transitLeft
  split <;> rfl

/-- A register outside port `p`'s page is untouched by the loss of what the port holds (R329). -/
theorem Chip.reg_emptyPort_other (s : Chip) {p k : Nat} (h : k < pgLNK p) : (s.emptyPort p).reg k = s.reg k := by
  have hk : ∀ o, k ≠ pgLNK p + o := fun o => by omega
  unfold Chip.emptyPort
  dsimp only
  rw [Chip.reg_put_other _ _ _ _ _ (hk _), Chip.reg_put_other _ _ _ _ _ (hk _), Chip.reg_put_other _ _ _ _ _ (hk _),
    Chip.reg_put_other _ _ _ _ _ (hk _), Chip.reg_setPort]
  refine (Chip.forEach_keep (fun t : Chip => t.reg k) _ _ _ fun t n _ => ?_).trans ?_
  · split <;> rfl
  · refine (List.foldl_keep (fun t : Chip => t.reg k) _ _ _ fun t e => ?_).trans ?_
    · split
      · rfl
      · exact Chip.reg_transitLeft t e.2 k
    · exact List.foldl_keep (fun t : Chip => t.reg k) _ _ _ fun _ _ => rfl

theorem Chip.reg_goDown_other (s : Chip) (p cause : Nat) {k : Nat} (h : k < pgGERP) : (s.goDown p cause).reg k = s.reg k := by
  have hp : k < pgLNK p := Nat.lt_of_lt_of_le h (Nat.le_trans (by decide) (Nat.le_add_right 0x100000 _))
  have hk : ∀ o, k ≠ pgLNK p + o := fun o => by omega
  have hnotice : ∀ (u : Chip) (n : Nat) (w : Bool), (u.downNotice p n w).reg k = u.reg k := fun u n w => by
    cases w <;> rfl
  unfold Chip.goDown Chip.setWidth Chip.setPortState
  dsimp only
  rw [Chip.reg_raise_other _ _ _ _ (hk _), Chip.reg_logErr_other _ _ _ _ _ (.inl (by omega)) (.inl h),
    Chip.reg_put_other _ _ _ _ _ (hk _), Chip.reg_put_other _ _ _ _ _ (hk _), Chip.reg_put_other _ _ _ _ _ (hk _),
    Chip.reg_put_other _ _ _ _ _ (hk _), hnotice, Chip.reg_emptyPort_other _ hp]
  rfl

/-- What the ports do once the device has an identity writes none of the registers below the global log (R326, R479). -/
theorem Chip.reg_peerCheck_other (s : Chip) (p : Nat) {k : Nat} (h : k < pgGERP) : (s.peerCheck p).reg k = s.reg k := by
  have hp : k < pgLNK p := Nat.lt_of_lt_of_le h (Nat.le_trans (by decide) (Nat.le_add_right 0x100000 _))
  have hk : ∀ o, k ≠ pgLNK p + o := fun o => by omega
  have hup : (s.toUp p).reg k = s.reg k := by
    unfold Chip.toUp Chip.enterUp Chip.setPortState
    rw [Chip.reg_raise_other _ _ _ _ (hk _), Chip.reg_put_other _ _ _ _ _ (hk _)]
    rfl
  unfold Chip.peerCheck
  split
  · split
    · split
      · exact s.reg_goDown_other p 4 h
      · split
        · rfl
        · split
          · exact s.reg_goDown_other p 5 h
          · exact hup
    · rfl
  · rfl

theorem Chip.reg_sendIdentity (s : Chip) (p k : Nat) : (s.sendIdentity p).reg k = s.reg k := by
  unfold Chip.sendIdentity
  split <;> rfl

/-- The first write of DEV_ID gives the device its identity (R479). -/
theorem Chip.devIdWrite_first (s : Chip) (v : Word) (h : s.get pgID fDevIdValid = 0) :
    (s.devIdWrite v).devId = v.toNat % 1024 ∧ (s.devIdWrite v).get pgID fDevIdValid = 1 := by
  have hports : ∀ (u : Chip) (l : List Nat),
      (u.forEach l fun t p => (t.sendIdentity p).peerCheck p).reg (pgID + 0x130) = u.reg (pgID + 0x130) := fun u l =>
    Chip.forEach_keep (fun t : Chip => t.reg (pgID + 0x130)) l _ u fun t p _ =>
      (Chip.reg_peerCheck_other _ p (by decide)).trans (Chip.reg_sendIdentity t p _)
  have hget : ∀ (u : Chip) (l : List Nat) (f : Fld), f.off = 0x130 →
      (u.forEach l fun t p => (t.sendIdentity p).peerCheck p).get pgID f = u.get pgID f := fun u l f hf => by
    rw [Chip.get, hf, hports, Chip.get, hf]
  have hnew : ¬s.bit pgID fDevIdValid = true := by simp [Chip.bit, h]
  unfold Chip.devIdWrite Chip.devId
  rw [if_neg hnew, hget _ _ _ rfl, hget _ _ _ rfl]
  constructor
  · rw [Chip.get_put_apart _ _ _ _ _ _ (by decide)]
    exact Chip.get_put_same _ _ _ _ (by decide)
  · exact Chip.get_put_same _ _ _ _ (by decide)

theorem devIdRegisterWrite_first (hup : s.chip.up = true) (h : OpenPage s.chip pgID 1 0) (hv : s.chip.get pgID fDevIdValid = 0) :
    Runs (.registerWrite (pgID + 0x130) (.w32 v)) s fun t => t.devId = v.toNat % 1024 ∧ t.get pgID fDevIdValid = 1 := by
  have hside : s.chip.sideWrite 1 0 pgID 0x130 v = s.chip.devIdWrite v := rfl
  apply runs_deviceWrite hup (by decide) h
  rw [Chip.mergeReg_readOnly _ v rfl rfl, hside]
  exact s.chip.devIdWrite_first v hv

end DevicePages

/-! ## Widths -/

/-- A register of the vane's ring base takes the word while the vane is disabled (R390). -/
theorem Chip.regWrite_vaneBase {u : Chip} {o : Nat} (v : Word) (ho : o = 0x118 ∨ o = 0x11C) (h : OpenPage u pgVAN 0xA 0)
    (hen : u.bit pgVAN fVanEn = false) :
    (u.regWrite (pgVAN + o) v).reg (pgVAN + o) = v ∧ OnlyReg u (u.regWrite (pgVAN + o) v) (pgVAN + o) := by
  have hfields : u.rwFields 0xA 0 o = [rwAll 0 32] := by
    obtain rfl | rfl := ho <;> simp [Chip.rwFields, hen]
  have hmask : w1cMask 0xA o = 0 := by
    obtain rfl | rfl := ho <;> rfl
  have hreg : plainReg pgVAN o = true := by
    obtain rfl | rfl := ho <;> decide
  have hside : ∀ w : Chip, w.sideWrite 0xA 0 pgVAN o v = w := by
    obtain rfl | rfl := ho <;> exact fun _ => rfl
  rw [Chip.regWrite_plain _ _ hreg, Chip.pageWrite_open h, hside]
  refine ⟨?_, onlyReg_mergeReg u 0xA 0 o _ v⟩
  rw [Chip.reg_written, Chip.reg_mergeReg_same, Chip.mergedWord_fields hmask, hfields]
  exact putField_whole _ v

/-- A page stays open, and its fields as they were, when another register has been written. -/
theorem Chip.bit_onlyReg {s t : Chip} {k page : Nat} {f : Fld} (h : OnlyReg s t k) (hk : page + f.off ≠ k) :
    t.bit page f = s.bit page f := by
  rw [Chip.bit, Chip.get, h.1 _ (by simpa using hk), Chip.bit, Chip.get]

/-- 64 bits to a page are its two registers, the lower offset first (R465). -/
theorem exec_registerWrite_wide {s : State} {off : Nat} (q : BitVec 64) (hup : s.chip.up = true) (hal : off % 8 = 0) :
    exec (.registerWrite off (.w64 q)) s =
      .next ((s.regWrite off (q.extractLsb' 0 32)).regWrite (off + 4) (q.extractLsb' 32 32)) := by
  rw [exec_registerWrite _ _ hup, State.wideWrite, if_neg (by simpa using hal)]

theorem halves_toNat (q : BitVec 64) : (q.extractLsb' 0 32).toNat + (q.extractLsb' 32 32).toNat * 2 ^ 32 = q.toNat := by
  have := q.isLt
  simp only [BitVec.extractLsb'_toNat, Nat.shiftRight_eq_div_pow]
  omega

theorem vaneBaseWide {s : State} (q : BitVec 64) (hup : s.chip.up = true) (hrst : s.chip.rstBusy = false)
    (hfree : s.chip.bit pgVAN fResetActive = false) (hen : s.chip.bit pgVAN fVanEn = false) :
    Runs (.registerWrite (pgVAN + 0x118) (.w64 q)) s fun t =>
      t.get64 pgVAN 0x118 = q.toNat ∧ SameRegs s.chip t [pgVAN + 0x118, pgVAN + 0x11C] ∧ t.resp = [0] ∧
      t.mem = s.chip.mem := by
  have hopen := openPage_device (page := pgVAN) rfl (by decide) hrst hfree
  obtain ⟨hlow, honly⟩ := Chip.regWrite_vaneBase (q.extractLsb' 0 32) (.inl rfl) hopen hen
  have hopen' := openPage_device (page := pgVAN) rfl (by decide) ((Chip.bit_onlyReg honly (by decide)).trans hrst)
    ((Chip.bit_onlyReg honly (by decide)).trans hfree)
  obtain ⟨hhigh, honly'⟩ := Chip.regWrite_vaneBase (q.extractLsb' 32 32) (.inr rfl) hopen'
    ((Chip.bit_onlyReg honly (by decide)).trans hen)
  obtain ⟨hsame, -, hmem, -⟩ := honly
  obtain ⟨hsame', hresp', hmem', -⟩ := honly'
  have hnext : pgVAN + 0x118 + 4 = pgVAN + 0x11C := rfl
  refine ⟨_, exec_registerWrite_wide q hup (by decide), ?_⟩
  rw [State.regWrite_chip (by decide) (by decide), State.regWrite_chip (by decide) (by decide), hnext]
  refine ⟨rfl, rfl, ?_, fun k hk => ?_, hresp', hmem'.trans hmem⟩
  · rw [Chip.get64, hnext, hhigh, hsame' _ (by decide), hlow, halves_toNat]
  · simp only [List.mem_cons, List.not_mem_nil, or_false, not_or] at hk
    exact (hsame' k (by simpa using hk.2)).trans (hsame k (by simpa using hk.1))

/-- A misaligned access, and one of any other width, is an access fault that changes nothing (R465). -/
theorem registerWrite_wide_fault {s : State} {off : Nat} (q : BitVec 64) (hup : s.chip.up = true) (hal : off % 8 ≠ 0) :
    Runs (.registerWrite off (.w64 q)) s fun t => t = { s.chip with resp := [] } :=
  ⟨_, (exec_registerWrite _ _ hup).trans (congrArg _ (if_pos hal)), rfl, rfl, rfl⟩

theorem registerWrite_other_fault {s : State} (off n : Nat) (hup : s.chip.up = true) :
    Runs (.registerWrite off (.other n)) s fun t => t = { s.chip with resp := [] } :=
  ⟨_, exec_registerWrite _ _ hup, rfl, rfl, rfl⟩

/-! ## The statement -/

/-- Settles O51: rule by rule, each clause is the lemma above that names it. -/
theorem registerWrites : Obligations.RegisterWrites := by
  unfold Obligations.RegisterWrites
  refine ⟨fun s c n v hup hrst hc hn => ?_, fun s v hup hrst => ?_⟩
  · refine ⟨fun hp hin hfree => ?_, counterWrite_inReset hup hc hn, counterWrite_absent hup hc hn,
      fun _ => registerWrite_fault hup⟩
    have hopen := openPage_pgSEQ hc hrst hp hin hfree
    exact ⟨counterWrite_quiet hup hc hn hopen, counterWrite_running hup hc hn hopen, errStatWrite hup hc hopen⟩
  · have hopen : ∀ {page t : Nat}, pageType page = some (t, 0) → t < 0x10 → s.chip.bit page fResetActive = false →
        OpenPage s.chip page t 0 := fun ht hlow => openPage_device ht hlow hrst
    refine ⟨fun h => govPeriodWrite hup (hopen rfl (by decide) h), fun h => tmaxWrite hup (hopen rfl (by decide) h),
      fun h => ?_, fun h => wdogCtrlWrite hup (hopen rfl (by decide) h),
      fun h => osOwnsRegisterWrite hup (hopen rfl (by decide) h), fun h => ?_,
      fun h hen q => vaneBaseWide q hup hrst h hen, fun _ hal q => registerWrite_wide_fault q hup hal,
      fun off k => registerWrite_other_fault off k hup⟩
    · have hbeat := hopen (page := pgBEAT) rfl (by decide) h
      exact ⟨beatCounterWrite hup hbeat, lockWrite hup hbeat, errClrWrite hup hbeat, errClrWrite_zero hup hbeat,
        intSetWrite hup hbeat⟩
    · have hid := hopen (page := pgID) rfl (by decide) h
      exact ⟨devIdRegisterWrite_valid hup hid, devIdRegisterWrite_first hup hid⟩

end Sys2Proof.Machine
end

section
/-! The canonical form of what the device stores: single maps, the shape of a proof that a function of the device keeps the
form, and the writes of one map. In the sections that follow, the lemma that a function keeps the form has the function's name. -/

namespace Sys2Proof

open Machine

/-! ## The canonical form of single maps -/

/-- Renaming of values that keeps each key, followed by leaving out the entries that fall to a default that no key changes. -/
theorem canon_map_filter {α : Type} [DecidableEq α] (v : α) (f : Nat × α → Nat × α) (hf : ∀ e, (f e).1 = e.1) (l : List (Nat × α))
    (d : Nat → α) (h : canon d l = true) :
    canon (fun _ => v) ((l.map f).filter fun e => decide (e.2 ≠ v)) = true := by
  induction l with
  | nil => rfl
  | cons e t ih =>
    obtain ⟨k, x⟩ := e
    obtain ⟨-, habove, ht⟩ := (canon_cons d k x t).1 h
    have hmap : sabove k (t.map f) = true := by simpa [sabove, hf] using habove
    rw [List.map_cons, List.filter_cons]
    split
    · rename_i hv
      refine (canon_cons _ (f (k, x)).1 (f (k, x)).2 _).2 ⟨by simpa using hv, ?_, ih ht⟩
      rw [hf]
      exact sabove_filter _ _ _ hmap
    · exact ih ht

theorem mem_nput {l : List Nat} {j k : Nat} : j ∈ nput l k ↔ j = k ∨ j ∈ l := by
  induction l with
  | nil => simp [nput]
  | cons a t ih =>
    unfold nput
    split
    · simp
    · split
      · rename_i hk
        simp [hk]
      · simp [ih, or_left_comm]

/-- A number put into a rising list leaves it rising. -/
theorem pairwise_nput {l : List Nat} (k : Nat) (h : l.Pairwise (· < ·)) : (nput l k).Pairwise (· < ·) := by
  induction l with
  | nil => simp [nput]
  | cons a t ih =>
    obtain ⟨ha, ht⟩ := List.pairwise_cons.1 h
    unfold nput
    split
    · rename_i hk
      refine List.pairwise_cons.2 ⟨fun b hb => ?_, h⟩
      rcases List.mem_cons.1 hb with rfl | hb
      · exact hk
      · exact Nat.lt_trans hk (ha b hb)
    · split
      · exact h
      · refine List.pairwise_cons.2 ⟨fun b hb => ?_, ih ht⟩
        rcases mem_nput.1 hb with rfl | hb
        · omega
        · exact ha b hb

theorem pairwise_foldl_nput (l : List Nat) {k : List Nat} (h : k.Pairwise (· < ·)) : (l.foldl nput k).Pairwise (· < ·) := by
  induction l generalizing k with
  | nil => exact h
  | cons a t ih => exact ih (pairwise_nput a h)

/-! ## The shape of a proof that a function of the device keeps the form

A local value is cleared before a case split on it: else the kernel would evaluate it to compare the goals. -/

variable {s t : Chip}

namespace Canonical

/-- What stands in none of the twelve maps may change. -/
theorem frame {ident net routers turn vaneTab vaneCnt vaneOpen vaneHigh vaneLost edges waitNo fresh beatU pow se sec board resets
    clearing scrubQ bursts postponed wdogHit resp} (h : Canonical s) :
    Canonical { s with ident, net, routers, turn, vaneTab, vaneCnt, vaneOpen, vaneHigh, vaneLost, edges, waitNo, fresh, beatU,
                       pow, se, sec, board, resets, clearing, scrubQ, bursts, postponed, wdogHit, resp } :=
  { h with }

theorem ite {p : Prop} {_ : Decidable p} (hs : Canonical s) (ht : Canonical t) : Canonical (if p then s else t) := by
  split <;> assumption

theorem ite_chip {s t : State} {p : Prop} {_ : Decidable p} (hs : Canonical s.chip) (ht : Canonical t.chip) :
    Canonical (if p then s else t).chip := by
  split <;> assumption

theorem foldl {α : Type} {f : Chip → α → Chip} {l : List α} (h : Canonical s) (hf : ∀ t a, Canonical t → Canonical (f t a)) :
    Canonical (l.foldl f s) := by
  induction l generalizing s with
  | nil => exact h
  | cons a l ih => exact ih (hf s a h)

theorem foldl_snd {α β : Type} {f : α × Chip → β → α × Chip} {l : List β} {a : α} (h : Canonical s)
    (hf : ∀ r b, Canonical r.2 → Canonical (f r b).2) : Canonical (l.foldl f (a, s)).2 := by
  induction l generalizing a s with
  | nil => exact h
  | cons b l ih => exact ih (hf (a, s) b h)

theorem forEach {l : List Nat} {f : Chip → Nat → Chip} (h : Canonical s) (hf : ∀ t a, Canonical t → Canonical (f t a)) :
    Canonical (s.forEach l f) := h.foldl hf

/-! ## The writes of one map -/

theorem setReg {k : Nat} {v : Word} (h : Canonical s) : Canonical (s.setReg k v) := { h with regs := canon_sset _ _ _ _ h.regs }
theorem setCount {page sel v : Nat} (h : Canonical s) : Canonical (s.setCount page sel v) :=
  { h with counts := canon_sset _ _ _ _ h.counts }
theorem clearCounts {page sel n : Nat} (h : Canonical s) : Canonical (s.clearCounts page sel n) :=
  { h with counts := canon_sclear _ _ _ _ h.counts }
theorem setCore {c : Nat} {k : Core} (h : Canonical s) : Canonical (s.setCore c k) :=
  { h with cores := canon_sset _ _ _ _ h.cores }
theorem setSlot {c n : Nat} {v : Slot} (h : Canonical s) : Canonical (s.setSlot c n v) :=
  { h with slots := canon_sset _ _ _ _ h.slots }
theorem setDesc {c n : Nat} {v : IWord} (h : Canonical s) : Canonical (s.setDesc c n v) :=
  { h with descs := canon_sset _ _ _ _ h.descs }
theorem setChan {c n : Nat} {v : ChanEnd} (h : Canonical s) : Canonical (s.setChan c n v) :=
  { h with chans := canon_sset _ _ _ _ h.chans }
theorem setRq {c n : Nat} {v : List QEntry} (h : Canonical s) : Canonical (s.setRq c n v) :=
  { h with rqs := canon_sset _ _ _ _ h.rqs }
theorem setPort {p : Nat} {v : Port} (h : Canonical s) : Canonical (s.setPort p v) :=
  { h with ports := canon_sset _ _ _ _ h.ports }
theorem setLatch {o : Nat} {v : Word} (h : Canonical s) : Canonical (s.setLatch o v) :=
  { h with latch := canon_sset _ _ _ _ h.latch }
theorem setByte {a : Nat} {v : BitVec 8} (h : Canonical s) : Canonical (s.setByte a v) :=
  { h with mem := canon_sset _ _ _ _ h.mem }

/-- New codes leave out bit errors and poison bits and mark further words poisoned. -/
theorem recode {a n : Nat} {bad : Nat → Bool} (h : Canonical s) : Canonical (s.recode a n bad) :=
  { h with errs := canon_filter _ _ _ h.errs, poison := pairwise_foldl_nput _ (h.poison.filter _) }

theorem zero {a n : Nat} (h : Canonical s) : Canonical (s.zero a n) :=
  { h with mem := canon_sclear _ _ _ _ h.mem, errs := canon_filter _ _ _ h.errs, poison := h.poison.filter _ }

theorem putBytes {a : Nat} {l : List (BitVec 8)} (h : Canonical s) : Canonical (s.putBytes a l) := by
  induction l generalizing s a with
  | nil => exact h
  | cons b l ih => exact ih h.setByte

end Canonical
end Sys2Proof
end

section
/-! What keeps the canonical form: registers, counts, memory, records and faults. -/

namespace Sys2Proof

open Machine

namespace Canonical

variable {s t : Chip} {a bitNo c cause code cw i n o off p page pc sel slot srcPage u x : Nat} {l : List (BitVec 8)} {v : Word}

/-! ## Reset -/

theorem reset : Canonical Chip.reset := by constructor <;> decide

/-! ## Registers, counts and errors -/

theorem put {f : Fld} {v : Nat} (h : Canonical s) : Canonical (s.put page f v) := h.setReg
theorem inc {f : Fld} (h : Canonical s) : Canonical (s.inc page f n) := h.put
theorem put64 {v : Nat} (h : Canonical s) : Canonical (s.put64 page off v) := h.setReg.setReg
theorem raise (h : Canonical s) : Canonical (s.raise page bitNo) := h.setReg
theorem count (h : Canonical s) : Canonical (s.count page sel n) := h.setCount
theorem peak (h : Canonical s) : Canonical (s.peak page sel n) := h.setCount
theorem updCore {f : Core → Core} (h : Canonical s) : Canonical (s.updCore c f) := h.setCore
theorem updPort {f : Port → Port} (h : Canonical s) : Canonical (s.updPort p f) := h.setPort
theorem setSeCtx {v : SeCtx} (h : Canonical s) : Canonical (s.setSeCtx x v) := h.frame
theorem updSeCtx {f : SeCtx → SeCtx} (h : Canonical s) : Canonical (s.updSeCtx x f) := h.setSeCtx
theorem netTake {p : Packet} (h : Canonical s) : Canonical (s.netTake p) := h.frame
theorem netKeep {f : Packet → Bool} (h : Canonical s) : Canonical (s.netKeep f) := h.frame
theorem freeWord (h : Canonical s) : Canonical s.freeWord.2 := h.frame

/-! ## Memory -/

theorem store (h : Canonical s) : Canonical (s.store a l) := h.putBytes.recode
theorem storeTagged {l : List TByte} (h : Canonical s) : Canonical (s.storeTagged a l) := h.putBytes.recode
theorem storeNum {v : Nat} (h : Canonical s) : Canonical (s.storeNum a n v) := h.store

/-! ## Cores, ports and contexts -/

theorem putPhys (h : Canonical s) : Canonical (s.putPhys a l) := h.foldl fun _ _ h => h.store
theorem setSt {v : Nat} (h : Canonical s) : Canonical (s.setSt i o n v) := h.storeNum
theorem setStState {v : Nat} (h : Canonical s) : Canonical (s.setStState i v) := h.setSt
theorem report {e : Entry} (h : Canonical s) : Canonical (s.report x e) := h.updSeCtx.frame
theorem physLines (h : Canonical s) : Canonical (s.physLines a n) := h.foldl fun _ _ h => .ite h.count.count h

theorem ringWrite {b : List (BitVec 8)} (h : Canonical s) : Canonical (s.ringWrite b) :=
  .raise <| .put <| .physLines <| .putPhys <| .ite h.putPhys.physLines h

theorem waitRoom (h : Canonical s) : Canonical s.waitRoom := by
  unfold Chip.waitRoom
  split
  · exact h.put
  · exact .ite h.put (.ite h h.put.raise)

theorem drainRecord (h : Canonical s) : Canonical s.drainRecord := by
  unfold Chip.drainRecord
  split
  · exact h
  · exact .ite
        (have hs1 := h.frame.ringWrite.waitRoom
         .ite hs1.raise hs1)
        h.waitRoom

theorem addRecord {r : OutRecord} (h : Canonical s) : Canonical (s.addRecord r) := h.frame.waitRoom

theorem seFault (h : Canonical s) : Canonical (seFault x s) :=
  have hs2 := h.frame.setSeCtx.put.count.addRecord
  .ite hs2.drainRecord hs2

/-! ## Notes, faults and the way of an access -/

theorem logLocal (h : Canonical s) : Canonical (s.logLocal page code cw) :=
  .ite
    (have hs1 := h.setReg
     have hs2 : Canonical _ := .ite hs1.put.put.put64 hs1
     .ite hs2.raise hs2)
    h

theorem logGlobal (h : Canonical s) : Canonical (s.logGlobal page code cw) := .ite h (.ite h.put.put.put.put64.raise h.inc)
theorem logErr (h : Canonical s) : Canonical (s.logErr page code cw) := h.logLocal.logGlobal
theorem absentWrite (h : Canonical s) : Canonical s.absentWrite := h.logErr

theorem toCore {f : Chip → Chip} (h : Canonical s) (hf : ∀ t, Canonical t → Canonical (f t)) : Canonical (s.toCore c f) :=
  .ite h.absentWrite (.ite h (hf _ h))

theorem setCnt (h : Canonical s) : Canonical (s.setCnt c n v) := h.setReg

theorem stopCore (h : Canonical s) : Canonical (s.stopCore c code cause pc) :=
  .ite h (h.setCore.put.put.netKeep.forEach fun _ _ h => .ite h.put h)

theorem contextFault (h : Canonical s) : Canonical (s.contextFault x code srcPage) :=
  .ite (.seFault (h.put.put.put.put64.inc.count.raise.forEach fun _ _ h => h.stopCore)) (.ite h h.inc)

theorem faultCtx (h : Canonical s) : Canonical (s.faultCtx page x code) := h.logErr.contextFault
theorem faultCore (h : Canonical s) : Canonical (s.faultCore c page code cause pc) := h.logErr.stopCore.contextFault
theorem faultSeq (h : Canonical s) : Canonical (s.faultSeq c code cause) := h.faultCore
theorem faultUnit (h : Canonical s) : Canonical (s.faultUnit c u code pc) := h.faultCore
theorem faultSlot (h : Canonical s) : Canonical (s.faultSlot c u code slot pc) := h.put.put.faultUnit
theorem faultNamed (h : Canonical s) : Canonical (s.faultNamed c u code slot pc) := h.put.faultUnit
theorem bumpWait (h : Canonical s) : Canonical s.bumpWait := h.frame
theorem setWait {w : SeqWait} (h : Canonical s) : Canonical (s.setWait c w) := h.updCore.put.bumpWait
theorem endWait (h : Canonical s) : Canonical (s.endWait c) := h.updCore.put

theorem noteCorr (h : Canonical s) : Canonical (s.noteCorr page cw a n) :=
  have hs1 : Canonical _ := .ite h.logErr h
  .ite hs1.logErr hs1

theorem noteMerge (h : Canonical s) : Canonical (s.noteMerge page cw a n) := .ite h (h.foldl fun _ _ h => h.noteCorr)
theorem noteUncorr (h : Canonical s) : Canonical (s.noteUncorr page cw a n) := .ite h.logErr h

end Canonical
end Sys2Proof
end

section
/-! What keeps the canonical form: clocks and voltage, the gather buffer, slots and extents. -/

namespace Sys2Proof

open Machine

namespace Canonical

variable {s : Chip} {a b c cw e entry layer lines mv n o occ pc src u why x : Nat} {cred incomplete newWindow patrol wr : Bool}
  {l : List (BitVec 8)} {uses : List (Nat × Bool)} {r : PowerReadings}

/-! ## Clocks, voltage and the governor -/

theorem setVdd (h : Canonical s) : Canonical (s.setVdd mv) := h.put.put
theorem vddWrite (h : Canonical s) : Canonical (s.vddWrite mv) := .ite h (.ite h.setVdd h.put)
theorem addCharge {w : Nat} (h : Canonical s) : Canonical (s.addCharge b w) := h.frame
theorem deferStart (h : Canonical s) : Canonical (s.deferStart c) := .ite h h.updCore.count

theorem coreStart (h : Canonical s) : Canonical (s.coreStart c) :=
  .ite h <| .ite h.deferStart <| .ite h <| .ite h.addCharge.updCore.put <| h.frame.forEach fun _ _ h => h.deferStart

theorem rampEdge (h : Canonical s) : Canonical s.rampEdge := h.frame.count

/-- The definition is unfolded unapplied: on an applied one the kernel would evaluate the cause of a refusal. -/
theorem requestSwitch {f : Nat} (h : Canonical s) : Canonical (s.requestSwitch f b) := by
  rw [show Chip.requestSwitch = delta% Chip.requestSwitch from rfl]
  beta_reduce
  cases s.switchCause f b with
  | some => exact .ite h.put.raise.count h.put.raise
  | none => exact .put (.frame (.ite h.addCharge h))

theorem emergencySwitch (h : Canonical s) : Canonical s.emergencySwitch := h.frame.put
theorem governorSwitch {f : Nat} (h : Canonical s) : Canonical (s.governorSwitch f) := h.put.put64.requestSwitch

theorem wanted (h : Canonical s) : Canonical s.wanted := by
  unfold Chip.wanted
  split
  · exact .ite h <|
      have hu := h.frame
      .ite hu.governorSwitch hu
  · exact h

theorem switchTaken (h : Canonical s) : Canonical s.switchTaken := by
  unfold Chip.switchTaken
  split
  · exact h
  · exact .ite h <|
      have ht1 := h.frame.put.put64.put.put.raise
      have ht2 : Canonical _ := .ite ht1.count (.ite ht1.count ht1)
      have ht3 : Canonical _ := .ite ht2.count ht2
      .ite ht3.setVdd ht3

theorem switchBeat (h : Canonical s) : Canonical s.switchBeat :=
  have ht := h.switchTaken
  .ite ht.wanted ht

theorem gust {r : Nat} (h : Canonical s) : Canonical (s.gust r newWindow) := .ite h (.ite h.frame.inc.put h.frame.put.raise)

theorem adaptStart (h : Canonical s) : Canonical s.adaptStart := by
  refine h.forEach fun _ _ h => .ite h ?_
  split
  · exact h.updPort.count
  · exact h

theorem takeReadings (h : Canonical s) : Canonical (s.takeReadings r) := h.put.put.put.put.put.forEach fun _ _ h => h.put64

theorem raiseVrt (h : Canonical s) : Canonical s.raiseVrt :=
  have ht := h.frame
  .ite ht.inc.count ht

theorem moveFreq {f : Nat} {t : Nat} (h : Canonical s) : Canonical (s.moveFreq f t) :=
  .ite (.ite h h.governorSwitch.frame) (.ite (.wanted (.frame (.ite h h.setVdd))) h)

theorem governorTick (h : Canonical s) : Canonical (s.governorTick r) :=
  .ite h <|
  have hs2 := h.frame.takeReadings.raiseVrt.put
  have hs3 : Canonical _ := .ite (.count (.ite hs2 hs2.raise)) hs2
  have hs4 : Canonical _ := .adaptStart (.ite hs3.count hs3)
  .ite hs4 <|
  have hs5 := hs4.put
  .moveFreq (.put (.ite hs5.raise hs5))

theorem vddSettled (h : Canonical s) : Canonical s.vddSettled := h.frame.put.wanted

theorem floorRequest (h : Canonical s) : Canonical (s.floorRequest x) :=
  .ite h <|
  have ht := h.frame
  .ite (.ite ht.moveFreq ht) ht

/-! ## The gather buffer -/

theorem gatherPut (h : Canonical s) : Canonical (s.gatherPut c g) := by
  unfold Chip.gatherPut
  extract_lets see put all
  have hsee : Canonical see := .ite h (h.foldl fun _ _ h => h.noteCorr)
  have hput : Canonical put := hsee.foldl fun _ _ h => h.store
  have hall : Canonical all := hput.foldl fun _ _ h => .ite h.store h
  exact hall.updCore

theorem gatherWrite {g : Gather} (h : Canonical s) : Canonical (s.gatherWrite c g why) := h.gatherPut.count
theorem gatherFlush (h : Canonical s) : Canonical (s.gatherFlush c o n) := h.foldl fun _ _ h => h.gatherWrite
theorem gatherAll (h : Canonical s) : Canonical (s.gatherAll c) := h.foldl fun _ _ h => h.gatherWrite
theorem gatherRelease (h : Canonical s) : Canonical (s.gatherRelease c o n) := h.foldl fun _ _ h => h.gatherPut

theorem narrow (h : Canonical s) : Canonical (s.narrow c u o l) := by
  unfold Chip.narrow
  extract_lets
  split
  · exact
      have hs1 := h.updCore
      .ite hs1.gatherWrite hs1
  · refine .updCore (.ite ?_ h)
    split
    · exact h.gatherWrite
    · exact h

theorem unitWrite (h : Canonical s) : Canonical (s.unitWrite c u o l) := h.foldl fun _ _ h => .ite h.updCore.store h.narrow

/-! ## Reports to the vane -/

theorem closeOcc {o : VaneOcc} (h : Canonical s) : Canonical (s.closeOcc o incomplete) :=
  have hs0 := h.frame
  .ite
    (have hs3 := hs0.putPhys.physLines.frame.put.raise.count
     .ite hs3.raise.count hs3)
    hs0.frame.inc.raise.count

theorem closeAll {l : List VaneOcc} (h : Canonical s) : Canonical (s.closeAll l) := h.foldl fun _ _ h => h.closeOcc
theorem closeOld (h : Canonical s) : Canonical (s.closeOld layer occ) := h.closeAll
theorem lostReport (h : Canonical s) : Canonical (s.lostReport entry occ) := .ite h h.frame

theorem engineWrite (h : Canonical s) : Canonical (s.engineWrite c u o l) :=
  have hs1 := h.unitWrite
  .ite hs1 hs1.updCore.count

theorem inject {p : Packet} (h : Canonical s) : Canonical (s.inject p) := h.frame

theorem vaneFull (h : Canonical s) : Canonical (s.vaneFull c n) := by
  unfold Chip.vaneFull
  split
  · exact h
  · exact
      have hs2 := h.updCore.frame
      .ite hs2.count.lostReport hs2.inject

theorem vaneEmpty (h : Canonical s) : Canonical (s.vaneEmpty c n) := h.updCore

/-! ## Slots -/

theorem fillWith {e : List (BitVec 8)} (h : Canonical s) : Canonical (s.fillWith a n e) := .ite h.zero h.store
theorem admitProducer (h : Canonical s) : Canonical (s.admitProducer c n cred) := .setSlot (.ite h.fillWith h)

theorem completeProducer (h : Canonical s) : Canonical (s.completeProducer c n) :=
  .ite
    (have hs1 := h.setSlot
     .ite hs1.gatherRelease.vaneFull hs1)
    h

theorem admitRead (h : Canonical s) : Canonical (s.admitRead c n) := .ite h h.setSlot
theorem completeRead (h : Canonical s) : Canonical (s.completeRead c n) := .ite h h.setSlot
theorem completeUse {u : Nat × Bool} (h : Canonical s) : Canonical (s.completeUse c u) := .ite h.completeProducer h.completeRead

theorem admitUses (h : Canonical s) : Canonical (s.admitUses c uses) :=
  h.foldl fun _ _ h => .ite h (.ite h.admitProducer h.admitRead)

/-! ## Tiles -/

theorem noteRanges {l : List (Nat × Nat)} (h : Canonical s) : Canonical (s.noteRanges c u l) :=
  .ite h (h.foldl fun _ _ h => h.noteCorr)

/-! ## Extents -/

theorem refuse (h : Canonical s) : Canonical (s.refuse a x src wr) := h.setReg.setReg.count.raise
theorem refuseCore (h : Canonical s) : Canonical (s.refuseCore c a pc wr) := h.refuse.faultCore

theorem celWord {w : Nat} (h : Canonical s) : Canonical (s.celWord patrol cw w e) :=
  .ite h.inc.count.logErr (.ite h.inc.count.logErr (.ite h.inc.setReg.setReg.raise.logErr h))

theorem celRead (h : Canonical s) : Canonical (s.celRead cw a n) := h.foldl fun _ _ h => h.foldl fun _ _ h => h.celWord
theorem celMerge (h : Canonical s) : Canonical (s.celMerge cw a n) := .ite h (h.foldl fun _ _ h => .ite h.celWord h)
theorem celCount (h : Canonical s) : Canonical (s.celCount c a wr lines) := h.count.count

end Canonical
end Sys2Proof
end

section
/-! What keeps the canonical form: issue, tokens and the beat unit. -/

namespace Sys2Proof

open Machine

namespace Canonical

variable {s t : Chip} {c cause code i k n p port q scope seq st tick tmo u val : Nat} {load sync : Bool} {eff : Chip → Chip}
  {m : Cmd} {arrival : Int} {asker : Node} {v : Word}

/-! ## Issue -/

theorem setPc (h : Canonical s) : Canonical (s.setPc c i) := h.put
theorem after (h : Canonical s) : Canonical (s.after c i) := h.updCore.setPc
theorem retire (h : Canonical s) : Canonical (s.retire c) := h.endWait.count.after

theorem hold {w : IWord} (h : Canonical s) : Canonical (s.hold c code tmo w val) := by
  unfold Chip.hold
  split
  · exact .ite h h.setWait
  · exact h.setWait

theorem writeCnt (h : Canonical s) : Canonical (s.writeCnt c n v) := h.updCore.setCnt

theorem faultIssue {w : IWord} (h : Canonical s) : Canonical (s.faultIssue c w code cause) :=
  .ite h.put.faultUnit (.ite h.put.faultSeq (.ite h.put.faultUnit h.faultSeq))

theorem issueWord {w : IWord} (h : Canonical s) (heff : ∀ t, Canonical t → Canonical (eff t)) :
    Canonical (s.issueWord c w eff) := by
  refine .ite h.faultSeq <| .ite h.faultSeq <| .ite h.hold <| .ite h.retire <| .ite h.hold ?_
  split
  · exact h.faultIssue
  · exact heff _ h

theorem noteFetch (h : Canonical s) : Canonical (s.noteFetch c) := by
  unfold Chip.noteFetch
  split
  · exact .ite h.noteCorr h
  · exact h.noteCorr

theorem issue {w : IWord} {op : Nat → Bool} (h : Canonical s) (heff : ∀ t, Canonical t → Canonical (eff t)) :
    Canonical (s.issue c w op eff) := by
  refine .ite h ?_
  split
  · exact .faultSeq (.ite h.noteFetch h)
  · exact h.hold
  · exact .ite (h.noteFetch.issueWord heff) h

theorem queueCmd (h : Canonical s) : Canonical (s.queueCmd c u m) := .ite h.hold h.updCore.retire

theorem toUnit {w : IWord} (h : Canonical s) : Canonical (s.toUnit c w) := by
  unfold Chip.toUnit
  extract_lets
  split
  · exact h
  · exact .ite
        (have ht := h.queueCmd
         .ite ht ht.updCore) <|
      .ite h.queueCmd.updCore <| .ite h.queueCmd.updCore h.queueCmd

theorem updCmd (h : Canonical s) : Canonical (s.updCmd c u m) := h.updCore
theorem finish (h : Canonical s) : Canonical (s.finish c u m) := h.updCore
theorem finishNow (h : Canonical s) : Canonical (s.finishNow c u m) := h.updCore.foldl fun _ _ h => h.completeUse
theorem mergeFlags {f : Flags} (h : Canonical s) : Canonical (s.mergeFlags c f) := h.setReg

/-! ## Tokens -/

theorem arrive {p : Packet} (h : Canonical s) (e : s.arrive p = some t) : Canonical t := by
  unfold Chip.arrive at e
  split at e <;> cases e
  exact h.netTake

theorem atCore {p : Packet} {f : Nat → Chip → Chip} (h : Canonical s) (hf : ∀ c t, Canonical t → Canonical (f c t)) :
    Canonical (s.atCore k p f) := by
  refine .ite h ?_
  split
  · exact hf _ _ (h.arrive ‹_›)
  · exact h

theorem sendProbe {n : Node} (h : Canonical s) : Canonical (s.sendProbe c n seq scope) := h.inject.inc
theorem escEnd (h : Canonical s) : Canonical (s.escEnd c) := h.freeWord.inc
theorem probeIn (h : Canonical s) : Canonical (s.probeIn c asker seq scope) := .ite h h.updCore

theorem probeReply (h : Canonical s) : Canonical (s.probeReply c i) := by
  unfold Chip.probeReply
  split
  · exact h
  · exact .ite h <|
      have hs1 := h.updCore.inc
      .ite hs1.put.put hs1.inject

/-! ## Cells -/

theorem noteMisses (h : Canonical s) : Canonical (s.noteMisses p) := h.foldl fun _ _ h => .ite h h.updPort.count

/-! ## The beat unit -/

theorem updBeat {f : BeatUnit → BeatUnit} (h : Canonical s) : Canonical (s.updBeat f) := h.frame

theorem enterBeat (h : Canonical s) : Canonical (s.enterBeat st) :=
  have hs2 : Canonical _ := .put (.ite h.raise h)
  .ite hs2.raise (.ite hs2.count.updBeat (.ite hs2.count.raise.logErr hs2))

theorem beatFault (h : Canonical s) : Canonical (s.beatFault cause) := h.enterBeat.put
theorem calmStep (h : Canonical s) : Canonical s.calmStep := h.updBeat

theorem reacquire (h : Canonical s) : Canonical s.reacquire :=
  have ht := h.enterBeat.updBeat
  .ite ht.calmStep ht

theorem hotEdge (h : Canonical s) : Canonical (s.hotEdge n) := h.put
theorem sendMarker (h : Canonical s) : Canonical (s.sendMarker p) := h.frame.updPort.count
theorem portEdge (h : Canonical s) : Canonical (s.portEdge p) := .ite (.updPort (.ite h.noteMisses.sendMarker h)) h
theorem latchPtp (h : Canonical s) : Canonical s.latchPtp := h.frame.setReg.setReg.setReg.setReg

theorem beatCounts (h : Canonical s) : Canonical s.beatCounts :=
  have hs1 : Canonical _ := .ite h.count (.ite h.count h)
  have hs2 : Canonical _ := .ite hs1.count hs1
  .ite hs2 (.ite hs2 hs2.count.updBeat)

theorem govCounts (h : Canonical s) : Canonical s.govCounts :=
  have hs1 : Canonical _ := .ite h.count h
  .ite hs1.count hs1

theorem edge {t : Nat} (h : Canonical s) : Canonical (s.edge t load) :=
  have hs4 : Canonical _ :=
    .latchPtp <| .govCounts <| .rampEdge <|
    .forEach (.forEach (.updBeat (.put64 (.frame (.ite h.beatCounts h)))) fun _ _ h => h.hotEdge) fun _ _ h => h.portEdge
  .ite hs4.frame.enterBeat.put hs4

theorem ownEdge (h : Canonical s) : Canonical (s.ownEdge tick) := .ite h h.edge
theorem countMiss (h : Canonical s) : Canonical s.countMiss := h.count.updBeat
theorem missedAgain (h : Canonical s) : Canonical s.missedAgain := h.count.enterBeat
theorem offByOne (h : Canonical s) : Canonical (s.offByOne q tick) := .ite h.updBeat h.countMiss

theorem beatrefEdge (h : Canonical s) : Canonical (s.beatrefEdge tick sync) := by
  unfold Chip.beatrefEdge
  extract_lets u per run s1 late
  have hs1 : Canonical s1 := h.updBeat
  refine .ite h (.ite (.ite (.ite hs1.missedAgain ?_) (.ite hs1.missedAgain hs1.edge.updBeat)) (.ite ?_
    (.ite (.ite (.ite hs1.reacquire hs1.reacquire.edge.updBeat) hs1) h)))
  · split
    · exact hs1.updBeat
    · exact hs1
  · split
    · exact .ite h.countMiss.updBeat hs1.offByOne.edge.updBeat
    · exact hs1.edge

theorem referenceMiss (h : Canonical s) : Canonical (s.referenceMiss tick) :=
  .ite h (.ite (.ite (.updBeat (.edge (.ite h h.countMiss))) h) (.ite h.updBeat.missedAgain (.ite h.edge.updBeat.missedAgain h)))

theorem masterHoldover (h : Canonical s) : Canonical s.masterHoldover := .ite h.enterBeat.updBeat h

theorem steer {m : Marker} (h : Canonical s) : Canonical (s.steer port m arrival) := by
  unfold Chip.steer
  extract_lets u lock t per s0
  have hs0 : Canonical s0 := h.put.put
  refine .ite h.beatFault ?_
  split
  · exact .ite hs0.beatFault hs0.put64.updBeat
  · exact
      have hs1 := hs0.put
      .ite hs1.beatFault (.ite hs1 (.updBeat (.ite hs1 hs1.put64)))

theorem markerReceive {m : Marker} (h : Canonical s) : Canonical (s.markerReceive port m arrival) :=
  .ite h <|
  have hs1 := h.count
  .ite hs1 <| .ite (.ite hs1.reacquire.put.steer (.ite hs1.reacquire.put.steer hs1)) <| .ite hs1 <| .ite hs1.steer <|
  .ite hs1.updBeat hs1

theorem beatLock (h : Canonical s) : Canonical s.beatLock := .ite h.enterBeat.updBeat.calmStep h

theorem beatEnable (h : Canonical s) : Canonical s.beatEnable :=
  .ite
    (have ht1 := h.frame.put.enterBeat.put
     .ite ht1.put.put.put ht1)
    h

theorem beatDisable (h : Canonical s) : Canonical s.beatDisable := .ite h.updBeat h
theorem beatStart (h : Canonical s) : Canonical s.beatStart := .ite h.enterBeat.updBeat h
theorem clrFault (h : Canonical s) : Canonical s.clrFault := .ite h.reacquire h

end Canonical
end Sys2Proof
end

section
/-! What keeps the canonical form: the matrix engine and its adjunct unit. -/

namespace Sys2Proof

open Machine

namespace Canonical

variable {s t : Chip} {a c cause col cols entry i j0 n o r0 row rows seg ver : Nat} {m : Cmd} {d : IWord} {bits : List Nat}

/-! ## The matrix engine -/

theorem laOverflow (h : Canonical s) : Canonical (s.laOverflow c m cause row col) :=
  have ht := h.put
  .faultUnit (.ite ht ht.put.put.put)

theorem mtxCounts (h : Canonical s) : Canonical (s.mtxCounts c m rows cols) := h.count.count

theorem mtxFinish (h : Canonical s) : Canonical (s.mtxFinish c m) :=
  have hs1 := h.finish.mergeFlags.count
  .ite hs1.count hs1

theorem chainAccumulate (h : Canonical s) : Canonical (s.chainAccumulate c m) := by
  unfold Chip.chainAccumulate
  extract_lets
  split
  · exact h.noteRanges.faultUnit
  · exact .ite h.laOverflow h.noteRanges.updCore.put.mtxCounts.mtxFinish

theorem writeGroup (h : Canonical s) : Canonical (s.writeGroup c d r0 j0 n bits) := h.foldl fun _ _ h => h.engineWrite
theorem drainEnd (h : Canonical s) : Canonical (s.drainEnd c m) := h.updCore.mtxFinish

theorem drainGroup (h : Canonical s) : Canonical (s.drainGroup c m) := by
  unfold Chip.drainGroup
  extract_lets ex mul ch rows cols g last
  clear_value g
  split
  extract_lets n reads
  split
  · exact h.noteRanges.faultUnit
  · refine .ite h.laOverflow ?_
    split
    · exact h.laOverflow
    · exact
        have hs2 : Canonical _ := .ite h.noteRanges.writeGroup.mtxCounts h.noteRanges.writeGroup
        .ite hs2.drainEnd hs2.updCmd

theorem columnGroupDrain (h : Canonical s) : Canonical (s.columnGroupDrain c) := by
  unfold Chip.columnGroupDrain
  split
  · exact h
  · exact .ite h (.ite h.updCmd h.drainGroup)

theorem readTable (h : Canonical s) : Canonical (s.readTable c d) := .ite h.noteRanges.updCore h

theorem mtxBegin (h : Canonical s) : Canonical (s.mtxBegin c m) := by
  refine .ite (.ite h h.mtxFinish) ?_
  split
  · exact h.noteRanges.faultUnit
  · exact
      have ht := h.readTable
      .ite ht.updCore (.ite ht.chainAccumulate ht)

/-! ## The adjunct unit -/

theorem adjBad (h : Canonical s) : Canonical (s.adjBad c m cause seg entry ver) := h.put.put.put.put.faultUnit

theorem abindBegin (h : Canonical s) : Canonical (s.abindBegin c m) := by
  unfold Chip.abindBegin
  extract_lets
  split
  · exact h.noteRanges.faultUnit
  · exact h.noteRanges.updCore.put.put.finish.count

theorem acorrBegin (h : Canonical s) : Canonical (s.acorrBegin c m) := h.updCmd.updCore
theorem updRead {f : AdjRead → AdjRead} (h : Canonical s) : Canonical (s.updRead c f) := h.updCore

/-- The device that a read of the adjunct unit leaves, whether it goes on or ends, has the form. -/
def OfAdjStep : AdjStep → Prop
  | .ok r => Canonical r.1
  | .error t => Canonical t

namespace OfAdjStep

theorem ok (h : Canonical t) : OfAdjStep (.ok (t, m)) := h

theorem error (h : Canonical t) : OfAdjStep (.error t) := h

theorem bind {r : AdjStep} {f : Chip × Cmd → AdjStep} (h : OfAdjStep r) (hf : ∀ r, Canonical r.1 → OfAdjStep (f r)) :
    OfAdjStep (r >>= f) := by
  cases r with
  | ok r => exact hf r h
  | error t => exact h

theorem ite {p : Prop} {_ : Decidable p} {x y : AdjStep} (hx : OfAdjStep x) (hy : OfAdjStep y) :
    OfAdjStep (if p then x else y) := by
  split <;> assumption

end OfAdjStep

theorem stage {l : List Nat} (h : Canonical s) : OfAdjStep (s.stage c m l) := by
  induction l generalizing s m with
  | nil => exact .ok h.updCmd
  | cons n l ih =>
    unfold Chip.stage
    exact .ite (ih h) (.ite (ih h.admitUses) (.error (.updCmd (.ite h h.bumpWait))))

theorem adjFetch (h : Canonical s) : OfAdjStep (s.adjFetch c m o n) := by
  refine .ite (.ok h) (h.stage.bind fun r hr => ?_)
  split
  · exact .error hr.noteRanges.faultUnit
  · exact .ok hr.noteRanges

theorem adjHead (h : Canonical s) : OfAdjStep (s.adjHead c m rows cols o) := by
  refine .ite (.error h.adjBad) (h.adjFetch.bind fun r hr => ?_)
  extract_lets hd
  clear_value hd
  cases hdrBad hd o with
  | some _ => exact .error hr.adjBad
  | none =>
    refine hr.adjFetch.bind fun q hq => ?_
    extract_lets g
    clear_value g
    cases dirBad g.dir rows cols with
    | some _ => exact .error hq.adjBad
    | none => exact .ok hq.updRead

theorem adjBody {g : Seg} {e : Nat × BitVec 64} (h : Canonical s) : OfAdjStep (s.adjBody c m rows cols i g e) := by
  refine .ite (.ok h) (.ite (.error h.adjBad) (h.adjFetch.bind fun r hr => ?_))
  extract_lets map
  split
  · exact .error hr.adjBad
  · exact hr.adjFetch.bind fun q hq => .ok hq.updRead.count.count

theorem adjEach {α : Type} {f : Chip → Cmd → α → AdjStep} {l : List α} (h : Canonical s)
    (hf : ∀ t n a, Canonical t → OfAdjStep (f t n a)) : OfAdjStep (adjEach f l s m) := by
  induction l generalizing s m with
  | nil => exact h
  | cons a l ih =>
    have ha := hf s m a h
    unfold Machine.adjEach
    split
    · rename_i e
      rw [e] at ha
      exact ih ha
    · rename_i e
      rwa [e] at ha

theorem adjList {x : Cmd} (h : Canonical s) : OfAdjStep (s.adjList c m x) := by
  refine .ite (.ok h) ?_
  split
  · exact .error h.noteRanges.faultUnit
  · extract_lets l
    split
    · exact .error h.adjBad
    · exact .ok h.noteRanges.updRead

theorem adjReads {x : Cmd} {r1 cg : Nat} (h : Canonical s) : OfAdjStep (s.adjReads c m x r0 r1 cg) :=
  h.adjList.bind fun _ ha =>
    OfAdjStep.bind (ha.adjEach fun _ _ _ h => h.adjHead) fun _ hb =>
      hb.adjEach fun _ _ _ h => h.adjEach fun _ _ _ h => h.adjBody

theorem adjReads_ok {x : Cmd} {r1 cg : Nat} {r : Chip × Cmd} (h : Canonical s) (e : s.adjReads c m x r0 r1 cg = .ok r) :
    Canonical r.1 := by
  have hreads := h.adjReads (c := c) (m := m) (x := x) (r0 := r0) (r1 := r1) (cg := cg)
  rwa [e] at hreads

theorem adjReads_error {x : Cmd} {r1 cg : Nat} (h : Canonical s) (e : s.adjReads c m x r0 r1 cg = .error t) : Canonical t := by
  have hreads := h.adjReads (c := c) (m := m) (x := x) (r0 := r0) (r1 := r1) (cg := cg)
  rwa [e] at hreads

theorem adjunctGroupDone (h : Canonical s) : Canonical (s.adjunctGroupDone c) := by
  unfold Chip.adjunctGroupDone
  split
  · refine .ite ?_ h
    extract_lets g ex
    split
    split
    · exact h.adjReads_error ‹_›
    · have hs1 := h.adjReads_ok ‹_›
      exact
        have hs3 := hs1.updCmd.updCore.count.count
        have hs4 : Canonical _ := .ite hs3.finish.mergeFlags.inc.count hs3
        .ite hs4.chainAccumulate hs4
  · exact h

end Canonical
end Sys2Proof
end

section
/-! What keeps the canonical form: channels and the sync engine. -/

namespace Sys2Proof

open Machine

namespace Canonical

variable {s t : Chip} {a c cause code id k kind n off op pad pc pos scope seq u units why : Nat} {tok : BitVec 64} {go : Bool}
  {fin serve : Chip → Chip} {m : Cmd} {ep : Endpoint} {data : List TByte} {reply : Option Packet} {v : Word}

/-! ## Channels -/

theorem chClear (h : Canonical s) : Canonical (s.chClear c n) := h.setReg.setReg.setReg.setReg.setChan
theorem chOpened (h : Canonical s) : Canonical (s.chOpened c n) := h.put.clearCounts
theorem chanFault (h : Canonical s) : Canonical (s.chanFault c m code) := h.put.faultUnit
theorem chanRefused (h : Canonical s) : Canonical (s.chanRefused c m cause) := h.put.chanFault
theorem popHead (h : Canonical s) : Canonical (s.popHead c u) := h.updCore
theorem setHead (h : Canonical s) : Canonical (s.setHead c u m) := h.updCore
theorem toRun (h : Canonical s) : Canonical (s.toRun c u m) := h.popHead.updCore
theorem waitHead (h : Canonical s) : Canonical (s.waitHead c u m why) := .ite h.setHead h.setHead.bumpWait
theorem chanSettle {v : Nat} (h : Canonical s) : Canonical (s.chanSettle c m v) := .ite h.updCore.setCnt h

theorem openRecv (h : Canonical s) : Canonical (s.openRecv c m) :=
  .ite h.chanRefused (.ite h.chanFault (.ite h.chanRefused h.put.put.put.put.put.put.put.setChan.popHead))

theorem openSend (h : Canonical s) : Canonical (s.openSend c m) :=
  .ite h.chanRefused (.ite h.chanFault h.put.put.put.put.inject.waitHead)

theorem openRequest {p : Packet} (h : Canonical s) : Canonical (s.openRequest c p) := by
  unfold Chip.openRequest
  split
  · refine .inject ?_
    split
    · exact h.chOpened
    · exact h
  · exact h

theorem openReply {p : Packet} (h : Canonical s) : Canonical (s.openReply c p) := by
  unfold Chip.openReply
  split
  · split
    · exact h
    · split
      · exact h.chOpened.put.put.setChan.popHead
      · exact h.setHead
      · exact h.chClear.chanRefused
  · exact h

theorem openRetry (h : Canonical s) : Canonical (s.openRetry c id) := by
  unfold Chip.openRetry
  split
  · exact .ite h.inject.setHead h
  · exact h

theorem sendMessage (h : Canonical s) : Canonical (s.sendMessage c n kind tok data) :=
  h.put.put.put.put.setChan.count.count.count.peak.peak.foldl fun _ _ h => h.inject

theorem sendGo (h : Canonical s) : Canonical (s.sendGo c m) :=
  h.admitUses.noteCorr.noteUncorr.count.sendMessage.updCore.setChan.toRun

theorem sendHead (h : Canonical s) : Canonical (s.sendHead c m go) :=
  .ite h.chanFault <| .ite h.chanFault <| .ite h.chanFault <| .ite (.ite h.chanSettle.popHead h.waitHead) <| .ite h <|
  .ite h.waitHead h.sendGo

theorem closeSend (h : Canonical s) : Canonical (s.closeSend c n) := h.inject
theorem closeDone (h : Canonical s) : Canonical (s.closeDone c n) := .ite h.chClear.updCore h

theorem deliveryAck {p : Packet} (h : Canonical s) : Canonical (s.deliveryAck c p) := by
  unfold Chip.deliveryAck
  split
  · extract_lets e
    refine .ite h ?_
    split
    · exact h
    · extract_lets s1 s2
      have hs1 : Canonical s1 := h.setChan
      have hs2 : Canonical s2 := by
        unfold s2
        split
        · exact .ite hs1.finish.chanSettle hs1.finish
        · exact hs1
      exact .ite hs2.closeSend hs2
  · exact h

theorem discard (h : Canonical s) : Canonical (s.discard c n k) := h.inc.count

theorem ringPut {hd : BitVec 128} (h : Canonical s) : Canonical (s.ringPut c n hd off pad pos data) :=
  have hs1 : Canonical _ := .ite h h.store
  .ite hs1 hs1.storeTagged

theorem messageWhole {src : Node} {hd : BitVec 128} (h : Canonical s) : Canonical (s.messageWhole c n src hd off pad data) :=
  .inject <| .peak <| .peak <| .setRq <| .ite h.put h

theorem messageIn {p : Packet} (h : Canonical s) : Canonical (s.messageIn c p) := by
  unfold Chip.messageIn
  split
  · exact .ite (.ite h.discard h) <| .ite h <|
      have hs1 := h.ringPut
      .ite hs1.setChan.messageWhole hs1.setChan
  · exact h

theorem creditReturn {p : Packet} (h : Canonical s) : Canonical (s.creditReturn c p) := by
  unfold Chip.creditReturn
  split
  · exact .ite h.put.put h
  · exact h

theorem recvCredit (h : Canonical s) : Canonical (s.recvCredit c n units) := h.inject

theorem recvGo {e : QEntry} (h : Canonical s) : Canonical (s.recvGo c m e) := by
  unfold Chip.recvGo
  extract_lets n p q len src data uses s1 dst bad s2 s3 ce next s4 s5 s6 units s7
  have hs1 : Canonical s1 := .ite h h.noteCorr.noteUncorr
  have hs3 : Canonical s3 := hs1.admitUses.count.noteMerge.storeTagged.setRq.put
  have hs4 : Canonical s4 := by
    refine .ite hs3 ?_
    split <;> exact hs3.put
  have hs6 : Canonical s6 := hs4.count.count.count.updCore
  have hs7 : Canonical s7 := hs6.recvCredit
  refine .ite ?_ hs7.popHead.chanSettle
  split
  · exact hs7.popHead.chanSettle.count
  · exact hs6.toRun.sendProbe
  · exact hs6.faultUnit

theorem recvHead (h : Canonical s) : Canonical (s.recvHead c m go) := by
  refine .ite h.chanFault ?_
  split
  · exact .ite h.chanFault h.waitHead
  · refine .ite h.chanFault ?_
    extract_lets
    split
    · exact h.faultNamed
    · exact .ite h.waitHead (.ite h.recvGo (.ite h h.setHead))

theorem recvAcquired {src : Node} (h : Canonical s) (e : s.recvAcquired c src seq scope = some t) : Canonical t := by
  unfold Chip.recvAcquired at e
  split at e <;> cases e
  exact h.finish.recvCredit.chanSettle.count.escEnd

theorem closeHead (h : Canonical s) : Canonical (s.closeHead c m) :=
  .ite h.chClear.popHead <|
  .ite
    (have hs1 := h.put.toRun
     .ite hs1.closeSend hs1) <|
  .ite
    (have hs1 := h.setRq.discard
     .popHead (.chClear (.ite hs1.inject hs1)))
    h.chanFault

theorem noticeAway {p : Packet} (h : Canonical s) : Canonical (s.noticeAway p) := by
  unfold Chip.noticeAway
  split
  · exact .ite h.closeDone h
  · exact h

theorem closeNotice {p : Packet} (h : Canonical s) : Canonical (s.closeNotice c p) := by
  unfold Chip.closeNotice
  split
  · extract_lets s1
    have hs1 : Canonical s1 := .ite h.put h
    split
    · exact hs1.closeDone
    · exact hs1
  · exact .ite h.chClear h
  · exact h

theorem chanHead (h : Canonical s) : Canonical (s.chanHead c m go) :=
  .ite (.ite h (.ite h.openRecv h.openSend)) (.ite h.closeHead (.ite h.sendHead h.recvHead))

/-! ## The sync engine -/

theorem syncDone (h : Canonical s) : Canonical (s.syncDone c m) := h.finish
theorem syncWait (h : Canonical s) : Canonical (s.syncWait c m) := .ite h h.updCmd.bumpWait

theorem slset {d : BitVec 64} (h : Canonical s) : Canonical (s.slset c n op d) :=
  .ite h.setSlot.vaneEmpty (.ite h.setSlot.vaneFull h.setSlot)

theorem slsetTry (h : Canonical s) : Canonical (s.slsetTry c m) := .ite h.syncWait (.ite h.faultNamed h.slset.syncDone)

theorem grantNow (h : Canonical s) : Canonical (s.grantNow c m) := by
  unfold Chip.grantNow
  extract_lets
  split
  · exact h
  · exact h.setSlot.updCore.inject.syncDone

theorem creditGranted (h : Canonical s) : Canonical (s.creditGranted c) := by
  unfold Chip.creditGranted
  split
  · exact .ite (.ite h.grantNow h.syncWait) h
  · exact h

theorem creditIn {p : Packet} (h : Canonical s) : Canonical (s.creditIn c p) := by
  unfold Chip.creditIn
  split
  · split
    · exact .ite h h.updCore
    · exact h
  · exact h

theorem revokeIn {p : Packet} (h : Canonical s) : Canonical (s.revokeIn c p) := by
  unfold Chip.revokeIn
  split
  · split
    · exact h.updCore.inject
    · exact h
  · exact h

theorem creditsBack {p : Packet} (h : Canonical s) : Canonical (s.creditsBack c p) := by
  unfold Chip.creditsBack
  split
  · split
    · extract_lets sl s1
      have hs1 : Canonical s1 := h.setSlot.updCore
      split
      · exact .ite hs1.syncDone hs1
      · exact hs1
    · exact h
  · exact h

theorem relDone (h : Canonical s) : Canonical (s.relDone c m) := h.put.updCore.count.syncDone

theorem relSlot (h : Canonical s) : Canonical (s.relSlot c m) :=
  .ite h.faultNamed (.ite (.relDone (.ite h h.admitProducer.completeProducer)) (.ite h h.updCmd.bumpWait))

theorem relFar (h : Canonical s) (hserve : ∀ t, Canonical t → Canonical (serve t)) :
    Canonical (s.relFar c m ep a serve) := by
  refine .ite h.updCmd.inject (.ite ?_ ?_)
  · split
    · exact hserve _ (h.arrive ‹_›).updCmd
    · exact h
  · split
    · exact (h.arrive ‹_›).relDone
    · exact h

theorem relDeliver (h : Canonical s) : Canonical (s.relDeliver c) := by
  unfold Chip.relDeliver
  split
  · exact h
  · refine .ite h ?_
    extract_lets
    split
    · exact h.relSlot
    · exact h.store.relDone
    · split
      · exact h.relFar fun _ h => h.store.inject
      · exact h
    · exact .ite h <| .ite (.ite h.store.celCount.relDone h.refuseCore) <| h.relFar fun _ h =>
        .ite h.store.celCount.inject h.refuseCore
    · exact .ite h.put.faultUnit (.ite h.put.faultUnit (.ite h.sendMessage.relDone h))

theorem acqDone (h : Canonical s) : Canonical (s.acqDone c) := h.updCore.count.retire

theorem acqSee {a : Acq} {t : BitVec 64} (h : Canonical s) : Canonical (s.acqSee c a t pc) := by
  refine .ite h ?_
  split
  · exact h.acqDone
  · exact h.updCore.sendProbe
  · exact h.faultUnit

theorem acqTun (h : Canonical s) : Canonical (s.acqTun c) := by
  unfold Chip.acqTun
  split
  · refine .ite ?_ h
    split
    · exact h.faultUnit
    · exact h.noteCorr.acqSee
  · exact h

theorem pollServe {a : Acq} (h : Canonical s) (hfin : ∀ t, Canonical t → Canonical (fin t)) : Canonical (s.pollServe c a m fin) :=
  .ite h.refuseCore (hfin _ h.celCount.celRead)

theorem pollSee {a : Acq} (h : Canonical s) : Canonical (s.pollSee c a m) := by
  unfold Chip.pollSee
  split
  · exact h.faultUnit
  · exact h.acqSee

theorem acqPoll (h : Canonical s) : Canonical (s.acqPoll c) := by
  unfold Chip.acqPoll
  split
  · refine .ite h (.ite ?_ (.ite h.inject (.ite h (.ite (h.pollServe fun _ h => h.pollSee) ?_))))
    · split
      · exact (h.arrive ‹_›).pollSee
      · exact h
    · split
      · exact (h.arrive ‹_›).pollServe fun _ h => h.inject
      · exact h
  · exact h

theorem acquireComplete (h : Canonical s) : Canonical (s.acquireComplete c reply) := by
  unfold Chip.acquireComplete
  split
  · exact h.acqTun
  · split
    · have ht := h.arrive ‹_›
      refine .ite h (.ite ht.acqDone.escEnd ?_)
      cases hacq : Chip.recvAcquired _ c _ _ _ with
      | none => exact ht
      | some u => exact ht.recvAcquired hacq
    · exact h

theorem syncBegin (h : Canonical s) : Canonical (s.syncBegin c m) := by
  have hs1 : ∀ f, Canonical (s.updCore c f) := fun _ => h.updCore
  refine .ite h.gatherFlush.syncDone (.ite h.syncWait (.ite (.ite (hs1 _).acqPoll (hs1 _).acqTun) (.ite h.slsetTry
    (.ite (.ite h h.syncWait) (.ite ?_ (.ite h.put.syncDone h.syncDone))))))
  split
  · exact h.inject.syncWait
  · exact h.syncDone

theorem acqIssue {w : IWord} (h : Canonical s) : Canonical (s.acqIssue c w) := .ite h.hold h.updCore.setWait

theorem kprobe (h : Canonical s) : Canonical (s.kprobe c v) :=
  have hs1 := h.put.put
  .ite hs1.put.probeIn hs1

theorem flushAll (h : Canonical s) : Canonical (s.flushAll c) := .ite h.gatherAll h

end Canonical
end Sys2Proof
end

section
/-! What keeps the canonical form: the data mover, the sequencer, the vector engine and the engines together. -/

namespace Sys2Proof

open Machine

namespace Canonical

variable {s t : Chip} {a c code e first i id j n nblk o off op slot src sz u : Nat} {m : Cmd} {data : List TByte} {owner : Node}

/-! ## The data mover -/

theorem runWait (h : Canonical s) : Canonical (s.runWait c u m) := .ite h.updCmd h.updCmd.bumpWait
theorem copyRead (h : Canonical s) : Canonical (s.copyRead c o n) := h.noteCorr.noteUncorr.count

theorem nwrAsk (h : Canonical s) : Canonical (s.nwrAsk c m) := by
  unfold Chip.nwrAsk
  split
  · exact h.inject.updCmd
  · exact h

theorem nwrCreditOrWait (h : Canonical s) : Canonical (s.nwrCreditOrWait c m) :=
  .ite h.nwrAsk (.ite h.updCore.nwrAsk (.ite h.runWait h.runWait))

theorem nwrSend (h : Canonical s) : Canonical (s.nwrSend c m owner) :=
  .count (.updCmd (.updCore (h.copyRead.foldl fun _ _ h => h.inject)))

theorem nwrAnswer {p : Packet} (h : Canonical s) : Canonical (s.nwrAnswer c p) := by
  unfold Chip.nwrAnswer
  split
  · split
    · exact h
    · split
      · exact h.nwrSend
      · exact h.updCmd.count
      · exact .faultNamed (.ite h.put h)
  · exact h

theorem nwrRetry (h : Canonical s) : Canonical (s.nwrRetry c id) := by
  unfold Chip.nwrRetry
  split
  · exact .ite h.nwrAsk.count h
  · exact h

theorem nwrAckIn {p : Packet} (h : Canonical s) : Canonical (s.nwrAckIn c p) := by
  unfold Chip.nwrAckIn
  split
  · split
    · exact .ite h.finish.count h
    · exact h
  · exact h

theorem nwrRequestIn {p : Packet} (h : Canonical s) : Canonical (s.nwrRequestIn c p) := by
  unfold Chip.nwrRequestIn
  split
  · split
    · exact h
    · refine .inject ?_
      split
      · exact .updCore (.ite h h.admitProducer.updCore)
      · exact h
  · exact h

theorem accElt {e : List TByte} (h : Canonical s) : Canonical (s.accElt c op a e).1 := h.storeTagged

theorem accAll {l : List (List TByte)} (h : Canonical s) : Canonical (s.accAll c op sz a l).1 := by
  induction l generalizing s a with
  | nil => exact h
  | cons e l ih =>
    unfold Chip.accAll
    exact ih h.accElt

theorem nwrPerform (h : Canonical s) : Canonical (s.nwrPerform c slot off op data) :=
  .ite h.noteMerge.storeTagged <|
  have hs1 := h.noteCorr.accAll.count
  .ite hs1.put.faultNamed hs1

theorem landed (h : Canonical s) : Canonical (s.landed c slot) := h.put.count

theorem nwrDataIn {p : Packet} (h : Canonical s) : Canonical (s.nwrDataIn c p) := by
  unfold Chip.nwrDataIn
  split
  · exact .ite h.inject <|
      have hs1 := h.nwrPerform
      .ite
        (have hs2 := hs1.updCore
         .inject (.ite hs2.landed hs2.completeProducer))
        hs1
  · exact h

theorem tcopy (h : Canonical s) : Canonical (s.tcopy c m) := h.copyRead.noteMerge.storeTagged

theorem moverTry (h : Canonical s) : Canonical (s.moverTry c m) := by
  refine .ite h.nwrCreditOrWait (.ite h ?_)
  extract_lets
  split
  · exact h.faultNamed
  · exact .ite h.runWait <|
      have hs1 := h.admitUses
      .ite hs1.tcopy.finish.count hs1.nwrCreditOrWait

/-! ## The sequencer -/

theorem branch {t : Nat} (h : Canonical s) : Canonical (s.branch c t) := h.endWait.count.count.updCore.setPc

theorem loop (h : Canonical s) : Canonical (s.loop c n e) :=
  have hs1 := h.endWait.count
  .ite hs1.after hs1.updCore.setPc

theorem cld {w : IWord} (h : Canonical s) : Canonical (s.cld c w) := .ite h.hold h.admitUses.updCore.retire

theorem cldComplete (h : Canonical s) : Canonical (s.cldComplete c n) := by
  unfold Chip.cldComplete
  split
  · exact h
  · split
    · exact h.faultCore
    · extract_lets s1 s0 s2
      have hs0 : Canonical s0 := h.updCore.noteCorr
      have hs2 : Canonical s2 := .ite hs0.setCnt hs0
      split
      · exact hs2.completeRead
      · exact hs2

theorem tdload {w : IWord} (h : Canonical s) : Canonical (s.tdload c w) := by
  refine .ite h.hold ?_
  split
  · exact h.noteCorr.faultSeq
  · exact .retire (.foldl (h.admitUses.noteCorr.forEach fun _ _ h => h.setDesc) fun _ _ h => h.completeRead)

theorem setBlocks {v : Nat} (h : Canonical s) : Canonical (s.setBlocks c first n v) := h.updCore

theorem overrun {t : Nat} (h : Canonical s) : Canonical (s.overrun c t) :=
  have hs1 := h.inc
  .put (.put64 (.updCore (.ite hs1 hs1.inc)))

theorem waitb {w : IWord} (h : Canonical s) : Canonical (s.waitb c w) := .ite h.hold h.overrun.retire

theorem fenceMet (h : Canonical s) : Canonical (s.fenceMet c) := by
  unfold Chip.fenceMet
  split
  · exact .ite (.retire (.count (.ite h h.put))) h
  · exact h

theorem endIssue {w : IWord} (h : Canonical s) : Canonical (s.endIssue c w) := h.gatherAll.hold

theorem endComplete (h : Canonical s) : Canonical (s.endComplete c) := by
  unfold Chip.endComplete
  split
  · exact .ite h.gatherAll.endWait.count.put.raise h
  · exact h

theorem overrunLimit (h : Canonical s) : Canonical (s.overrunLimit c) := .ite h.faultCore h
theorem cst {w : IWord} (h : Canonical s) : Canonical (s.cst c w) := h.narrow.retire
theorem cmpcfg {w : IWord} (h : Canonical s) : Canonical (s.cmpcfg c w) := .retire (.ite h.setReg h.setReg.setReg)

theorem ovl {w : IWord} (h : Canonical s) : Canonical (s.ovl c w) := by
  refine .ite h.hold (.ite h.hold ?_)
  split
  · exact h.noteCorr.faultSeq
  · exact
      have hs1 := h.admitUses.noteCorr.foldl fun _ _ h => h.completeRead
      .ite hs1.faultSeq (.ite hs1.faultSeq hs1.setBlocks.updCore.queueCmd)

theorem imageLoad (h : Canonical s) : Canonical (s.imageLoad c first nblk src) := .ite h.setBlocks.updCore.put h
theorem imageSee (h : Canonical s) : Canonical (s.imageSee c src nblk) := h.foldl fun _ _ h => h.celCount.celRead

theorem imageLoadDone (h : Canonical s) : Canonical (s.imageLoadDone c id) := by
  unfold Chip.imageLoadDone
  split
  · exact h
  · exact .ite
        (have hs2 := h.imageSee.storeTagged.setBlocks.updCore
         .ite hs2.put hs2)
        h

theorem cwait {w : IWord} (h : Canonical s) : Canonical (s.cwait c w) := .ite h.retire h.setWait

theorem cwaitComplete (h : Canonical s) : Canonical (s.cwaitComplete c) := by
  unfold Chip.cwaitComplete
  split
  · exact .ite h.retire h
  · exact h

theorem waitarr {w : IWord} (h : Canonical s) : Canonical (s.waitarr c w) := .ite h.retire h.setWait

theorem waitarrMet (h : Canonical s) : Canonical (s.waitarrMet c) := by
  unfold Chip.waitarrMet
  split
  · exact .ite h.retire h
  · exact h

theorem clearCoreCounts (h : Canonical s) : Canonical (s.clearCoreCounts c) :=
  h.clearCounts.clearCounts.clearCounts.clearCounts.clearCounts.clearCounts.clearCounts

theorem start (h : Canonical s) : Canonical (s.start c) :=
  .ite h.setPc.put.put.put.put.put.put.put64.setReg.put.put.put.put.put.clearCoreCounts.updCore h

theorem holdSet (h : Canonical s) : Canonical (s.holdSet c) :=
  have hs1 := h.put
  .ite hs1.updCore.put hs1

theorem holdClear (h : Canonical s) : Canonical (s.holdClear c) :=
  have hs1 := h.put
  .ite hs1.updCore.put hs1

/-! ## Cellar lines -/

theorem askLines (h : Canonical s) : Canonical (s.askLines c m) := .ite h (.updCmd (.ite h h.frame))
theorem celAsk (h : Canonical s) : Canonical (s.celAsk c) := h.foldl fun _ _ h => h.askLines

theorem celTry (h : Canonical s) : Canonical (s.celTry c m) := by
  refine .ite h ?_
  extract_lets
  split
  · exact h.faultNamed
  · exact .ite h.runWait h.admitUses.updCmd.celAsk

theorem lineRequest (h : Canonical s) : Canonical (s.lineRequest c id i) := by
  unfold Chip.lineRequest
  split
  · exact h
  · exact .ite h <|
      have hs0 : Canonical _ := .ite h h.netTake
      .ite hs0.refuseCore <|
      have hs1 := hs0.celCount.updCmd
      have hs2 : Canonical _ := .ite hs1 hs1.count.inject
      .ite hs2 hs2.celRead

theorem linePerform (h : Canonical s) : Canonical (s.linePerform c m i) := by
  refine .ite h.count.count.noteMerge.storeTagged (.ite h.copyRead.count.celMerge.storeTagged ?_)
  split
  · exact h.count.count.storeTagged
  · exact h

theorem lineReturn (h : Canonical s) : Canonical (s.lineReturn c id i) := by
  unfold Chip.lineReturn
  split
  · exact h
  · exact .ite h <|
      have hs1 : Canonical _ := .updCmd (.linePerform (.ite h h.netTake))
      .ite hs1.finishNow.count.celAsk hs1.celAsk

theorem ovlDone (h : Canonical s) : Canonical (s.ovlDone c id) := by
  unfold Chip.ovlDone
  split
  · exact .ite h.setBlocks.updCore.finish.count h
  · exact h

/-! ## The vector engine -/

theorem vecFault {row : List (BitVec 8)} (h : Canonical s) : Canonical (s.vecFault c m row i j code) :=
  .faultUnit (.put (.put (.ite h h.engineWrite)))

theorem vecRows {v : VecMode} (h : Canonical s) : Canonical (s.vecRows t c m v i n).1 := by
  induction n generalizing s m i with
  | zero => exact h
  | succ n ih =>
    unfold Chip.vecRows
    extract_lets bad r bytes s1 s2
    have hs2 : Canonical s2 := .ite h.engineWrite h.engineWrite.engineWrite
    cases bad with
    | some => exact h.vecFault
    | none => exact ih hs2

theorem vecBegin (h : Canonical s) : Canonical (s.vecBegin c m) := by
  unfold Chip.vecBegin
  extract_lets op tables r
  have hr : Canonical r.1 := h.noteRanges.vecRows
  refine .ite h ?_
  clear_value tables r
  split
  · exact h.noteRanges.put.put.faultUnit
  · split
    · exact hr.updCmd
    · exact hr

theorem vecComplete (h : Canonical s) : Canonical (s.vecComplete c) := by
  unfold Chip.vecComplete
  split
  · exact h
  · exact
      have hs1 := h.mergeFlags
      have hs3 : Canonical _ := .count <| .count <| .count <| .ite hs1.engineWrite <| .ite hs1.setReg <| .ite hs1.put.count hs1
      .finishNow (.ite hs3.count (.ite hs3.count (.ite hs3.count.count hs3)))

/-! ## The engines together -/

theorem beginAt (h : Canonical s) : Canonical (s.beginAt c u m) :=
  .ite h.mtxBegin (.ite h.vecBegin (.ite h.abindBegin h.acorrBegin))

theorem admitHead (h : Canonical s) : Canonical (s.admitHead c u m) := by
  unfold Chip.admitHead
  extract_lets
  split
  · exact h.faultNamed
  · exact .ite h.waitHead h.admitUses.toRun.beginAt

theorem pumpUnit (h : Canonical s) : Canonical (s.pumpUnit c u) := by
  refine .ite ?_ ?_
  · split
    · exact .ite h.slsetTry h
    · exact h.toRun.syncBegin
    · exact h
  · split
    · exact h
    · exact .ite h.chanHead (.ite (.ite h.toRun.moverTry h) (.ite (.ite h.toRun.celTry h) (.ite h.admitHead h)))

theorem pumpOnce (h : Canonical s) : Canonical (s.pumpOnce c) := h.foldl fun _ _ h => h.pumpUnit

theorem pumpN (h : Canonical s) : Canonical (s.pumpN c n) := by
  induction n generalizing s with
  | zero => exact h
  | succ n ih =>
    unfold Chip.pumpN
    exact ih h.pumpOnce

theorem pump (h : Canonical s) : Canonical (s.pump c) := by
  unfold Chip.pump
  exact h.pumpN

theorem pumpCredit (h : Canonical s) : Canonical (s.pumpCredit c) := by
  unfold Chip.pumpCredit
  split
  · exact h.moverTry
  · exact h

theorem slotAdmission (h : Canonical s) : Canonical (s.slotAdmission c u id) := by
  unfold Chip.slotAdmission
  extract_lets
  split
  · exact .ite h.chanHead.pump (.ite h.admitHead.pump h)
  · exact .ite h.moverTry.pump (.ite h.celTry.pump (.ite h.adjunctGroupDone.pump (.ite h.relDeliver.pump h)))
  · exact h

theorem queueResume (h : Canonical s) : Canonical (s.queueResume c) := by
  unfold Chip.queueResume
  split
  · exact .ite (.pump (h.issueWord fun _ h => .ite h.ovl (.ite h.acqIssue h.toUnit))) h
  · exact h

theorem producerDone (h : Canonical s) : Canonical (s.producerDone c n) := .ite h.updCore.completeProducer.pump h
theorem countedReadDone (h : Canonical s) : Canonical (s.countedReadDone c n) := .ite h.updCore.completeRead.pump h

theorem waitTimeout (h : Canonical s) : Canonical (s.waitTimeout c) := by
  unfold Chip.waitTimeout
  split
  · exact .ite h.faultSeq h
  · exact h

theorem seqSlotTimeout (h : Canonical s) : Canonical (s.seqSlotTimeout c) := by
  unfold Chip.seqSlotTimeout
  split
  · exact .ite (.faultSeq (.ite h h.put.put)) h
  · exact h

theorem unitTimeout (h : Canonical s) : Canonical (s.unitTimeout c u id) := by
  unfold Chip.unitTimeout
  extract_lets k
  split
  · exact h
  · split
    · exact h
    · refine .ite h ?_
      extract_lets s1
      have hs1 : Canonical s1 := .ite h.put h
      split
      · exact hs1.faultSlot
      · exact hs1.faultUnit

theorem drainTimeout (h : Canonical s) : Canonical (s.drainTimeout c) := by
  unfold Chip.drainTimeout
  split
  · split
    · exact .ite h.faultUnit h
    · exact h
  · exact h

end Canonical
end Sys2Proof
end

section
/-! What keeps the canonical form: links, the mesh and the cellar. -/

namespace Sys2Proof

open Machine

namespace Canonical

variable {s t : Chip} {b bitErrors c cause e idx inPort k len lseq n o off p pg size t1 t2 t3 t4 type x y : Nat} {lost : BitVec 4}
  {agreed full incl machine room static unassigned works : Bool} {l : List (BitVec 8)} {ps : List (Nat × Nat)} {errs : List Nat}
  {pkts : List Packet} {fl : Option Nat} {v : Word}

/-! ## Links -/

theorem setWidth {l : BitVec 4} (h : Canonical s) : Canonical (s.setWidth p l) := h.put.put
theorem setPortState {v : Nat} (h : Canonical s) : Canonical (s.setPortState p v) := h.put
theorem dueBack (h : Canonical s) : Canonical (s.dueBack p unassigned) := h.updPort

theorem transitLeft {x : LinkCell} (h : Canonical s) : Canonical (s.transitLeft x) := by
  unfold Chip.transitLeft
  split
  · exact h.dueBack
  · exact h

theorem emptyPort (h : Canonical s) : Canonical (s.emptyPort p) :=
  .put <| .put <| .put <| .put <| .setPort <|
  .forEach (.foldl (h.foldl fun _ _ h => h.netTake) fun _ _ h => .ite h h.transitLeft) fun _ _ h => .ite h.updPort h

theorem downNotice (h : Canonical s) : Canonical (s.downNotice p n works) := .ite h.updPort h

theorem goDown (h : Canonical s) : Canonical (s.goDown p cause) :=
  h.count.emptyPort.downNotice.setPortState.setWidth.put.logErr.raise

theorem disablePort (h : Canonical s) : Canonical (s.disablePort p) := h.emptyPort.setPortState.setWidth
theorem trainPort (h : Canonical s) : Canonical (s.trainPort p) := .ite h.updPort.setPortState h
theorem toAlign {l : BitVec 4} (h : Canonical s) : Canonical (s.toAlign p l) := h.setPortState.setWidth
theorem enterUp (h : Canonical s) : Canonical (s.enterUp p) := h.setPortState.raise
theorem toUp (h : Canonical s) : Canonical (s.toUp p) := h.updPort.enterUp

theorem peerCheck (h : Canonical s) : Canonical (s.peerCheck p) := by
  refine .ite ?_ h
  split
  · exact .ite h.goDown (.ite h (.ite h.goDown h.toUp))
  · exact h

theorem sendIdentity (h : Canonical s) : Canonical (s.sendIdentity p) := .ite h.updPort h
theorem toMeasure (h : Canonical s) : Canonical (s.toMeasure p) := h.setPortState.put.put.updPort

theorem delayMeasured (h : Canonical s) : Canonical (s.delayMeasured p t1 t2 t3 t4) :=
  have ht := h.put.updPort
  .ite ht.setPortState.sendIdentity.peerCheck (.ite ht h)

theorem offerWidth {l : BitVec 4} (h : Canonical s) : Canonical (s.offerWidth p l agreed) := h.updPort
theorem changeWidth {l : BitVec 4} (h : Canonical s) : Canonical (s.changeWidth p l agreed) := h.offerWidth.updPort.setPortState
theorem degrade {l : BitVec 4} (h : Canonical s) : Canonical (s.degrade p l agreed) := h.changeWidth.count.raise

theorem degradeDone (h : Canonical s) : Canonical (s.degradeDone p) :=
  .ite
    (have hs1 := h.setWidth.put.updPort.enterUp
     .ite hs1.raise hs1)
    h

theorem retry {off : Option (BitVec 4)} (h : Canonical s) : Canonical (s.retry p off) := by
  unfold Chip.retry
  extract_lets n s1 s2 s3
  have hs1 : Canonical s1 := h.put.updPort
  have hs2 : Canonical s2 := .ite hs1.raise hs1
  have hs3 : Canonical s3 := by
    unfold s3
    split
    · exact .ite hs2.updPort hs2
    · exact hs2
  exact .ite hs3.updPort hs3

theorem acknowledge (h : Canonical s) : Canonical (s.acknowledge p lseq incl) :=
  have hs1 := h.updPort.put
  .ite hs1.put hs1

theorem sendNak (h : Canonical s) : Canonical (s.sendNak p) := .ite h h.updPort.count

theorem badIn {why : BadCell} (h : Canonical s) : Canonical (s.badIn p why) := by
  unfold Chip.badIn
  split
  · exact .sendNak (h.count.forEach fun _ _ h => h.count)
  · exact h.count.sendNak
  · exact h.count

theorem sendAck (h : Canonical s) : Canonical (s.sendAck p) := h.updPort

theorem accept {f : Chip → Chip} (h : Canonical s) (hf : ∀ t, Canonical t → Canonical (f t)) : Canonical (s.accept p lseq f) :=
  .ite
    (have ht := h.updPort
     hf _ (.ite ht.sendAck ht))
    h.sendNak

theorem cellIn {hd : BitVec 128} {f : Chip → Chip} (h : Canonical s) (hf : ∀ t, Canonical t → Canonical (f t)) :
    Canonical (s.cellIn p type hd f) := .ite h.badIn (.ite h.badIn (.ite h (h.accept hf)))

theorem firstSend {x : LinkCell} (h : Canonical s) : Canonical (s.firstSend p static x) :=
  have hs2 := h.put.updPort.put
  .ite hs2.count.count hs2

theorem leaveWord (h : Canonical s) : Canonical (s.leaveWord p e) := .ite h (.ite h.logErr h.logErr.count)

theorem sendFlow (h : Canonical s) : Canonical (s.sendFlow p fl errs) := by
  unfold Chip.sendFlow
  extract_lets
  split
  · exact h.updPort.firstSend.count.transitLeft
  · split
    · exact h
    · exact .firstSend (.updPort (.foldl (h.foldl fun _ _ h => h.netTake) fun _ _ h => h.leaveWord))

theorem discardBound (h : Canonical s) : Canonical (s.discardBound p) := .count (h.foldl fun _ _ h => h.netTake)

theorem sendOther (h : Canonical s) : Canonical (s.sendOther p errs) := by
  refine .ite ?_ (.ite h.updPort (.ite h.updPort ?_))
  · split
    · exact h.updPort.count
    · exact h
  · split
    · exact .ite h.updPort.firstSend h.updPort
    · exact .ite h.sendFlow h.updPort

theorem transmit {g : Nat} (h : Canonical s) : Canonical (s.transmit p g room errs) := by
  unfold Chip.transmit
  extract_lets st s0 k fits own
  have hs0 : Canonical s0 := .noteMisses (.ite h h.updPort)
  refine .ite h.discardBound (.ite h (.ite hs0.updPort (.ite hs0.sendOther ?_)))
  clear_value own
  split
  · exact hs0.sendFlow.updPort
  · split
    · exact hs0.sendFlow.updPort.count
    · exact .ite hs0.sendOther hs0

theorem groupEnd {g : Nat} (h : Canonical s) : Canonical (s.groupEnd p g) := by
  unfold Chip.groupEnd
  extract_lets
  split
  · exact .ite h h.updPort.noteMisses
  · exact h

theorem dataIn {hd : BitVec 128} (h : Canonical s) : Canonical (s.dataIn p hd pkts) :=
  have hs1 := h.count
  .ite hs1.frame.dueBack (.ite hs1.count.dueBack hs1.updPort)

theorem widthIn {l : BitVec 4} (h : Canonical s) : Canonical (s.widthIn p l) := .ite h.updPort (.ite h.offerWidth h)

theorem controlIn {k : Control} (h : Canonical s) : Canonical (s.controlIn p k) := by
  unfold Chip.controlIn
  extract_lets s1
  have hs1 : Canonical s1 := h.dueBack
  cases k with
  | echo => exact hs1.updPort
  | echoReply => exact hs1
  | peer => exact hs1.put.put.updPort.peerCheck
  | width => exact .ite (.ite hs1.degrade hs1.changeWidth) (.ite hs1.widthIn hs1)
  | down => exact .ite hs1.goDown hs1

theorem lossOfSignal (h : Canonical s) : Canonical (s.lossOfSignal p lost) := .ite h (.ite h.updPort h.updPort)

theorem trainEn {v : Bool} (h : Canonical s) : Canonical (s.trainEn p v) :=
  have ht := h.put
  .ite ht.trainPort ht.disablePort

theorem restoreGo (h : Canonical s) : Canonical (s.restoreGo p) := .ite h.updPort h.put.raise

/-! ## The cellar and the mesh -/

theorem ownWrite (h : Canonical s) : Canonical (s.ownWrite n e b) :=
  .ite h <|
  have ht := h.put
  .ite ht.frame ht

theorem extOwnWrite (h : Canonical s) : Canonical (s.extOwnWrite n idx v) := .ite h (h.forEach fun _ _ h => h.ownWrite)

theorem coresScrubbed (h : Canonical s) : Canonical (s.coresScrubbed x) := by
  unfold Chip.coresScrubbed
  split
  · exact .ite (h.forEach fun _ _ h => h.updCore) h
  · exact h

theorem scrubDone (h : Canonical s) : Canonical (s.scrubDone n) := by
  unfold Chip.scrubDone
  split
  · exact h
  · exact h.frame.coresScrubbed.zero.put.count.raise

theorem patrolWord {w : Nat} (h : Canonical s) : Canonical (s.patrolWord w) := by
  unfold Chip.patrolWord
  extract_lets e a own bad t
  have ht : Canonical t := .ite h h.celWord
  refine .ite h { ht with errs := canon_filter _ _ _ ht.errs, poison := ?_ }
  show List.Pairwise _ (if bad then _ else _)
  split
  · exact pairwise_nput w ht.poison
  · exact ht.poison

theorem burst {t : Nat} (h : Canonical s) : Canonical (s.burst n t) := .put (.count (.frame (h.foldl fun _ _ h => h.patrolWord)))
theorem setPostponed {t : Nat} (h : Canonical s) : Canonical (s.setPostponed n t k) := h.frame

theorem dueBurst {t : Nat} (h : Canonical s) : Canonical (s.dueBurst n t off) :=
  .ite h.setPostponed.count (h.setPostponed.forEach fun _ _ h => h.burst)

theorem forcedBurst {t : Nat} (h : Canonical s) : Canonical (s.forcedBurst n t) := .ite h h.setPostponed.burst.count.raise
theorem answer (h : Canonical s) : Canonical (s.answer l) := h.frame
theorem accessFault (h : Canonical s) : Canonical s.accessFault := h.answer
theorem written (h : Canonical s) : Canonical s.written := h.answer
theorem refuseRead (h : Canonical s) : Canonical s.refuseRead := h.count.accessFault
theorem celPut (h : Canonical s) : Canonical (s.celPut full l o ps) := h.foldl fun _ _ h => h.count.count.celMerge.store
theorem celSee (h : Canonical s) : Canonical (s.celSee full ps) := h.foldl fun _ _ h => h.count.count.celRead

theorem cellarAccess {k : KilnAccess} (h : Canonical s) : Canonical (s.cellarAccess full machine k) := by
  refine .ite h.accessFault (.ite h.accessFault (.ite h ?_))
  split
  · exact .ite h.refuseRead <|
      have ht := h.celSee
      .ite ht.accessFault ht.answer
  · exact .ite h.accessFault h.celPut.written

theorem tunAccess {k : KilnAccess} (h : Canonical s) : Canonical (s.tunAccess c k) := by
  refine .ite h.accessFault (.ite ?_ ?_)
  · split
    · exact h.answer
    · exact h.absentWrite.written
  · split
    · exact .ite h.refuseRead <|
        have ht := h.noteCorr.noteUncorr
        .ite ht.accessFault ht.answer
    · exact .ite h.accessFault h.noteMerge.store.written

theorem windowWrite {f : Chip → Chip} (h : Canonical s) (hf : ∀ t, Canonical t → Canonical (f t)) :
    Canonical (s.windowWrite c off size len f) :=
  .ite h.accessFault <| .ite h.absentWrite.written <| .ite h.written <| .written <| hf _ h

theorem imWrite {v : BitVec 64} (h : Canonical s) : Canonical (s.imWrite c off size v) := .ite h.store.setBlocks h.put
theorem tdWrite {v : BitVec 64} (h : Canonical s) : Canonical (s.tdWrite c off size v) := .ite h.setDesc h.put

theorem sdWrite {v : BitVec 64} (h : Canonical s) : Canonical (s.sdWrite c off size v) :=
  .ite h.put (.ite h (.ite h.setSlot h.put))

theorem emptyCrossings (h : Canonical s) : Canonical (s.emptyCrossings n) := .ite (h.frame.foldl fun _ _ h => h.netTake) h
theorem setHeld {l : List Packet} (h : Canonical s) : Canonical (s.setHeld k l) := h.frame
theorem headerSeen {p : Packet} (h : Canonical s) : Canonical (s.headerSeen pg bitErrors p) := .ite h.inc.logErr h

theorem passed {p : Packet} (h : Canonical s) : Canonical (s.passed pg o inPort p) :=
  have hs2 := h.count
  .ite hs2.count hs2

theorem putHeld {p : Packet} (h : Canonical s) : Canonical (s.putHeld k p) :=
  have ht := h.setHeld
  .ite ht.put ht

theorem enterMesh {p : Packet} (h : Canonical s) : Canonical (s.enterMesh x y inPort p) := .ite h.putHeld h

theorem hopOther {p : Packet} (h : Canonical s) : Canonical (s.hopOther x y inPort p bitErrors) :=
  .ite h (.ite h.inc.logErr h.frame.put.headerSeen.passed)

theorem hop {p : Packet} (h : Canonical s) : Canonical (s.hop x y inPort p bitErrors) :=
  .ite h <| .ite h.hopOther <| .ite h <|
  have ht : Canonical _ := .ite h h.enterMesh
  .ite ht (.ite ht.netTake.inc.logErr (.ite ht ht.setHeld.putHeld.frame.headerSeen.passed))

end Canonical
end Sys2Proof
end

section
/-! What keeps the canonical form: the stream table. -/

namespace Sys2Proof

open Machine

namespace Canonical

variable {s t : Chip} {a e handle i n op slot status x : Nat} {wr : Bool} {l : List (BitVec 8)} {old : SeCtx} {w15 : Word}

/-! ## The stream table -/

theorem seCount (h : Canonical s) : Canonical (s.seCount x e n) := h.count

theorem ctxEnable (h : Canonical s) : Canonical (s.ctxEnable x) :=
  have ht := h.clearCounts
  .ite ht (.ite ht.put ht.put.put.updSeCtx)

theorem seRefuse (h : Canonical s) : Canonical (s.seRefuse x a wr) := .ite h.refuse.faultCtx h.faultCtx
theorem seLines (h : Canonical s) : Canonical (s.seLines a n wr) := h.foldl fun _ _ h => h.count.count
theorem seAsk (h : Canonical s) : Canonical (s.seAsk x a n) := .ite h.updSeCtx h
theorem seSee (h : Canonical s) : Canonical (s.seSee x a n) := h.seAsk.seLines.celRead
theorem noteRefused (h : Canonical s) : Canonical (s.noteRefused x a wr) := h.updSeCtx

theorem seRead (h : Canonical s) : Canonical (s.seRead x a n) := by
  unfold Chip.seRead
  split
  · exact h.noteRefused
  · exact h.seSee

theorem seWrite (h : Canonical s) : Canonical (s.seWrite x a l) := by
  unfold Chip.seWrite
  split
  · exact h.noteRefused
  · exact h.seAsk.store.seLines

theorem seeEntry (h : Canonical s) : Canonical (s.seeEntry x i) := h.seSee
theorem putEntry (h : Canonical s) : Canonical (s.putEntry i) := h.seLines
theorem seePt (h : Canonical s) : Canonical (s.seePt x slot) := h.seRead
theorem keepLists (h : Canonical s) : Canonical (s.keepLists x old) := .ite h h.seWrite.frame

theorem settle (h : Canonical s) : Canonical (s.settle x) := by
  unfold Chip.settle
  split
  · exact h.updSeCtx.seRefuse
  · exact h

theorem seTry {f : Chip → Chip} (h : Canonical s) (hf : ∀ t, Canonical t → Canonical (f t)) (e : s.seTry x f = some t) :
    Canonical t := by
  unfold Chip.seTry at e
  extract_lets u at e
  split at e <;> cases e
  exact (hf _ h.updSeCtx).keepLists.settle

theorem seOp {f : Chip → Chip} (h : Canonical s) (hf : ∀ t, Canonical t → Canonical (f t)) : Canonical (s.seOp x f) := by
  unfold Chip.seOp
  cases htry : s.seTry x f with
  | none => exact h
  | some t => exact h.seTry hf htry

theorem takePage (h : Canonical s) : Canonical (s.takePage x).2 := by
  unfold Chip.takePage
  extract_lets k
  split <;> exact h.setSeCtx

theorem setVers {l : List (Nat × AdjVersion)} (h : Canonical s) : Canonical (s.setVers l) := h.frame
theorem setLatest {v : Option Nat} (h : Canonical s) : Canonical (s.setLatest x a v) := h.frame
theorem sweepVersion {v : Nat} (h : Canonical s) : Canonical (s.sweepVersion v) := .ite h.setVers.report h
theorem bindVersion {v : Nat} (h : Canonical s) : Canonical (s.bindVersion v) := h.setVers
theorem unbindVersion {v : Nat} (h : Canonical s) : Canonical (s.unbindVersion v) := h.setVers.sweepVersion

theorem freeStream (h : Canonical s) : Canonical (s.freeStream x i) := by
  unfold Chip.freeStream
  extract_lets slot t pages ver s0 k s1 _ s2 s3
  have hs1 : Canonical s1 := h.seeEntry.seePt.putEntry.setSeCtx
  have hs2 : Canonical s2 := hs1.frame
  have hs3 : Canonical s3 := hs2.setSt.setSt
  clear_value ver s3
  cases ver with
  | some => exact hs3.unbindVersion
  | none => exact hs3

theorem preempt (h : Canonical s) : Canonical (s.preempt x i) := h.report.freeStream.seCount
theorem closeStream (h : Canonical s) : Canonical (s.closeStream x i) := h.report.freeStream

theorem takeCmd {f : BitVec 512 → Chip → Chip} (h : Canonical s) (hf : ∀ a t, Canonical t → Canonical (f a t)) :
    Canonical (s.takeCmd x op f) := by
  unfold Chip.takeCmd
  split
  · exact h
  · exact .ite (h.seOp fun _ h => hf _ _ h.updSeCtx.seCount) h

theorem submit (h : Canonical s) : Canonical (s.submit x w15) :=
  have hs1 := h.setReg
  .ite hs1.updSeCtx hs1.put.raise.report

theorem refuseCmd {m : BitVec 512} (h : Canonical s) : Canonical (s.refuseCmd x handle status m) := h.report

theorem makeRoom (h : Canonical s) : Canonical (s.makeRoom x n) := by
  induction n generalizing s with
  | zero => exact h
  | succ n ih =>
    unfold Chip.makeRoom
    refine .ite ?_ h
    split
    · exact ih h.preempt
    · exact h

theorem takeEntry (h : Canonical s) : Canonical s.takeEntry.2 := by
  unfold Chip.takeEntry
  split <;> exact h.frame

theorem admitStream {ver : Option Nat} {m : BitVec 512} (h : Canonical s) : Canonical (s.admitStream x ver m) := by
  unfold Chip.admitStream
  extract_lets k slot len e s1 s2 b s3 s4
  have hs3 : Canonical s3 := h.takeEntry.setSeCtx.seWrite.seeEntry.putEntry.store.store
  have hs4 : Canonical s4 := by
    unfold s4
    split
    · exact hs3.bindVersion
    · exact hs3
  split
  · exact h.noteRefused
  · exact hs4.report

theorem admitCmd {m : BitVec 512} (h : Canonical s) : Canonical (s.admitCmd x m) :=
  .ite h.refuseCmd.seCount <| .ite h.refuseCmd.seCount <|
  have ht : Canonical _ := .ite h.makeRoom h
  .ite ht.refuseCmd.seCount (.ite ht.refuseCmd.seCount ht.admitStream)

theorem seeNamed {hd : Nat} (h : Canonical s) : Canonical (s.seeNamed x hd) := .ite h.seeEntry h

theorem appendCmd {m : BitVec 512} (h : Canonical s) : Canonical (s.appendCmd x m) := by
  unfold Chip.appendCmd
  extract_lets hd t
  have ht : Canonical t := h.seeNamed
  refine .ite ht.refuseCmd ?_
  split
  · exact ht.refuseCmd
  · exact .ite ht.refuseCmd <|
      have hs1 := ht.putEntry.setStState.setSt.setSt.setSt.setSt
      .ite hs1 hs1.setSt

theorem closeCmd {m : BitVec 512} (h : Canonical s) : Canonical (s.closeCmd x m) := by
  unfold Chip.closeCmd
  extract_lets t
  have ht : Canonical t := h.seeNamed
  split
  · exact ht.refuseCmd
  · exact .ite ht.frame ht.closeStream

theorem adjloadCmd {m : BitVec 512} (h : Canonical s) : Canonical (s.adjloadCmd x m) := by
  unfold Chip.adjloadCmd
  extract_lets a adj _ reject s1 v old s2 _ s3
  have hs1 : Canonical s1 := h.seSee
  have hs2 : Canonical s2 := hs1.setVers.setLatest
  have hs3 : Canonical s3 := hs2.report
  refine .ite h.report (.ite hs1.report (.ite hs1.report ?_))
  clear_value old
  split
  · exact hs3.sweepVersion
  · exact hs3

theorem adjdropCmd {m : BitVec 512} (h : Canonical s) : Canonical (s.adjdropCmd x m) := by
  unfold Chip.adjdropCmd
  split
  · exact h.setLatest.sweepVersion
  · exact h

theorem unstep (h : Canonical s) : Canonical (s.unstep x) := h.forEach fun _ _ h => h.putEntry.setStState

theorem releaseStreams (h : Canonical s) : Canonical (s.releaseStreams x) :=
  .setSeCtx (.frame (h.forEach fun _ _ h => h.freeStream))

end Canonical
end Sys2Proof
end

section
/-! What keeps the canonical form: resets, security commands, boot and the board. -/

namespace Sys2Proof

open Machine

namespace Canonical

variable {s t : Chip} {c cause code i n off p page scope u : Nat} {nonce : BitVec 256} {sn : BitVec 32} {mask : BitVec 8}
  {last whole : Bool} {header key l sig : List (BitVec 8)} {otp : List Nat} {get : Nat → Nat → List (BitVec 8)}
  {leaf : Option Nat} {absorbs : ResetTarget → Bool}

/-! ## Resets -/

theorem resetPage {keep : Nat → Bool} (h : Canonical s) : Canonical (s.resetPage page keep) := by
  unfold Chip.resetPage
  extract_lets lock stays t
  have ht : Canonical t := { h with regs := canon_filter _ _ _ h.regs }
  exact ht.setReg.put

theorem dropCredits (h : Canonical s) : Canonical (s.dropCredits c) := by
  unfold Chip.dropCredits
  extract_lets t v u
  have ht : Canonical t := h.forEach fun u d hu => by
    split
    · exact hu.updCore
    · exact hu
  have hv : Canonical v := ht.netKeep
  exact { hv with slots := canon_map_filter _ _ (fun e => by split <;> rfl) _ _ hv.slots }

theorem dropLines (h : Canonical s) : Canonical (s.dropLines c) := h.netKeep

theorem engineReset (h : Canonical s) : Canonical (s.engineReset c u) := by
  unfold Chip.engineReset
  extract_lets s1 t
  have hs1 : Canonical s1 := h.updCore.resetPage
  have ht : Canonical t := { hs1 with chans := canon_filter _ _ _ hs1.chans, rqs := canon_filter _ _ _ hs1.rqs }
  exact .ite hs1.updCore (.ite hs1.updCore (.ite hs1.updCore.dropLines (.ite hs1.updCore
    (.ite hs1.updCore.dropCredits.dropLines ht.updCore))))

theorem resetSlots (h : Canonical s) : Canonical (s.resetSlots c) := by
  unfold Chip.resetSlots
  extract_lets _ l t
  have ht : Canonical t := { h with slots := canon_map_filter _ _ (fun e => by split <;> rfl) _ _ h.slots }
  exact ht.updCore

theorem dropReports {l : List Packet} (h : Canonical s) : Canonical (s.dropReports l) := by
  refine h.foldl fun _ _ h => ?_
  split
  · exact h.lostReport
  · exact h

theorem coreReset (h : Canonical s) : Canonical (s.coreReset c) :=
  .dropReports <| .resetSlots <| .netKeep <| .setCore <| .resetPage <| h.forEach fun _ _ h => h.engineReset

theorem kill (h : Canonical s) : Canonical (s.kill c page) := .ite h.logErr.contextFault h
theorem beginReset {t : ResetTarget} (h : Canonical s) : Canonical (s.beginReset t absorbs) := h.frame

theorem engineFreset (h : Canonical s) : Canonical (s.engineFreset c u) :=
  .ite h.absentWrite (.ite h h.kill.engineReset.put.beginReset)

theorem coreFreset (h : Canonical s) : Canonical (s.coreFreset c) := .ite h.absentWrite (.ite h h.kill.coreReset.beginReset)

theorem clusterFreset (h : Canonical s) : Canonical (s.clusterFreset n) :=
  .ite h <| .beginReset <| .put <| .resetPage <| .emptyCrossings <| h.foldl fun _ _ h => h.kill.coreReset

theorem portFreset (h : Canonical s) : Canonical (s.portFreset p) :=
  h.emptyPort.clearCounts.resetPage.setPort.downNotice.put.put.count.logErr.raise.put.beginReset

theorem streamReset (h : Canonical s) : Canonical s.streamReset :=
  .forEach (.put (.resetPage (.frame (h.forEach fun _ _ h => h.putEntry.setSt.setSt)))) fun _ _ h => h.resetPage

theorem vaneReset (h : Canonical s) : Canonical s.vaneReset := .resetPage (h.netKeep.frame.forEach fun _ _ h => .ite h h.updCore)

theorem unitReset {t : ResetTarget} {f : Chip → Chip} (h : Canonical s) (hf : ∀ t, Canonical t → Canonical (f t)) :
    Canonical (s.unitReset page t f) := .ite h (.beginReset (.put (hf _ h)))

theorem fresetDone {t : ResetTarget} (h : Canonical s) : Canonical (s.fresetDone t) := by
  refine .ite h ?_
  extract_lets s1 off
  have hs1 : Canonical s1 := h.frame
  cases t with
  | engine | streamEngine | vane | mgmt | kiln => exact hs1.put
  | core => exact hs1.updCore
  | cluster => exact .put (hs1.foldl fun _ _ h => h.updCore)
  | port => exact hs1.put.trainPort

theorem afterReset {page byte : Nat → Bool} (h : Canonical s) : Canonical (s.afterReset page byte) :=
  { reset with
    mem := canon_filter _ _ _ h.mem, regs := canon_filter _ _ _ h.regs, counts := canon_filter _ _ _ h.counts,
    poison := h.poison.filter _, errs := canon_filter _ _ _ h.errs, latch := canon_filter _ _ _ h.latch }

theorem resetVdd (h : Canonical s) : Canonical s.resetVdd := .ite h h.put
theorem clearDevId (h : Canonical s) : Canonical s.clearDevId := h.put.put
theorem portsLost (h : Canonical s) : Canonical s.portsLost := h.forEach fun _ _ h => h.logErr
theorem portsDown (h : Canonical s) : Canonical s.portsDown := .ite h (h.forEach fun _ _ h => h.setPortState)

theorem resetKeepKiln (h : Canonical s) : Canonical s.resetKeepKiln :=
  h.portsLost.afterReset.resetVdd.clearDevId.put.put.put.put.portsDown

theorem resetAll (h : Canonical s) : Canonical (s.resetAll cause) := h.afterReset.resetVdd.frame.put.put
theorem powerOff (h : Canonical s) : Canonical s.powerOff := h.afterReset.resetVdd.frame
theorem mgmtReset (h : Canonical s) : Canonical s.mgmtReset := .put (.resetPage (.ite h.raise h))

theorem chipReset {key : BitVec 8} {f : Chip → Chip} (h : Canonical s) (hf : ∀ t, Canonical t → Canonical (f t)) :
    Canonical (s.chipReset key f) := .ite h.put (hf _ h.inc)

theorem leaveReset (h : Canonical s) : Canonical (s.leaveReset p) := .trainPort (.ite h.setPortState h)

/-! ## The security commands -/

theorem setMeas (h : Canonical s) : Canonical (s.setMeas i l) := h.forEach fun _ _ h => h.setReg

theorem secGo {s : State} {f : State → Nat × State} (h : Canonical s.chip) (hf : Canonical (f s).2.chip) :
    Canonical (s.secGo f).chip := ite_chip h (ite_chip h.put hf.put.frame)

theorem quote (h : Canonical s) : Canonical (s.quote nonce).2 := by
  unfold Chip.quote
  split
  · exact h
  · split
    · exact h.frame.answer
    · split <;> exact h

theorem certify (h : Canonical s) : Canonical s.certify.2 := by
  unfold Chip.certify
  split
  · exact h
  · split
    · exact h
    · exact h.answer

theorem extend {d : BitVec 256} (h : Canonical s) : Canonical (s.extend i d).2 := by
  unfold Chip.extend
  split
  · exact h.setMeas
  · exact h

theorem challenge (h : Canonical s) : Canonical s.challenge.2 := h.frame.answer

theorem unlock (h : Canonical s) : Canonical (s.unlock otp key scope sig).2 := by
  unfold Chip.unlock
  extract_lets
  split
  · exact h.frame
  · split
    · extract_lets
      split
      · exact h.frame.put.frame
      · exact h.frame
    · exact h.frame

theorem updateBegin {s : State} (h : Canonical s.chip) : Canonical (s.updateBegin header).2.chip := by
  unfold State.updateBegin
  split
  · exact h.frame
  · exact h

theorem updateEnd (h : Canonical s) : Canonical s.updateEnd.2 := by
  unfold Chip.updateEnd
  split
  · exact h.frame
  · exact h

/-- Every command that the mailbox buffer can spell keeps the form. -/
theorem mailCommand {s : State} {f : State → Nat × State} (h : Canonical s.chip) (e : t.mailCommand code = some f) :
    Canonical (f s).2.chip := by
  unfold Chip.mailCommand at e
  extract_lets at e
  split at e <;> cases e
  · exact h.quote
  · exact h.certify
  · exact h.extend
  · exact h.challenge
  · exact h
  · exact h.unlock
  · exact h
  · exact h
  · exact h
  · exact h
  · exact h
  · exact h.updateBegin
  · exact h.updateEnd

theorem secWrite {s : State} (h : Canonical s.chip) : Canonical (s.secWrite code).chip := by
  unfold State.secWrite
  split
  · exact h.secGo (h.mailCommand ‹_›)
  · exact ite_chip h.put h

theorem secEnd (h : Canonical s) : Canonical s.secEnd := by
  unfold Chip.secEnd
  split
  · exact h
  · exact h.frame.put.put.raise

theorem certifyKey (h : Canonical s) : Canonical s.certifyKey := by
  unfold Chip.certifyKey
  split
  · exact h
  · exact .ite h h.frame.put

/-! ## Boot and watchdogs -/

theorem romFail (h : Canonical s) : Canonical (s.romFail code) := h.put.put.put

theorem startImage (h : Canonical s) : Canonical (s.startImage otp get) :=
  have hs1 := h.store.setMeas.setMeas
  .frame (.put (.put (.ite hs1.put hs1.put)))

theorem sense (h : Canonical s) : Canonical (s.sense otp leaf) := by
  unfold Chip.sense
  extract_lets s1 s2 _ s3
  have hs2 : Canonical s2 := h.put.put.put.put.put
  have hs3 : Canonical s3 := hs2.frame
  split
  · exact hs3.put.put
  · exact hs3

theorem rom {s : State} {b : BootInputs} (h : Canonical s.chip) : Canonical (s.rom b whole).chip := by
  unfold State.rom
  extract_lets leaf otp c0 _ c1 c2 c3
  have hc1 : Canonical c1 := h.put.frame
  have hc2 : Canonical c2 := hc1.sense.put
  have hc3 : Canonical c3 := .ite hc2.put hc2
  clear_value c3 otp
  dsimp only
  refine .ite hc3.romFail (.ite hc3.put.put (.ite hc3.romFail ?_))
  split
  · exact hc3.romFail
  · exact hc3.startImage

theorem kilnRestart {s : State} {b : BootInputs} (h : Canonical s.chip) : Canonical (s.kilnRestart b).chip := by
  unfold State.kilnRestart
  extract_lets _ _ c
  have hc : Canonical c := { h with regs := canon_filter _ _ _ h.regs, latch := canon_filter _ _ _ h.latch }
  exact ite_chip h (rom hc.put.put)

theorem wdogKick (h : Canonical s) : Canonical (s.wdogKick mask) := h.frame
theorem wdogTrip (h : Canonical s) : Canonical s.wdogTrip := h.logErr.put.put.frame

theorem recover (h : Canonical s) : Canonical (s.recover otp) := by
  unfold Chip.recover
  split
  · exact h.romFail.frame
  · exact
      have ht := h.startImage
      .ite ht (ht.zero.foldl fun _ _ h => h.store)

theorem recoveryBlock {data : List (BitVec 8)} (h : Canonical s) : Canonical (s.recoveryBlock otp sn off data last) :=
  .ite h <| .ite h.frame.answer <|
  have ht := h.frame.answer
  .ite ht.recover ht

/-! ## The board -/

theorem updBoard {f : Board → Board} (h : Canonical s) : Canonical (s.updBoard f) := h.frame
theorem raiseRails (h : Canonical s) : Canonical s.raiseRails := .ite h.updBoard h
theorem inputOn {slot : BitVec 4} (h : Canonical s) : Canonical (s.inputOn slot) := .ite h h.updBoard.raiseRails
theorem inputOff (h : Canonical s) : Canonical s.inputOff := .ite h.powerOff.updBoard h

theorem pwrOff (h : Canonical s) : Canonical s.pwrOff :=
  have hs0 := h.updBoard
  .ite (.updBoard (.ite hs0 hs0.powerOff)) hs0

theorem smbNote (h : Canonical s) : Canonical s.smbNote := .ite h.updBoard h
theorem alertAnswer (h : Canonical s) : Canonical s.alertAnswer := .ite h.frame.answer.updBoard h.answer

end Canonical
end Sys2Proof
end

section
/-! What keeps the canonical form: the steps of a context. -/

namespace Sys2Proof

open Machine

namespace Canonical

variable {s : Chip} {cause i k n slot x : Nat} {subs : List (Nat × Nat × List Nat)} {v : Word}

/-! ## Steps of a context -/

theorem pullZero {f : Form} (h : Canonical s) : Canonical (s.pullZero x f).2 := h.setSeCtx

theorem preemptFor {a : Form × Chip} (h : Canonical a.2) : Canonical (Chip.preemptFor x i n a).2 := by
  induction n generalizing a with
  | zero => exact h
  | succ n ih =>
    unfold Chip.preemptFor
    split
    · exact h
    · split
      · exact ih h.preempt.pullZero
      · exact h

theorem mapPage (h : Canonical s) : Canonical (s.mapPage x slot k) := h.takePage.seWrite

theorem giveTree (h : Canonical s) : Canonical (s.giveTree x i) :=
  .setSt (.updSeCtx (.foldl_snd h fun _ _ h => h.takePage))

theorem moveVersion (h : Canonical s) : Canonical (s.moveVersion x i) := by
  unfold Chip.moveVersion
  split
  · exact .ite h h.bindVersion.setSt.unbindVersion.seCount
  · exact h

theorem place {f : Form} (h : Canonical s) : Canonical (s.place x i f subs).2 :=
  have hs1 := h.forEach fun _ _ h => h.mapPage
  have hs2 : Canonical _ := .ite hs1.giveTree hs1
  have hs3 := hs2.putEntry.moveVersion.setStState
  .frame (.ite hs3.seCount hs3)

theorem delay {f : Form} (h : Canonical s) : Canonical (s.delay x i cause f).2 := by
  unfold Chip.delay
  extract_lets
  split
  · exact h.frame.seCount.frame
  · exact h.frame.seCount

theorem formOne {first : List Nat} {a : Form × Chip} (h : Canonical a.2) : Canonical (Chip.formOne x first a i).2 := by
  unfold Chip.formOne
  extract_lets b f s c d
  have hs : Canonical s := h.seeEntry
  have hc : Canonical c.2 := hs.seePt
  have hd : Canonical d.2 := by
    unfold d
    split
    · exact hc.preemptFor
    · exact hc
  split
  · exact h
  split
  · exact hs
  split
  · exact hs.delay
  split
  · exact hs.delay
  split
  · exact hs.delay
  split
  · exact hc
  split
  · exact hd.delay
  · exact hd.place

theorem formStep (h : Canonical s) : Canonical (s.formStep x) := by
  unfold Chip.formStep
  extract_lets step o a f s1 d body rs denied st s2 s3 s4 s5 s6
  have hs1 : Canonical s1 := .foldl_snd h.pullZero fun _ _ h => h.formOne
  have hs3 : Canonical s3 := hs1.updSeCtx.put.frame
  have hs4 : Canonical s4 := hs3.seCount.seCount.seCount
  have hs5 : Canonical s5 := hs4.foldl fun _ _ h => .ite h.seLines h.seSee
  have hs6 : Canonical s6 := hs5.storeTagged
  clear_value s4 s6 denied
  split
  · exact hs4
  · exact hs4.noteRefused
  · exact .ite hs6.faultCtx hs6

theorem stepBeat (h : Canonical s) : Canonical (s.stepBeat x) := by
  unfold Chip.stepBeat
  extract_lets b0 per k due comes t t1
  have ht : Canonical t := .ite h.updSeCtx h
  have ht1 : Canonical t1 := .ite ht.seCount ht
  refine .ite h (.ite ht1 ?_)
  generalize htry : Chip.seTry _ x _ = u
  cases u with
  | none =>
    rw [Option.getD_none]
    exact ht1.updSeCtx
  | some u => exact ht1.updSeCtx.seTry (fun _ h => h.formStep) htry

theorem headWrite {t : Nat} (h : Canonical s) : Canonical (s.headWrite x t) := by
  unfold Chip.headWrite
  split
  · exact h
  · exact .ite h.put.faultCtx <| .ite h <| .ite (.ite h h.updSeCtx.bumpWait) <|
      have hs1 := h.admitUses.noteMerge.store
      .pump (.updSeCtx (.ite hs1 hs1.completeProducer))

theorem takeDraft {p : Step} {e : Placed} (h : Canonical s) : Canonical (s.takeDraft x p e).2 := by
  unfold Chip.takeDraft
  split
  · split <;> exact h.frame
  · exact h

theorem lateClose (h : Canonical s) : Canonical (s.lateClose x i) := .ite h.closeStream h

theorem resultOne {p : Step} {a : List (BitVec 256) × Chip} {e : Placed} (h : Canonical a.2) :
    Canonical (Chip.resultOne x p a e).2 := by
  unfold Chip.resultOne
  extract_lets +onlyGivenNames s i len bump clear fed
  have hs : Canonical s := h.seeEntry.putEntry
  have hbump : ∀ {t}, Canonical t → Canonical (bump t) := fun h => h.frame
  have hclear : ∀ {t}, Canonical t → Canonical (clear t) := fun h => h.frame
  have hfed : Canonical fed := .ite (hclear hs.setSt.setSt.setSt) hs
  clear_value s i len bump clear fed
  split
  · exact .lateClose (hbump hfed.takeDraft.setStState)
  · extract_lets +onlyGivenNames o s1
    have hs1 : Canonical s1 := .ite hfed (hclear hs.setSt)
    clear_value o s1
    generalize hu : ({ s1 with se := { s1.se with commits := sput s1.se.commits i ((len + 1) :: o.path) } } : Chip) = u
    have hu : Canonical u := hu ▸ hs1.frame
    extract_lets s2 s3 s4 dr s5 idle full gone status ws s6
    have hs3 : Canonical s3 := .setSt (.ite hs1 hu)
    have hs4 : Canonical s4 := by
      unfold s4
      split
      · exact hs3.setSt
      · exact hs3
    have hs6 : Canonical s6 := hbump hs4.takeDraft.seCount.seCount.setStState
    exact .ite hs6.freeStream hs6.lateClose

theorem processStep {p : Step} (h : Canonical s) : Canonical (s.processStep x p) :=
  have hr := h.foldl_snd (a := []) fun _ _ h => h.resultOne
  hr.seCount.updSeCtx.addRecord

theorem readResult {p : Step} (h : Canonical s) : Canonical (s.readResult x p) := by
  refine .ite h ?_
  split
  · exact h.noteRefused
  · exact
      have hs1 := h.foldl fun _ _ h => h.seSee
      .ite hs1.faultCtx hs1.processStep

theorem rflagPoll (h : Canonical s) : Canonical (s.rflagPoll x) := by
  unfold Chip.rflagPoll
  split
  · exact h
  · refine .ite h ?_
    split
    · exact h.noteRefused
    · split
      · exact h.seSee.faultCtx
      · exact .ite h.seSee.readResult h.seSee

theorem stepRecord (h : Canonical s) : Canonical (s.stepRecord x) := by
  unfold Chip.stepRecord
  split
  · exact .ite h.drainRecord h
  · exact h

theorem outTail (h : Canonical s) : Canonical (s.outTail v) :=
  have ht := h.put
  .ite ht.waitRoom ht

theorem streamTimeout (h : Canonical s) : Canonical (s.streamTimeout x) := .ite h.faultCtx h

theorem flagTimeout (h : Canonical s) : Canonical (s.flagTimeout x) := by
  unfold Chip.flagTimeout
  split
  · exact .ite h.faultCtx h
  · exact h

end Canonical
end Sys2Proof
end

section
/-! What keeps the canonical form: contexts, the vane, and accesses from the kiln and the management port. -/

namespace Sys2Proof

open Machine

namespace Canonical

variable {s t : Chip} {c ctx entry i k n o occ off page x : Nat} {sn : BitVec 32} {machine : Bool} {l : List (BitVec 8)}
  {cs otp : List Nat} {v : Word}

/-! ## Contexts, errors and power states -/

theorem toPage {f : Chip → Chip} (h : Canonical s) (hf : ∀ t, Canonical t → Canonical (f t)) : Canonical (s.toPage page f) :=
  .ite h (.ite h.absentWrite (.ite h (hf _ h)))

theorem settlePstate (h : Canonical s) : Canonical s.settlePstate := .ite h.put (.ite h.put h)
theorem reqStandby (h : Canonical s) : Canonical s.reqStandby := .ite h (.ite h.put (.ite h h.put))
theorem reqIdle (h : Canonical s) : Canonical s.reqIdle := .ite h h.put

theorem zeroCore (h : Canonical s) : Canonical (s.zeroCore c) := by
  unfold Chip.zeroCore
  extract_lets t u
  have ht : Canonical t := h.zero.zero
  have hu : Canonical u := { ht with descs := canon_sclear _ _ _ _ ht.descs, slots := canon_sclear _ _ _ _ ht.slots }
  exact hu.updCore

theorem powerDone (h : Canonical s) : Canonical s.powerDone :=
  .ite h <| .ite (.raise (.forEach (.put (.settlePstate (.put (h.forEach fun _ _ h => h.zeroCore)))) fun _ _ h => h.trainPort)) <|
  .raise <| .put <| .put <| .put <| h.forEach fun _ _ h => h.disablePort

theorem ignored (h : Canonical s) : Canonical s.ignored := h.count
theorem activate (h : Canonical s) : Canonical (s.activate x) := .ite h.put.put.put.put64.put.settlePstate h.ignored
theorem stopCtx (h : Canonical s) : Canonical (s.stopCtx x) := .ite h.faultCtx h.ignored
theorem resetCores (h : Canonical s) : Canonical (s.resetCores cs) := h.forEach fun _ _ h => .ite h h.coreReset
theorem clearCtx (h : Canonical s) : Canonical (s.clearCtx x) := .ite h.ignored (.ite h h.resetCores.unstep.frame)

theorem clearDone (h : Canonical s) : Canonical (s.clearDone x) := by
  unfold Chip.clearDone
  split
  · exact h
  · exact .ite (.settlePstate (.raise (.count (.put (.put (h.frame.forEach fun _ _ h => h.updCore)))))) h

theorem releaseCtx (h : Canonical s) : Canonical (s.releaseCtx x) :=
  .ite h.ignored <| .frame <| .releaseStreams <|
  .foldl (h.resetCores.put.put.forEach fun _ _ h => h.zeroCore.updCore) fun _ _ h => h.ownWrite

theorem scrubFinished (h : Canonical s) : Canonical (s.scrubFinished x) := by
  unfold Chip.scrubFinished
  split
  · exact h
  · exact .ite (.settlePstate (.raise (.count (.put (h.frame.forEach fun _ _ h => h.updCore))))) h

theorem errClr (h : Canonical s) : Canonical (s.errClr page) := .ite h.put.put.put64 h
theorem gfeClr (h : Canonical s) : Canonical s.gfeClr := h.put.put.put.put64.put
theorem intSet {mask : Word} (h : Canonical s) : Canonical (s.intSet page mask) := h.setReg

theorem selected (h : Canonical s) : Canonical (s.selected page).2 := by
  unfold Chip.selected
  extract_lets
  split
  · exact h.frame.count
  · exact h

theorem cntRead (h : Canonical s) : Canonical (s.cntRead page) := .ite h.accessFault (.ite h.answer h.selected.setLatch.answer)

theorem devIdWrite (h : Canonical s) : Canonical (s.devIdWrite v) :=
  .ite h (h.put.put.forEach fun _ _ h => h.sendIdentity.peerCheck)

theorem settingsWrite (h : Canonical s) : Canonical (s.settingsWrite v) := .ite h h.put

theorem convert {l : List Nat} (h : Canonical s) : Canonical (s.convert l) :=
  have hs3 : Canonical _ := .forEach (.put (.put (h.forEach fun _ _ h => h.put))) fun _ _ h => h.put
  .adaptStart (.ite (.ite hs3.put.raise hs3) (.ite hs3.logErr.put.raise.emergencySwitch hs3))

theorem sensors {l : List Nat} (h : Canonical s) : Canonical (s.sensors l) := by
  unfold Chip.sensors
  split
  · exact .ite h h.powerOff.frame
  · exact .ite h.convert h

/-! ## The vane -/

theorem vaneEnable (h : Canonical s) : Canonical s.vaneEnable :=
  have hs1 := h.clearCounts.put
  .ite hs1 (.ite hs1.put (hs1.put.put.frame.forEach fun _ _ h => .ite h h.updCore))

theorem vaneDisable (h : Canonical s) : Canonical s.vaneDisable :=
  .ite (h.put.closeAll.netKeep.forEach fun _ _ h => .ite h h.updCore) h

theorem addReport {d : BitVec 64} (h : Canonical s) : Canonical (s.addReport entry occ ctx d) :=
  .ite h <|
  have hs2 := h.closeOld.frame.frame
  .ite hs2.closeOcc hs2

theorem vaneReport {p : Packet} (h : Canonical s) : Canonical (s.vaneReport p) := by
  unfold Chip.vaneReport
  split
  · have ht := h.arrive ‹_›
    exact .ite ht.count.addReport ht
  · exact h

/-! ## Register writes -/

theorem mergeReg {t : Nat} (h : Canonical s) : Canonical (s.mergeReg t i o k v) := .ite h h.setReg

theorem ctrlWrite {t : Nat} (h : Canonical s) : Canonical (s.ctrlWrite t i page v) :=
  have hs1 : Canonical _ := .ite h.put h
  have hs2 : Canonical _ := .ite (.ite hs1.holdSet hs1.holdClear) hs1
  .ite hs2 <| .ite hs2.coreFreset <| .ite hs2.engineFreset <| .ite hs2.engineFreset <| .ite hs2.engineFreset <|
  .ite hs2.engineFreset <| .ite hs2.engineFreset <| .ite hs2.engineFreset <| .ite hs2.clusterFreset <| .ite hs2.portFreset <|
  .ite (hs2.unitReset fun _ h => h.streamReset) <| .ite (hs2.unitReset fun _ h => h.vaneReset) <|
  .ite (hs2.unitReset fun _ h => h.mgmtReset) hs2

theorem fltCommand (h : Canonical s) : Canonical (s.fltCommand x v) := by
  unfold Chip.fltCommand
  split
  · exact h
  · exact h.activate
  · exact h.stopCtx
  · exact h.clearCtx
  · exact h.releaseCtx
  · exact h.ignored

theorem beatCtrl (h : Canonical s) : Canonical (s.beatCtrl v) :=
  have hs1 : Canonical _ := .ite h.beatEnable h.beatDisable
  have hs2 : Canonical _ := .ite hs1.beatStart hs1
  .ite hs2.clrFault hs2

theorem hotWrite (h : Canonical s) : Canonical (s.hotWrite page v) := .ite h.put.put h
theorem emergWrite (h : Canonical s) : Canonical (s.emergWrite v) := .ite h.put h

theorem rstWrite (h : Canonical s) : Canonical (s.rstWrite v) := by
  refine .ite (h.chipReset fun t ht => ?_) h
  split
  · exact ht.resetKeepKiln
  · exact ht.resetAll

theorem tabWrite (h : Canonical s) : Canonical (s.tabWrite k v) := .ite h h.frame

theorem sideWrite {t : Nat} (h : Canonical s) : Canonical (s.sideWrite t i page o v) :=
  have ht : Canonical _ := .ite h h.trainEn
  .ite h.ctrlWrite <|
  .ite (.ite h.errClr (.ite h.intSet h)) <|
  .ite (.ite h.start h) <|
  .ite (.ite h.flushAll (.ite h.kprobe h)) <|
  .ite (.ite h.hotWrite (.ite h.extOwnWrite h)) <|
  .ite (.ite (.ite ht.restoreGo ht) h) <|
  .ite (.ite h.outTail h) <|
  .ite (.ite (.ite h.ctxEnable h.put) (.ite h.submit h)) <|
  .ite (.ite h.devIdWrite h) <|
  .ite (.ite h.settingsWrite h) <|
  .ite (.ite h.rstWrite h) <|
  .ite (.ite h.gfeClr h) <|
  .ite (.ite h.beatCtrl (.ite h.put h)) <|
  .ite (.ite h.fltCommand h) <|
  .ite (.ite (.ite h.reqStandby (.ite h.reqIdle h)) (.ite h.vddWrite (.ite h.floorRequest h))) <|
  .ite (.ite h.requestSwitch h) <|
  .ite (.ite h.emergWrite h) <|
  .ite (.ite (.ite h.vaneEnable h.vaneDisable) (.ite h.tabWrite h)) <|
  .ite (.ite h.wdogKick h) h

theorem pageWrite (h : Canonical s) : Canonical (s.pageWrite page o v) := by
  refine h.toPage fun _ h => ?_
  split
  · exact h.mergeReg.sideWrite
  · exact h

theorem regWrite (h : Canonical s) : Canonical (s.regWrite off v) := by
  refine .ite h.accessFault ?_
  split
  · exact .ite (h.windowWrite fun _ h => h.tdWrite) <| .ite (h.windowWrite fun _ h => h.imWrite) <|
      .ite (h.windowWrite fun _ h => h.sdWrite) h.pageWrite.written
  · exact h.pageWrite.written

theorem regWrite_state {s : State} (h : Canonical s.chip) : Canonical (s.regWrite off v).chip :=
  ite_chip h.regWrite.secWrite (ite_chip (kilnRestart h.regWrite.frame) h.regWrite)

theorem wideWrite {s : State} {r : RegData} (h : Canonical s.chip) : Canonical (s.wideWrite off r).chip := by
  cases r with
  | w32 => exact h.regWrite_state
  | w64 => exact ite_chip h.accessFault h.regWrite_state.regWrite_state
  | other => exact h.accessFault

/-! ## Register reads -/

theorem pageRead (h : Canonical s) : Canonical (s.pageRead otp page o).2 := by
  unfold Chip.pageRead
  split
  · exact h
  split
  · exact h
  split
  · exact h
  split
  · exact h.selected.setLatch
  split
  · exact h
  split
  · exact h.frame.inc
  split
  · exact h.setLatch
  split
  · exact h
  · exact h.frame

theorem windowSee (h : Canonical s) : Canonical (s.windowSee off) := by
  unfold Chip.windowSee
  split
  · exact .ite (.ite h.count h.noteCorr.noteUncorr) h
  · exact h

theorem regRead {r : Word × Chip} (h : Canonical s) (e : s.regRead otp off = some r) : Canonical r.2 := by
  unfold Chip.regRead at e
  split at e
  · cases e
  split at e
  · split at e
    · cases e
      exact h.pageRead
    split at e
    · cases e
      exact h
    split at e
    · split at e
      · cases e
        exact h
      split at e <;> cases e
      exact h
    split at e <;> cases e
    · exact h
    · exact h.pageRead
  · cases e
    exact h.pageRead

/-! ## The kiln's map -/

theorem flashWrite (h : Canonical s) : Canonical (s.flashWrite o l) := .ite h.accessFault h.store.written

theorem kilnMem {a : KilnAccess} (h : Canonical s) : Canonical (s.kilnMem a) := by
  cases a with
  | read => exact .ite h.accessFault h.answer
  | write => exact h.store.written

theorem otherUnit {a : KilnAccess} (h : Canonical s) : Canonical (s.otherUnit a) := by
  cases a with
  | read => exact h.frame.answer
  | write => exact h.written

theorem wideRead (h : Canonical s) : Canonical (s.wideRead otp off n) := by
  unfold Chip.wideRead
  extract_lets one t u
  have hone : ∀ {t o}, Canonical t → Canonical (one t o) := fun {t o} ht => by
    unfold one
    split
    · exact ht.windowSee.accessFault
    · exact (ht.regRead ‹_›).windowSee.answer
  have hu : Canonical u := hone (hone h)
  exact .ite (hone h) (.ite (.ite hu.accessFault hu.answer) h.accessFault)

theorem windowAccess {s : State} {a : KilnAccess} (h : Canonical s.chip) : Canonical (s.windowAccess a).chip := by
  cases a with
  | read => exact h.wideRead
  | write => exact h.wideWrite

theorem mapAccess {s : State} {k : KilnAccess} (h : Canonical s.chip) : Canonical (s.mapAccess machine k).chip := by
  unfold State.mapAccess
  extract_lets on
  split
  · exact h.accessFault
  · rename_i r base _
    extract_lets q
    clear_value q
    cases r with
    | rom =>
      cases q with
      | read => exact h.answer
      | write => exact h.accessFault
    | sram | frames | mailbox => exact h.kilnMem
    | timers | plic => exact h.otherUnit
    | flash =>
      cases q with
      | read => exact h.kilnMem
      | write => exact h.flashWrite
    | window => exact h.windowAccess
    | carve | aperture => exact h.cellarAccess
    | tuns => exact h.tunAccess

/-! ## The management port -/

theorem rapReadGo (h : Canonical s) : Canonical (s.rapReadGo otp sn off) := by
  refine .ite h.answer ?_
  split
  · exact h.windowSee.answer
  · exact (h.regRead ‹_›).windowSee.answer

theorem rapWriteGo {s : State} (h : Canonical s.chip) : Canonical (s.rapWriteGo sn off v).chip := by
  unfold State.rapWriteGo
  extract_lets c say
  exact ite_chip h.answer (ite_chip h.answer (ite_chip h.answer h.regWrite_state.answer))

theorem stamped {t : Option PtpTime} (h : Canonical s) : Canonical (s.stamped t) := by
  unfold Chip.stamped
  split
  · exact h.raise.updBoard
  · exact h

theorem frameIn {data : List (BitVec 8)} {t : Option PtpTime} (h : Canonical s) : Canonical (s.frameIn off data t) :=
  .ite h.store.raise.stamped h

end Canonical
end Sys2Proof
end

section
/-! Every step keeps the canonical form: each gate does when the change that it lets through does, and each command passes a
gate with a change that keeps the form. -/

namespace Sys2Proof

open Machine

/-! ## The gates -/

/-- The state that an answer leads to, if any, has the form. -/
def NextCanonical (o : Host.Outcome State Fault Refusal) : Prop := ∀ u, o = .next u → Canonical u.chip

theorem nextCanonical_next {u : State} (h : Canonical u.chip) : NextCanonical (.next u) := fun _ e => by
  cases e
  exact h

theorem nextCanonical_numbered {p : Prop} {_ : Decidable p} {o : Host.Outcome State Fault Refusal} (h : NextCanonical o) :
    NextCanonical (if p then o else .fault .noSuchUnit) := by
  split
  · exact h
  · exact fun _ e => nomatch e

namespace Canonical

variable {s : State} {f : Chip → Chip} {op c max n p : Nat} {w : IWord}

theorem onBoard (hf : Canonical (f s.chip)) : NextCanonical (onBoard f s) := nextCanonical_next hf

theorem onState {f : State → State} (h : Canonical s.chip) (hf : Canonical (f s).chip) : NextCanonical (onState f s) :=
  nextCanonical_next (ite_chip hf h)

theorem onChip (h : Canonical s.chip) (hf : Canonical (f s.chip)) : NextCanonical (onChip f s) :=
  nextCanonical_next (ite_chip hf h)

theorem onFabric (h : Canonical s.chip) (hf : Canonical (f s.chip)) : NextCanonical (onFabric f s) :=
  nextCanonical_next (ite_chip hf h)

theorem onCore (h : Canonical s.chip) (hf : Canonical (f s.chip)) : NextCanonical (onCore c f s) :=
  nextCanonical_numbered (h.onFabric hf)

theorem onUnit (h : Canonical s.chip) (hf : Canonical (f s.chip)) : NextCanonical (onUnit max n f s) :=
  nextCanonical_numbered (h.onFabric hf)

theorem onUnitChip (h : Canonical s.chip) (hf : Canonical (f s.chip)) : NextCanonical (onUnitChip max n f s) :=
  nextCanonical_numbered (h.onChip hf)

theorem onPort (h : Canonical s.chip) (hf : Canonical (f s.chip)) : NextCanonical (onPort p f s) := h.onUnit (.ite hf h)

theorem onPortWrite (h : Canonical s.chip) (hf : Canonical (f s.chip)) : NextCanonical (onPortWrite p f s) :=
  h.onUnit (.ite h.absentWrite (.ite h hf))

theorem issueUnit (h : Canonical s.chip) : NextCanonical (issueUnit op c w s) := h.onCore (h.issue fun _ h => h.toUnit.pump)

theorem onSmbusRaw (h : Canonical s.chip) (hf : Canonical (f s.chip)) : NextCanonical (onSmbusRaw f s) := onBoard (.ite hf h)

theorem onSmbus (h : Canonical s.chip) (hf : Canonical (f s.chip.smbNote)) : NextCanonical (onSmbus f s) := h.onSmbusRaw hf

theorem onSmbusKiln (h : Canonical s.chip) (hf : Canonical (f s.chip.smbNote)) : NextCanonical (onSmbusKiln f s) :=
  h.onSmbus (.ite hf h.smbNote.answer)

theorem secRun {f : State → Nat × State} (h : Canonical s.chip) (hf : Canonical (f s).2.chip) : NextCanonical (secRun f s) :=
  nextCanonical_next (h.secGo hf)

theorem secChip {f : Chip → Nat × Chip} (h : Canonical s.chip) (hf : Canonical (f s.chip).2) : NextCanonical (secChip f s) :=
  h.secRun hf

theorem secBurn {f : State → Nat × List Nat} (h : Canonical s.chip) : NextCanonical (secBurn f s) := h.secRun h

end Canonical

/-! ## The commands -/

/-- Every command keeps the form of the device that it finds. -/
theorem exec_nextCanonical {s : State} {i : Instr} (h : Canonical s.chip) : NextCanonical (exec i s) := by
  delta exec
  cases i with
  | nop => exact h.onCore (h.issue fun _ h => h.retire)
  | endI => exact h.onCore (h.issue fun _ h => h.endIssue)
  | endComplete => exact h.onCore h.endComplete
  | br => exact h.onCore (h.issue fun _ h => h.branch)
  | loop => exact h.onCore (h.issue fun _ h => h.loop)
  | lprem | cset | cmov => exact h.onCore (h.issue fun _ h => h.writeCnt.retire)
  | cadd => exact h.onCore (h.issue fun _ h => h.setCnt.retire)
  | cld => exact h.onCore (h.issue fun _ h => h.cld)
  | cldComplete => exact h.onCore h.cldComplete
  | cst => exact h.onCore (h.issue fun _ h => h.cst)
  | cmpcfg => exact h.onCore (h.issue fun _ h => h.cmpcfg)
  | tdset | tdadd => exact h.onCore (h.issue fun _ h => h.setDesc.retire)
  | tdload => exact h.onCore (h.issue fun _ h => h.tdload)
  | ovl => exact h.onCore (h.issue fun _ h => h.ovl.pump)
  | ovlLoadDone => exact h.onCore h.ovlDone.pump
  | imageLoad => exact h.onCore h.imageLoad
  | imageLoadDone => exact h.onCore h.imageLoadDone
  | waitb => exact h.onCore (h.issue fun _ h => h.waitb)
  | overrunLimit => exact h.onCore h.overrunLimit
  | fenceMet => exact h.onCore h.fenceMet
  | cwait => exact h.onCore (h.issue fun _ h => h.cwait)
  | cwaitComplete => exact h.onCore h.cwaitComplete
  | waitarr => exact h.onCore (h.issue fun _ h => h.waitarr)
  | waitarrMet => exact h.onCore h.waitarrMet
  | queueFullResume => exact h.onCore h.queueResume
  | undefinedOpcode => exact h.onCore (h.issue fun _ h => h)
  | flush | rel | slset | grant | revoke | arrset | cfetch | cstore | nwr | tcopy | close | send | sendt | recv | mmul
  | mdrain | abind | acorr | vcfg | vadd | vsub | vmul | vfma | vmin | vmax | vabs | vneg | vcvt | vcmp | vsel | vpoly | vfst
  | vfclr | vred | vexp2 | vlog2 | vrcp | vrsqrt | vsqrt | vdiv | vtanh | vsigm | vrng | vtopk | vsample => exact h.issueUnit
  | relTokenDelivery => exact h.onCore h.relDeliver.pump
  | acq => exact h.onCore (h.issue fun _ h => h.acqIssue.pump)
  | acqCellarPoll => exact h.onCore h.acqPoll.pump
  | drainProbeArrive =>
    refine h.onFabric (h.atCore fun _ _ ht => ?_)
    split
    · exact ht.probeIn
    · exact h
  | drainProbeReply => exact h.onCore h.probeReply
  | acquireComplete => exact h.onCore h.acquireComplete.pump
  | creditGranted => exact h.onCore h.creditGranted.pump
  | nwCreditArrive => exact h.onFabric (h.atCore fun _ _ h => h.creditIn.pumpCredit)
  | nwCreditReturn => exact h.onFabric (h.atCore fun _ _ h => h.creditsBack.pump)
  | cellarLineRequest => exact h.onCore h.lineRequest
  | cellarLineReturn => exact h.onCore h.lineReturn.pump
  | nwrRequestArrive => exact h.onFabric (h.atCore fun _ _ h => h.nwrRequestIn.pump)
  | nwrRankRetry => exact h.onCore h.nwrRetry
  | nwrDataArrive => exact h.onFabric (h.atCore fun _ _ h => h.nwrDataIn.pump)
  | nwrAck => exact h.onFabric (h.atCore fun _ _ h => h.nwrAckIn.pump)
  | openReceiveEnd => exact h.onCore (.ite (h.issue fun _ h => h.toUnit.pump) h)
  | openSendEnd => exact h.onCore (.ite h (h.issue fun _ h => h.toUnit.pump))
  | openRequestArrive => exact h.onFabric (h.atCore fun _ _ h => h.openRequest)
  | openReplyArrive => exact h.onFabric (h.atCore fun _ _ h => h.openReply.pump)
  | openRetry => exact h.onCore h.openRetry
  | closeNoticeArrive =>
    refine h.onFabric (.ite (h.atCore fun _ _ h => h.closeNotice.pump) ?_)
    split
    · exact h.noticeAway.pump
    · exact h
  | sendStart =>
    refine h.onCore ?_
    split
    · exact .ite h.sendHead.pump h
    · exact h
  | messageArrive => exact h.onFabric (h.atCore fun _ _ h => h.messageIn.pump)
  | deliveryAckArrive => exact h.onFabric (h.atCore fun _ _ h => h.deliveryAck.pump)
  | recvTake =>
    refine h.onCore ?_
    split
    · exact .ite h.recvHead.pump h
    · exact h
  | channelCreditReturn => exact h.onFabric (h.atCore fun _ _ h => h.creditReturn)
  | columnGroupDrain => exact h.onCore h.columnGroupDrain.pump
  | adjunctGroupDone => exact h.onCore h.adjunctGroupDone.pump
  | vectorCmdComplete => exact h.onCore h.vecComplete.pump
  | slotAdmission => exact h.onCore h.slotAdmission
  | producerDone => exact h.onCore h.producerDone
  | countedReadDone => exact h.onCore h.countedReadDone
  | waitTimeout => exact h.onCore h.waitTimeout
  | commandTimeout w =>
    cases w with
    | seq => exact h.onCore h.seqSlotTimeout
    | command => exact h.onCore h.unitTimeout
    | drain => exact h.onCore h.drainTimeout
    | streamWrite => exact h.onUnit h.streamTimeout
    | stepFlag => exact h.onUnit h.flagTimeout
  | coreStart => exact h.onCore h.coreStart
  | start => exact h.onCore (h.toCore fun _ h => h.start)
  | holdSet => exact h.onCore (h.toCore fun _ h => h.holdSet)
  | holdClear => exact h.onCore (h.toCore fun _ h => h.holdClear)
  | imDebugWrite => exact h.onCore (h.windowWrite fun _ h => h.imWrite)
  | tileDescWindowWrite => exact h.onCore (h.windowWrite fun _ h => h.tdWrite)
  | slotDescWindowWrite => exact h.onCore (h.windowWrite fun _ h => h.sdWrite)
  | flushAll => exact h.onCore (h.toCore fun _ h => h.flushAll)
  | kprobeGo => exact h.onCore (h.toCore fun _ h => h.kprobe)
  | tunApertureAccess => exact h.onUnitChip h.tunAccess
  | cellarApertureAccess full =>
    cases full with
    | carve | aperture => exact h.onState h.cellarAccess
    | map => exact h.onState h.mapAccess
  | packetHop => exact h.onFabric h.hop
  | extOwnWrite => exact h.onUnit (.ite h.extOwnWrite h)
  | extentScrubStart => exact h.onUnit (.ite h h.ownWrite)
  | extentScrubDone => exact h.onUnit h.scrubDone
  | refreshBurst => exact h.onUnit (.ite h.dueBurst h)
  | forcedBurst => exact h.onUnit (.ite h.forcedBurst h)
  | refPolicyWrite | ctxDisable => exact h.onUnit (.ite h h.put)
  | beatEdge => exact h.onFabric h.ownEdge
  | beatEnable => exact h.onFabric h.beatEnable
  | beatDisable => exact h.onFabric h.beatDisable
  | beatStart => exact h.onFabric h.beatStart
  | clrFault => exact h.onFabric h.clrFault
  | beatrefEdge => exact h.onFabric h.beatrefEdge
  | referenceMiss => exact h.onFabric h.referenceMiss
  | masterHoldover => exact h.onFabric h.masterHoldover
  | markerReceive => exact h.onUnit h.markerReceive
  | beatLock => exact h.onFabric h.beatLock
  | lockTimeout => exact h.onFabric (.ite h.beatFault h)
  | markerLoss => exact h.onFabric (.ite h.enterBeat h)
  | fswGo => exact h.onFabric h.requestSwitch
  | switchBeat => exact h.onFabric h.switchBeat
  | vddSetWrite => exact h.onFabric h.vddWrite
  | vddSettled => exact h.onFabric h.vddSettled
  | governorTick => exact h.onFabric h.governorTick
  | gust => exact h.onUnit h.gust
  | sensorConversion => exact Canonical.onBoard h.sensors
  | psReqStandby => exact h.onFabric h.reqStandby
  | psReqIdle => exact h.onFabric h.reqIdle
  | powerStateDone => exact h.onFabric h.powerDone
  | engineFreset => exact h.onCore h.engineFreset
  | coreFreset => exact h.onCore h.coreFreset
  | clusterFreset => exact h.onUnit h.clusterFreset
  | portFreset => exact h.onPortWrite h.portFreset
  | streamEngineFreset => exact h.onFabric (h.unitReset fun _ h => h.streamReset)
  | vaneFreset => exact h.onFabric (h.unitReset fun _ h => h.vaneReset)
  | mgmtPortFreset => exact h.onChip (h.unitReset fun _ h => h.mgmtReset)
  | kilnFreset => exact h.onState h.kilnRestart
  | fresetDone => exact h.onChip h.fresetDone
  | chipResetKeepKiln => exact h.onChip (h.chipReset fun _ h => h.resetKeepKiln)
  | chipResetRestartKiln => exact h.onChip (h.chipReset fun _ h => h.resetAll)
  | chipResetDone => exact h.onChip (.ite (h.frame.put.forEach fun _ _ h => h.leaveReset) h)
  | inputPowerApplied => exact Canonical.onBoard h.inputOn
  | inputPowerRemoved => exact Canonical.onBoard h.inputOff
  | pwrEnAssert | railsOffTimeExpire => exact Canonical.onBoard h.updBoard.raiseRails
  | pwrEnDeassert => exact Canonical.onBoard h.pwrOff
  | railsPowerGood => exact Canonical.onBoard (.ite h.updBoard h)
  | railFault => exact Canonical.onBoard (.ite (.updBoard (.ite h h.powerOff)) h)
  | modResetAssert => exact Canonical.onBoard (.ite h.resetAll h)
  | internalResetRelease => exact nextCanonical_next (.ite_chip (.rom h.frame) h)
  | refclkLoss => exact Canonical.onBoard (.ite h.frame.updBoard h)
  | wdogKick => exact h.onChip (.ite h h.wdogKick)
  | wdogFirstExpiry => exact h.onUnitChip (.ite h h.frame)
  | wdogSecondExpiry =>
    exact nextCanonical_numbered (h.onState (.ite_chip (.ite_chip (.kilnRestart h.wdogTrip) h.wdogTrip) h))
  | activate => exact h.onUnit h.activate
  | stop => exact h.onUnit h.stopCtx
  | clear => exact h.onUnit h.clearCtx
  | clearDone => exact h.onUnit h.clearDone
  | release => exact h.onUnit h.releaseCtx
  | partitionScrubDone => exact h.onUnit h.scrubFinished
  | errClr => exact h.onChip (h.toPage fun _ h => h.errClr)
  | gfeClr => exact h.onChip h.gfeClr
  | intSet => exact h.onChip (h.toPage fun _ h => h.intSet)
  | cntValLoRead => exact h.onChip h.cntRead
  | modFaultWrite => exact h.onChip h.put
  | modReadyWrite | osOwnsWrite => exact h.onChip (h.toPage fun _ h => h.put)
  | devIdWrite => exact h.onChip h.devIdWrite
  | settingsWrite => exact h.onFabric h.settingsWrite
  | registerWrite => exact h.onState h.wideWrite
  | trainEnWrite => exact h.onPortWrite h.trainEn
  | restore => exact h.onPortWrite h.restoreGo
  | restoreTrainTimeout => exact h.onPort (.ite h.updPort.put.raise h)
  | laneTrainingDone => exact h.onPort (.ite (have ht := h.updPort; .ite ht.toAlign ht) h)
  | narrowWidthTimeout => exact h.onPort (.ite h.toAlign h)
  | trainingTimeout | alignTimeout | portDown => exact h.onPort (.ite h.goDown h)
  | alignLock => exact h.onPort (.ite h.toMeasure h)
  | delayMeasured => exact h.onPort h.delayMeasured
  | delayRemeasure => exact h.onPort (.ite h.updPort h)
  | controlCellReceive => exact h.onPort (.ite (h.cellIn fun _ h => h.controlIn) h)
  | dataCellReceive => exact h.onPort (.ite (h.cellIn fun _ h => h.dataIn) h)
  | badCellReceive => exact h.onPort (.ite h.badIn h)
  | creditCellReceive => exact h.onPort (.ite h.put h)
  | ackReceive => exact h.onPort (.ite h.acknowledge h)
  | nakReceive => exact h.onPort (.ite h.acknowledge.retry h)
  | idleCellReceive => exact h.onPort h
  | cellTransmit => exact h.onPort h.transmit
  | slotGroupEnd => exact h.onPort h.groupEnd
  | ackTimer => exact h.onPort (.ite h.sendAck h)
  | nakHoldoffExpire => exact h.onPort h.updPort
  | ackTimeout => exact h.onPort (.ite h.retry h)
  | degrade => exact h.onPort (.ite h.degrade h)
  | degradeDone => exact h.onPort h.degradeDone
  | lossOfSignal => exact h.onPort h.lossOfSignal
  | downHoldExpire => exact h.onPort (.ite h.setPortState h)
  | routeTableWrite => exact h.onUnit h.put
  | ctxEnable => exact h.onUnit (.ite h h.ctxEnable)
  | commandSubmit => exact h.onUnit (.ite h h.submit)
  | streamAdmit => exact h.onUnit (h.takeCmd fun _ _ h => h.admitCmd)
  | append => exact h.onUnit (h.takeCmd fun _ _ h => h.appendCmd)
  | streamClose => exact h.onUnit (h.takeCmd fun _ _ h => h.closeCmd)
  | adjload => exact h.onUnit (h.takeCmd fun _ _ h => h.adjloadCmd)
  | adjdrop => exact h.onUnit (h.takeCmd fun _ _ h => h.adjdropCmd)
  | cmdBad => exact h.onUnit (h.takeCmd fun _ _ h => h.refuseCmd)
  | stepFormation => exact h.onUnit h.stepBeat
  | headWrite => exact h.onUnit h.headWrite
  | rflagPoll => exact h.onUnit (h.seOp fun _ h => h.rflagPoll)
  | stepRecordWrite => exact h.onUnit h.stepRecord
  | outTailWrite => exact h.onFabric (.ite h h.outTail)
  | vaneEnable => exact h.onFabric (.ite h h.vaneEnable)
  | vaneDisable => exact h.onFabric (.ite h h.vaneDisable)
  | vaneReportArrive => exact h.onFabric h.vaneReport
  | quote => exact h.secChip h.quote
  | cert => exact h.secChip h.certify
  | extend => exact h.secChip h.extend
  | challenge => exact h.secChip h.challenge
  | unlock => exact h.secRun h.unlock
  | setDebug | claimOwner | rotateOwner | rotateVendor | setSvn | setKilnMem => exact h.secBurn
  | updateBegin => exact h.secRun h.updateBegin
  | updateEnd => exact h.secChip h.updateEnd
  | secCommandEnd => exact h.onChip h.secEnd
  | rapRead => exact h.onState (.ite_chip h.rapReadGo h)
  | rapWrite => exact h.onState (.ite_chip h.rapWriteGo h)
  | recoveryImageBlock => exact h.onState h.recoveryBlock
  | mgmtFrameReceive => exact h.onChip h.frameIn
  | mgmtFrameSent => exact h.onChip (.ite h.raise.stamped h)
  | mgmtLinkChange => exact h.onChip (.ite h h.put.raise)
  | status | identity | readFru => exact h.onSmbus h.smbNote.answer
  | temp | power | firstErr => exact h.onSmbusKiln h.smbNote.answer
  | clearAlert => exact h.onSmbus (.ite h.smbNote.updBoard h.smbNote)
  | alertResponse => exact h.onSmbusRaw h.alertAnswer
  | kilnRestart => exact h.onState (.ite_chip (.kilnRestart h.smbNote) h.smbNote)
  | nwrAdmissionArrive => exact h.onFabric (h.atCore fun _ _ h => h.nwrAnswer)
  | revokeRequestArrive => exact h.onFabric (h.atCore fun _ _ h => h.revokeIn)
  | restoreLanesTrained => exact h.onPort (.ite h.changeWidth h)
  | laneAdaptationDone => exact h.onUnit (.ite h.updPort.adaptStart h)
  | cellarCalibrationDone => exact h.onChip (.ite h h.zero.frame)
  | perBootKeyCertified => exact h.onChip h.certifyKey

/-! ## The statement -/

/-- Settles O3: a step without a command changes nothing, and one with a command keeps the form as the command does. -/
theorem stateStaysCanonical : Obligations.StateStaysCanonical := by
  unfold Obligations.StateStaysCanonical
  rintro ⟨pending, otp, chip⟩ t h e
  cases pending with
  | nil =>
    cases e
    exact h
  | cons i rest => exact exec_nextCanonical (s := ⟨rest, otp, chip⟩) h t e

end Sys2Proof
end

section
/-! The device after reset: what an unlisted register of a page reads as (R71, R99, R314, R399, R480). -/

namespace Sys2Proof.Machine

/-- A register that no write has reached holds the reset value of its page's type. -/
theorem regReset_page {page t i o : Nat} (hpage : page % 0x1000 = 0) (ht : pageType page = some (t, i)) (ho : o < 0x1000) :
    regReset (page + o) = BitVec.ofNat 32 (resetAt t o) := by
  have hbase : (page + o) / 0x1000 * 0x1000 = page := by omega
  have hoff : (page + o) % 0x1000 = o := by omega
  rw [regReset, hbase, hoff, ht]

theorem Chip.reg_reset {page t i o : Nat} (hpage : page % 0x1000 = 0) (ht : pageType page = some (t, i)) (ho : o < 0x1000) :
    Chip.reset.reg (page + o) = BitVec.ofNat 32 (resetAt t o) := regReset_page hpage ht ho

/-- A field of a page after reset. -/
theorem Chip.get_reset {page t i : Nat} {f : Fld} (hpage : page % 0x1000 = 0) (ht : pageType page = some (t, i))
    (ho : f.off < 0x1000) : Chip.reset.get page f = bf (BitVec.ofNat 32 (resetAt t f.off)) f.lo f.len := by
  rw [Chip.get, Chip.reg_reset hpage ht ho]

theorem pgSEQ_aligned (c : Nat) : pgSEQ c % 0x1000 = 0 := by rw [pgSEQ_def]; omega

/-- The type and the number of a page of core `c`. -/
theorem pageType_core {c j : Nat} (hc : c < 144) (hj : j < 7) : pageType (pgSEQ c + 0x1000 * j) = some (0x30 + j, c) := by
  have h1 : ¬pgSEQ c + 0x1000 * j < 0xE000 := by rw [pgSEQ_def]; omega
  have h2 : ¬pgSEQ c + 0x1000 * j < 0x110000 := by rw [pgSEQ_def]; omega
  have h3 : pgSEQ c + 0x1000 * j ≠ 0x110000 := by rw [pgSEQ_def]; omega
  have h4 : ¬pgSEQ c + 0x1000 * j < 0x440000 := by rw [pgSEQ_def]; omega
  have h5 : 0x1000000 ≤ pgSEQ c + 0x1000 * j ∧ pgSEQ c + 0x1000 * j < 0x3400000 := by rw [pgSEQ_def]; omega
  have h6 : (pgSEQ c + 0x1000 * j) % 0x40000 = 0x1000 * j := by rw [pgSEQ_def]; omega
  have h7 : (pgSEQ c + 0x1000 * j - 0x1000000) / 0x40000 = c := by rw [pgSEQ_def]; omega
  have h8 : 0x1000 * j < 0x7000 := by omega
  simp [pageType, h1, h2, h3, h4, h5, h6, h7, h8]

theorem Chip.reg_reset_pgSEQ {c o : Nat} (hc : c < 144) (ho : o < 0x1000) :
    Chip.reset.reg (pgSEQ c + o) = BitVec.ofNat 32 (resetAt 0x30 o) :=
  Chip.reg_reset (pgSEQ_aligned c) (pageType_pgSEQ hc) ho

/-- The counters of a core are 0 after reset. -/
theorem Chip.cnt_reset {c n : Nat} (hc : c < 144) (hn : n < 16) : Chip.reset.cnt c n = 0 := by
  have h : 0x160 + 4 * n ≠ 0x128 := by omega
  rw [Chip.cnt, Nat.add_assoc, Chip.reg_reset_pgSEQ hc (by omega)]
  simp [resetAt, h]

/-- A comparator after reset finds counter 0 equal to 0. -/
theorem Chip.pred_reset {c k : Nat} (hc : c < 144) (hk : k < 8) : Chip.reset.pred c k = true := by
  have hlow : Chip.reset.reg (pgSEQ c + 0x1A0 + 8 * k) = 0 := by
    rw [Nat.add_assoc, Chip.reg_reset_pgSEQ hc (by omega)]
    simp [resetAt, show 0x1A0 + 8 * k ≠ 0x128 by omega]
  have hhigh : Chip.reset.reg (pgSEQ c + 0x1A4 + 8 * k) = 0 := by
    rw [Nat.add_assoc, Chip.reg_reset_pgSEQ hc (by omega)]
    simp [resetAt, show 0x1A4 + 8 * k ≠ 0x128 by omega]
  have hcnt := Chip.cnt_reset hc (n := 0) (by decide)
  unfold Chip.pred
  simp only [hlow, hhigh]
  rw [show bf (0 : Word) 0 4 = 0 from rfl, hcnt]
  rfl

theorem Chip.chState_reset {c n : Nat} (hc : c < 144) (hn : n < 64) : Chip.reset.chState c n = chCLOSED := by
  have hpage : pgCHAN c % 0x1000 = 0 := by rw [pgCHAN, pgSEQ_def]; omega
  have ho : (fChState n).off < 0x1000 := by simp only [fChState]; omega
  have hfar : ¬(0x140 ≤ (fChState n).off ∧ (fChState n).off < 0x180) := by simp only [fChState]; omega
  rw [Chip.chState, Chip.get_reset hpage (pageType_core hc (j := 6) (by decide)) ho]
  simp [resetAt, hfar]
  rfl

theorem Chip.get_reset_pgCTX {x : Nat} (hx : x < 16) : Chip.reset.cx x fCtxEn = 0 := by
  have h : ∀ x < 16, Chip.reset.cx x fCtxEn = 0 := by decide
  exact h x hx

theorem Chip.ctxState_reset {x : Nat} (hx : x < 16) : Chip.reset.ctxState x = 0 := by
  have h : ∀ x < 16, Chip.reset.ctxState x = 0 := by decide
  exact h x hx

theorem Chip.portState_reset {p : Nat} (hp : p < 16) : Chip.reset.portState p = psDISABLED := by
  have h : ∀ p < 16, Chip.reset.portState p = psDISABLED := by decide
  exact h p hp

theorem canonical_reset : Canonical Chip.reset := ⟨rfl, rfl, rfl, rfl, rfl, rfl, rfl, rfl, rfl, rfl, rfl, .nil⟩

/-- What reset leaves in the registers of a sequencer. -/
theorem core_reset {c : Nat} (hc : c < 144) :
    Chip.reset.seqState c = sqIDLE ∧ Chip.reset.pc c = 0 ∧ Chip.reset.get (pgSEQ c) fSeqOvrLimit = 16 := by
  have hget : ∀ f : Fld, f.off < 0x1000 → Chip.reset.get (pgSEQ c) f = bf (BitVec.ofNat 32 (resetAt 0x30 f.off)) f.lo f.len :=
    fun f hf => Chip.get_reset (pgSEQ_aligned c) (pageType_pgSEQ hc) hf
  exact ⟨hget fSeqState (by decide), hget fSeqPc (by decide), hget fSeqOvrLimit (by decide)⟩

/-- Settles O2: the registers by the reset column of their page, everything else as the empty maps read. -/
theorem resetState : Obligations.ResetState := by
  unfold Obligations.ResetState
  refine ⟨rfl, rfl, canonical_reset, fun _ => rfl, rfl, rfl, rfl, fun c hc => ?_,
    fun x hx => ⟨Chip.ctxState_reset hx, Chip.get_reset_pgCTX hx⟩, fun p hp => Chip.portState_reset hp, rfl, rfl, rfl, rfl, rfl⟩
  obtain ⟨hstate, hpc, hlimit⟩ := core_reset hc
  exact ⟨hstate, hpc, fun _ => rfl, rfl, rfl, rfl, rfl, fun n hn => Chip.cnt_reset hc hn, fun k hk => Chip.pred_reset hc hk,
    hlimit, fun _ _ => ⟨rfl, rfl⟩, fun n hn => Chip.chState_reset hc hn⟩

end Sys2Proof.Machine
end

section
/-! The gates of a command, registers after each write, and what a run of writes leaves: the rules that the proofs below share. -/

namespace Sys2Proof.Machine

/-! ## Gates -/

section Gates

variable {i : Instr} {s : State} {f : Chip → Chip} {P : Chip → Prop}

theorem runs_chip {t : Chip} (h : exec i s = .next { s with chip := t }) (hP : P t) : Runs i s P := ⟨_, h, rfl, rfl, hP⟩

theorem runs_fabric (hi : exec i s = onFabric f s) (hup : s.chip.fabricUp = true) (hP : P (f s.chip)) : Runs i s P :=
  runs_chip (hi.trans (onFabric_up f s hup)) hP

theorem runs_core {c : Nat} (hi : exec i s = onCore c f s) (hc : c < 144) (hup : s.chip.fabricUp = true) (hP : P (f s.chip)) :
    Runs i s P := runs_chip (hi.trans (onCore_up c f s hc hup)) hP

theorem runs_unit {max n : Nat} (hi : exec i s = onUnit max n f s) (hn : n < max) (hup : s.chip.fabricUp = true)
    (hP : P (f s.chip)) : Runs i s P := runs_chip (hi.trans (onUnit_up max n f s hn hup)) hP

theorem runs_issue {c : Nat} {w : IWord} {op : Nat → Bool} (hi : exec i s = onCore c (fun u => u.issue c w op f) s)
    (h : Takes s.chip c w) (ho : op (opcode w) = true) (hP : P (f s.chip)) : Runs i s P :=
  runs_core hi h.core h.up (Chip.issue_takes h op f ho ▸ hP)

theorem portPresent_lt {s : Chip} {p : Nat} (h : s.portPresent p = true) : p < 16 := by
  simp only [Chip.portPresent, Bool.and_eq_true, decide_eq_true_eq] at h
  exact h.1

theorem runs_port {p st : Nat} (hi : exec i s = onPort p f s) (h : PortIn s.chip p st) (hP : P (f s.chip)) : Runs i s P :=
  runs_unit hi (portPresent_lt h.there) h.up (by simpa [h.there, h.free] using hP)

theorem runs_mono {Q : Chip → Prop} (h : Runs i s P) (hPQ : ∀ t, P t → Q t) : Runs i s Q := by
  obtain ⟨t, ht, hpend, hotp, hP⟩ := h
  exact ⟨t, ht, hpend, hotp, hPQ _ hP⟩

end Gates

theorem present_lt {s : Chip} {c : Nat} (h : s.present c = true) : c < 144 := by
  simp only [Chip.present, Bool.and_eq_true, decide_eq_true_eq] at h
  exact h.1

/-! ## Registers and fields after a write -/

section Regs

variable (s : Chip)

theorem Chip.get_put_off {page page' : Nat} {f f' : Fld} (v : Nat)
    (h : page' + f'.off ≠ page + f.off ∨ f'.lo + f'.len ≤ f.lo ∨ f.lo + f.len ≤ f'.lo) :
    (s.put page f v).get page' f' = s.get page' f' := by
  rcases h with h | h
  · exact Chip.get_put_reg s page page' f f' v h
  · exact Chip.get_put_apart s page page' f f' v h

theorem Chip.get_inc_off {page page' : Nat} {f f' : Fld} (v : Nat)
    (h : page' + f'.off ≠ page + f.off ∨ f'.lo + f'.len ≤ f.lo ∨ f.lo + f.len ≤ f'.lo) :
    (s.inc page f v).get page' f' = s.get page' f' := s.get_put_off _ h

theorem Chip.get_inc_same (page : Nat) (f : Fld) (n : Nat) (h : f.lo + f.len ≤ 32) :
    (s.inc page f n).get page f = min (s.get page f + n) (2 ^ f.len - 1) := by
  rw [Chip.inc, Chip.get_put_same _ _ _ _ h, Nat.mod_eq_of_lt]
  have := Nat.two_pow_pos f.len
  omega

theorem Chip.bit_raise (page b : Nat) (hb : b < 32) : (s.raise page b).bit page ⟨0x028, b, 1⟩ = true := by
  rw [Chip.bit_eq, Chip.raise, Chip.reg_setReg_same, BitVec.getLsbD_or, BitVec.getLsbD_ofNat, Nat.testBit_two_pow]
  simp [hb]

theorem Chip.get64_put64_cut (page off v : Nat) : (s.put64 page off v).get64 page off = v % 2 ^ 64 := by
  simp only [Chip.get64, Chip.put64, Chip.reg_setReg_same]
  rw [Chip.reg_setReg_other _ _ (by omega), Chip.reg_setReg_same]
  simp only [BitVec.toNat_ofNat]
  omega

theorem Chip.get64_lt (page off : Nat) : s.get64 page off < 2 ^ 64 := by
  have h1 := (s.reg (page + off)).isLt
  have h2 := (s.reg (page + off + 4)).isLt
  unfold Chip.get64
  omega

/-- Two registers that read as before give the number that they gave. -/
theorem Chip.get64_congr {t : Chip} {page off : Nat} (h1 : t.reg (page + off) = s.reg (page + off))
    (h2 : t.reg (page + off + 4) = s.reg (page + off + 4)) : t.get64 page off = s.get64 page off := by
  rw [Chip.get64, h1, h2, Chip.get64]

theorem Chip.get_congr {t : Chip} {page : Nat} {f : Fld} (h : t.reg (page + f.off) = s.reg (page + f.off)) :
    t.get page f = s.get page f := by rw [Chip.get, h, Chip.get]

/-! ## Event counts -/

theorem Chip.countOf_lt (page sel : Nat) : s.countOf page sel < 2 ^ 64 := (sget countReset s.counts (page + sel)).isLt

theorem Chip.countOf_count_same (page sel n : Nat) :
    (s.count page sel n).countOf page sel = min (s.countOf page sel + n) (2 ^ 64 - 1) := by
  simp only [Chip.count, Chip.setCount, Chip.countOf, sget_sset_same, BitVec.toNat_ofNat]
  omega

theorem Chip.countOf_count_other {page sel page' sel' : Nat} (n : Nat) (h : page' + sel' ≠ page + sel) :
    (s.count page sel n).countOf page' sel' = s.countOf page' sel' :=
  Chip.countOf_setCount_other _ _ _ _ _ _ h

end Regs

/-! ## Writes of registers only -/

section RegisterWrites

variable {s t : Chip} (h : RegsOnly s t)
include h

theorem RegsOnly.setReg {k : Nat} {v : Word} : RegsOnly s (t.setReg k v) := h.trans (regsOnly_setReg t k v)
theorem RegsOnly.put {page v : Nat} {f : Fld} : RegsOnly s (t.put page f v) := h.trans (regsOnly_put t page f v)
theorem RegsOnly.inc {page v : Nat} {f : Fld} : RegsOnly s (t.inc page f v) := h.trans (regsOnly_inc t page f v)
theorem RegsOnly.raise {page b : Nat} : RegsOnly s (t.raise page b) := h.trans (regsOnly_raise t page b)
theorem RegsOnly.put64 {page off v : Nat} : RegsOnly s (t.put64 page off v) := h.trans (regsOnly_put64 t page off v)

/-- Any reading that no register enters is as before. -/
theorem RegsOnly.keeps {β : Type} (g : Chip → β) (hg : ∀ (u : Chip) r, g { u with regs := r } = g u) : g t = g s :=
  (congrArg g h).trans (hg s t.regs)

theorem RegsOnly.ite {u : Chip} {p : Prop} {_ : Decidable p} (h2 : RegsOnly s u) : RegsOnly s (if p then t else u) := by
  split
  · exact h
  · exact h2

end RegisterWrites

/-! ## What a write leaves of each part of the device -/

section Parts

theorem Chip.reg_of_regs {s t : Chip} {k : Nat} (h : t.regs = s.regs) : t.reg k = s.reg k := by rw [Chip.reg, h, Chip.reg]
theorem Chip.get_of_regs {s t : Chip} {page : Nat} {f : Fld} (h : t.regs = s.regs) : t.get page f = s.get page f :=
  s.get_congr (Chip.reg_of_regs h)
theorem Chip.bit_of_regs {s t : Chip} {page : Nat} {f : Fld} (h : t.regs = s.regs) : t.bit page f = s.bit page f := by
  rw [Chip.bit, Chip.get_of_regs h, Chip.bit]
theorem Chip.get64_of_regs {s t : Chip} {page off : Nat} (h : t.regs = s.regs) : t.get64 page off = s.get64 page off :=
  s.get64_congr (Chip.reg_of_regs h) (Chip.reg_of_regs h)
theorem Chip.core_of_cores {s t : Chip} {c : Nat} (h : t.cores = s.cores) : t.core c = s.core c := by rw [Chip.core, h, Chip.core]
theorem Chip.port_of_ports {s t : Chip} {p : Nat} (h : t.ports = s.ports) : t.port p = s.port p := by rw [Chip.port, h, Chip.port]
theorem Chip.countOf_of_counts {s t : Chip} {page sel : Nat} (h : t.counts = s.counts) : t.countOf page sel = s.countOf page sel := by
  rw [Chip.countOf, h, Chip.countOf]

variable (s : Chip) (c e q o page sel n : Nat) (f h : Fld) (k j : Nat) (v : Word)

@[simp] theorem Chip.core_setReg : (s.setReg k v).core e = s.core e := Chip.core_of_cores rfl
@[simp] theorem Chip.core_put : (s.put page f n).core e = s.core e := Chip.core_of_cores rfl
@[simp] theorem Chip.core_inc : (s.inc page f n).core e = s.core e := Chip.core_of_cores rfl
@[simp] theorem Chip.core_put64 : (s.put64 page sel n).core e = s.core e := Chip.core_of_cores rfl
@[simp] theorem Chip.core_raise : (s.raise page n).core e = s.core e := Chip.core_of_cores rfl
@[simp] theorem Chip.core_count : (s.count page sel n).core e = s.core e := Chip.core_of_cores rfl
@[simp] theorem Chip.core_updPort (g : Port → Port) : (s.updPort c g).core e = s.core e := Chip.core_of_cores rfl
@[simp] theorem Chip.core_updBeat (g : BeatUnit → BeatUnit) : (s.updBeat g).core e = s.core e := Chip.core_of_cores rfl
@[simp] theorem Chip.port_setReg : (s.setReg k v).port e = s.port e := Chip.port_of_ports rfl
@[simp] theorem Chip.port_put : (s.put page f n).port e = s.port e := Chip.port_of_ports rfl
@[simp] theorem Chip.port_inc : (s.inc page f n).port e = s.port e := Chip.port_of_ports rfl
@[simp] theorem Chip.port_put64 : (s.put64 page sel n).port e = s.port e := Chip.port_of_ports rfl
@[simp] theorem Chip.port_raise : (s.raise page n).port e = s.port e := Chip.port_of_ports rfl
@[simp] theorem Chip.port_count : (s.count page sel n).port e = s.port e := Chip.port_of_ports rfl
@[simp] theorem Chip.port_updCore (g : Core → Core) : (s.updCore c g).port e = s.port e := Chip.port_of_ports rfl
@[simp] theorem Chip.port_updBeat (g : BeatUnit → BeatUnit) : (s.updBeat g).port e = s.port e := Chip.port_of_ports rfl
@[simp] theorem Chip.countOf_setReg : (s.setReg k v).countOf q o = s.countOf q o := Chip.countOf_of_counts rfl
@[simp] theorem Chip.countOf_put : (s.put page f n).countOf q o = s.countOf q o := Chip.countOf_of_counts rfl
@[simp] theorem Chip.countOf_inc : (s.inc page f n).countOf q o = s.countOf q o := Chip.countOf_of_counts rfl
@[simp] theorem Chip.countOf_put64 : (s.put64 page sel n).countOf q o = s.countOf q o := Chip.countOf_of_counts rfl
@[simp] theorem Chip.countOf_raise : (s.raise page n).countOf q o = s.countOf q o := Chip.countOf_of_counts rfl
@[simp] theorem Chip.countOf_updCore (g : Core → Core) : (s.updCore c g).countOf q o = s.countOf q o := Chip.countOf_of_counts rfl
@[simp] theorem Chip.countOf_updPort (g : Port → Port) : (s.updPort c g).countOf q o = s.countOf q o := Chip.countOf_of_counts rfl
@[simp] theorem Chip.countOf_updBeat (g : BeatUnit → BeatUnit) : (s.updBeat g).countOf q o = s.countOf q o := Chip.countOf_of_counts rfl
@[simp] theorem Chip.get_count : (s.count page sel n).get q h = s.get q h := Chip.get_of_regs rfl
@[simp] theorem Chip.bit_count : (s.count page sel n).bit q h = s.bit q h := Chip.bit_of_regs rfl
@[simp] theorem Chip.get64_count : (s.count page sel n).get64 q o = s.get64 q o := Chip.get64_of_regs rfl
@[simp] theorem Chip.reg_updCore (g : Core → Core) : (s.updCore c g).reg j = s.reg j := Chip.reg_of_regs rfl
@[simp] theorem Chip.get_updCore (g : Core → Core) : (s.updCore c g).get q h = s.get q h := Chip.get_of_regs rfl
@[simp] theorem Chip.bit_updCore (g : Core → Core) : (s.updCore c g).bit q h = s.bit q h := Chip.bit_of_regs rfl
@[simp] theorem Chip.get64_updCore (g : Core → Core) : (s.updCore c g).get64 q o = s.get64 q o := Chip.get64_of_regs rfl
@[simp] theorem Chip.reg_updPort (g : Port → Port) : (s.updPort c g).reg j = s.reg j := Chip.reg_of_regs rfl
@[simp] theorem Chip.get_updPort (g : Port → Port) : (s.updPort c g).get q h = s.get q h := Chip.get_of_regs rfl
@[simp] theorem Chip.bit_updPort (g : Port → Port) : (s.updPort c g).bit q h = s.bit q h := Chip.bit_of_regs rfl
@[simp] theorem Chip.get64_updPort (g : Port → Port) : (s.updPort c g).get64 q o = s.get64 q o := Chip.get64_of_regs rfl
@[simp] theorem Chip.reg_updBeat (g : BeatUnit → BeatUnit) : (s.updBeat g).reg j = s.reg j := Chip.reg_of_regs rfl
@[simp] theorem Chip.get_updBeat (g : BeatUnit → BeatUnit) : (s.updBeat g).get q h = s.get q h := Chip.get_of_regs rfl
@[simp] theorem Chip.bit_updBeat (g : BeatUnit → BeatUnit) : (s.updBeat g).bit q h = s.bit q h := Chip.bit_of_regs rfl
@[simp] theorem Chip.get64_updBeat (g : BeatUnit → BeatUnit) : (s.updBeat g).get64 q o = s.get64 q o := Chip.get64_of_regs rfl

end Parts

end Sys2Proof.Machine

namespace Sys2Proof

open Machine

/-! ## What stays: the registers, counts and cores outside a list -/

section Same

variable {s t u : Chip} {l m : List Nat} {c : Nat}

theorem SameRegs.refl (s : Chip) (l : List Nat) : SameRegs s s l := fun _ _ => rfl

theorem SameRegs.trans (h : SameRegs s t l) (h2 : SameRegs t u l) : SameRegs s u l := fun k hk => (h2 k hk).trans (h k hk)

theorem SameRegs.weaken (h : SameRegs s t l) (hs : ∀ k ∈ l, k ∈ m) : SameRegs s t m := fun k hk => h k fun hl => hk (hs k hl)

theorem SameRegs.of_regs (h : SameRegs s t l) (hr : u.regs = t.regs) : SameRegs s u l := fun k hk =>
  (congrArg (fun r => sget regReset r k) hr).trans (h k hk)

theorem SameRegs.setReg (h : SameRegs s t l) {k : Nat} {v : Word} (hk : k ∈ l) : SameRegs s (t.setReg k v) l := fun _ hj =>
  (Chip.reg_setReg_other t v (ne_of_mem_of_not_mem hk hj).symm).trans (h _ hj)

theorem SameRegs.put (h : SameRegs s t l) {page v : Nat} {f : Fld} (hk : page + f.off ∈ l) : SameRegs s (t.put page f v) l :=
  h.setReg hk

theorem SameRegs.inc (h : SameRegs s t l) {page v : Nat} {f : Fld} (hk : page + f.off ∈ l) : SameRegs s (t.inc page f v) l :=
  h.setReg hk

theorem SameRegs.raise (h : SameRegs s t l) {page b : Nat} (hk : page + 0x028 ∈ l) : SameRegs s (t.raise page b) l := h.setReg hk

theorem SameRegs.put64 (h : SameRegs s t l) {page off v : Nat} (hk : page + off ∈ l) (hk2 : page + off + 4 ∈ l) :
    SameRegs s (t.put64 page off v) l := (h.setReg hk).setReg hk2

theorem SameRegs.count (h : SameRegs s t l) {page sel n : Nat} : SameRegs s (t.count page sel n) l := h

theorem SameRegs.get (h : SameRegs s t l) {page : Nat} {f : Fld} (hk : page + f.off ∉ l) : t.get page f = s.get page f :=
  s.get_congr (h _ hk)

theorem SameRegs.bit (h : SameRegs s t l) {page : Nat} {f : Fld} (hk : page + f.off ∉ l) : t.bit page f = s.bit page f := by
  rw [Chip.bit, h.get hk, Chip.bit]

theorem SameRegs.get64 (h : SameRegs s t l) {page off : Nat} (hk : page + off ∉ l) (hk2 : page + off + 4 ∉ l) :
    t.get64 page off = s.get64 page off := s.get64_congr (h _ hk) (h _ hk2)

theorem SameRegs.ite {p : Prop} {_ : Decidable p} (h : SameRegs s t l) (h2 : SameRegs s u l) : SameRegs s (if p then t else u) l := by
  split
  · exact h
  · exact h2

theorem SameCounts.refl (s : Chip) (l : List Nat) : SameCounts s s l := fun _ _ => rfl

theorem SameCounts.trans (h : SameCounts s t l) (h2 : SameCounts t u l) : SameCounts s u l := fun k hk => (h2 k hk).trans (h k hk)

theorem SameCounts.weaken (h : SameCounts s t l) (hs : ∀ k ∈ l, k ∈ m) : SameCounts s t m := fun k hk => h k fun hl => hk (hs k hl)

theorem SameCounts.count (h : SameCounts s t l) {page sel n : Nat} (hk : page + sel ∈ l) : SameCounts s (t.count page sel n) l :=
  fun _ hj => (sget_sset_other _ _ _ (ne_of_mem_of_not_mem hk hj).symm).trans (h _ hj)

theorem SameCounts.countOf (h : SameCounts s t l) {page sel : Nat} (hk : page + sel ∉ l) : t.countOf page sel = s.countOf page sel :=
  congrArg BitVec.toNat (h _ hk)

theorem SameCores.refl (s : Chip) (c : Nat) : SameCores s s c := fun _ _ => rfl

theorem SameCores.trans (h : SameCores s t c) (h2 : SameCores t u c) : SameCores s u c := fun e he => (h2 e he).trans (h e he)

theorem SameCores.updCore (h : SameCores s t c) {f : Core → Core} : SameCores s (t.updCore c f) c := fun e he =>
  (Chip.core_updCore_other t f he).trans (h e he)

theorem SeqFrame.refl (s : Chip) (c : Nat) (l m d : List Nat) : SeqFrame s s c l m d :=
  ⟨rfl, .refl s l, .refl s m, fun _ _ => rfl, .refl s c⟩

theorem SeqFrame.trans {d : List Nat} (h : SeqFrame s t c l m d) (h2 : SeqFrame t u c l m d) : SeqFrame s u c l m d := by
  refine ⟨?_, h.regs.trans h2.regs, h.counts.trans h2.counts, fun k hk => (h2.descs k hk).trans (h.descs k hk),
    h.cores.trans h2.cores⟩
  have ht := h.rest
  have hu := h2.rest
  rw [ht] at hu
  exact hu

theorem SeqFrame.weaken {d l' m' d' : List Nat} (h : SeqFrame s t c l m d) (hl : l ⊆ l') (hm : m ⊆ m') (hd : d ⊆ d') :
    SeqFrame s t c l' m' d' :=
  ⟨h.rest, h.regs.weaken fun _ hk => hl hk, h.counts.weaken fun _ hk => hm hk, fun k hk => h.descs k fun hk2 => hk (hd hk2), h.cores⟩

end Same

/-! ## One write within a sequencer instruction's frame -/

section Frame

variable {s t : Chip} {c : Nat} {l m d : List Nat} (h : SeqFrame s t c l m d)
include h

theorem SeqFrame.setReg {k : Nat} {v : Word} (hk : k ∈ l) : SeqFrame s (t.setReg k v) c l m d :=
  h.trans ⟨rfl, (SameRegs.refl t l).setReg hk, .refl t m, fun _ _ => rfl, .refl t c⟩

theorem SeqFrame.put {page v : Nat} {f : Fld} (hk : page + f.off ∈ l) : SeqFrame s (t.put page f v) c l m d := h.setReg hk

theorem SeqFrame.inc {page v : Nat} {f : Fld} (hk : page + f.off ∈ l) : SeqFrame s (t.inc page f v) c l m d := h.setReg hk

theorem SeqFrame.raise {page b : Nat} (hk : page + 0x028 ∈ l) : SeqFrame s (t.raise page b) c l m d := h.setReg hk

theorem SeqFrame.put64 {page off v : Nat} (hk : page + off ∈ l) (hk2 : page + off + 4 ∈ l) :
    SeqFrame s (t.put64 page off v) c l m d := (h.setReg hk).setReg hk2

theorem SeqFrame.count {page sel n : Nat} (hk : page + sel ∈ m) : SeqFrame s (t.count page sel n) c l m d :=
  h.trans ⟨rfl, .refl t l, (SameCounts.refl t m).count hk, fun _ _ => rfl, .refl t c⟩

theorem SeqFrame.updCore {f : Core → Core} : SeqFrame s (t.updCore c f) c l m d :=
  h.trans ⟨rfl, .refl t l, .refl t m, fun _ _ => rfl, (SameCores.refl t c).updCore⟩

end Frame

theorem SeqFrame.ite {s t u : Chip} {c : Nat} {l m d : List Nat} {p : Prop} {_ : Decidable p} (h : SeqFrame s t c l m d)
    (h2 : SeqFrame s u c l m d) : SeqFrame s (if p then t else u) c l m d := by
  split
  · exact h
  · exact h2

end Sys2Proof
end

section
/-! The sequencer's waits and the record of an overrun (R49 to R51, R93, R125, R239). -/

namespace Sys2Proof.Machine

section Waits

variable {s : Chip} {c : Nat} {w : IWord}

/-- A word that the core takes to issue finds no wait but one for a slot or a block. -/
theorem wait_code_of_takes (h : Takes s c w) {x : SeqWait} (hx : (s.core c).wait = some x) : x.code = 9 ∨ x.code = 10 := by
  have hmay := h.may
  simp only [Chip.mayIssue, hx, Bool.and_eq_true, Bool.or_eq_true, decide_eq_true_eq] at hmay
  exact hmay.2.imp_left And.left

/-- A wait of another kind than the one under way begins anew. -/
theorem Chip.hold_new {code tmo val : Nat} (hcode : ∀ x, (s.core c).wait = some x → x.code ≠ code) :
    s.hold c code tmo w val = s.setWait c ⟨code, s.edges, tmo, s.waitNo, w, val, []⟩ := by
  unfold Chip.hold
  split
  · rw [if_neg (by simp [hcode _ ‹_›])]
  · rfl

theorem hold_of_takes (h : Takes s c w) {code : Nat} (hcode : code ≠ 9 ∧ code ≠ 10) (tmo val : Nat) :
    s.hold c code tmo w val = s.setWait c ⟨code, s.edges, tmo, s.waitNo, w, val, []⟩ :=
  Chip.hold_new fun x hx => by
    obtain h9 | h10 := wait_code_of_takes h hx
    · exact h9 ▸ hcode.1.symm
    · exact h10 ▸ hcode.2.symm

theorem Chip.core_bumpWait (s : Chip) (c : Nat) : s.bumpWait.core c = s.core c := rfl

/-- The core's data once its sequencer waits. -/
theorem Chip.core_setWait (x : SeqWait) : (s.setWait c x).core c = { s.core c with wait := some x } := by
  rw [Chip.setWait, Chip.core_bumpWait, Chip.core_put, Chip.core_updCore_same]

/-- A wait writes STALL, and no other register (R99). -/
theorem Chip.sameRegs_setWait (x : SeqWait) : SameRegs s (s.setWait c x) [pgSEQ c + 0x104] :=
  SameRegs.put (t := s.updCore c fun k => { k with wait := some x }) (.refl s _) (.head _)

/-- A wait begins with its code and its timer, and the program counter stays. -/
theorem Chip.waitsFor_setWait (x : SeqWait) (hb : x.began = s.edges) (hcode : x.code < 16) :
    WaitsFor s (s.setWait c x) c x.code x.tmo x.w := by
  refine ⟨?_, (Chip.sameRegs_setWait x).get (f := fSeqPc) (by simp [fSeqPc]), x, by rw [Chip.core_setWait], rfl, rfl, hb, rfl⟩
  exact (Chip.get_put_same (s.updCore c _) (pgSEQ c) fSeqStall x.code (by decide)).trans (Nat.mod_eq_of_lt hcode)

end Waits

/-! ## The end of issue after writes of the instruction's own -/

section Ends

variable {s u : Chip} {c : Nat}

/-- Issue ends alike whatever the instruction wrote beside the program counter, the open loops and the count of instructions. -/
theorem Chip.retired_of_same (hpc : u.pc c = s.pc c) (hloops : (u.core c).loops = (s.core c).loops)
    (hcount : u.countOf (pgSEQ c) 0 = s.countOf (pgSEQ c) 0) : Retired s (u.retire c) c := by
  obtain ⟨⟨hpc', hstall, hissued⟩, -, -⟩ := u.retire_spec c
  refine ⟨?_, hstall, hcount ▸ hissued⟩
  rw [hpc', nextPc, hpc, hloops, nextPc]

theorem Chip.sameRegs_retire (u : Chip) (c : Nat) : SameRegs u (u.retire c) (seqRegs c) := (u.retire_spec c).2.2.regs

theorem Chip.frame_retire {regs counts : List Nat} (h : SeqFrame s u c regs counts []) :
    SeqFrame s (u.retire c) c (regs ++ seqRegs c) (counts ++ [pgSEQ c]) [] :=
  (h.weaken (List.subset_append_left ..) (List.subset_append_left ..) (List.Subset.refl _)).trans
    ((u.retire_spec c).2.2.weaken (List.subset_append_right ..) (List.subset_append_right ..) (List.Subset.refl _))

/-- An instruction that has written registers and counts of its own, and of its core nothing but what issue ends, has issued. -/
theorem Chip.issued_of_frame {regs counts : List Nat} (h : SeqFrame s u c regs counts [])
    (hpc : pgSEQ c + 0x108 ∉ regs) (hcount : pgSEQ c ∉ counts) (hcore : u.core c = s.core c) :
    Issued s (u.retire c) c regs counts [] := by
  have hpc' : u.pc c = s.pc c := h.regs.get (f := fSeqPc) hpc
  refine ⟨Chip.retired_of_same hpc' (by rw [hcore]) (h.counts.countOf hcount), ?_, Chip.frame_retire h⟩
  rw [(u.retire_spec c).2.1, coreIssued, hcore, hpc', coreIssued]

theorem Chip.issued_retire (s : Chip) (c : Nat) : Issued s (s.retire c) c [] [] [] :=
  Chip.issued_of_frame (.refl s c [] [] []) (by simp) (by simp) rfl

end Ends

/-! ## Overruns (R50, R51) -/

section Overruns

variable (s : Chip) (c t : Nat)

/-- The registers that an overrun writes (R99). -/
def ovrRegs (c : Nat) : List Nat := [pgSEQ c + 0x130, pgSEQ c + 0x12C, pgSEQ c + 0x138, pgSEQ c + 0x13C, pgSEQ c + 0x134]

theorem Chip.overrun_frame : SeqFrame s (s.overrun c t) c (ovrRegs c) [] [] := by
  have hcount : SeqFrame s (s.inc (pgSEQ c) fSeqOvrCount 1) c (ovrRegs c) [] [] :=
    (SeqFrame.refl s c _ [] []).inc (by simp [ovrRegs, fSeqOvrCount])
  rw [Chip.overrun]
  refine SeqFrame.put (SeqFrame.put64 (SeqFrame.updCore (SeqFrame.ite hcount (hcount.inc ?_))) ?_ ?_) ?_
  all_goals simp [ovrRegs, fSeqOvrConsec, fSeqOvrMax]

theorem Chip.overrun_core : (s.overrun c t).core c = { s.core c with ovrPc := s.pc c } := by
  rw [Chip.overrun, Chip.core_put, Chip.core_put64, Chip.core_updCore_same]
  split <;> rfl

/-- What the overrun registers hold once an overrun is recorded. -/
theorem Chip.overrun_fields :
    (s.overrun c t).get (pgSEQ c) fSeqOvrCount = min (s.get (pgSEQ c) fSeqOvrCount + 1) (2 ^ 32 - 1) ∧
    (s.overrun c t).get (pgSEQ c) fSeqOvrConsec =
      (if s.ovrFrozen then s.get (pgSEQ c) fSeqOvrConsec else min (s.get (pgSEQ c) fSeqOvrConsec + 1) 255) ∧
    (s.overrun c t).get64 (pgSEQ c) 0x138 = s.beat ∧
    (s.overrun c t).get (pgSEQ c) fSeqOvrMax = max (s.get (pgSEQ c) fSeqOvrMax) (min (s.beat - t) (2 ^ 32 - 1)) := by
  have hmax := s.get_lt (pgSEQ c) fSeqOvrMax
  unfold Chip.overrun
  refine ⟨?_, ?_, ?_, ?_⟩
  · split <;> simp [Chip.get_put_off, Chip.get_put64_other, Chip.get_inc_off, Chip.get_inc_same, fSeqOvrCount, fSeqOvrConsec, fSeqOvrMax]
  · split <;> simp [Chip.get_put_off, Chip.get_put64_other, Chip.get_inc_off, Chip.get_inc_same, fSeqOvrCount, fSeqOvrConsec, fSeqOvrMax]
  · refine (Chip.get64_congr _ (Chip.reg_put_other _ _ _ _ _ (by simp [fSeqOvrMax])) (Chip.reg_put_other _ _ _ _ _ (by simp [fSeqOvrMax]))).trans ?_
    exact (Chip.get64_put64_same _ _ _ _ (s.get64_lt pgBEAT 0x118))
  · rw [Chip.get_put_same _ _ _ _ (by decide)]
    exact Nat.mod_eq_of_lt (by simp only [fSeqOvrMax] at *; omega)

end Overruns

/-! ## WAITB (R49 to R51) -/

section Waitb

variable {s : State} {c : Nat} {w : IWord}

theorem waitb_early (h : Takes s.chip c w) (hop : opcode w = 0x0F) (ht : s.chip.beat < s.chip.fenceTarget c w) :
    Runs (.waitb c w) s fun t => WaitsFor s.chip t c 1 (s.chip.waitTmo c) w := by
  refine runs_issue rfl h (by simp [hop]) ?_
  rw [Chip.waitb, if_pos ht, hold_of_takes h (by decide)]
  exact Chip.waitsFor_setWait _ rfl (show 1 < 16 by decide)

theorem waitb_late (h : Takes s.chip c w) (hop : opcode w = 0x0F) (ht : s.chip.fenceTarget c w ≤ s.chip.beat) :
    Runs (.waitb c w) s fun t =>
      t.get (pgSEQ c) fSeqOvrCount = min (s.chip.get (pgSEQ c) fSeqOvrCount + 1) (2 ^ 32 - 1) ∧
      t.get (pgSEQ c) fSeqOvrConsec =
        (if s.chip.ovrFrozen then s.chip.get (pgSEQ c) fSeqOvrConsec else min (s.chip.get (pgSEQ c) fSeqOvrConsec + 1) 255) ∧
      t.get64 (pgSEQ c) 0x138 = s.chip.beat ∧
      t.get (pgSEQ c) fSeqOvrMax =
        max (s.chip.get (pgSEQ c) fSeqOvrMax) (min (s.chip.beat - s.chip.fenceTarget c w) (2 ^ 32 - 1)) ∧
      Retired s.chip t c ∧ t.core c = { coreIssued s.chip c with ovrPc := s.chip.pc c } ∧
      SeqFrame s.chip t c (ovrRegs c ++ seqRegs c) [pgSEQ c] [] := by
  refine runs_issue rfl h (by simp [hop]) ?_
  rw [Chip.waitb, if_neg (Nat.not_lt.2 ht)]
  have hframe := s.chip.overrun_frame c (s.chip.fenceTarget c w)
  have hcore := s.chip.overrun_core c (s.chip.fenceTarget c w)
  obtain ⟨hcount, hconsec, hbeat, hmax⟩ := s.chip.overrun_fields c (s.chip.fenceTarget c w)
  generalize s.chip.overrun c (s.chip.fenceTarget c w) = u at *
  have hpc : u.pc c = s.chip.pc c := hframe.regs.get (by simp [ovrRegs, fSeqPc])
  have hr := Chip.sameRegs_retire u c
  refine ⟨(hr.get (by simp [seqRegs, fSeqOvrCount])).trans hcount, (hr.get (by simp [seqRegs, fSeqOvrConsec])).trans hconsec,
    (hr.get64 (by simp [seqRegs]) (by simp [seqRegs])).trans hbeat, (hr.get (by simp [seqRegs, fSeqOvrMax])).trans hmax,
    Chip.retired_of_same hpc (by rw [hcore]) (hframe.counts.countOf (by simp)), ?_, Chip.frame_retire hframe⟩
  rw [(u.retire_spec c).2.1, coreIssued, hcore, hpc, coreIssued]

end Waitb

/-! ## The ends of waits (R49, R51, R63, R125, R239) -/

section Ends

variable {s : State} {c : Nat} {x : SeqWait}

/-- The sequencer of a core that is RUNNING or HELD ends its waits. -/
theorem Chip.seqIn_run {s : Chip} {c : Nat} (h : s.seqState c = sqRUNNING ∨ s.seqState c = sqHELD) :
    s.seqIn c [sqRUNNING, sqHELD] = true := by
  simpa [Chip.seqIn] using h

theorem fenceMet_runs (hc : c < 144) (hup : s.chip.fabricUp = true) (hx : (s.chip.core c).wait = some x) (hcode : x.code = 1)
    (hval : x.val ≤ s.chip.beat) (hst : s.chip.seqState c = sqRUNNING ∨ s.chip.seqState c = sqHELD) :
    Runs (.fenceMet c) s fun t =>
      t.get (pgSEQ c) fSeqOvrConsec = (if s.chip.ovrFrozen then s.chip.get (pgSEQ c) fSeqOvrConsec else 0) ∧
      Issued s.chip t c [pgSEQ c + 0x12C] [pgSEQ c + 2] [] := by
  refine runs_core rfl hc hup ?_
  have hmet : (x.code = 1 && decide (x.val ≤ s.chip.beat) && s.chip.seqIn c [sqRUNNING, sqHELD]) = true := by
    simp [hcode, hval, Chip.seqIn_run hst]
  rw [Chip.fenceMet, hx]
  dsimp only
  rw [if_pos hmet]
  constructor
  · refine ((Chip.sameRegs_retire _ c).get (by simp [seqRegs, fSeqOvrConsec])).trans ?_
    rw [Chip.get_count]
    split
    · rfl
    · exact Chip.get_put_same _ _ _ _ (by decide)
  · refine Chip.issued_of_frame (SeqFrame.count (SeqFrame.ite (.refl _ c _ _ _) ((SeqFrame.refl _ c _ _ _).put ?_)) ?_) ?_ ?_ ?_
    · simp [fSeqOvrConsec]
    · simp
    · simp
    · simp
    · rw [Chip.core_count]
      split <;> rfl

theorem cwaitComplete_runs (hc : c < 144) (hup : s.chip.fabricUp = true) (hx : (s.chip.core c).wait = some x) (hcode : x.code = 11)
    (hst : s.chip.seqState c = sqRUNNING ∨ s.chip.seqState c = sqHELD)
    (hdone : ∀ m ∈ (s.chip.core c).queue uCEL ++ (s.chip.core c).running uCEL, m.id ∉ x.ids) :
    Runs (.cwaitComplete c) s fun t => Issued s.chip t c [] [] [] := by
  refine runs_core rfl hc hup ?_
  have hnone : (((s.chip.core c).queue uCEL ++ (s.chip.core c).running uCEL).any fun m => x.ids.contains m.id) = false := by
    simpa [or_imp, forall_and] using hdone
  rw [Chip.cwaitComplete, hx]
  dsimp only
  rw [if_pos (by simp only [hcode, Chip.seqIn_run hst, hnone]; rfl)]
  exact Chip.issued_retire _ c

theorem waitarrMet_runs (hc : c < 144) (hup : s.chip.fabricUp = true) (hx : (s.chip.core c).wait = some x) (hcode : x.code = 12)
    (hst : s.chip.seqState c = sqRUNNING ∨ s.chip.seqState c = sqHELD)
    (hmet : x.val % 2 ^ 32 ≤ s.chip.get (pgSYNC c) (fArr (x.val / 2 ^ 32))) :
    Runs (.waitarrMet c) s fun t => Issued s.chip t c [] [] [] := by
  refine runs_core rfl hc hup ?_
  have harr : s.chip.arrMet c (x.val / 2 ^ 32) (x.val % 2 ^ 32) = true := decide_eq_true hmet
  rw [Chip.waitarrMet, hx]
  dsimp only
  rw [if_pos (by simp only [hcode, Chip.seqIn_run hst, harr]; rfl)]
  exact Chip.issued_retire _ c

end Ends

/-! ## CWAIT and WAITARR (R125, R239) -/

section Starts

variable {s : State} {c : Nat} {w : IWord}

theorem cwait_free (h : Takes s.chip c w) (hop : opcode w = 0x10) (hids : (s.chip.core c).tagged (bf w 0 4) = []) :
    Runs (.cwait c w) s fun t => Issued s.chip t c [] [] [] := by
  refine runs_issue rfl h (by simp [hop]) ?_
  rw [Chip.cwait, if_pos hids]
  exact Chip.issued_retire _ c

theorem cwait_waits (h : Takes s.chip c w) (hop : opcode w = 0x10) (hids : (s.chip.core c).tagged (bf w 0 4) ≠ []) :
    Runs (.cwait c w) s fun t =>
      WaitsFor s.chip t c 11 (s.chip.waitTmo c) w ∧ ((t.core c).wait.map (·.ids)) = some ((s.chip.core c).tagged (bf w 0 4)) := by
  refine runs_issue rfl h (by simp [hop]) ?_
  rw [Chip.cwait, if_neg hids]
  exact ⟨Chip.waitsFor_setWait _ rfl (show 11 < 16 by decide), by rw [Chip.core_setWait]; rfl⟩

variable {n : Nat} (hn : n = if sCS w then (s.chip.cnt c (sCA w)).toNat else wIMM0 w)
include hn

theorem waitarr_free (h : Takes s.chip c w) (hop : opcode w = 0x11) (hmet : n ≤ s.chip.get (pgSYNC c) (fArr (bf w 32 4))) :
    Runs (.waitarr c w) s fun t => Issued s.chip t c [] [] [] := by
  refine runs_issue rfl h (by simp [hop]) ?_
  rw [Chip.waitarr, ← hn, if_pos (show s.chip.arrMet c (bf w 32 4) n = true from decide_eq_true hmet)]
  exact Chip.issued_retire _ c

theorem waitarr_waits (h : Takes s.chip c w) (hop : opcode w = 0x11) (hless : s.chip.get (pgSYNC c) (fArr (bf w 32 4)) < n) :
    Runs (.waitarr c w) s fun t =>
      WaitsFor s.chip t c 12 (s.chip.waitTmo c) w ∧ ((t.core c).wait.map (·.val)) = some (n + bf w 32 4 * 2 ^ 32) := by
  refine runs_issue rfl h (by simp [hop]) ?_
  have hnot : ¬s.chip.arrMet c (bf w 32 4) n = true := by simpa [Chip.arrMet] using hless
  rw [Chip.waitarr, ← hn, if_neg hnot]
  exact ⟨Chip.waitsFor_setWait _ rfl (show 12 < 16 by decide), by rw [Chip.core_setWait]; rfl⟩

end Starts

/-- Settles O14: each instruction that waits, and each end of a wait, is one of the lemmas above. -/
theorem fencesAndWaits : Obligations.FencesAndWaits := by
  unfold Obligations.FencesAndWaits
  refine ⟨⟨fun s c w h hop => ⟨waitb_early h hop, waitb_late h hop⟩, fun s c x hc hup hx hcode hval hst =>
    fenceMet_runs hc hup hx hcode hval hst⟩, fun s c w h => ⟨cwait_free h, cwait_waits h, fun hop =>
    ⟨waitarr_free rfl h hop, waitarr_waits rfl h hop⟩⟩, fun s c x hc hup hx hst => ⟨fun hcode hdone => ?_, fun hcode hmet => ?_⟩⟩
  · exact cwaitComplete_runs hc hup hx hcode hst hdone
  · exact waitarrMet_runs hc hup hx hcode hst hmet

end Sys2Proof.Machine
end

section
/-! START: what it writes and what it leaves (R51, R71, R72, R144, R399). -/

namespace Sys2Proof.Machine

section Start

variable (s : Chip) (c : Nat)

@[simp] theorem Chip.get_clearCoreCounts (page : Nat) (f : Fld) : (s.clearCoreCounts c).get page f = s.get page f :=
  Chip.get_of_regs rfl

@[simp] theorem Chip.reg_clearCoreCounts (k : Nat) : (s.clearCoreCounts c).reg k = s.reg k := Chip.reg_of_regs rfl

@[simp] theorem Chip.get64_clearCoreCounts (page off : Nat) : (s.clearCoreCounts c).get64 page off = s.get64 page off :=
  Chip.get64_of_regs rfl

/-- The core's data that START leaves (R71, R72, R181, R196). -/
def Core.started (k : Core) (waitNo : Nat) : Core :=
  { k with loops := [], wait := none, adjMmul := 0, adjDone := 0, corr := [], splitIssued := false, chain := none,
           chainIssued := none, deferred := false, waitBase := waitNo }

/-- The registers of START's own: the sequencer's, then those of the other engines (R72, R99, R144, R190, R222). -/
def Chip.startSeq (s : Chip) (c : Nat) : Chip :=
  (((((((s.setPc c (s.get (pgSEQ c) fSeqStartPc)).put (pgSEQ c) fSeqState sqARMED).put (pgSEQ c) fSeqLate
    (if s.get64 (pgSEQ c) 0x110 ≤ s.beat then 1 else 0)).put (pgSEQ c) fSeqIgmAct (s.get (pgSEQ c) fSeqIgm)).put (pgSEQ c) fSeqOvrConsec
    0).put (pgSEQ c) fSeqOvrCount 0).put (pgSEQ c) fSeqOvrMax 0).put64 (pgSEQ c) 0x138 0

def Chip.startUnits (s : Chip) (c : Nat) : Chip :=
  (((((s.setReg (pgVEC c + 0x108) 0).put (pgSYNC c) fSyncEsc 0).put (pgSYNC c) fSyncEscCyc 0).put (pgSYNC c) fSyncProbes 0).put
    (pgADJ c) ⟨0x110, 0, 32⟩ 0).put (pgVEC c) ⟨0x104, 9, 1⟩ 0

variable {s c}

theorem Chip.start_eq (h : s.seqIn c [sqIDLE, sqHALTED] = true) (hctx : s.ctxState (s.ctxOf c) = 1) :
    s.start c = (((s.startSeq c).startUnits c).clearCoreCounts c).updCore c fun k => k.started s.waitNo := by
  rw [Chip.start, if_pos (by simp [h, hctx])]
  rfl

variable (s c)

/-- The registers of the sequencer that START writes, and those of the other engines. -/
def startSeqRegs (c : Nat) : List Nat :=
  [pgSEQ c + 0x104, pgSEQ c + 0x108, pgSEQ c + 0x12C, pgSEQ c + 0x130, pgSEQ c + 0x134, pgSEQ c + 0x138, pgSEQ c + 0x13C]

def startUnitRegs (c : Nat) : List Nat :=
  [pgSEQ c + 0x2104, pgSEQ c + 0x2108, pgSEQ c + 0x510C, pgSEQ c + 0x5110, pgSEQ c + 0x5114, pgSEQ c + 0x4110]

theorem Chip.startUnits_regs : SameRegs s (s.startUnits c) (startUnitRegs c) := by
  unfold Chip.startUnits
  refine SameRegs.put (SameRegs.put (SameRegs.put (SameRegs.put (SameRegs.put (SameRegs.setReg (.refl s _) ?_) ?_) ?_) ?_) ?_) ?_
  all_goals simp [startUnitRegs, pgVEC, pgSYNC, pgADJ, fSyncEsc, fSyncEscCyc, fSyncProbes, Nat.add_assoc]

theorem Chip.startSeq_regs : SameRegs s (s.startSeq c) (startSeqRegs c) := by
  unfold Chip.startSeq Chip.setPc
  refine SameRegs.put64 (SameRegs.put (SameRegs.put (SameRegs.put (SameRegs.put (SameRegs.put (SameRegs.put (SameRegs.put
    (.refl s _) ?_) ?_) ?_) ?_) ?_) ?_) ?_) ?_ ?_
  all_goals simp [startSeqRegs, fSeqState, fSeqPc, fSeqLate, fSeqIgmAct, fSeqOvrConsec, fSeqOvrCount, fSeqOvrMax]

theorem Chip.startSeq_fields :
    (s.startSeq c).get (pgSEQ c) fSeqState = sqARMED ∧ (s.startSeq c).get (pgSEQ c) fSeqPc = s.get (pgSEQ c) fSeqStartPc ∧
    (s.startSeq c).get (pgSEQ c) fSeqLate = (if s.get64 (pgSEQ c) 0x110 ≤ s.beat then 1 else 0) ∧
    (s.startSeq c).get (pgSEQ c) fSeqIgmAct = s.get (pgSEQ c) fSeqIgm ∧ (s.startSeq c).get (pgSEQ c) fSeqOvrCount = 0 ∧
    (s.startSeq c).get (pgSEQ c) fSeqOvrConsec = 0 ∧ (s.startSeq c).get (pgSEQ c) fSeqOvrMax = 0 ∧
    (s.startSeq c).get64 (pgSEQ c) 0x138 = 0 := by
  have hpc := s.get_lt (pgSEQ c) fSeqStartPc
  have higm := s.get_lt (pgSEQ c) fSeqIgm
  have hlate : (if s.get64 (pgSEQ c) 0x110 ≤ s.beat then 1 else 0) % 2 = if s.get64 (pgSEQ c) 0x110 ≤ s.beat then 1 else 0 := by
    split <;> rfl
  unfold Chip.startSeq Chip.setPc
  refine ⟨?_, ?_, ?_, ?_, ?_, ?_, ?_, Chip.get64_put64_same _ _ _ _ (by decide)⟩
  all_goals
    simp only [fSeqState, fSeqPc, fSeqLate, fSeqIgmAct, fSeqOvrConsec, fSeqOvrCount, fSeqOvrMax]
    simp [Chip.get_put_off, Chip.get_put_same, Chip.get_put64_other, hlate]
  · decide
  · exact hpc
  · exact Nat.le_of_lt_succ higm

theorem Chip.startUnits_fields :
    (s.startUnits c).reg (pgVEC c + 0x108) = 0 ∧ (s.startUnits c).get (pgSYNC c) fSyncEsc = 0 ∧
    (s.startUnits c).get (pgSYNC c) fSyncEscCyc = 0 ∧ (s.startUnits c).get (pgSYNC c) fSyncProbes = 0 := by
  unfold Chip.startUnits
  simp only [pgVEC, pgSYNC, pgADJ, fSyncEsc, fSyncEscCyc, fSyncProbes]
  refine ⟨?_, ?_, ?_, ?_⟩
  all_goals simp [Chip.get_put_off, Chip.get_put_same, Chip.reg_put_other, Nat.add_assoc]

theorem Chip.startSeq_rest : RegsOnly s (s.startSeq c) :=
  (RegsOnly.refl s).put.put.put.put.put.put.put.put64

theorem Chip.startUnits_rest : RegsOnly s (s.startUnits c) := (RegsOnly.refl s).setReg.put.put.put.put.put

end Start

/-- START of a core that may be armed. -/
theorem start_runs {s : State} {c : Nat} (hp : s.chip.present c = true) (hup : s.chip.fabricUp = true)
    (hin : (s.chip.core c).inReset = false) (hst : s.chip.seqState c = sqIDLE ∨ s.chip.seqState c = sqHALTED)
    (hctx : s.chip.ctxState (s.chip.ctxOf c) = 1) :
    Runs (.start c) s fun t => t = (((s.chip.startSeq c).startUnits c).clearCoreCounts c).updCore c fun k => k.started s.chip.waitNo := by
  refine runs_core rfl (present_lt hp) hup ?_
  rw [Chip.toCore, hp, hin]
  exact Chip.start_eq (by simpa [Chip.seqIn] using hst) hctx

/-- START arms the core (R51, R71, R72, R144, R399). -/
theorem start_arms {s : State} {c : Nat} (hp : s.chip.present c = true) (hup : s.chip.fabricUp = true)
    (hin : (s.chip.core c).inReset = false) (hst : s.chip.seqState c = sqIDLE ∨ s.chip.seqState c = sqHALTED)
    (hctx : s.chip.ctxState (s.chip.ctxOf c) = 1) :
    Runs (.start c) s fun t =>
      t.seqState c = sqARMED ∧ t.pc c = s.chip.get (pgSEQ c) fSeqStartPc ∧
      t.get (pgSEQ c) fSeqLate = (if s.chip.get64 (pgSEQ c) 0x110 ≤ s.chip.beat then 1 else 0) ∧
      t.get (pgSEQ c) fSeqIgmAct = s.chip.get (pgSEQ c) fSeqIgm ∧ t.get (pgSEQ c) fSeqOvrCount = 0 ∧
      t.get (pgSEQ c) fSeqOvrConsec = 0 ∧ t.get (pgSEQ c) fSeqOvrMax = 0 ∧ t.get64 (pgSEQ c) 0x138 = 0 ∧
      t.reg (pgVEC c + 0x108) = 0 ∧ t.get (pgSYNC c) fSyncEsc = 0 ∧ t.get (pgSYNC c) fSyncEscCyc = 0 ∧
      t.get (pgSYNC c) fSyncProbes = 0 ∧ (t.core c).loops = [] ∧ (t.core c).wait = none ∧ t.mem = s.chip.mem ∧
      t.descs = s.chip.descs ∧ t.slots = s.chip.slots ∧ SameCores s.chip t c ∧ (∀ n, n < 16 → t.cnt c n = s.chip.cnt c n) ∧
      (∀ n, n < 8 → t.reg (pgSEQ c + 0x1A0 + 8 * n) = s.chip.reg (pgSEQ c + 0x1A0 + 8 * n) ∧
        t.reg (pgSEQ c + 0x1A4 + 8 * n) = s.chip.reg (pgSEQ c + 0x1A4 + 8 * n)) := by
  refine runs_mono (start_runs hp hup hin hst hctx) ?_
  rintro t rfl
  obtain ⟨hstate, hpc, hlate, higm, hcount, hconsec, hmax, hlast⟩ := s.chip.startSeq_fields c
  obtain ⟨hflags, hesc, hescCyc, hprobes⟩ := (s.chip.startSeq c).startUnits_fields c
  have hrest := (s.chip.startSeq_rest c).trans ((s.chip.startSeq c).startUnits_rest c)
  have hunits := (s.chip.startSeq c).startUnits_regs c
  have hseq := s.chip.startSeq_regs c
  generalize s.chip.startSeq c = u at *
  generalize u.startUnits c = v at *
  have hkeep : ∀ f : Fld, f.off < 0x1000 → v.get (pgSEQ c) f = u.get (pgSEQ c) f := fun f hf =>
    hunits.get (by simp only [startUnitRegs, List.mem_cons, List.not_mem_nil, or_false]; omega)
  have hreg : ∀ o n, 0x160 ≤ o → o + 8 * n < 0x1000 → v.reg (pgSEQ c + o + 8 * n) = s.chip.reg (pgSEQ c + o + 8 * n) := fun o n h1 h2 =>
    (hunits _ (by simp only [startUnitRegs, List.mem_cons, List.not_mem_nil, or_false]; omega)).trans
      (hseq _ (by simp only [startSeqRegs, List.mem_cons, List.not_mem_nil, or_false]; omega))
  have hcnt : ∀ n, n < 16 → v.cnt c n = s.chip.cnt c n := fun n hn =>
    (hunits _ (by simp only [startUnitRegs, List.mem_cons, List.not_mem_nil, or_false]; omega)).trans
      (hseq _ (by simp only [startSeqRegs, List.mem_cons, List.not_mem_nil, or_false]; omega))
  simp only [Chip.seqState, Chip.pc, Chip.cnt, Chip.get_updCore, Chip.get_clearCoreCounts, Chip.get64_updCore,
    Chip.get64_clearCoreCounts, Chip.reg_updCore, Chip.reg_clearCoreCounts, Chip.core_updCore_same]
  refine ⟨(hkeep _ (by decide)).trans hstate, (hkeep _ (by decide)).trans hpc, (hkeep _ (by decide)).trans hlate,
    (hkeep _ (by decide)).trans higm, (hkeep _ (by decide)).trans hcount, (hkeep _ (by decide)).trans hconsec,
    (hkeep _ (by decide)).trans hmax, (hunits.get64 (by simp [startUnitRegs]) (by simp [startUnitRegs])).trans hlast, hflags, hesc,
    hescCyc, hprobes, rfl, rfl, ?_, ?_, ?_, ?_, hcnt,
    fun n hn => ⟨hreg _ n (by decide) (by omega), hreg _ n (by decide) (by omega)⟩⟩
  · simp [Chip.clearCoreCounts, hrest.mem]
  · simp [Chip.clearCoreCounts, hrest.keeps Chip.descs fun _ _ => rfl]
  · simp [Chip.clearCoreCounts, hrest.keeps Chip.slots fun _ _ => rfl]
  · refine SameCores.updCore fun e _ => Chip.core_of_cores ?_
    simp [Chip.clearCoreCounts, hrest.cores]

end Sys2Proof.Machine
end

section
/-! The ramp limiter: which starts it takes, and which it defers (R71, R433, R434). -/

namespace Sys2Proof.Machine

/-- A core whose start is deferred. -/
def Core.defer (k : Core) : Core := { k with deferred := true }

theorem Core.defer_deferred {k : Core} (h : k.deferred = true) : k.defer = k := by
  cases k
  cases h
  rfl

section Defer

variable (s : Chip) (c : Nat)

theorem Chip.deferStart_cores (d : Nat) : (s.deferStart c).core d = if d = c then (s.core d).defer else s.core d := by
  unfold Chip.deferStart
  split
  · split
    · subst d
      exact (Core.defer_deferred ‹_›).symm
    · rfl
  · rw [Chip.core_count]
    split
    · subst d
      exact Chip.core_updCore_same s _ _
    · exact Chip.core_updCore_other s _ ‹_›

theorem Chip.deferStart_count : (s.deferStart c).countOf pgGOV 7 =
    min (s.countOf pgGOV 7 + if (s.core c).deferred then 0 else 1) (2 ^ 64 - 1) := by
  have := s.countOf_lt pgGOV 7
  unfold Chip.deferStart
  split
  · omega
  · rw [Chip.countOf_count_same, Chip.countOf_updCore]

theorem Chip.deferStart_rest : (s.deferStart c).regs = s.regs ∧ (s.deferStart c).mem = s.mem ∧ (s.deferStart c).pow = s.pow ∧
    SameCounts s (s.deferStart c) [pgGOV + 7] := by
  unfold Chip.deferStart
  split
  · exact ⟨rfl, rfl, rfl, .refl s _⟩
  · refine ⟨by simp, by simp, by simp, SameCounts.count (t := s.updCore c _) ?_ (.head _)⟩
    exact SameCounts.refl s _

/-- Deferring every core of a list: each is deferred once, and counted where it was not yet (R434). -/
theorem Chip.deferAll_spec (l : List Nat) : l.Nodup →
    (∀ d, (s.forEach l Chip.deferStart).core d = if d ∈ l then (s.core d).defer else s.core d) ∧
    (s.forEach l Chip.deferStart).countOf pgGOV 7 =
      min (s.countOf pgGOV 7 + (l.filter fun d => !(s.core d).deferred).length) (2 ^ 64 - 1) ∧
    (s.forEach l Chip.deferStart).regs = s.regs ∧ (s.forEach l Chip.deferStart).mem = s.mem ∧
    (s.forEach l Chip.deferStart).pow = s.pow ∧ SameCounts s (s.forEach l Chip.deferStart) [pgGOV + 7] := by
  induction l generalizing s with
  | nil =>
    have hlt := s.countOf_lt pgGOV 7
    exact fun _ => ⟨fun _ => rfl, (Nat.min_eq_left (Nat.le_sub_one_of_lt hlt)).symm, rfl, rfl, rfl, .refl s _⟩
  | cons c l ih =>
    intro hnodup
    obtain ⟨hc, hl⟩ := List.nodup_cons.1 hnodup
    obtain ⟨hcore, hcount, hregs, hmem, hpow, hcounts⟩ := ih (s.deferStart c) hl
    obtain ⟨hregs', hmem', hpow', hcounts'⟩ := s.deferStart_rest c
    have hother : ∀ d ∈ l, (s.deferStart c).core d = s.core d := fun d hd => by
      rw [Chip.deferStart_cores, if_neg fun e : d = c => hc (e ▸ hd)]
    refine ⟨fun d => ?_, ?_, hregs.trans hregs', hmem.trans hmem', hpow.trans hpow', hcounts'.trans hcounts⟩
    · rw [Chip.forEach, List.foldl_cons]
      refine (hcore d).trans ?_
      rw [Chip.deferStart_cores]
      by_cases hd : d = c
      · subst hd
        simp [hc]
      · simp [hd]
    · rw [Chip.forEach, List.foldl_cons]
      refine hcount.trans ?_
      rw [Chip.deferStart_count, List.filter_congr fun d hd => by rw [hother d hd], List.filter_cons]
      cases (s.core c).deferred <;> simp <;> omega

end Defer

/-! ## The start beat of an ARMED core -/

section CoreStart

variable {s : State} {c : Nat} (hp : s.chip.present c = true) (hup : s.chip.fabricUp = true) (hin : (s.chip.core c).inReset = false)
  (hst : s.chip.seqState c = sqARMED) (hbeat : s.chip.get64 (pgSEQ c) 0x110 ≤ s.chip.beat) (hps : 2 ≤ s.chip.get pgGOV fPstate)
include hp hup hin hst hbeat hps

omit hup in
theorem mayStart_armed : s.chip.mayStart c = true := by
  simp [Chip.mayStart, hp, hin, hst, hbeat, hps]

/-- A start that the limiter defers stays ARMED, and each core that it defers is counted once. -/
def Deferred (s t : Chip) (c : Nat) (late : Nat → Bool) : Prop :=
  t.seqState c = sqARMED ∧ t.pow = { s.pow with stopped := true } ∧
  (∀ d, t.core d = if late d then { s.core d with deferred := true } else s.core d) ∧
  t.countOf pgGOV 7 =
    min (s.countOf pgGOV 7 + (s.presentCores.filter fun d => late d && !(s.core d).deferred).length) (2 ^ 64 - 1) ∧
  SameCounts s t [pgGOV + 7] ∧ t.regs = s.regs ∧ t.mem = s.mem

omit hup hin hbeat hps hp in
theorem deferred_of_deferAll {u : Chip} {l : List Nat} {late : Nat → Bool} (hl : l = s.chip.presentCores.filter late)
    (hlate : ∀ d, late d = true → s.chip.present d = true) (hu : u = { s.chip with pow := { s.chip.pow with stopped := true } }) :
    Deferred s.chip (u.forEach l Chip.deferStart) c late := by
  have hnodup : l.Nodup := hl ▸ (List.nodup_range.filter _).filter _
  obtain ⟨hcore, hcount, hregs, hmem, hpow, hcounts⟩ := u.deferAll_spec l hnodup
  have hucore : ∀ d, u.core d = s.chip.core d := fun d => Chip.core_of_cores (by rw [hu])
  have hmem_l : ∀ d, d ∈ l ↔ late d = true := fun d => by
    rw [hl, List.mem_filter, Chip.presentCores, List.mem_filter, List.mem_range]
    exact ⟨fun h => h.2, fun h => ⟨⟨present_lt (hlate d h), hlate d h⟩, h⟩⟩
  have hregs' : u.regs = s.chip.regs := by rw [hu]
  refine ⟨?_, hpow.trans (by rw [hu]), fun d => ?_, ?_, ?_, hregs.trans hregs', hmem.trans (by rw [hu])⟩
  · exact (Chip.get_of_regs (hregs.trans hregs')).trans hst
  · rw [hcore, hucore]
    simp only [hmem_l]
    rfl
  · have hc : u.countOf pgGOV 7 = s.chip.countOf pgGOV 7 := Chip.countOf_of_counts (by rw [hu])
    rw [hcount, hc, hl, List.filter_filter]
    simp only [hucore, Bool.and_comm]
  · refine SameCounts.trans (fun k _ => ?_) hcounts
    rw [hu]

theorem coreStart_stopped (hstop : s.chip.pow.stopped = true) :
    Runs (.coreStart c) s fun t => Deferred s.chip t c fun d => decide (d = c) := by
  refine runs_core rfl (present_lt hp) hup ?_
  have hmay := mayStart_armed hp hin hst hbeat hps
  have hl : [c] = s.chip.presentCores.filter fun d => decide (d = c) := by
    have hnodup : s.chip.presentCores.Nodup := List.nodup_range.filter _
    have hmem : c ∈ s.chip.presentCores := List.mem_filter.2 ⟨List.mem_range.2 (present_lt hp), hp⟩
    rw [List.filter_eq, List.count_eq_one_of_mem hnodup hmem, List.replicate_one]
  rw [Chip.coreStart, hmay, hstop]
  exact deferred_of_deferAll hst hl (fun d hd => of_decide_eq_true hd ▸ hp) (by rw [← hstop])

section Turn

variable (hstop : s.chip.pow.stopped = false)
  (hfirst : ∀ d, s.chip.present d = true → s.chip.mayStart d = true → s.chip.startsBefore d c = false)
include hstop hfirst

omit hup in
/-- The limiter's decision on a core whose turn it is. -/
theorem coreStart_turn : s.chip.coreStart c =
    if s.chip.rampFits s.chip.beat (48 * s.chip.actw c) = true then
      ((s.chip.addCharge s.chip.beat (48 * s.chip.actw c)).updCore c fun k => { k with deferred := false }).put (pgSEQ c) fSeqState
        (if s.chip.bit (pgSEQ c) fBlkCtrlHold then sqHELD else sqRUNNING)
    else ({ s.chip with pow := { s.chip.pow with stopped := true } } : Chip).forEach
      (s.chip.presentCores.filter s.chip.mayStart) Chip.deferStart := by
  have hnone : (s.chip.presentCores.any fun d => s.chip.mayStart d && s.chip.startsBefore d c) = false := by
    refine List.any_eq_false.2 fun d hd => ?_
    cases hm : s.chip.mayStart d
    · simp
    · simp [hfirst d (List.mem_filter.1 hd).2 hm]
  simp only [Chip.coreStart, mayStart_armed hp hin hst hbeat hps, hstop, hnone, Bool.not_true, Bool.false_eq_true, if_false]

theorem coreStart_unfit (hfits : s.chip.rampFits s.chip.beat (48 * s.chip.actw c) = false) :
    Runs (.coreStart c) s fun t => Deferred s.chip t c fun d => s.chip.present d && s.chip.mayStart d := by
  refine runs_core rfl (present_lt hp) hup ?_
  rw [coreStart_turn hp hin hst hbeat hps hstop hfirst, hfits]
  refine deferred_of_deferAll hst (List.filter_congr fun d hd => ?_) (fun d hd => (Bool.and_eq_true_iff.1 hd).1) rfl
  rw [(List.mem_filter.1 hd).2, Bool.true_and]

theorem coreStart_fits (hfits : s.chip.rampFits s.chip.beat (48 * s.chip.actw c) = true) :
    Runs (.coreStart c) s fun t =>
      t.seqState c = (if s.chip.bit (pgSEQ c) fBlkCtrlHold then sqHELD else sqRUNNING) ∧
      t.chargeAt s.chip.beat = s.chip.chargeAt s.chip.beat + 48 * s.chip.actw c ∧ t.core c = { s.chip.core c with deferred := false } ∧
      SameRegs s.chip t [pgSEQ c + 0x104] ∧ t.counts = s.chip.counts ∧ t.mem = s.chip.mem ∧ SameCores s.chip t c := by
  refine runs_core rfl (present_lt hp) hup ?_
  rw [coreStart_turn hp hin hst hbeat hps hstop hfirst, if_pos hfits]
  generalize hu : s.chip.addCharge s.chip.beat (48 * s.chip.actw c) = u
  have hcharge : u.chargeAt s.chip.beat = s.chip.chargeAt s.chip.beat + 48 * s.chip.actw c := by
    rw [← hu]
    exact sget_sset_same _ _ _ _
  have hcores : u.cores = s.chip.cores := by rw [← hu, Chip.addCharge]
  have hregs : u.regs = s.chip.regs := by rw [← hu, Chip.addCharge]
  have hcounts : u.counts = s.chip.counts := by rw [← hu, Chip.addCharge]
  have hmem : u.mem = s.chip.mem := by rw [← hu, Chip.addCharge]
  have hsame : SameRegs s.chip u [pgSEQ c + 0x104] := (SameRegs.refl _ _).of_regs hregs
  refine ⟨?_, ?_, ?_, (hsame.of_regs (by simp)).put (by simp [fSeqState]), ?_, ?_, ?_⟩
  · rw [Chip.seqState, Chip.get_put_same _ _ _ _ (by decide)]
    split <;> rfl
  · rw [← hcharge]
    simp [Chip.chargeAt]
  · rw [Chip.core_put, Chip.core_updCore_same, Chip.core_of_cores hcores]
  · simpa using hcounts
  · simpa using hmem
  · exact fun e he => by rw [Chip.core_put, Chip.core_updCore_other _ _ he, Chip.core_of_cores hcores]

end Turn

end CoreStart

end Sys2Proof.Machine
end

section
/-! HOLD set and cleared (R71, R73), and the writes of the gather buffer (R105, R106). -/

namespace Sys2Proof.Machine

/-! ## HOLD -/

section Hold

variable (s : Chip) (c : Nat)

/-- The timer of the sequencer's own wait stops, or goes on (R73). -/
def Core.holdTimer (k : Core) (edges : Nat) : Core := { k with wait := k.wait.map fun x => { x with began := edges - x.began } }

/-- HOLD is written, and the sequencer goes from one state to another with its timer. -/
def Chip.holdMove (s : Chip) (c hold st : Nat) : Chip :=
  ((s.put (pgSEQ c) fBlkCtrlHold hold).updCore c fun k => k.holdTimer s.edges).put (pgSEQ c) fSeqState st

theorem Chip.holdSet_eq :
    s.holdSet c = if s.seqState c = sqRUNNING then s.holdMove c 1 sqHELD else s.put (pgSEQ c) fBlkCtrlHold 1 := rfl

theorem Chip.holdClear_eq :
    s.holdClear c = if s.seqState c = sqHELD then s.holdMove c 0 sqRUNNING else s.put (pgSEQ c) fBlkCtrlHold 0 := rfl

theorem Chip.holdMove_spec {hold st : Nat} (hh : hold < 2) (hst : st < 8) :
    (s.holdMove c hold st).seqState c = st ∧ (s.holdMove c hold st).get (pgSEQ c) fBlkCtrlHold = hold ∧
    (s.holdMove c hold st).pc c = s.pc c ∧ (s.holdMove c hold st).core c = (s.core c).holdTimer s.edges ∧
    SeqFrame s (s.holdMove c hold st) c [pgSEQ c + 0x008, pgSEQ c + 0x104] [] [] := by
  unfold Chip.holdMove
  refine ⟨?_, ?_, ?_, ?_, (((SeqFrame.refl s c _ _ _).put ?_).updCore).put ?_⟩
  · rw [Chip.seqState, Chip.get_put_same _ _ _ _ (by decide)]
    exact Nat.mod_eq_of_lt hst
  · rw [Chip.get_put_off _ _ (by simp [fSeqState, fBlkCtrlHold]), Chip.get_updCore, Chip.get_put_same _ _ _ _ (by decide)]
    exact Nat.mod_eq_of_lt hh
  · rw [Chip.pc, Chip.get_put_off _ _ (by simp [fSeqState, fSeqPc]), Chip.get_updCore,
      Chip.get_put_off _ _ (by simp [fBlkCtrlHold, fSeqPc]), Chip.pc]
  · rw [Chip.core_put, Chip.core_updCore_same, Chip.core_put]
  · simp [fBlkCtrlHold]
  · simp [fSeqState]

theorem Chip.putHold_spec {hold : Nat} (hh : hold < 2) :
    (s.put (pgSEQ c) fBlkCtrlHold hold).seqState c = s.seqState c ∧ (s.put (pgSEQ c) fBlkCtrlHold hold).get (pgSEQ c) fBlkCtrlHold = hold ∧
    (s.put (pgSEQ c) fBlkCtrlHold hold).cores = s.cores ∧
    SeqFrame s (s.put (pgSEQ c) fBlkCtrlHold hold) c [pgSEQ c + 0x008] [] [] := by
  refine ⟨?_, ?_, by simp, (SeqFrame.refl s c _ _ _).put (by simp [fBlkCtrlHold])⟩
  · rw [Chip.seqState, Chip.get_put_off _ _ (by simp [fBlkCtrlHold, fSeqState]), Chip.seqState]
  · rw [Chip.get_put_same _ _ _ _ (by decide)]
    exact Nat.mod_eq_of_lt hh

end Hold

/-- A write to a register of a core that takes it. -/
theorem runs_toCore {i : Instr} {s : State} {c : Nat} {f : Chip → Chip} {P : Chip → Prop}
    (hi : exec i s = onCore c (fun u => u.toCore c f) s) (hp : s.chip.present c = true) (hup : s.chip.fabricUp = true)
    (hin : (s.chip.core c).inReset = false) (hP : P (f s.chip)) : Runs i s P := by
  refine runs_core hi (present_lt hp) hup ?_
  rw [Chip.toCore, hp, hin]
  exact hP

/-! ## One entry of the gather buffer is written -/

/-- What `l`, a list of bytes pending, leaves at address `a`: the last of them. -/
def pendingAt (c : Nat) (l : List (Nat × Nat × BitVec 8)) (a : Nat) : Option (BitVec 8) :=
  ((l.filter fun p => tunAddr c p.1 = a).getLast?).map (·.2.2)

theorem pendingAt_append (c : Nat) (l m : List (Nat × Nat × BitVec 8)) (a : Nat) :
    pendingAt c (l ++ m) a = (pendingAt c m a).or (pendingAt c l a) := by
  simp only [pendingAt, List.filter_append, List.getLast?_append, Option.map_or]

theorem pendingAt_single (c : Nat) (p : Nat × Nat × BitVec 8) (a : Nat) :
    pendingAt c [p] a = if tunAddr c p.1 = a then some p.2.2 else none := by
  by_cases h : tunAddr c p.1 = a <;> simp [pendingAt, h]

theorem gatherByte_eq (s : Chip) (c : Nat) (l : List Gather) (a : Nat) :
    gatherByte s c l a = (pendingAt c (l.flatMap (·.bytes)) a).getD (s.byte a) := rfl

/-- The bytes of an entry are stored one by one. -/
def Chip.putPending (s : Chip) (c : Nat) (l : List (Nat × Nat × BitVec 8)) : Chip :=
  l.foldl (fun t p => t.store (tunAddr c p.1) [p.2.2]) s

theorem Chip.byte_putPending (s : Chip) (c : Nat) (l : List (Nat × Nat × BitVec 8)) (a : Nat) :
    (s.putPending c l).byte a = (pendingAt c l a).getD (s.byte a) := by
  induction l generalizing s with
  | nil => rfl
  | cons p l ih =>
    refine (ih (s.store (tunAddr c p.1) [p.2.2])).trans ?_
    rw [show pendingAt c (p :: l) a = _ from pendingAt_append c [p] l a, pendingAt_single, Option.getD_or]
    by_cases h : tunAddr c p.1 = a
    · subst h
      simpa using congrArg _ (s.byte_store_in (tunAddr c p.1) [p.2.2] 0 (by simp))
    · rw [s.byte_store_out _ _ _ (by simp only [List.length_singleton]; omega), if_neg h, Option.getD_none]

/-- The words that an entry covers whole get a new code: their own bytes are stored again. -/
def Chip.renewWord (s : Chip) (c o : Nat) : Chip :=
  s.store (tunAddr c o) ((List.range 8).map fun j => s.byte (tunAddr c (o + j)))

theorem Chip.byte_renewWord (s : Chip) (c o a : Nat) : (s.renewWord c o).byte a = s.byte a := by
  unfold Chip.renewWord
  by_cases h : tunAddr c o ≤ a ∧ a < tunAddr c o + 8
  · obtain ⟨j, rfl⟩ := Nat.exists_eq_add_of_le h.1
    rw [Chip.byte_store_in _ _ _ _ (by simpa using Nat.lt_of_add_lt_add_left h.2)]
    simp [tunAddr, Nat.add_assoc]
  · exact Chip.byte_store_out _ _ _ _ (by simp only [List.length_map, List.length_range]; omega)

/-- The words of an entry that the merge corrects are logged. -/
def Chip.noteGather (s : Chip) (c : Nat) (g : Gather) : Chip :=
  if s.errs = [] then s else
    ((List.range 8).filter fun i => g.touches i && !(g.covers i)).foldl
      (fun t i => t.noteCorr (pgSYNC c) (t.coreCtxw c) (tunAddr c (g.line * 64 + 8 * i)) 8) s

def Chip.renewWords (s : Chip) (c : Nat) (g : Gather) : Chip :=
  (List.range 8).foldl (fun t i => if g.covers i then t.renewWord c (g.line * 64 + 8 * i) else t) s

theorem Chip.gatherPut_eq (s : Chip) (c : Nat) (g : Gather) :
    s.gatherPut c g = (((s.noteGather c g).putPending c g.bytes).renewWords c g).updCore c
      fun k => { k with gather := k.gather.filter fun h => h.line ≠ g.line } := rfl

/-- What each step of a fold does to the device, all of its steps do. -/
theorem foldl_trans {α β : Type} (R : α → α → Prop) (hr : ∀ s, R s s) (ht : ∀ {s t u}, R s t → R t u → R s u) (l : List β)
    (f : α → β → α) (h : ∀ t b, R t (f t b)) (s : α) : R s (l.foldl f s) := by
  induction l generalizing s with
  | nil => exact hr s
  | cons b l ih => exact ht (h s b) (ih _)

theorem Chip.noteGather_rest (s : Chip) (c : Nat) (g : Gather) : RegsOnly s (s.noteGather c g) := by
  rw [Chip.noteGather]
  split
  · exact .refl s
  · exact foldl_trans RegsOnly RegsOnly.refl RegsOnly.trans _ _ (fun t _ => t.noteCorr_rest _ _ _ _) s

theorem Chip.reg_noteGather (s : Chip) (c : Nat) (g : Gather) {k : Nat} (h : k < pgSYNC c + 0x010 ∨ pgSYNC c + 0x02C ≤ k)
    (hg : k < pgGERP ∨ pgGERP + 0x1000 ≤ k) : (s.noteGather c g).reg k = s.reg k := by
  rw [Chip.noteGather]
  split
  · rfl
  · exact List.foldl_keep (Chip.reg · k) _ _ _ fun t _ => t.reg_noteCorr_other _ _ _ _ _ h hg

/-! ## What a write of entries leaves -/

/-- Entries of core `c`'s gather buffer are written: beside memory and its codes, that core and counts, only the logs of corrected
words change. -/
structure GatherKeeps (s t : Chip) (c : Nat) : Prop where
  rest : t = { s with regs := t.regs, counts := t.counts, cores := t.cores, mem := t.mem, poison := t.poison, errs := t.errs }
  regs : ∀ k, (k < pgSYNC c + 0x010 ∨ pgSYNC c + 0x02C ≤ k) → (k < pgGERP ∨ pgGERP + 0x1000 ≤ k) → t.reg k = s.reg k
  sound : s.errs = [] → t.regs = s.regs ∧ t.errs = []
  cores : SameCores s t c

section Keeps

variable {s t u : Chip} {c : Nat}

theorem GatherKeeps.refl (s : Chip) (c : Nat) : GatherKeeps s s c := ⟨rfl, fun _ _ _ => rfl, fun h => ⟨rfl, h⟩, .refl s c⟩

theorem GatherKeeps.trans (h : GatherKeeps s t c) (h2 : GatherKeeps t u c) : GatherKeeps s u c := by
  refine ⟨?_, fun k hk hg => (h2.regs k hk hg).trans (h.regs k hk hg), fun he => ?_, h.cores.trans h2.cores⟩
  · have ht := h.rest
    have hu := h2.rest
    rw [ht] at hu
    exact hu
  · obtain ⟨hregs, herrs⟩ := h.sound he
    obtain ⟨hregs2, herrs2⟩ := h2.sound herrs
    exact ⟨hregs2.trans hregs, herrs2⟩

theorem gatherKeeps_store (s : Chip) (c a : Nat) (l : List (BitVec 8)) : GatherKeeps s (s.store a l) c := by
  refine ⟨?_, fun k _ _ => Chip.reg_of_regs (by simp), fun he => ⟨by simp, ?_⟩, fun e _ => Chip.core_of_cores (by simp)⟩
  · rw [Chip.store]
    generalize hu : s.putBytes a l = u
    have hput : u = { s with mem := u.mem } := by
      subst hu
      induction l generalizing s a with
      | nil => rfl
      | cons b l ih => exact (ih (s.setByte a b) (a + 1)).trans rfl
    rw [hput]
    rfl
  · have hput : (s.putBytes a l).errs = [] := by simpa using he
    rw [Chip.store, Chip.recode, hput]
    rfl

theorem gatherKeeps_noteGather (s : Chip) (c : Nat) (g : Gather) : GatherKeeps s (s.noteGather c g) c := by
  have hrest := s.noteGather_rest c g
  refine ⟨?_, fun k hk hg => s.reg_noteGather c g hk hg, fun he => ?_, fun e _ => ?_⟩
  · generalize s.noteGather c g = t at hrest
    rw [RegsOnly] at hrest
    rw [hrest]
  · rw [Chip.noteGather, if_pos he]
    exact ⟨rfl, he⟩
  · exact Chip.core_of_cores (hrest.keeps Chip.cores fun _ _ => rfl)

theorem gatherKeeps_updCore (s : Chip) (c : Nat) (f : Core → Core) : GatherKeeps s (s.updCore c f) c :=
  ⟨rfl, fun _ _ _ => Chip.reg_updCore .., fun h => ⟨rfl, h⟩, (SameCores.refl s c).updCore⟩

theorem gatherKeeps_count (s : Chip) (c page sel n : Nat) : GatherKeeps s (s.count page sel n) c :=
  ⟨rfl, fun _ _ _ => Chip.reg_of_regs rfl, fun h => ⟨rfl, h⟩, fun _ _ => Chip.core_count ..⟩

theorem gatherKeeps_putPending (s : Chip) (c : Nat) (l : List (Nat × Nat × BitVec 8)) : GatherKeeps s (s.putPending c l) c :=
  foldl_trans (GatherKeeps · · c) (.refl · c) .trans _ _ (fun t _ => gatherKeeps_store t c _ _) s

theorem gatherKeeps_renewWords (s : Chip) (c : Nat) (g : Gather) : GatherKeeps s (s.renewWords c g) c := by
  refine foldl_trans (GatherKeeps · · c) (.refl · c) .trans _ _ (fun t i => ?_) s
  split
  · exact gatherKeeps_store t c _ _
  · exact .refl t c

theorem gatherKeeps_gatherPut (s : Chip) (c : Nat) (g : Gather) : GatherKeeps s (s.gatherPut c g) c := by
  rw [Chip.gatherPut_eq]
  exact ((gatherKeeps_noteGather s c g).trans ((gatherKeeps_putPending _ c _).trans (gatherKeeps_renewWords _ c g))).trans
    (gatherKeeps_updCore _ c _)

theorem gatherKeeps_gatherAll (s : Chip) (c : Nat) : GatherKeeps s (s.gatherAll c) c :=
  foldl_trans (GatherKeeps · · c) (.refl · c) .trans _ _
    (fun t g => (gatherKeeps_gatherPut t c g).trans (gatherKeeps_count _ c _ _ _)) s

end Keeps

/-! ## The bytes, the entries and the count that are left -/

section Entries

variable (s : Chip) (c : Nat)

theorem Chip.byte_of_mem {s t : Chip} {a : Nat} (h : t.mem = s.mem) : t.byte a = s.byte a := by rw [Chip.byte, h, Chip.byte]

@[simp] theorem Chip.byte_updCore (f : Core → Core) (a : Nat) : (s.updCore c f).byte a = s.byte a := Chip.byte_of_mem rfl

@[simp] theorem Chip.byte_count (page sel n a : Nat) : (s.count page sel n).byte a = s.byte a := Chip.byte_of_mem rfl

theorem Chip.byte_noteGather (g : Gather) (a : Nat) : (s.noteGather c g).byte a = s.byte a :=
  Chip.byte_of_mem ((s.noteGather_rest c g).keeps Chip.mem fun _ _ => rfl)

theorem Chip.byte_renewWords (g : Gather) (a : Nat) : (s.renewWords c g).byte a = s.byte a := by
  refine List.foldl_keep (Chip.byte · a) _ _ _ fun t i => ?_
  split
  · exact t.byte_renewWord _ _ _
  · rfl

theorem Chip.byte_gatherPut (g : Gather) (a : Nat) : (s.gatherPut c g).byte a = (pendingAt c g.bytes a).getD (s.byte a) := by
  rw [Chip.gatherPut_eq, Chip.byte_updCore, Chip.byte_renewWords, Chip.byte_putPending, Chip.byte_noteGather]

/-- Storing an entry's bytes keeps the cores and the counts. -/
theorem Chip.storeEntry_keeps (g : Gather) : (((s.noteGather c g).putPending c g.bytes).renewWords c g).cores = s.cores ∧
    (((s.noteGather c g).putPending c g.bytes).renewWords c g).counts = s.counts := by
  have hput : ∀ u : Chip, ∀ l, (u.putPending c l).cores = u.cores ∧ (u.putPending c l).counts = u.counts := fun u l =>
    ⟨List.foldl_keep Chip.cores _ _ _ fun t p => by simp, List.foldl_keep Chip.counts _ _ _ fun t p => by simp⟩
  have hrenew : ∀ u : Chip, (u.renewWords c g).cores = u.cores ∧ (u.renewWords c g).counts = u.counts := fun u =>
    ⟨List.foldl_keep Chip.cores _ _ _ fun t i => by split <;> simp [Chip.renewWord],
      List.foldl_keep Chip.counts _ _ _ fun t i => by split <;> simp [Chip.renewWord]⟩
  obtain ⟨hcores, hcounts⟩ := hput (s.noteGather c g) g.bytes
  obtain ⟨hcores2, hcounts2⟩ := hrenew ((s.noteGather c g).putPending c g.bytes)
  have hnote := s.noteGather_rest c g
  exact ⟨hcores2.trans (hcores.trans (hnote.keeps Chip.cores fun _ _ => rfl)),
    hcounts2.trans (hcounts.trans (hnote.keeps Chip.counts fun _ _ => rfl))⟩

theorem Chip.core_gatherPut (g : Gather) :
    (s.gatherPut c g).core c = { s.core c with gather := (s.core c).gather.filter fun h => h.line ≠ g.line } := by
  rw [Chip.gatherPut_eq, Chip.core_updCore_same, Chip.core_of_cores (s.storeEntry_keeps c g).1]

theorem Chip.counts_gatherPut (g : Gather) : (s.gatherPut c g).counts = s.counts := by
  rw [Chip.gatherPut_eq]
  simpa using (s.storeEntry_keeps c g).2

/-- Entries written one after the other: their bytes land in order, none of their lines is pending, and each is counted. -/
theorem Chip.gatherWrites_spec (l : List Gather) :
    (∀ a, (l.foldl (fun t g => t.gatherWrite c g 0x0E) s).byte a = gatherByte s c l a) ∧
    (l.foldl (fun t g => t.gatherWrite c g 0x0E) s).core c =
      { s.core c with gather := (s.core c).gather.filter fun h => l.all fun g => h.line ≠ g.line } ∧
    (l.foldl (fun t g => t.gatherWrite c g 0x0E) s).countOf (pgSYNC c) 0x0E =
      min (s.countOf (pgSYNC c) 0x0E + l.length) (2 ^ 64 - 1) ∧
    SameCounts s (l.foldl (fun t g => t.gatherWrite c g 0x0E) s) [pgSYNC c + 0x0E] := by
  induction l generalizing s with
  | nil =>
    have hlt := s.countOf_lt (pgSYNC c) 0x0E
    refine ⟨fun _ => rfl, ?_, (Nat.min_eq_left (Nat.le_sub_one_of_lt hlt)).symm, .refl s _⟩
    simp
  | cons g l ih =>
    obtain ⟨hbyte, hcore, hcount, hcounts⟩ := ih (s.gatherWrite c g 0x0E)
    have hcounts1 : (s.gatherPut c g).counts = s.counts := s.counts_gatherPut c g
    refine ⟨fun a => (hbyte a).trans ?_, hcore.trans ?_, hcount.trans ?_, SameCounts.trans ?_ hcounts⟩
    · rw [gatherByte_eq, gatherByte_eq, List.flatMap_cons, pendingAt_append, Option.getD_or, Chip.gatherWrite, Chip.byte_count,
        Chip.byte_gatherPut]
    · rw [Chip.gatherWrite, Chip.core_count, Chip.core_gatherPut, List.filter_filter]
      simp only [List.all_cons, Bool.and_comm]
    · rw [Chip.gatherWrite, Chip.countOf_count_same, Chip.countOf_of_counts hcounts1, List.length_cons]
      omega
    · exact SameCounts.count (t := s.gatherPut c g) (fun k _ => by rw [hcounts1]) (.head _)

theorem Chip.gatherAll_spec :
    (∀ a, (s.gatherAll c).byte a = gatherByte s c (s.core c).gather a) ∧
    (s.gatherAll c).core c = { s.core c with gather := [] } ∧
    (s.gatherAll c).countOf (pgSYNC c) 0x0E = min (s.countOf (pgSYNC c) 0x0E + (s.core c).gather.length) (2 ^ 64 - 1) ∧
    SameCounts s (s.gatherAll c) [pgSYNC c + 0x0E] := by
  obtain ⟨hbyte, hcore, hcount, hcounts⟩ := s.gatherWrites_spec c (s.core c).gather
  refine ⟨hbyte, hcore.trans ?_, hcount, hcounts⟩
  have hnone : ((s.core c).gather.filter fun h => (s.core c).gather.all fun g => h.line ≠ g.line) = [] :=
    List.filter_eq_nil_iff.2 fun h hh => by
      rw [List.all_eq_true]
      exact fun hall => absurd rfl (of_decide_eq_true (hall h hh))
  rw [hnone]

end Entries

end Sys2Proof.Machine
end

section
/-! END, its completion, and what O12 states of them all (R71, R106, R238). -/

namespace Sys2Proof.Machine

section End

variable {s t : Chip} {c : Nat}

/-- The sequencer's registers are no log's. -/
theorem GatherKeeps.seqReg (h : GatherKeeps s t c) {o : Nat} (ho : o < 0x5000) : t.reg (pgSEQ c + o) = s.reg (pgSEQ c + o) :=
  h.regs _ (.inl (by simp only [pgSYNC]; omega)) (.inr (by simp only [pgGERP, pgSEQ]; omega))

theorem GatherKeeps.seqGet (h : GatherKeeps s t c) {f : Fld} (hf : f.off < 0x5000) : t.get (pgSEQ c) f = s.get (pgSEQ c) f :=
  s.get_congr (h.seqReg hf)

theorem GatherKeeps.keeps {β : Type} (h : GatherKeeps s t c) (g : Chip → β)
    (hg : ∀ (u : Chip) r n k m p e, g { u with regs := r, counts := n, cores := k, mem := m, poison := p, errs := e } = g u) : g t = g s :=
  (congrArg g h.rest).trans (hg s ..)

/-- A wait changes its core's data, STALL and the order of waits only. -/
theorem Chip.setWait_keeps (x : SeqWait) : (s.setWait c x).mem = s.mem ∧ (s.setWait c x).counts = s.counts ∧
    (s.setWait c x).net = s.net ∧ (s.setWait c x).slots = s.slots ∧ SameCores s (s.setWait c x) c :=
  ⟨rfl, rfl, rfl, rfl, fun e he => by
    rw [Chip.setWait, Chip.core_bumpWait, Chip.core_put, Chip.core_updCore_other _ _ he]⟩

end End

theorem end_waits {s : State} {c : Nat} {w : IWord} (h : Takes s.chip c w) (hop : opcode w = 0x01) :
    Runs (.endI c w) s fun t =>
      WaitsFor s.chip t c 14 (s.chip.waitTmo c) w ∧ (t.core c).gather = [] ∧
      (∀ a, t.byte a = gatherByte s.chip c (s.chip.core c).gather a) ∧
      t.countOf (pgSYNC c) 0x0E = min (s.chip.countOf (pgSYNC c) 0x0E + (s.chip.core c).gather.length) (2 ^ 64 - 1) ∧
      t.core c = { s.chip.core c with wait := (t.core c).wait, gather := [] } ∧
      (s.chip.errs = [] → SameCounts s.chip t [pgSYNC c + 0x0E] ∧ SameRegs s.chip t [pgSEQ c + 0x104]) ∧
      SameCores s.chip t c ∧ t.net = s.chip.net ∧ t.slots = s.chip.slots := by
  refine runs_issue rfl h (by simp [hop]) ?_
  obtain ⟨hbyte, hcore, hcount, hcounts⟩ := s.chip.gatherAll_spec c
  have hkeeps := gatherKeeps_gatherAll s.chip c
  rw [Chip.endIssue]
  generalize s.chip.gatherAll c = u at *
  have hedges : u.edges = s.chip.edges := hkeeps.keeps Chip.edges fun _ _ _ _ _ _ _ => rfl
  have hcode : ∀ x, (u.core c).wait = some x → x.code ≠ 14 := fun x hx => by
    rw [hcore] at hx
    obtain h9 | h10 := wait_code_of_takes h hx <;> omega
  rw [Chip.hold_new hcode]
  generalize hx : SeqWait.mk 14 u.edges (s.chip.waitTmo c) u.waitNo w 0 [] = x
  obtain ⟨hstall, hpc, hwait⟩ := Chip.waitsFor_setWait (s := u) (c := c) x (by rw [← hx]) (hx ▸ (by decide : 14 < 16))
  obtain ⟨hmem, hcnts, hnet, hslots, hcores⟩ := Chip.setWait_keeps (s := u) (c := c) x
  have hxcore := Chip.core_setWait (s := u) (c := c) x
  have hregs := Chip.sameRegs_setWait (s := u) (c := c) x
  generalize u.setWait c x = t at *
  subst hx
  refine ⟨⟨hstall, hpc.trans (hkeeps.seqGet (by decide)), hedges ▸ hwait⟩, ?_, fun a => ?_, ?_, ?_, fun he => ⟨?_, ?_⟩,
    hkeeps.cores.trans hcores, ?_, ?_⟩
  · rw [hxcore, hcore]
  · rw [Chip.byte_of_mem hmem, hbyte]
  · rw [Chip.countOf_of_counts hcnts, hcount]
  · rw [hxcore, hcore]
  · exact fun k hk => (congrArg (sget countReset · k) hcnts).trans (hcounts k hk)
  · exact SameRegs.trans ((SameRegs.refl _ _).of_regs (hkeeps.sound he).1) hregs
  · exact hnet.trans (hkeeps.keeps Chip.net fun _ _ _ _ _ _ _ => rfl)
  · exact hslots.trans (hkeeps.keeps Chip.slots fun _ _ _ _ _ _ _ => rfl)

/-- The writes of END_COMPLETE after the gather buffer's. -/
def Chip.endHalt (s : Chip) (c : Nat) : Chip :=
  (((s.endWait c).count (pgSEQ c) 0 1).put (pgSEQ c) fSeqState sqHALTED).raise (pgSEQ c) 0

theorem Chip.endHalt_spec (s : Chip) (c : Nat) :
    (s.endHalt c).seqState c = sqHALTED ∧ (s.endHalt c).bit (pgSEQ c) ⟨0x028, 0, 1⟩ = true ∧ (s.endHalt c).pc c = s.pc c ∧
    (s.endHalt c).countOf (pgSEQ c) 0 = min (s.countOf (pgSEQ c) 0 + 1) (2 ^ 64 - 1) ∧
    (s.endHalt c).core c = { s.core c with wait := none } ∧ (s.endHalt c).mem = s.mem ∧
    SeqFrame s (s.endHalt c) c [pgSEQ c + 0x104, pgSEQ c + 0x028] [pgSEQ c] [] := by
  unfold Chip.endHalt Chip.endWait
  refine ⟨?_, Chip.bit_raise _ _ _ (by decide), ?_, ?_, ?_, by simp, ((((SeqFrame.refl s c _ _ _).updCore.put ?_).count ?_).put ?_).raise ?_⟩
  · rw [Chip.seqState, Chip.get_raise_other _ _ (by simp [fSeqState]), Chip.get_put_same _ _ _ _ (by decide)]
    rfl
  · rw [Chip.pc, Chip.get_raise_other _ _ (by simp [fSeqPc])]
    simp [Chip.get_put_off, fSeqPc, fSeqState, fSeqStall, Chip.pc]
  · rw [Chip.countOf_raise, Chip.countOf_put, Chip.countOf_count_same, Chip.countOf_put, Chip.countOf_updCore]
  · rw [Chip.core_raise, Chip.core_put, Chip.core_count, Chip.core_put, Chip.core_updCore_same]
  all_goals simp [fSeqStall, fSeqState]

theorem end_completes {s : State} {c : Nat} {x : SeqWait} (hc : c < 144) (hup : s.chip.fabricUp = true)
    (hx : (s.chip.core c).wait = some x) (hcode : x.code = 14) (hrun : s.chip.seqState c = sqRUNNING)
    (hidle : (s.chip.core c).enginesIdle = true) : Runs (.endComplete c) s fun t =>
      t.seqState c = sqHALTED ∧ t.bit (pgSEQ c) ⟨0x028, 0, 1⟩ = true ∧ t.pc c = s.chip.pc c ∧
      t.countOf (pgSEQ c) 0 = min (s.chip.countOf (pgSEQ c) 0 + 1) (2 ^ 64 - 1) ∧
      t.core c = { s.chip.core c with wait := none, gather := [] } ∧ SameCores s.chip t c ∧
      (∀ a, t.byte a = gatherByte s.chip c (s.chip.core c).gather a) ∧
      ((s.chip.core c).gather = [] → SeqFrame s.chip t c [pgSEQ c + 0x104, pgSEQ c + 0x028] [pgSEQ c] []) := by
  refine runs_core rfl hc hup ?_
  have hend : s.chip.endComplete c = (s.chip.gatherAll c).endHalt c := by
    simp only [Chip.endComplete, hx, hcode, hrun, hidle, decide_true, Bool.and_self, if_true, Chip.endHalt]
  rw [hend]
  obtain ⟨hbyte, hcore, -, hcounts⟩ := s.chip.gatherAll_spec c
  have hkeeps := gatherKeeps_gatherAll s.chip c
  have hnone : (s.chip.core c).gather = [] → s.chip.gatherAll c = s.chip := fun hg => by rw [Chip.gatherAll, hg, List.foldl_nil]
  generalize s.chip.gatherAll c = u at *
  obtain ⟨hhalt, hirq, hpc, hcount, hhcore, hmem, hframe⟩ := u.endHalt_spec c
  refine ⟨hhalt, hirq, hpc.trans (hkeeps.seqGet (by decide)), hcount.trans ?_, by rw [hhcore, hcore], hkeeps.cores.trans hframe.cores,
    fun a => (Chip.byte_of_mem hmem).trans (hbyte a), fun hg => hnone hg ▸ hframe⟩
  rw [hcounts.countOf]
  simp only [pgSYNC, List.mem_singleton]
  omega

/-- Settles O12: the clauses of START, the ramp limiter, HOLD and END, each by the writes of its own command. -/
theorem programStartAndEnd : Obligations.ProgramStartAndEnd := by
  unfold Obligations.ProgramStartAndEnd
  refine ⟨fun s c hp hup hin hst hctx => start_arms hp hup hin hst hctx, fun s c hp hup hin hst hbeat hps => ⟨?_, fun hstop hfirst => ⟨?_, ?_⟩⟩,
    fun s c hp hup hin => ⟨fun hst => ?_, fun hst => ?_, fun hst => ?_, fun hst => ?_⟩,
    fun s c w h hop => end_waits h hop, fun s c x hc hup hx hcode hrun hidle => end_completes hc hup hx hcode hrun hidle⟩
  · exact coreStart_stopped hp hup hin hst hbeat hps
  · exact coreStart_fits hp hup hin hst hbeat hps hstop hfirst
  · exact coreStart_unfit hp hup hin hst hbeat hps hstop hfirst
  · refine runs_toCore rfl hp hup hin ?_
    rw [Chip.holdSet_eq, if_pos hst]
    exact s.chip.holdMove_spec c (by decide) (by decide)
  · refine runs_toCore rfl hp hup hin ?_
    rw [Chip.holdClear_eq, if_pos hst]
    exact s.chip.holdMove_spec c (by decide) (by decide)
  · refine runs_toCore rfl hp hup hin ?_
    rw [Chip.holdSet_eq, if_neg hst]
    exact s.chip.putHold_spec c (by decide)
  · refine runs_toCore rfl hp hup hin ?_
    rw [Chip.holdClear_eq, if_neg hst]
    exact s.chip.putHold_spec c (by decide)

end Sys2Proof.Machine
end

section
/-! The expiry of timers and the overrun limit (R52, R93, R94, R113, R144, R189): the core faults, and its context with it. -/

namespace Sys2Proof.Machine

/-! ## The registers that a fault writes (R95, R399, R401) -/

section FaultRegs

variable (s : Chip)

/-- A core that stops writes its state, its fault and its channels, and no other register (R95, R286). -/
theorem Chip.reg_stopCore_page (c e code cause pc : Nat) {o : Nat} (ho : o < 0x6000) (h1 : o ≠ 0x104) (h2 : o ≠ 0x140) :
    (s.stopCore e code cause pc).reg (pgSEQ c + o) = s.reg (pgSEQ c + o) := by
  by_cases he : e = c
  · subst he
    unfold Chip.stopCore
    split
    · rfl
    · refine (Chip.forEach_keep (Chip.reg · (pgSEQ e + o)) _ _ _ fun t n _ => ?_).trans ?_
      · split
        · exact Chip.reg_put_other _ _ _ _ _ (by simp only [pgCHAN]; omega)
        · rfl
      · rw [Chip.reg_netKeep, Chip.reg_put_other _ _ _ _ _ (by simp only [fSeqFault]; omega),
          Chip.reg_put_other _ _ _ _ _ (by simp only [fSeqState]; omega)]
        exact Chip.reg_of_regs (by simp)
  · exact s.reg_stopCore_other e code cause pc _ (by simp only [inCoreWindow, pgSEQ]; omega)

/-- The first writes of a fault that an ACTIVE context takes: its FLT group, the count of faults and the interrupt (R399, R403). -/
def Chip.takeFault (s : Chip) (x code srcPage : Nat) : Chip :=
  ((((((s.put pgFLT (fFltState x) 2).put pgFLT (fFltCaptureOk x) (s.captureOk x)).put pgFLT (fFltFirst x)
    (code + blkSrc srcPage * 256)).put64 pgFLT (0x214 + 0x40 * x) s.beat).inc pgFLT (fFltCount x) 1).count pgFLT
    (if code = eKILLED then 1 else 0) 1).raise pgFLT 0

theorem Chip.contextFault_active {x : Nat} (h : s.ctxState x = 1) (code page : Nat) :
    s.contextFault x code page = seFault x
      ((s.takeFault x code page).forEach ((s.takeFault x code page).coresOf x) fun t c => t.stopCore c 0 0 (t.pc c)) := by
  rw [Chip.contextFault, if_pos h]
  rfl

/-- The registers that it writes lie in the fault unit's page. -/
theorem Chip.reg_takeFault (x code page : Nat) (hx : x < 16) {k : Nat} (hk : k < pgFLT ∨ pgFLT + 0x1000 ≤ k) :
    (s.takeFault x code page).reg k = s.reg k := by
  have hoff : ∀ o, o < 0x1000 → k ≠ pgFLT + o := fun o ho => by omega
  unfold Chip.takeFault
  rw [Chip.reg_raise_other _ _ _ _ (hoff _ (by decide)), Chip.reg_count, Chip.reg_inc_other _ _ _ _ _ (hoff _ (by simp only [fFltCount]; omega)),
    Chip.reg_put64_other _ _ _ _ _ (hoff (0x214 + 0x40 * x) (by omega)) (by omega),
    Chip.reg_put_other _ _ _ _ _ (hoff _ (by simp only [fFltFirst]; omega)),
    Chip.reg_put_other _ _ _ _ _ (hoff _ (by simp only [fFltCaptureOk]; omega)),
    Chip.reg_put_other _ _ _ _ _ (hoff _ (by simp only [fFltState]; omega))]

theorem Chip.ctxState_takeFault (x code page : Nat) : (s.takeFault x code page).ctxState x = 2 := by
  unfold Chip.takeFault
  rw [Chip.ctxState, Chip.get_raise_other _ _ (by simp only [fFltState]; omega), Chip.get_count,
    Chip.get_inc_off _ _ (.inl (by simp [fFltState, fFltCount])),
    Chip.get_put64_other _ _ (by simp only [fFltState]; omega) (by simp only [fFltState]; omega),
    Chip.get_put_off _ _ (.inl (by simp [fFltState, fFltFirst])), Chip.get_put_off _ _ (.inr (by simp [fFltState, fFltCaptureOk])),
    Chip.get_put_same _ _ _ _ (show 0 + 2 ≤ 32 by decide)]
  rfl

/-- What stopping cores keeps, a context's fault keeps, outside the fault unit's and the stream engine's pages (R401). -/
theorem Chip.reg_contextFault {x : Nat} (hx : x < 16) (code page : Nat) {k : Nat}
    (hk : ∀ (u : Chip) d code cause pc, (u.stopCore d code cause pc).reg k = u.reg k) (hflt : k < pgFLT ∨ pgFLT + 0x1000 ≤ k)
    (hse : k < pgSE ∨ pgSE + 0x11000 ≤ k) : (s.contextFault x code page).reg k = s.reg k := by
  by_cases h : s.ctxState x = 1
  · rw [Chip.contextFault_active s h, reg_seFault_other x _ k hx hse,
      Chip.forEach_keep (Chip.reg · k) _ _ _ fun t d _ => hk t d _ _ _, Chip.reg_takeFault s x code page hx hflt]
  · rw [Chip.contextFault, if_neg h]
    split
    · rfl
    · exact Chip.reg_inc_other _ _ _ _ _ (by simp only [fFltCount]; omega)

/-- An ACTIVE context that takes a fault is FAULTED (R399). -/
theorem Chip.ctxState_contextFault {x : Nat} (hx : x < 16) (h : s.ctxState x = 1) (code page : Nat) :
    (s.contextFault x code page).ctxState x = 2 := by
  have hseq : ∀ o, o < 0x1000 → ∀ d, ¬ inCoreWindow d (pgFLT + o) := fun o ho d => by
    simp only [inCoreWindow, pgFLT, pgSEQ]; omega
  have hoff : (fFltState x).off < 0x1000 := by simp only [fFltState]; omega
  rw [Chip.contextFault_active s h, Chip.ctxState, Chip.get_congr _ (reg_seFault_other x _ _ hx (.inl (by simp only [pgFLT, pgSE]; omega))),
    Chip.get_congr _ (Chip.forEach_keep (Chip.reg · (pgFLT + (fFltState x).off)) _ _ _ fun t d _ =>
      t.reg_stopCore_other _ _ _ _ _ (hseq _ hoff d))]
  exact s.ctxState_takeFault x code page

end FaultRegs

/-! ## The fault of a core -/

section FaultCore

variable {s : Chip} {c : Nat}

/-- A running core that faults leaves all that R95 and R401 say. -/
theorem Chip.faultCore_faults (hc : c < 144) (hrun : s.seqState c = sqRUNNING) (j : Nat) {code cause pc : Nat} (hcode : code < 256)
    (hcause : cause < 256) : Faults s (s.faultCore c (pgSEQ c + 0x1000 * j) code cause pc) c code cause (pc % 8192) := by
  obtain ⟨hst, hfault, hq, hr, hw⟩ := s.faultCore_spec c j code cause pc hc (by rw [hrun]; decide) (by rw [hrun]; decide) hcode
  refine ⟨hst, by rw [hfault, Nat.mod_eq_of_lt hcause], hq, hr, hw, fun hactive => ?_⟩
  refine Chip.ctxState_contextFault _ (s.ctxOf_lt c) ?_ code _
  have hx := s.ctxOf_lt c
  have hoff : (fFltState (s.ctxOf c)).off < 0x1000 := by simp only [fFltState]; omega
  rw [Chip.ctxState, Chip.get_congr _ (Chip.reg_stopCore_other _ _ _ _ _ _ (by simp only [inCoreWindow, pgFLT, pgSEQ]; omega)),
    Chip.get_congr _ (Chip.reg_logErr_other _ _ _ _ _ (.inl (by simp only [pgFLT, pgSEQ]; omega)) (.inr (by simp only [pgGERP, pgFLT]; omega)))]
  exact hactive

/-- The fault registers of the synchronisation page stay (R144). -/
theorem Chip.get_faultCore_sync (hc : c < 144) (j code cause pc : Nat) {f : Fld} (hoff : 0x02C ≤ f.off) (hoff2 : f.off < 0x1000) :
    (s.faultCore c (pgSEQ c + 0x1000 * j) code cause pc).get (pgSYNC c) f = s.get (pgSYNC c) f := by
  have hk : pgSYNC c + f.off = pgSEQ c + (0x5000 + f.off) := Nat.add_assoc ..
  refine s.get_congr ?_
  rw [hk]
  refine (Chip.reg_contextFault _ (s.ctxOf_lt c) _ _ (fun u d _ _ _ => u.reg_stopCore_page c d _ _ _ (by omega) (by omega) (by omega))
    (.inr (by simp only [pgFLT, pgSEQ]; omega)) (.inl (by simp only [pgSE, pgSEQ]; omega))).trans ?_
  rw [Chip.reg_stopCore_page _ _ _ _ _ _ (by omega) (by omega) (by omega),
    Chip.reg_logErr_other _ _ _ _ _ (by omega) (.inr (by simp only [pgGERP, pgSEQ]; omega))]

/-- A fault that records a slot: the records stand, and the rest is the fault's (R144). -/
theorem faults_of_recorded {t : Chip} {code cause pc : Nat} (hctx : t.ctxOf c = s.ctxOf c)
    (hflt : t.ctxState (s.ctxOf c) = s.ctxState (s.ctxOf c)) {u : Chip} (h : Faults t u c code cause pc) : Faults s u c code cause pc := by
  obtain ⟨hst, hfault, hq, hr, hw, hfaulted⟩ := h
  refine ⟨hst, hfault, hq, hr, hw, fun hactive => ?_⟩
  rw [hctx] at hfaulted
  exact hfaulted (hflt.trans hactive)

/-- The slot and the unit of a fault are recorded (R144). -/
def Chip.recordSlot (s : Chip) (c slot u : Nat) : Chip := (s.put (pgSYNC c) fSyncFaultSlot slot).put (pgSYNC c) fSyncFaultUnit u

theorem Chip.get_recordSlot (slot u page : Nat) {f : Fld} (h : page + f.off ≠ pgSYNC c + 0x178) :
    (s.recordSlot c slot u).get page f = s.get page f := by
  rw [Chip.recordSlot, Chip.get_put_off _ _ (.inl h), Chip.get_put_off _ _ (.inl h)]

theorem Chip.recordSlot_faults (hc : c < 144) (hrun : s.seqState c = sqRUNNING) (j : Nat) {slot u code cause pc : Nat} (hcode : code < 256)
    (hcause : cause < 256) (hslot : slot < 4096) (hu : u < 8) :
    let t := (s.recordSlot c slot u).faultCore c (pgSEQ c + 0x1000 * j) code cause pc
    Faults s t c code cause (pc % 8192) ∧ t.get (pgSYNC c) fSyncFaultSlot = slot ∧ t.get (pgSYNC c) fSyncFaultUnit = u := by
  have hseq : ∀ f : Fld, f.off < 0x1000 → (s.recordSlot c slot u).get (pgSEQ c) f = s.get (pgSEQ c) f := fun f hf =>
    Chip.get_recordSlot _ _ _ (by simp only [pgSYNC]; omega)
  have hst : (s.recordSlot c slot u).seqState c = s.seqState c := hseq _ (by decide)
  refine ⟨faults_of_recorded (hseq _ (by decide)) (Chip.get_recordSlot _ _ _ ?_)
    (Chip.faultCore_faults hc (hst.trans hrun) j hcode hcause), ?_, ?_⟩
  · have hx := s.ctxOf_lt c
    simp only [pgFLT, pgSYNC, pgSEQ, fFltState]
    omega
  · rw [Chip.get_faultCore_sync hc _ _ _ _ (by decide) (by decide), Chip.recordSlot, Chip.get_put_off _ _ (.inr (by decide)),
      Chip.get_put_same _ _ _ _ (by decide)]
    exact Nat.mod_eq_of_lt hslot
  · rw [Chip.get_faultCore_sync hc _ _ _ _ (by decide) (by decide), Chip.recordSlot, Chip.get_put_same _ _ _ _ (by decide)]
    exact Nat.mod_eq_of_lt hu

end FaultCore

/-! ## The timers -/

/-- A timer that has run its time has expired. -/
theorem Chip.expired_of_le {s : Chip} {b tmo : Nat} (h : tmo ≠ 0) (h2 : b + tmo ≤ s.edges) : s.expired b tmo = true := by
  rw [Chip.expired, decide_eq_true h, decide_eq_true h2, Bool.and_self]

theorem pc_mod (s : Chip) (c : Nat) : s.pc c % 8192 = s.pc c := Nat.mod_eq_of_lt (s.get_lt (pgSEQ c) fSeqPc)

section Timers

variable {s : State} {c : Nat} (hc : c < 144) (hup : s.chip.fabricUp = true) (hrun : s.chip.seqState c = sqRUNNING)
include hc hup hrun

section SeqWaits

variable {x : SeqWait} (hx : (s.chip.core c).wait = some x) (htmo : x.tmo ≠ 0) (hexp : x.began + x.tmo ≤ s.chip.edges)
  (hover : s.chip.waitOver c x = false)
include hx htmo hexp hover

theorem waitTimeout_faults (hcode : x.code ≠ 9) :
    Runs (.waitTimeout c) s fun t => Faults s.chip t c eCMD_TIMEOUT 0xFF (s.chip.pc c) := by
  refine runs_core rfl hc hup ?_
  simp only [Chip.waitTimeout, hx, hcode, hrun, Chip.expired_of_le htmo hexp, hover, ne_eq, not_false_eq_true, decide_true, Bool.not_false,
    Bool.and_self, if_true]
  exact pc_mod s.chip c ▸ Chip.faultCore_faults hc hrun 0 (by decide) (by decide)

theorem seqSlotTimeout_faults (hcode : x.code = 9) (hval : x.val ≠ 0) (hval2 : x.val ≤ 4096) :
    Runs (.commandTimeout (.seq c)) s fun t =>
      Faults s.chip t c eSLOT_TIMEOUT 0xFF (s.chip.pc c) ∧ t.get (pgSYNC c) fSyncFaultSlot = x.val - 1 := by
  refine runs_core rfl hc hup ?_
  simp only [Chip.seqSlotTimeout, hx, hcode, hrun, Chip.expired_of_le htmo hexp, hover, hval, decide_true, Bool.not_false, Bool.and_self,
    if_true, if_false]
  have hpc : (s.chip.recordSlot c (x.val - 1) 0).pc c = s.chip.pc c :=
    Chip.get_recordSlot _ _ _ (by simp only [fSeqPc, pgSYNC]; omega)
  obtain ⟨hf, hslot, -⟩ := Chip.recordSlot_faults (s := s.chip) hc hrun 0 (slot := x.val - 1) (u := 0) (code := eSLOT_TIMEOUT)
    (cause := 0xFF) (pc := s.chip.pc c) (by decide) (by decide) (by omega) (by decide)
  rw [pc_mod] at hf
  rw [Chip.faultSeq, show ((s.chip.put (pgSYNC c) fSyncFaultSlot (x.val - 1)).put (pgSYNC c) fSyncFaultUnit 0).pc c = _ from hpc]
  exact ⟨hf, hslot⟩

end SeqWaits

section Commands

variable {m : Cmd} {b : Nat} (hb : m.began = some b) (htmo : m.tmo ≠ 0) (hexp : b + m.tmo ≤ s.chip.edges) (hpc : m.pc < 8192)
include hb htmo hexp hpc

theorem drainTimeout_faults (hm : (s.chip.core c).running uMTX = [m]) (hready : s.chip.corrReady c m.prog = false) :
    Runs (.commandTimeout (.drain c)) s fun t => Faults s.chip t c eCMD_TIMEOUT 0xFF m.pc := by
  refine runs_core rfl hc hup ?_
  simp only [Chip.drainTimeout, hm, List.head?_cons, hb, Chip.expired_of_le htmo hexp, hready, Bool.not_false, Bool.and_self, if_true]
  have hfault := Chip.faultCore_faults (pc := m.pc) hc hrun 1 (code := eCMD_TIMEOUT) (cause := 0xFF) (by decide) (by decide)
  rw [Nat.mod_eq_of_lt hpc] at hfault
  rw [Chip.faultUnit, show unitPage c uMTX = pgSEQ c + 0x1000 * 1 from rfl]
  exact hfault

theorem grantTimeout_faults (hq : (s.chip.core c).queue uSYNC = []) (hm : (s.chip.core c).running uSYNC = [m]) (hop : opcode m.w = 0x24)
    (hmay : s.chip.mayGrant c (sySlot m) (syDir m) = false) :
    Runs (.commandTimeout (.command c uSYNC m.id)) s fun t =>
      Faults s.chip t c eSLOT_TIMEOUT 0xFF m.pc ∧ t.get (pgSYNC c) fSyncFaultSlot = sIDX m.w % 4096 ∧
      t.get (pgSYNC c) fSyncFaultUnit = uSYNC := by
  refine runs_core rfl hc hup ?_
  have hover : s.chip.unitOver c uSYNC m = false := by
    simpa [Chip.unitOver, uSYNC, uCHAN, hop] using hmay
  have hexpiry : s.chip.expiry c uSYNC m = (eSLOT_TIMEOUT, some (sySlot m)) := by
    simp [Chip.expiry, uSYNC, uCHAN, hop]
  have hfind : (((((s.chip.core c).queue uSYNC).head?).toList ++ (s.chip.core c).running uSYNC).find? fun x => x.id = m.id) = some m := by
    simp [hq, hm]
  simp only [Chip.unitTimeout, hfind, hb, Chip.expired_of_le htmo hexp, hover, hexpiry, Bool.not_true, Bool.or_self, Bool.false_eq_true,
    if_false]
  rw [if_neg (by decide)]
  have hfault := Chip.recordSlot_faults (pc := m.pc) hc hrun 5 (code := eSLOT_TIMEOUT) (cause := 0xFF) (slot := sySlot m) (u := uSYNC)
    (by decide) (by decide) (Nat.mod_lt _ (by decide)) (by decide)
  rw [Nat.mod_eq_of_lt hpc] at hfault
  rw [Chip.faultSlot, Chip.faultUnit, show unitPage c uSYNC = pgSEQ c + 0x1000 * 5 from rfl]
  exact hfault

end Commands

theorem overrunLimit_faults (hlim : s.chip.get (pgSEQ c) fSeqOvrLimit ≠ 0)
    (hover : s.chip.get (pgSEQ c) fSeqOvrLimit < s.chip.get (pgSEQ c) fSeqOvrConsec) (higm : s.chip.get (pgSEQ c) fSeqIgmAct = 0) :
    Runs (.overrunLimit c) s fun t => Faults s.chip t c eOVERRUN 0xFF ((s.chip.core c).ovrPc % 8192) := by
  refine runs_core rfl hc hup ?_
  simp only [Chip.overrunLimit, hlim, hover, higm, hrun, ne_eq, not_false_eq_true, decide_true, Bool.and_self, if_true]
  exact Chip.faultCore_faults hc hrun 0 (by decide) (by decide)

end Timers

/-- Settles O34: each timer faults its core as `Chip.faultCore_faults` says, those of a slot once the slot is recorded. -/
theorem timeouts : Obligations.Timeouts := by
  unfold Obligations.Timeouts
  refine fun s c hc hup hrun => ⟨fun x hx htmo hexp hover => ⟨fun hcode => ?_, fun hcode hval hval2 => ?_⟩,
    fun m b hm hb htmo hexp hpc hready => ?_, fun m b hq hm hop hb htmo hexp hpc hmay => ?_, fun hlim hover higm => ?_⟩
  · exact waitTimeout_faults hc hup hrun hx htmo hexp hover hcode
  · exact seqSlotTimeout_faults hc hup hrun hx htmo hexp hover hcode hval hval2
  · exact drainTimeout_faults hc hup hrun hb htmo hexp hpc hm hready
  · exact grantTimeout_faults hc hup hrun hb htmo hexp hpc hq hm hop hmay
  · exact overrunLimit_faults hc hup hrun hlim hover higm

end Sys2Proof.Machine
end

section
/-! The beat unit's own operations: what entering a state writes, and what an edge brings about (R31 to R43, R264, R313, R485). -/

namespace Sys2Proof.Machine

section Reads

variable (s : Chip)

@[simp] theorem Chip.port_updPort_same (p : Nat) (g : Port → Port) : (s.updPort p g).port p = g (s.port p) :=
  s.port_setPort_same p _

theorem Chip.port_updPort_other {p q : Nat} (g : Port → Port) (h : q ≠ p) : (s.updPort p g).port q = s.port q :=
  s.port_setPort_other _ h

theorem Chip.beat_of_regs {s t : Chip} (h : t.regs = s.regs) : t.beat = s.beat := Chip.get64_of_regs h

theorem Chip.beat_of_sameRegs {s t : Chip} {l : List Nat} (h : SameRegs s t l) (h1 : pgBEAT + 0x118 ∉ l) (h2 : pgBEAT + 0x11C ∉ l) :
    t.beat = s.beat := h.get64 h1 h2

end Reads

/-! ## A logged error (R394) -/

section Logged

variable (s : Chip)

/-- The error's bit in ERR_STAT of a page with error registers (R394, R472, R473). -/
theorem Chip.bit_logErr {page code : Nat} (cw : Nat) (hp : hasErrRegs page = true) (hb : errBit code < 32)
    (hg : page + 0x010 < pgGERP ∨ pgGERP + 0x1000 ≤ page + 0x010) :
    (s.logErr page code cw).bit page ⟨0x010, errBit code, 1⟩ = true := by
  have hset : ∀ v : Word, (s.setReg (page + 0x010) (v ||| BitVec.ofNat 32 (2 ^ errBit code))).bit page ⟨0x010, errBit code, 1⟩ = true := by
    intro v
    rw [Chip.bit_eq, Chip.reg_setReg_same, BitVec.getLsbD_or, BitVec.getLsbD_ofNat, Nat.testBit_two_pow]
    simp [hb]
  have hlocal : (s.logLocal page code cw).bit page ⟨0x010, errBit code, 1⟩ = true := by
    rw [← hset (s.reg (page + 0x010)), Chip.bit_eq, Chip.bit_eq, Chip.logLocal, if_pos hp]
    split <;> split <;> simp [Chip.reg_raise_other, Chip.reg_put64_other, Chip.reg_put_other, fErrFirst, fErrCtx]
  rw [← hlocal, Chip.bit_eq, Chip.bit_eq, Chip.logErr, Chip.reg_logGlobal_other _ _ _ _ _ hg]

end Logged

/-! ## Entering a state -/

section Enter

variable (s : Chip) (st : Nat)

/-- The state that the unit enters is written, with the interrupt of the LOCKED that it leaves (R484, R486). -/
def Chip.leaveFor (s : Chip) (st : Nat) : Chip :=
  (if s.beatState = bsLOCKED && decide (st ≠ bsLOCKED) then s.raise pgBEAT 1 else s).put pgBEAT fBeatState st

theorem Chip.leaveFor_spec (hst : st < 8) : (s.leaveFor st).beatState = st ∧
    RegsOnly s (s.leaveFor st) ∧ SameRegs s (s.leaveFor st) [pgBEAT + 0x028, pgBEAT + 0x110] ∧
    (∀ f : Fld, f.off = 0x110 → 3 ≤ f.lo → (s.leaveFor st).get pgBEAT f = s.get pgBEAT f) ∧
    (s.beatState ≠ bsLOCKED → SameRegs s (s.leaveFor st) [pgBEAT + 0x110]) ∧
    (s.beatState = bsLOCKED → st ≠ bsLOCKED → (s.leaveFor st).bit pgBEAT ⟨0x028, 1, 1⟩ = true) := by
  unfold Chip.leaveFor
  refine ⟨?_, ((RegsOnly.refl s).raise.ite (.refl s)).put, ((SameRegs.ite ((SameRegs.refl s _).raise ?_) (.refl s _))).put ?_,
    fun f hf hlo => ?_, fun h => ?_, fun h hne => ?_⟩
  · rw [Chip.beatState, Chip.get_put_same _ _ _ _ (by decide)]
    exact Nat.mod_eq_of_lt hst
  · simp
  · simp [fBeatState]
  · rw [Chip.get_put_off _ _ (.inr (.inr (show fBeatState.lo + fBeatState.len ≤ f.lo from hlo)))]
    split
    · exact Chip.get_raise_other _ _ (by rw [hf]; decide)
    · rfl
  · rw [if_neg (by simp [h])]
    exact (SameRegs.refl s _).put (by simp [fBeatState])
  · rw [if_pos (by simp [h, hne]), Chip.bit, Chip.get_put_off _ _ (.inl (by decide)), ← Chip.bit]
    exact s.bit_raise pgBEAT 1 (by decide)

theorem Chip.enterBeat_quiet (h : st = bsACQUIRE ∨ st = bsDISABLED) : s.enterBeat st = s.leaveFor st := by
  rcases h with rfl | rfl <;> rfl

theorem Chip.enterBeat_locked : s.enterBeat bsLOCKED = (s.leaveFor bsLOCKED).raise pgBEAT 0 := rfl

theorem Chip.enterBeat_holdover : s.enterBeat bsHOLDOVER =
    ((s.leaveFor bsHOLDOVER).count pgBEAT 4 1).updBeat fun u => { u with tryBackup := false } := rfl

theorem Chip.enterBeat_fault : s.enterBeat bsFAULT =
    (((s.leaveFor bsFAULT).count pgBEAT 5 1).raise pgBEAT 2).logErr pgBEAT eBEAT_LOSS 0 := rfl

end Enter

/-! ## The parts of the device that the beat unit's states leave alone -/

/-- Of the device, only registers, counts and the beat unit's own data change. -/
structure UnitOnly (s t : Chip) : Prop where
  rest : t = { s with regs := t.regs, counts := t.counts, beatU := t.beatU }

section UnitOnly

variable {s t u : Chip}

theorem UnitOnly.refl (s : Chip) : UnitOnly s s := ⟨rfl⟩

theorem UnitOnly.trans (h : UnitOnly s t) (h2 : UnitOnly t u) : UnitOnly s u := by
  have ht := h.rest
  have hu := h2.rest
  rw [ht] at hu
  exact ⟨hu⟩

theorem UnitOnly.of_regsOnly (h : RegsOnly s t) : UnitOnly s t := by
  rw [RegsOnly] at h
  exact ⟨by rw [h]⟩

theorem UnitOnly.count (h : UnitOnly s t) {page sel n : Nat} : UnitOnly s (t.count page sel n) := h.trans ⟨rfl⟩

theorem UnitOnly.updBeat (h : UnitOnly s t) {f : BeatUnit → BeatUnit} : UnitOnly s (t.updBeat f) := h.trans ⟨rfl⟩

/-- Any reading of what is neither register, count nor beat unit is as before. -/
theorem UnitOnly.keeps {β : Type} (h : UnitOnly s t) (g : Chip → β)
    (hg : ∀ (u : Chip) r n b, g { u with regs := r, counts := n, beatU := b } = g u) : g t = g s :=
  (congrArg g h.rest).trans (hg s ..)

theorem UnitOnly.edges (h : UnitOnly s t) : t.edges = s.edges := h.keeps Chip.edges fun _ _ _ _ => rfl
theorem UnitOnly.mem (h : UnitOnly s t) : t.mem = s.mem := h.keeps Chip.mem fun _ _ _ _ => rfl
theorem UnitOnly.cores (h : UnitOnly s t) : t.cores = s.cores := h.keeps Chip.cores fun _ _ _ _ => rfl

end UnitOnly

/-! ## Each state's entry -/

section States

variable (s : Chip)

/-- LOCKED (R40, R486): the interrupt of the lock; registers only. -/
theorem Chip.enterLocked_spec : (s.enterBeat bsLOCKED).beatState = bsLOCKED ∧
    (s.enterBeat bsLOCKED).bit pgBEAT ⟨0x028, 0, 1⟩ = true ∧ RegsOnly s (s.enterBeat bsLOCKED) ∧
    SameRegs s (s.enterBeat bsLOCKED) [pgBEAT + 0x028, pgBEAT + 0x110] := by
  obtain ⟨hst, hrest, hregs, -⟩ := s.leaveFor_spec bsLOCKED (by decide)
  rw [Chip.enterBeat_locked]
  exact ⟨(Chip.get_raise_other _ _ (by decide)).trans hst, Chip.bit_raise _ _ _ (by decide), hrest.raise, hregs.raise (.head _)⟩

/-- HOLDOVER (R36, R40, R486): its count, and the interrupt of the LOCKED that it ends. -/
theorem Chip.enterHoldover_spec : (s.enterBeat bsHOLDOVER).beatState = bsHOLDOVER ∧ UnitOnly s (s.enterBeat bsHOLDOVER) ∧
    SameRegs s (s.enterBeat bsHOLDOVER) [pgBEAT + 0x028, pgBEAT + 0x110] ∧
    (s.enterBeat bsHOLDOVER).countOf pgBEAT 4 = min (s.countOf pgBEAT 4 + 1) (2 ^ 64 - 1) ∧
    SameCounts s (s.enterBeat bsHOLDOVER) [pgBEAT + 4] ∧
    (s.beatState = bsLOCKED → (s.enterBeat bsHOLDOVER).bit pgBEAT ⟨0x028, 1, 1⟩ = true) := by
  obtain ⟨hst, hrest, hregs, -, -, hraised⟩ := s.leaveFor_spec bsHOLDOVER (by decide)
  rw [Chip.enterBeat_holdover]
  have hcounts : (s.leaveFor bsHOLDOVER).counts = s.counts := hrest.keeps Chip.counts fun _ _ => rfl
  generalize s.leaveFor bsHOLDOVER = u at *
  refine ⟨?_, (UnitOnly.of_regsOnly hrest).count.updBeat, hregs.of_regs (by simp [Chip.updBeat]), ?_, ?_, fun h => ?_⟩
  · rw [Chip.beatState, Chip.get_updBeat, Chip.get_count]
    exact hst
  · rw [Chip.countOf_updBeat, Chip.countOf_count_same, Chip.countOf_of_counts hcounts]
  · refine SameCounts.trans (t := u.count pgBEAT 4 1) (SameCounts.count (t := u) (fun k _ => by rw [hcounts]) (.head _)) ?_
    exact fun k _ => rfl
  · rw [Chip.bit_updBeat, Chip.bit_count]
    exact hraised h (by decide)

/-- FAULT (R40, R394): BEAT_LOSS is logged. -/
theorem Chip.beatFault_spec {cause : Nat} (hcause : cause < 4) : (s.beatFault cause).beatState = bsFAULT ∧
    (s.beatFault cause).get pgBEAT fBeatCause = cause ∧ (s.beatFault cause).bit pgBEAT ⟨0x010, errBit eBEAT_LOSS, 1⟩ = true ∧
    UnitOnly s (s.beatFault cause) := by
  obtain ⟨hst, hrest, -⟩ := s.leaveFor_spec bsFAULT (by decide)
  rw [Chip.beatFault, Chip.enterBeat_fault]
  generalize s.leaveFor bsFAULT = u at *
  have hlogged := ((u.count pgBEAT 5 1).raise pgBEAT 2).bit_logErr (page := pgBEAT) (code := eBEAT_LOSS) 0 (by decide) (by decide) (by decide)
  have hlog := ((u.count pgBEAT 5 1).raise pgBEAT 2).logErr_rest pgBEAT eBEAT_LOSS 0
  have hkept : ((((u.count pgBEAT 5 1).raise pgBEAT 2).logErr pgBEAT eBEAT_LOSS 0).get pgBEAT fBeatState) = bsFAULT := by
    rw [Chip.get_congr _ (Chip.reg_logErr_other _ _ _ _ _ (by decide) (by decide)), Chip.get_raise_other _ _ (by decide), Chip.get_count]
    exact hst
  generalize hv : ((u.count pgBEAT 5 1).raise pgBEAT 2).logErr pgBEAT eBEAT_LOSS 0 = v at *
  refine ⟨?_, ?_, ?_, ?_⟩
  · rw [Chip.beatState, Chip.get_put_off _ _ (by decide)]
    exact hkept
  · rw [Chip.get_put_same _ _ _ _ (by decide)]
    exact Nat.mod_eq_of_lt hcause
  · rw [Chip.bit, Chip.get_put_off _ _ (by decide)]
    exact hlogged
  · refine ((UnitOnly.of_regsOnly hrest).count (page := pgBEAT) (sel := 5) (n := 1)).trans (.of_regsOnly ?_)
    exact ((RegsOnly.refl _).raise.trans hlog).put

end States

end Sys2Proof.Machine
end

section
/-! What a beat edge does (R32, R34, R54, R264, R313, R434, R439, R485, R486). -/

namespace Sys2Proof.Machine

/-! ## What the followers of an edge may change -/

/-- Of what the beat unit and the programs have, an edge's followers change nothing: they write the slices' and the management port's
registers, the ports, the ramp limiter, and counts of other pages; where `slices` does not hold, no slice's register. -/
structure EdgeKeeps (s t : Chip) (slices : Bool) : Prop where
  rest : t = { s with regs := t.regs, counts := t.counts, ports := t.ports, pow := t.pow, fresh := t.fresh }
  regs : ∀ k, (k < pgMGT ∨ pgMGT + 0x1000 ≤ k) → (slices = true → k < pgCEL 0 ∨ pgCEL 36 ≤ k) → t.reg k = s.reg k
  counts : ∀ sel, sel < 0x1000 → t.countOf pgBEAT sel = s.countOf pgBEAT sel

section Keeps

variable {s t u : Chip} {b : Bool}

theorem EdgeKeeps.refl (s : Chip) : EdgeKeeps s s b := ⟨rfl, fun _ _ _ => rfl, fun _ _ => rfl⟩

theorem EdgeKeeps.trans (h : EdgeKeeps s t b) (h2 : EdgeKeeps t u b) : EdgeKeeps s u b := by
  refine ⟨?_, fun k hm hc => (h2.regs k hm hc).trans (h.regs k hm hc), fun i hi => (h2.counts i hi).trans (h.counts i hi)⟩
  have ht := h.rest
  have hu := h2.rest
  rw [ht] at hu
  exact hu

theorem EdgeKeeps.keeps {β : Type} (h : EdgeKeeps s t b) (g : Chip → β)
    (hg : ∀ (u : Chip) r n p w f, g { u with regs := r, counts := n, ports := p, pow := w, fresh := f } = g u) : g t = g s :=
  (congrArg g h.rest).trans (hg s ..)

/-- The beat unit's page is not among the registers written. -/
theorem EdgeKeeps.beatGet (h : EdgeKeeps s t b) {f : Fld} (hf : f.off < 0x1000) : t.get pgBEAT f = s.get pgBEAT f :=
  s.get_congr (h.regs _ (.inl (by simp only [pgBEAT, pgMGT]; omega)) fun _ => .inl (by simp only [pgBEAT, pgCEL]; omega))

theorem EdgeKeeps.beat (h : EdgeKeeps s t b) : t.beat = s.beat :=
  s.get64_congr (h.regs _ (by decide) fun _ => by decide) (h.regs _ (by decide) fun _ => by decide)

theorem EdgeKeeps.linkGet (h : EdgeKeeps s t b) {p : Nat} (hp : p < 16) {f : Fld} (hf : f.off < 0x1000) :
    t.get (pgLNK p) f = s.get (pgLNK p) f :=
  s.get_congr (h.regs _ (.inr (by simp only [pgLNK, pgMGT]; omega)) fun _ => .inl (by simp only [pgLNK, pgCEL]; omega))

theorem edgeKeeps_put {page v : Nat} {f : Fld} (h : pgCEL 0 ≤ page + f.off ∧ page + f.off < pgCEL 36) : EdgeKeeps s (s.put page f v) true :=
  ⟨rfl, fun k _ hc => Chip.reg_put_other _ _ _ _ _ (by have := hc rfl; omega), fun _ _ => Chip.countOf_put ..⟩

theorem edgeKeeps_count {page sel n : Nat} (h : ∀ i, i < 0x1000 → page + sel ≠ pgBEAT + i) : EdgeKeeps s (s.count page sel n) b :=
  ⟨rfl, fun _ _ _ => Chip.reg_count .., fun i hi => s.countOf_count_other n (h i hi).symm⟩

theorem edgeKeeps_updPort {p : Nat} {g : Port → Port} : EdgeKeeps s (s.updPort p g) b :=
  ⟨rfl, fun _ _ _ => Chip.reg_updPort .., fun _ _ => Chip.countOf_updPort ..⟩

end Keeps

section Followers

variable (s : Chip) {b : Bool}

/-- A slice's page. -/
theorem edgeKeeps_hotEdge {n : Nat} (hn : n < 36) : EdgeKeeps s (s.hotEdge n) true :=
  edgeKeeps_put (by simp only [pgCEL]; omega)

theorem link_count_ne {p : Nat} (sel : Nat) : ∀ i, i < 0x1000 → pgLNK p + sel ≠ pgBEAT + i := fun i hi => by
  simp only [pgLNK, pgBEAT]; omega

/-- Counting a beat's misses keeps every register, and of counts changes its port's code 0x0C only (R54). -/
theorem edgeKeeps_noteMisses (p : Nat) : EdgeKeeps s (s.noteMisses p) b := by
  refine foldl_trans (EdgeKeeps · · b) .refl .trans _ _ (fun t f => ?_) s
  dsimp only
  split
  · exact .refl t
  · exact edgeKeeps_updPort.trans (edgeKeeps_count (link_count_ne _))

/-- The marker that a port sends. -/
def Chip.markerOf (s : Chip) (p : Nat) : Marker :=
  { beat := BitVec.ofNat 64 s.beat, depart := Config.freeNat s.fresh % (435 / s.get (pgLNK p) ⟨0x104, 3, 3⟩ + 1),
    period := s.get pgBEAT fBeatPeriod, masterId := s.get pgBEAT fBeatMasterId, hops := s.get pgBEAT fBeatHops, state := s.beatState }

theorem Chip.sendMarker_eq (p : Nat) : s.sendMarker p = ((({ s with fresh := s.fresh + 1 } : Chip).updPort p fun k =>
    k.start { s.cell 1 0 with len := 256, mark := some (s.markerOf p) }).count (pgLNK p) 0x10 1) := rfl

theorem edgeKeeps_sendMarker (p : Nat) : EdgeKeeps s (s.sendMarker p) b := by
  have hfresh : EdgeKeeps s { s with fresh := s.fresh + 1 } b := ⟨rfl, fun _ _ _ => Chip.reg_of_regs rfl, fun _ _ => Chip.countOf_of_counts rfl⟩
  rw [Chip.sendMarker_eq]
  exact (hfresh.trans edgeKeeps_updPort).trans (edgeKeeps_count (link_count_ne _))

theorem edgeKeeps_portEdge (p : Nat) : EdgeKeeps s (s.portEdge p) b := by
  rw [Chip.portEdge]
  split
  · refine EdgeKeeps.trans ?_ edgeKeeps_updPort
    split
    · exact (edgeKeeps_noteMisses s p).trans (edgeKeeps_sendMarker _ p)
    · exact .refl s
  · exact .refl s

theorem edgeKeeps_rampEdge : EdgeKeeps s s.rampEdge b := by
  rw [Chip.rampEdge]
  refine EdgeKeeps.trans (t := { s with pow := { s.pow with stopped := false, charges := _ } }) ?_
    (edgeKeeps_count fun i hi => by simp only [pgGOV, pgBEAT]; omega)
  exact ⟨rfl, fun _ _ _ => Chip.reg_of_regs rfl, fun _ _ => Chip.countOf_of_counts rfl⟩

theorem edgeKeeps_govCounts : EdgeKeeps s s.govCounts b := by
  have hcount : ∀ (t : Chip) sel n, EdgeKeeps t (t.count pgGOV sel n) b := fun t sel _ =>
    edgeKeeps_count fun i hi => by simp only [pgGOV, pgBEAT]; omega
  rw [Chip.govCounts]
  split <;> split
  · exact (hcount _ _ _).trans (hcount _ _ _)
  · exact hcount _ _ _
  · exact hcount _ _ _
  · exact .refl s

theorem edgeKeeps_latchPtp : EdgeKeeps s s.latchPtp b := by
  have hset : ∀ (t : Chip) o v, o < 0x1000 → EdgeKeeps t (t.setReg (pgMGT + o) v) b := fun t o v ho =>
    ⟨rfl, fun k hm _ => Chip.reg_setReg_other _ _ (by omega), fun _ _ => Chip.countOf_setReg ..⟩
  have hfresh : EdgeKeeps s { s with fresh := s.fresh + 2 } b := ⟨rfl, fun _ _ _ => Chip.reg_of_regs rfl, fun _ _ => Chip.countOf_of_counts rfl⟩
  rw [Chip.latchPtp]
  exact (((hfresh.trans (hset _ _ _ (by decide))).trans (hset _ _ _ (by decide))).trans (hset _ _ _ (by decide))).trans
    (hset _ _ _ (by decide))

/-- What an edge of the beat brings about beside the count. -/
def Chip.edgeFollows (s : Chip) : Chip :=
  ((s.forEach (List.range 36) Chip.hotEdge).forEach (List.range 16) Chip.portEdge).rampEdge.govCounts.latchPtp

theorem edgeKeeps_forEach {f : Chip → Nat → Chip} {l : List Nat} (h : ∀ t n, n ∈ l → EdgeKeeps t (f t n) b) :
    EdgeKeeps s (s.forEach l f) b := by
  induction l generalizing s with
  | nil => exact .refl s
  | cons a l ih => exact (h s a (List.mem_cons_self ..)).trans (ih _ fun t n hn => h t n (List.mem_cons_of_mem a hn))

theorem edgeKeeps_edgeFollows : EdgeKeeps s s.edgeFollows true :=
  ((((edgeKeeps_forEach s fun t _ hn => edgeKeeps_hotEdge t (List.mem_range.1 hn)).trans
    (edgeKeeps_forEach _ fun t p _ => edgeKeeps_portEdge t p)).trans (edgeKeeps_rampEdge _)).trans (edgeKeeps_govCounts _)).trans
    (edgeKeeps_latchPtp _)

end Followers

/-! ## The slices and the ports at an edge -/

section AtEdge

variable (s : Chip)

/-- A slice whose policy is 1 is hot after the edge (R264). -/
theorem Chip.hot_after_edge {n : Nat} (hn : n < 36) (h : s.get (pgCEL n) ⟨0x100, 0, 2⟩ = 1) :
    (s.forEach (List.range 36) Chip.hotEdge).get (pgCEL n) ⟨0x108, 0, 1⟩ = 1 := by
  have hsame : ∀ t : Chip, t.get (pgCEL n) ⟨0x100, 0, 2⟩ = 1 → (t.hotEdge n).get (pgCEL n) ⟨0x108, 0, 1⟩ = 1 := fun t ht => by
    rw [Chip.hotEdge, Chip.get_put_same _ _ _ _ (by decide)]
    simp only [ht, if_true]
    rfl
  have hpolicy : ∀ (t : Chip) m, (t.hotEdge m).get (pgCEL n) ⟨0x100, 0, 2⟩ = t.get (pgCEL n) ⟨0x100, 0, 2⟩ := fun t m =>
    Chip.get_put_off _ _ (.inl (by simp only [pgCEL]; omega))
  have hother : ∀ (t : Chip) m, m ≠ n → (t.hotEdge m).get (pgCEL n) ⟨0x108, 0, 1⟩ = t.get (pgCEL n) ⟨0x108, 0, 1⟩ := fun t m hm =>
    Chip.get_put_off _ _ (.inl (by simp only [pgCEL]; omega))
  have hlist : ∀ (l : List Nat) (t : Chip), t.get (pgCEL n) ⟨0x100, 0, 2⟩ = 1 → (n ∈ l ∨ t.get (pgCEL n) ⟨0x108, 0, 1⟩ = 1) →
      (t.forEach l Chip.hotEdge).get (pgCEL n) ⟨0x108, 0, 1⟩ = 1 := by
    intro l
    induction l with
    | nil => exact fun t _ hdone => hdone.resolve_left (List.not_mem_nil)
    | cons m l ih =>
      refine fun t ht hdone => ih (t.hotEdge m) ((hpolicy t m).trans ht) ?_
      by_cases hm : m = n
      · subst hm
        exact .inr (hsame t ht)
      · rw [hother t m hm]
        exact hdone.imp_left fun hmem => (List.mem_cons.1 hmem).resolve_left (Ne.symm hm)
  exact hlist _ s h (.inl (List.mem_range.2 hn))

/-- Counting a port's misses changes that port and its code 0x0C. -/
theorem Chip.noteMisses_other {p q : Nat} (h : q ≠ p) : (s.noteMisses q).port p = s.port p :=
  List.foldl_keep (Chip.port · p) _ _ _ fun t f => by
    dsimp only
    split
    · rfl
    · rw [Chip.port_count, Chip.port_updPort_other t _ h.symm]

theorem Chip.countOf_noteMisses (q p sel : Nat) (h : pgLNK p + sel ≠ pgLNK q + 0x0C) :
    (s.noteMisses q).countOf (pgLNK p) sel = s.countOf (pgLNK p) sel :=
  List.foldl_keep (Chip.countOf · (pgLNK p) sel) _ _ _ fun t f => by
    dsimp only
    split
    · rfl
    · rw [Chip.countOf_count_other _ _ h, Chip.countOf_updPort]

/-- What another port's edge leaves of port `p`. -/
theorem Chip.portEdge_other {p q : Nat} (h : q ≠ p) :
    (s.portEdge q).port p = s.port p ∧ (s.portEdge q).countOf (pgLNK p) 0x10 = s.countOf (pgLNK p) 0x10 := by
  have hne : pgLNK p + 0x10 ≠ pgLNK q + 0x0C ∧ pgLNK p + 0x10 ≠ pgLNK q + 0x10 := by simp only [pgLNK]; omega
  rw [Chip.portEdge]
  split
  · rw [Chip.port_updPort_other _ _ h.symm, Chip.countOf_updPort]
    split
    · rw [Chip.sendMarker_eq, Chip.port_count, Chip.port_updPort_other _ _ h.symm, Chip.countOf_count_other _ _ hne.2, Chip.countOf_updPort]
      exact ⟨(Chip.port_of_ports rfl).trans (s.noteMisses_other h), (Chip.countOf_of_counts rfl).trans (s.countOf_noteMisses q p _ hne.1)⟩
    · exact ⟨rfl, rfl⟩
  · exact ⟨rfl, rfl⟩

/-- A port that is UP at its edge counts the beat's marker and sends it (R313). -/
theorem Chip.portEdge_same {p : Nat} (hp : s.portPresent p = true) (hst : s.portState p = psUP) :
    ((s.portEdge p).port p).sent.bind (·.mark) = some ((s.noteMisses p).markerOf p) ∧
    (s.portEdge p).countOf (pgLNK p) 0x10 = min (s.countOf (pgLNK p) 0x10 + 1) (2 ^ 64 - 1) := by
  have hcount : (s.noteMisses p).countOf (pgLNK p) 0x10 = s.countOf (pgLNK p) 0x10 := s.countOf_noteMisses p p _ (by simp)
  rw [Chip.portEdge, if_pos hp, if_pos hst, Chip.sendMarker_eq]
  generalize s.noteMisses p = u at *
  refine ⟨?_, ?_⟩
  · rw [Chip.port_updPort_same, Chip.port_count, Chip.port_updPort_same]
    rfl
  · rw [Chip.countOf_updPort, Chip.countOf_count_same, Chip.countOf_updPort]
    exact congrArg (fun n => min (n + 1) (2 ^ 64 - 1)) ((Chip.countOf_of_counts rfl).trans hcount)

/-- The marker's fields but the time of its departure. -/
def markerTold (m : Marker) : Nat × Nat × Nat × Nat := (m.beat.toNat, m.period, m.hops, m.masterId)

theorem Chip.told_markerOf (p : Nat) : markerTold (s.markerOf p) =
    (s.beat, s.get pgBEAT fBeatPeriod, s.get pgBEAT fBeatHops, s.get pgBEAT fBeatMasterId) := by
  have hlt : s.beat < 2 ^ 64 := s.get64_lt pgBEAT 0x118
  rw [markerTold, Chip.markerOf, BitVec.toNat_ofNat, Nat.mod_eq_of_lt hlt]

/-- The ports one after the other: the edge of one that is UP stands, with the beat that they all see (R313). -/
theorem Chip.portEdges_marker {p : Nat} (hp : p < 16) (hpres : s.portPresent p = true) (hst : s.portState p = psUP) :
    let t := s.forEach (List.range 16) Chip.portEdge
    t.countOf (pgLNK p) 0x10 = min (s.countOf (pgLNK p) 0x10 + 1) (2 ^ 64 - 1) ∧
    ((t.port p).sent.bind (·.mark)).map markerTold =
      some (s.beat, s.get pgBEAT fBeatPeriod, s.get pgBEAT fBeatHops, s.get pgBEAT fBeatMasterId) := by
  have hothers : ∀ (l : List Nat) (u : Chip), p ∉ l → (u.forEach l Chip.portEdge).port p = u.port p ∧
      (u.forEach l Chip.portEdge).countOf (pgLNK p) 0x10 = u.countOf (pgLNK p) 0x10 := fun l u hl =>
    ⟨Chip.forEach_keep (Chip.port · p) _ _ _ fun t q hq => (t.portEdge_other (ne_of_mem_of_not_mem hq hl)).1,
      Chip.forEach_keep (Chip.countOf · (pgLNK p) 0x10) _ _ _ fun t q hq => (t.portEdge_other (ne_of_mem_of_not_mem hq hl)).2⟩
  obtain ⟨l, r, hlr⟩ := List.append_of_mem (List.mem_range.2 hp)
  have hnodup : (l ++ p :: r).Nodup := hlr ▸ List.nodup_range
  have hpl : p ∉ l := fun h => (List.disjoint_of_nodup_append hnodup) h (List.mem_cons_self ..)
  have hpr : p ∉ r := (List.nodup_cons.1 (List.Nodup.of_append_right hnodup)).1
  have hsplit : s.forEach (List.range 16) Chip.portEdge = (((s.forEach l Chip.portEdge).portEdge p).forEach r Chip.portEdge) := by
    rw [hlr, Chip.forEach, List.foldl_append, List.foldl_cons]
    rfl
  have hkeeps : EdgeKeeps s (s.forEach l Chip.portEdge) false := edgeKeeps_forEach s fun t q _ => edgeKeeps_portEdge t q
  obtain ⟨hport, hcount⟩ := hothers l s hpl
  intro t
  rw [show t = _ from hsplit]
  generalize s.forEach l Chip.portEdge = u at *
  obtain ⟨hport', hcount'⟩ := hothers r (u.portEdge p) hpr
  have hupres : u.portPresent p = true := (hkeeps.keeps (Chip.portPresent · p) fun _ _ _ _ _ _ => rfl).trans hpres
  obtain ⟨hsent, hmarker⟩ := u.portEdge_same hupres ((hkeeps.linkGet hp (by decide)).trans hst)
  have hkeeps' := hkeeps.trans (edgeKeeps_noteMisses u p)
  refine ⟨by rw [hcount', hmarker, hcount], ?_⟩
  rw [hport', hsent, Option.map_some, Chip.told_markerOf, hkeeps'.beat, hkeeps'.beatGet (by decide), hkeeps'.beatGet (by decide),
    hkeeps'.beatGet (by decide)]

end AtEdge

/-! ## The edge -/

section Edge

variable (s : Chip)

/-- What the counts of a beat that ends change: four counts of the unit, and of its own data the markers missing (R486). -/
structure BeatCounted (s t : Chip) : Prop where
  only : UnitOnly s t
  regs : t.regs = s.regs
  counts : SameCounts s t [pgBEAT + 1, pgBEAT + 2, pgBEAT + 3, pgBEAT + 6]
  unit : ∃ m g, t.beatU = { s.beatU with missing := m, good := g }

theorem BeatCounted.refl : BeatCounted s s := ⟨.refl s, rfl, .refl s _, s.beatU.missing, s.beatU.good, rfl⟩

theorem BeatCounted.count {s t : Chip} (h : BeatCounted s t) {sel n : Nat}
    (hsel : pgBEAT + sel ∈ [pgBEAT + 1, pgBEAT + 2, pgBEAT + 3, pgBEAT + 6]) : BeatCounted s (t.count pgBEAT sel n) :=
  ⟨h.only.count, h.regs, h.counts.count hsel, h.unit⟩

theorem BeatCounted.miss {s t : Chip} (h : BeatCounted s t) :
    BeatCounted s (t.updBeat fun v => { v with missing := v.missing + 1, good := 0 }) := by
  obtain ⟨m, g, hu⟩ := h.unit
  refine ⟨h.only.updBeat, h.regs, fun k hk => h.counts k hk, m + 1, 0, ?_⟩
  rw [Chip.updBeat, hu]

theorem beatCounted_beatCounts : BeatCounted s s.beatCounts := by
  have h1 : BeatCounted s (if 0 < s.beatU.step then s.count pgBEAT 2 1 else if s.beatU.step < 0 then s.count pgBEAT 3 1 else s) := by
    split
    · exact (BeatCounted.refl s).count (by simp)
    · split
      · exact (BeatCounted.refl s).count (by simp)
      · exact .refl s
  rw [Chip.beatCounts]
  generalize (if 0 < s.beatU.step then s.count pgBEAT 2 1 else if s.beatU.step < 0 then s.count pgBEAT 3 1 else s) = u at *
  have h2 : BeatCounted s (if s.beatState = bsLOCKED then u.count pgBEAT 6 1 else u) := by
    split
    · exact h1.count (by simp)
    · exact h1
  generalize (if s.beatState = bsLOCKED then u.count pgBEAT 6 1 else u) = v at *
  split
  · exact h2
  · split
    · exact h2
    · exact (h2.count (by simp)).miss

/-- The unit's own part of an edge: the beat's number, the edge that every timer sees, and the next edge (R32, R34). -/
def Chip.edgeUnit (s : Chip) (d : Nat) (load : Bool) : Chip :=
  let n := if load || s.beatU.loadNext then s.get64 pgBEAT 0x108 else s.beat + 1
  let s1 := if s.beatU.last.isSome then s.beatCounts else s
  (({ s1 with edges := s1.edges + 1 } : Chip).put64 pgBEAT 0x118 n).updBeat fun v =>
    let st := if s.calm then clampTo 8 v.step else v.step
    { v with last := some d, next := some ((d + s.finePeriod : Int) + st).toNat, step := st, seen := false, loadNext := false,
             stray := false, tryBackup := decide (s.beatState = bsHOLDOVER),
             acq := if s.beatState = bsACQUIRE then v.acq + 1 else v.acq }

/-- The beat stops at an edge (R485). -/
def Chip.beatStop (s : Chip) : Chip := (({ s with beatU := BeatUnit.reset } : Chip).enterBeat bsDISABLED).put pgBEAT fBeatEn 0

theorem Chip.edge_eq (d : Nat) (load : Bool) : s.edge d load =
    if s.beatU.stopNext then (s.edgeUnit d load).edgeFollows.beatStop else (s.edgeUnit d load).edgeFollows := rfl

/-- The beat's number that an edge gives. -/
def Chip.edgeBeat (s : Chip) (load : Bool) : Nat := (if load || s.beatU.loadNext then s.get64 pgBEAT 0x108 else s.beat + 1) % 2 ^ 64

/-- The steering that the beat after an edge begins with. -/
def Chip.edgeStep (s : Chip) : Int := if s.calm then clampTo 8 s.beatU.step else s.beatU.step

theorem Chip.edgeUnit_spec (d : Nat) (load : Bool) :
    (s.edgeUnit d load).beat = s.edgeBeat load ∧ (s.edgeUnit d load).edges = s.edges + 1 ∧
    (s.edgeUnit d load).beatU.last = some d ∧
    (s.edgeUnit d load).beatU.next = some ((d + s.finePeriod : Int) + s.edgeStep).toNat ∧
    (s.edgeUnit d load).beatU.misses = s.beatU.misses ∧
    SameRegs s (s.edgeUnit d load) [pgBEAT + 0x118, pgBEAT + 0x11C] ∧
    SameCounts s (s.edgeUnit d load) [pgBEAT + 1, pgBEAT + 2, pgBEAT + 3, pgBEAT + 6] ∧
    (s.edgeUnit d load).mem = s.mem ∧ (s.edgeUnit d load).cores = s.cores ∧ (s.edgeUnit d load).ident = s.ident := by
  have hcounted : BeatCounted s (if s.beatU.last.isSome then s.beatCounts else s) := by
    split
    · exact beatCounted_beatCounts s
    · exact .refl s
  unfold Chip.edgeUnit
  dsimp only
  generalize (if s.beatU.last.isSome then s.beatCounts else s) = u at *
  obtain ⟨hrest, hregs, hcounts, m, g, hunit⟩ := hcounted
  generalize hw : ({ u with edges := u.edges + 1 } : Chip) = w
  have hwregs : w.regs = s.regs := by rw [← hw, hregs]
  have hwunit : w.beatU = u.beatU := by rw [← hw]
  have hwedges : w.edges = s.edges + 1 := by rw [← hw, hrest.edges]
  have hwcounts : w.counts = u.counts := by rw [← hw]
  have hwmem : w.mem = s.mem := by rw [← hw, hrest.mem]
  have hwcores : w.cores = s.cores := by rw [← hw, hrest.cores]
  have hwident : w.ident = s.ident := by rw [← hw, hrest.keeps Chip.ident fun _ _ _ _ => rfl]
  generalize hn : (if load || s.beatU.loadNext then s.get64 pgBEAT 0x108 else s.beat + 1) = n
  have hput : RegsOnly w (w.put64 pgBEAT 0x118 n) := (RegsOnly.refl w).put64
  have hbeat := w.get64_put64_cut pgBEAT 0x118 n
  have hsame : SameRegs s (w.put64 pgBEAT 0x118 n) [pgBEAT + 0x118, pgBEAT + 0x11C] :=
    ((SameRegs.refl s _).of_regs hwregs).put64 (by simp) (by simp)
  generalize w.put64 pgBEAT 0x118 n = x at *
  have hxunit : x.beatU = { s.beatU with missing := m, good := g } :=
    (hput.keeps Chip.beatU fun _ _ => rfl).trans (hwunit.trans hunit)
  refine ⟨?_, ?_, rfl, ?_, ?_, hsame.of_regs rfl, fun k hk => ?_, ?_, ?_, ?_⟩
  · rw [Chip.edgeBeat, hn, ← hbeat]
    exact Chip.beat_of_regs rfl
  · exact (hput.keeps Chip.edges fun _ _ => rfl).trans hwedges
  · rw [Chip.updBeat, hxunit, Chip.edgeStep]
  · rw [Chip.updBeat, hxunit]
  · exact (congrArg (sget countReset · k) ((hput.keeps Chip.counts fun _ _ => rfl).trans hwcounts)).trans (hcounts k hk)
  · exact (hput.keeps Chip.mem fun _ _ => rfl).trans hwmem
  · exact (hput.keeps Chip.cores fun _ _ => rfl).trans hwcores
  · exact (hput.keeps Chip.ident fun _ _ => rfl).trans hwident

/-- Stopping the beat resets the unit's own data, and writes the unit's state and EN (R485). -/
theorem Chip.beatStop_spec : UnitOnly s s.beatStop ∧ s.beatStop.beatState = bsDISABLED ∧ s.beatStop.counts = s.counts ∧
    SameRegs s s.beatStop [pgBEAT + 0x028, pgBEAT + 0x100, pgBEAT + 0x110] := by
  have hreset : UnitOnly s { s with beatU := BeatUnit.reset } := ⟨rfl⟩
  have hregs : ({ s with beatU := BeatUnit.reset } : Chip).regs = s.regs := rfl
  have hcounts : ({ s with beatU := BeatUnit.reset } : Chip).counts = s.counts := rfl
  rw [Chip.beatStop, Chip.enterBeat_quiet _ _ (.inr rfl)]
  generalize ({ s with beatU := BeatUnit.reset } : Chip) = u at *
  obtain ⟨hst, hrest, hleft, -⟩ := u.leaveFor_spec bsDISABLED (by decide)
  generalize u.leaveFor bsDISABLED = v at *
  refine ⟨hreset.trans (.of_regsOnly hrest.put), (Chip.get_put_off _ _ (by decide)).trans hst,
    (hrest.put.keeps Chip.counts fun _ _ => rfl).trans hcounts, SameRegs.put (((SameRegs.refl s _).of_regs hregs).trans
      (hleft.weaken fun k hk => ?_)) (by simp [fBeatEn])⟩
  simp only [List.mem_cons, List.not_mem_nil, or_false] at *
  omega

/-- An edge (R32, R34, R485): the beat counts or takes the load value, every timer sees it, and the unit goes on or stops. -/
theorem Chip.edge_spec (d : Nat) (load : Bool) :
    (s.edge d load).beat = s.edgeBeat load ∧ (s.edge d load).edges = s.edges + 1 ∧
    (s.edge d load).mem = s.mem ∧ (s.edge d load).cores = s.cores ∧
    (s.edge d load).beatState = (if s.beatU.stopNext then bsDISABLED else s.beatState) ∧
    (∀ sel, sel = 0 ∨ sel = 4 → (s.edge d load).countOf pgBEAT sel = s.countOf pgBEAT sel) ∧
    (s.beatU.stopNext = false → (s.edge d load).beatU.last = some d ∧ (s.edge d load).beatU.misses = s.beatU.misses ∧
      (s.edge d load).beatU.next = some ((d + s.finePeriod : Int) + s.edgeStep).toNat) := by
  obtain ⟨hbeat, hedges, hlast, hnext, hmisses, hregs, hcounts, hmem, hcores, -⟩ := s.edgeUnit_spec d load
  rw [Chip.edge_eq]
  generalize s.edgeUnit d load = u at *
  have hkeeps := edgeKeeps_edgeFollows u
  generalize u.edgeFollows = v at *
  have hcount : ∀ sel, sel = 0 ∨ sel = 4 → v.countOf pgBEAT sel = s.countOf pgBEAT sel := fun sel hsel =>
    (hkeeps.counts sel (by omega)).trans (hcounts.countOf (by rcases hsel with rfl | rfl <;> decide))
  have hunit : v.beatU = u.beatU := hkeeps.keeps Chip.beatU fun _ _ _ _ _ _ => rfl
  have hvedges : v.edges = s.edges + 1 := (hkeeps.keeps Chip.edges fun _ _ _ _ _ _ => rfl).trans hedges
  have hvmem : v.mem = s.mem := (hkeeps.keeps Chip.mem fun _ _ _ _ _ _ => rfl).trans hmem
  have hvcores : v.cores = s.cores := (hkeeps.keeps Chip.cores fun _ _ _ _ _ _ => rfl).trans hcores
  have hstate : v.beatState = s.beatState := (hkeeps.beatGet (by decide)).trans (hregs.get (by decide))
  split
  case isTrue hstop =>
    obtain ⟨honly, hoff, hstopCounts, hstopRegs⟩ := v.beatStop_spec
    refine ⟨?_, honly.edges.trans hvedges, honly.mem.trans hvmem, honly.cores.trans hvcores, hoff,
      fun sel hsel => (Chip.countOf_of_counts hstopCounts).trans (hcount sel hsel), fun h => absurd hstop (by simp [h])⟩
    rw [Chip.beat_of_sameRegs hstopRegs (by decide) (by decide), hkeeps.beat, hbeat]
  case isFalse =>
    exact ⟨hkeeps.beat.trans hbeat, hvedges, hvmem, hvcores, hstate, hcount,
      fun _ => ⟨hunit ▸ hlast, hunit ▸ hmisses, hunit ▸ hnext⟩⟩

/-- What follows the ports at an edge keeps them, and their counts (R434, R439, R450). -/
theorem Chip.afterPorts_keeps (p sel : Nat) : s.rampEdge.govCounts.latchPtp.port p = s.port p ∧
    s.rampEdge.govCounts.latchPtp.countOf (pgLNK p) sel = s.countOf (pgLNK p) sel := by
  have hne : ∀ i, i < 0x1000 → pgLNK p + sel ≠ pgGOV + i := fun i hi => by simp only [pgLNK, pgGOV]; omega
  have hlatch : ∀ t : Chip, t.latchPtp.ports = t.ports ∧ t.latchPtp.counts = t.counts := fun t => by
    simp [Chip.latchPtp]
  have hgov : ∀ t : Chip, t.govCounts.ports = t.ports ∧ t.govCounts.countOf (pgLNK p) sel = t.countOf (pgLNK p) sel := fun t => by
    rw [Chip.govCounts]
    split <;> split <;> simp [Chip.countOf_count_other, hne]
  have hramp : s.rampEdge.ports = s.ports ∧ s.rampEdge.countOf (pgLNK p) sel = s.countOf (pgLNK p) sel := by
    rw [Chip.rampEdge]
    exact ⟨by simp, (Chip.countOf_count_other _ _ (hne _ (by decide))).trans (Chip.countOf_of_counts rfl)⟩
  generalize s.rampEdge = t at *
  refine ⟨Chip.port_of_ports ?_, (Chip.countOf_of_counts (hlatch _).2).trans ((hgov _).2.trans hramp.2)⟩
  rw [(hlatch _).1, (hgov _).1, hramp.1]

/-- What the slices and the ports show once an edge's followers are done (R264, R313). -/
theorem Chip.edgeFollows_shows :
    (∀ n, n < 36 → s.get (pgCEL n) ⟨0x100, 0, 2⟩ = 1 → s.edgeFollows.get (pgCEL n) ⟨0x108, 0, 1⟩ = 1) ∧
    (∀ p, p < 16 → s.portPresent p = true → s.portState p = psUP →
      s.edgeFollows.countOf (pgLNK p) 0x10 = min (s.countOf (pgLNK p) 0x10 + 1) (2 ^ 64 - 1) ∧
      ((s.edgeFollows.port p).sent.bind (·.mark)).map markerTold =
        some (s.beat, s.get pgBEAT fBeatPeriod, s.get pgBEAT fBeatHops, s.get pgBEAT fBeatMasterId)) := by
  have hslices : EdgeKeeps s (s.forEach (List.range 36) Chip.hotEdge) true :=
    edgeKeeps_forEach s fun t _ hn => edgeKeeps_hotEdge t (List.mem_range.1 hn)
  have hhot := fun n (hn : n < 36) => s.hot_after_edge hn
  have hslicePorts : (s.forEach (List.range 36) Chip.hotEdge).ports = s.ports :=
    Chip.forEach_keep Chip.ports _ _ _ fun t n _ => by simp [Chip.hotEdge]
  have hsliceCounts : (s.forEach (List.range 36) Chip.hotEdge).counts = s.counts :=
    Chip.forEach_keep Chip.counts _ _ _ fun t n _ => by simp [Chip.hotEdge]
  rw [Chip.edgeFollows]
  generalize s.forEach (List.range 36) Chip.hotEdge = u at *
  have hports : EdgeKeeps u (u.forEach (List.range 16) Chip.portEdge) false := edgeKeeps_forEach u fun t p _ => edgeKeeps_portEdge t p
  have hmarker := fun p (hp : p < 16) => u.portEdges_marker hp
  generalize u.forEach (List.range 16) Chip.portEdge = v at *
  have hlast : EdgeKeeps v v.rampEdge.govCounts.latchPtp false :=
    ((edgeKeeps_rampEdge v).trans (edgeKeeps_govCounts _)).trans (edgeKeeps_latchPtp _)
  refine ⟨fun n hn hpolicy => ?_, fun p hp hpres hst => ?_⟩
  · rw [Chip.get_congr v (hlast.regs _ (.inr (by simp only [pgCEL, pgMGT]; omega)) (by simp)),
      Chip.get_congr u (hports.regs _ (.inr (by simp only [pgCEL, pgMGT]; omega)) (by simp))]
    exact hhot n hn hpolicy
  · obtain ⟨hport, hcount⟩ := v.afterPorts_keeps p 0x10
    have hupres : u.portPresent p = true := (hslices.keeps (Chip.portPresent · p) fun _ _ _ _ _ _ => rfl).trans hpres
    obtain ⟨hmarked, htold⟩ := hmarker p hp hupres ((hslices.linkGet hp (by decide)).trans hst)
    rw [hport, hcount, hmarked, htold, Chip.countOf_of_counts hsliceCounts, hslices.beat, hslices.beatGet (by decide),
      hslices.beatGet (by decide), hslices.beatGet (by decide)]
    exact ⟨rfl, rfl⟩

/-- What the slices and the ports show after an edge (R264, R313). -/
theorem Chip.edge_shows (d : Nat) (load : Bool) :
    (∀ n, n < 36 → s.get (pgCEL n) ⟨0x100, 0, 2⟩ = 1 → (s.edge d load).get (pgCEL n) ⟨0x108, 0, 1⟩ = 1) ∧
    (∀ p, p < 16 → s.portPresent p = true → s.portState p = psUP →
      (s.edge d load).countOf (pgLNK p) 0x10 = min (s.countOf (pgLNK p) 0x10 + 1) (2 ^ 64 - 1) ∧
      (((s.edge d load).port p).sent.bind (·.mark)).map markerTold =
        some ((s.edge d load).beat, s.get pgBEAT fBeatPeriod, s.get pgBEAT fBeatHops, s.get pgBEAT fBeatMasterId)) := by
  obtain ⟨hhot, hports⟩ := (s.edgeUnit d load).edgeFollows_shows
  obtain ⟨-, -, -, -, -, hregs, hcounts, -, -, hident⟩ := s.edgeUnit_spec d load
  rw [Chip.edge_eq]
  generalize s.edgeUnit d load = u at *
  have hbeat : u.edgeFollows.beat = u.beat := (edgeKeeps_edgeFollows u).beat
  generalize u.edgeFollows = v at *
  have huget : ∀ page (f : Fld), page + f.off ≠ pgBEAT + 0x118 ∧ page + f.off ≠ pgBEAT + 0x11C → u.get page f = s.get page f :=
    fun page f h => hregs.get (by simpa using h)
  have hushows : (∀ n, n < 36 → s.get (pgCEL n) ⟨0x100, 0, 2⟩ = 1 → v.get (pgCEL n) ⟨0x108, 0, 1⟩ = 1) ∧
      (∀ p, p < 16 → s.portPresent p = true → s.portState p = psUP →
        v.countOf (pgLNK p) 0x10 = min (s.countOf (pgLNK p) 0x10 + 1) (2 ^ 64 - 1) ∧
        ((v.port p).sent.bind (·.mark)).map markerTold =
          some (v.beat, s.get pgBEAT fBeatPeriod, s.get pgBEAT fBeatHops, s.get pgBEAT fBeatMasterId)) := by
    refine ⟨fun n hn h => hhot n hn ((huget _ _ (by simp only [pgCEL, pgBEAT]; omega)).trans h), fun p hp hpres hst => ?_⟩
    have hupres : u.portPresent p = true := by rw [Chip.portPresent, hident]; exact hpres
    obtain ⟨hcount, hsent⟩ := hports p hp hupres ((huget _ _ (by simp only [pgLNK, pgBEAT, fPortState]; omega)).trans hst)
    rw [hcount, hsent, hbeat, huget _ _ (by decide), huget _ _ (by decide), huget _ _ (by decide),
      hcounts.countOf (by simp only [pgLNK, pgBEAT, List.mem_cons, List.not_mem_nil, or_false]; omega)]
    exact ⟨rfl, rfl⟩
  split
  case isTrue =>
    obtain ⟨honly, -, hstopCounts, hstopRegs⟩ := v.beatStop_spec
    rw [Chip.beat_of_sameRegs hstopRegs (by decide) (by decide)]
    refine ⟨fun n hn h => ?_, fun p hp hpres hst => ?_⟩
    · rw [hstopRegs.get (by simp only [pgCEL, pgBEAT, List.mem_cons, List.not_mem_nil, or_false]; omega)]
      exact hushows.1 n hn h
    · rw [Chip.countOf_of_counts hstopCounts, Chip.port_of_ports (honly.keeps Chip.ports fun _ _ _ _ => rfl)]
      exact hushows.2 p hp hpres hst
  case isFalse => exact hushows

end Edge

end Sys2Proof.Machine
end

section
/-! The unit's own edges, and the fields EN, START and CLR_FAULT (R32, R34, R40, R42, R484, R485). -/

namespace Sys2Proof.Machine

/-! ## The edges of its own -/

section OwnEdge

variable {s : Chip} {tick d : Nat} (hst : s.beatState ≠ bsDISABLED) (hnext : s.beatU.next = some d)
  (hown : s.isMaster = false ∨ (s.extMaster = false ∧ s.beatState ≠ bsACQUIRE) ∨
    (s.extMaster = true ∧ s.beatState ≠ bsLOCKED ∧ (s.beatState = bsACQUIRE → s.calm = true)))
include hst hnext hown

/-- The unit makes its edges itself: no BEATREF gives them, and no START is awaited. -/
theorem Chip.ownEdge_due : s.ownEdge tick = if tick = d / 256 then s.edge d false else s := by
  have hmaster : s.isMaster = false → s.extMaster = false := fun h => by rw [Chip.extMaster, h, Bool.false_and]
  have hext : (s.extMaster && (decide (s.beatState = bsLOCKED) || (decide (s.beatState = bsACQUIRE) && !s.calm))) = false := by
    rcases hown with h | h | h
    · rw [hmaster h, Bool.false_and]
    · rw [h.1, Bool.false_and]
    · obtain ⟨-, hlocked, hcalm⟩ := h
      by_cases hacq : s.beatState = bsACQUIRE
      · rw [decide_eq_false hlocked, hcalm hacq, Bool.not_true, Bool.and_false, Bool.or_false, Bool.and_false]
      · rw [decide_eq_false hlocked, decide_eq_false hacq, Bool.false_and, Bool.or_false, Bool.and_false]
  have hwaits : (s.isMaster && !s.extMaster && decide (s.beatState = bsACQUIRE)) = false := by
    rcases hown with h | h | h
    · rw [h, Bool.false_and, Bool.false_and]
    · simp [h.2]
    · simp [h.1]
  simp only [Chip.ownEdge, hnext, hext, hwaits, hst, decide_false, Bool.or_self, Bool.false_or, Bool.not_eq_true', decide_eq_false_iff_not]
  by_cases htick : tick = d / 256 <;> simp [htick]

end OwnEdge

/-! ## EN, START and CLR_FAULT -/

section Fields

variable (s : Chip)

/-- The unit's own part of EN = 1 (R40, R484). -/
def Chip.beatOn (s : Chip) : Chip :=
  (((({ s with beatU := BeatUnit.reset } : Chip).put pgBEAT fBeatEn 1).leaveFor bsACQUIRE).put pgBEAT fBeatOnBk 0)

/-- A master is its own upstream (R39, R484). -/
def Chip.asMaster (s : Chip) (id : Nat) : Chip :=
  ((s.put pgBEAT fBeatHops 0).put pgBEAT fBeatMasterId id).put pgBEAT fBeatPhase 0

theorem Chip.beatEnable_eq (h : s.beatState = bsDISABLED) :
    s.beatEnable = if s.isMaster then s.beatOn.asMaster s.devId else s.beatOn := by
  rw [Chip.beatEnable, if_pos h]
  rfl

theorem Chip.beatOn_spec (h : s.beatState = bsDISABLED) : UnitOnly s s.beatOn ∧ s.beatOn.beatState = bsACQUIRE ∧
    s.beatOn.get pgBEAT fBeatEn = 1 ∧ s.beatOn.beatU = BeatUnit.reset ∧
    SameRegs s s.beatOn [pgBEAT + 0x100, pgBEAT + 0x110, pgBEAT + 0x114] := by
  have hreset : UnitOnly s { s with beatU := BeatUnit.reset } := ⟨rfl⟩
  have hregs : ({ s with beatU := BeatUnit.reset } : Chip).regs = s.regs := rfl
  have hunit : ({ s with beatU := BeatUnit.reset } : Chip).beatU = BeatUnit.reset := rfl
  unfold Chip.beatOn
  generalize ({ s with beatU := BeatUnit.reset } : Chip) = t at *
  have hdis : (t.put pgBEAT fBeatEn 1).beatState ≠ bsLOCKED := by
    rw [Chip.beatState, Chip.get_put_off _ _ (by decide), Chip.get_of_regs hregs, show s.get pgBEAT fBeatState = bsDISABLED from h]
    decide
  have hen : (t.put pgBEAT fBeatEn 1).get pgBEAT fBeatEn = 1 := Chip.get_put_same _ _ _ _ (by decide)
  have hput : SameRegs s (t.put pgBEAT fBeatEn 1) [pgBEAT + 0x100, pgBEAT + 0x110, pgBEAT + 0x114] :=
    SameRegs.put ((SameRegs.refl s _).of_regs hregs) (by simp [fBeatEn])
  obtain ⟨hst, hrest, -, -, hsame, -⟩ := (t.put pgBEAT fBeatEn 1).leaveFor_spec bsACQUIRE (by decide)
  have honly : RegsOnly t (((t.put pgBEAT fBeatEn 1).leaveFor bsACQUIRE).put pgBEAT fBeatOnBk 0) := ((RegsOnly.refl t).put.trans hrest).put
  refine ⟨hreset.trans (.of_regsOnly honly), (Chip.get_put_off _ _ (by decide)).trans hst, (Chip.get_put_off _ _ (by decide)).trans
    (((hsame hdis).get (by decide)).trans hen), (honly.keeps Chip.beatU fun _ _ => rfl).trans hunit,
    (hput.trans ((hsame hdis).weaken (by decide))).put (by simp [fBeatOnBk])⟩

theorem Chip.asMaster_spec {id : Nat} (hid : id < 1024) : RegsOnly s (s.asMaster id) ∧ (s.asMaster id).beatState = s.beatState ∧
    (s.asMaster id).get pgBEAT fBeatHops = 0 ∧ (s.asMaster id).get pgBEAT fBeatMasterId = id ∧
    SameRegs s (s.asMaster id) [pgBEAT + 0x110, pgBEAT + 0x114] := by
  unfold Chip.asMaster
  refine ⟨(RegsOnly.refl s).put.put.put, ?_, ?_, ?_, (((SameRegs.refl s _).put ?_).put ?_).put ?_⟩
  · rw [Chip.beatState, Chip.get_put_off _ _ (by decide), Chip.get_put_off _ _ (by decide), Chip.get_put_off _ _ (by decide), Chip.beatState]
  · rw [Chip.get_put_off _ _ (by decide), Chip.get_put_off _ _ (by decide), Chip.get_put_same _ _ _ _ (by decide)]
    rfl
  · rw [Chip.get_put_off _ _ (by decide), Chip.get_put_same _ _ _ _ (by decide)]
    exact Nat.mod_eq_of_lt hid
  all_goals decide

theorem Chip.beatEnable_spec (h : s.beatState = bsDISABLED) :
    s.beatEnable.beatState = bsACQUIRE ∧ s.beatEnable.get pgBEAT fBeatEn = 1 ∧ s.beatEnable.beatU = BeatUnit.reset ∧
    (s.isMaster = true → s.beatEnable.get pgBEAT fBeatHops = 0 ∧ s.beatEnable.get pgBEAT fBeatMasterId = s.devId) ∧
    SameRegs s s.beatEnable [pgBEAT + 0x100, pgBEAT + 0x110, pgBEAT + 0x114] ∧ s.beatEnable.mem = s.mem ∧
    s.beatEnable.cores = s.cores := by
  obtain ⟨honly, hst, hen, hunit, hregs⟩ := s.beatOn_spec h
  rw [Chip.beatEnable_eq s h]
  generalize s.beatOn = u at *
  split
  case isTrue =>
    obtain ⟨hmonly, hmst, hhops, hid, hmregs⟩ := u.asMaster_spec (s.get_lt pgID ⟨0x130, 0, 10⟩ : s.devId < 1024)
    exact ⟨hmst.trans hst, (hmregs.get (by decide)).trans hen, (hmonly.keeps Chip.beatU fun _ _ => rfl).trans hunit,
      fun _ => ⟨hhops, hid⟩, hregs.trans (hmregs.weaken (by decide)), (honly.trans (.of_regsOnly hmonly)).mem,
      (honly.trans (.of_regsOnly hmonly)).cores⟩
  case isFalse hm => exact ⟨hst, hen, hunit, fun h => absurd h hm, hregs, honly.mem, honly.cores⟩

/-- The unit's data in an ACQUIRE entered anew (R37, R42). -/
def BeatUnit.anew (u : BeatUnit) (slow : Bool) : BeatUnit :=
  { u with good := 0, acq := 0, missing := 0, synced := false, slow := slow, again := true }

/-- The unit's data once the beat under way is back at the LOCKED rate (R38). -/
def BeatUnit.calmed (u : BeatUnit) (per : Nat) : BeatUnit :=
  { u with step := clampTo 8 u.step,
           next := match u.last with
             | some l => some ((l + per : Int) + clampTo 8 u.step).toNat
             | none => u.next }

theorem Chip.calmStep_eq : s.calmStep = s.updBeat (BeatUnit.calmed · s.finePeriod) := rfl

theorem Chip.reacquire_eq : s.reacquire = (s.leaveFor bsACQUIRE).updBeat fun u =>
    if s.anyActive then BeatUnit.calmed (BeatUnit.anew u s.anyActive) ((s.leaveFor bsACQUIRE).updBeat (BeatUnit.anew · s.anyActive)).finePeriod
    else BeatUnit.anew u s.anyActive := by
  rw [Chip.reacquire, Chip.enterBeat_quiet _ _ (.inl rfl)]
  generalize s.leaveFor bsACQUIRE = u
  cases s.anyActive <;> rfl

/-- ACQUIRE entered anew (R37, R42): the counts of the lock begin again, slow where a context is ACTIVE. -/
theorem Chip.reacquire_spec : UnitOnly s s.reacquire ∧ s.reacquire.beatState = bsACQUIRE ∧ s.reacquire.counts = s.counts ∧
    (s.reacquire.beatU.good = 0 ∧ s.reacquire.beatU.acq = 0 ∧ s.reacquire.beatU.synced = false ∧ s.reacquire.beatU.again = true ∧
      s.reacquire.beatU.slow = s.anyActive ∧ s.reacquire.beatU.last = s.beatU.last) ∧
    SameRegs s s.reacquire [pgBEAT + 0x028, pgBEAT + 0x110] ∧
    (s.beatState ≠ bsLOCKED → SameRegs s s.reacquire [pgBEAT + 0x110]) := by
  obtain ⟨hst, hrest, hregs, -, hquiet, -⟩ := s.leaveFor_spec bsACQUIRE (by decide)
  have hunit : (s.leaveFor bsACQUIRE).beatU = s.beatU := hrest.keeps Chip.beatU fun _ _ => rfl
  have hcounts : (s.leaveFor bsACQUIRE).counts = s.counts := hrest.keeps Chip.counts fun _ _ => rfl
  rw [Chip.reacquire_eq]
  generalize ((s.leaveFor bsACQUIRE).updBeat (BeatUnit.anew · s.anyActive)).finePeriod = per
  generalize s.leaveFor bsACQUIRE = u at *
  refine ⟨(UnitOnly.of_regsOnly hrest).updBeat, (Chip.get_updBeat ..).trans hst, hcounts, ?_, hregs.of_regs rfl,
    fun h => (hquiet h).of_regs rfl⟩
  rw [Chip.updBeat, hunit]
  cases s.anyActive <;> exact ⟨rfl, rfl, rfl, rfl, rfl, rfl⟩

/-- START (R34): an internal master is LOCKED, and its next edge loads the counter. -/
theorem Chip.beatStart_spec (hm : s.isMaster = true) (hx : s.extMaster = false) (hst : s.beatState = bsACQUIRE) :
    s.beatStart.beatState = bsLOCKED ∧ s.beatStart.beatU = { s.beatU with loadNext := true } ∧
    s.beatStart.bit pgBEAT ⟨0x028, 0, 1⟩ = true ∧ SameRegs s s.beatStart [pgBEAT + 0x028, pgBEAT + 0x110] ∧
    s.beatStart.mem = s.mem ∧ s.beatStart.cores = s.cores := by
  obtain ⟨hlocked, hirq, hrest, hregs⟩ := s.enterLocked_spec
  rw [Chip.beatStart, if_pos (by simp [hm, hx, hst])]
  generalize s.enterBeat bsLOCKED = u at *
  have honly := (UnitOnly.of_regsOnly hrest).updBeat (f := fun v => { v with loadNext := true })
  refine ⟨(Chip.get_updBeat ..).trans hlocked, ?_, (Chip.bit_updBeat ..).trans hirq, hregs.of_regs rfl, honly.mem, honly.cores⟩
  rw [Chip.updBeat, hrest.keeps Chip.beatU fun _ _ => rfl]

end Fields

/-- Settles O39: the unit's own edges by the laws of an edge, the fields by their own. -/
theorem beatEdges : Obligations.BeatEdges := by
  unfold Obligations.BeatEdges
  intro s hup
  refine ⟨fun tick d hst hnext hown => ⟨fun htick => ?_, fun htick => ?_⟩, fun h => ?_, fun h => ?_, fun h hfree => ?_,
    fun x hx hctx => ?_, fun hm hx hst => ?_, fun h => ?_, fun h => ?_, fun h => ?_⟩
  · refine runs_fabric (f := fun u => u.ownEdge tick) rfl hup ?_
    rw [Chip.ownEdge_due hst hnext hown, if_pos htick]
    obtain ⟨hbeat, hedges, hmem, hcores, hstate, -, hgo⟩ := s.chip.edge_spec d false
    obtain ⟨hhot, hports⟩ := s.chip.edge_shows d false
    refine ⟨hbeat, hedges, hstate, fun hstop => ?_, hhot, fun p hp hpres hup => hports p hp hpres hup, hmem, hcores⟩
    obtain ⟨hlast, -, hnext⟩ := hgo hstop
    exact ⟨hlast, hnext⟩
  · refine runs_fabric (f := fun u => u.ownEdge tick) rfl hup ?_
    rw [Chip.ownEdge_due hst hnext hown, if_neg htick]
  · exact runs_fabric rfl hup (s.chip.beatEnable_spec h)
  · refine runs_fabric rfl hup ?_
    rw [Chip.beatEnable, if_neg h]
  · refine runs_fabric rfl hup ?_
    have hall : s.chip.allFree = true := List.all_eq_true.2 fun x hx => decide_eq_true (hfree x (List.mem_range.1 hx))
    rw [Chip.beatDisable, if_pos (by simp [h, hall])]
    rfl
  · refine runs_fabric rfl hup ?_
    have hsome : s.chip.allFree = false := List.all_eq_false.2 ⟨x, List.mem_range.2 hx, by simp [hctx]⟩
    rw [Chip.beatDisable, if_neg (by simp [hsome])]
  · exact runs_fabric rfl hup (s.chip.beatStart_spec hm hx hst)
  · refine runs_fabric rfl hup ?_
    rw [Chip.beatStart, if_neg (by rcases h with h | h | h <;> simp [h])]
  · refine runs_fabric rfl hup ?_
    obtain ⟨honly, hst, -, ⟨hgood, hacq, hsynced, -⟩, -, hregs⟩ := s.chip.reacquire_spec
    rw [Chip.clrFault, if_pos h]
    exact ⟨hst, hgood, hacq, hsynced, hregs (by rw [h]; decide), honly.mem, honly.cores⟩
  · refine runs_fabric rfl hup ?_
    rw [Chip.clrFault, if_neg h]

end Sys2Proof.Machine
end

section
/-! A master on BEATREF (R32, R35, R36, R37, R498). -/

namespace Sys2Proof.Machine

/-! ## An edge that BEATREF makes -/

/-- A master's edge, as its statement names it: the beat's number and the timers' edge, with the programs as they were. -/
def MadeEdge (s t : Chip) (load : Bool) : Prop :=
  t.beat = s.edgeBeat load ∧ t.edges = s.edges + 1 ∧ t.mem = s.mem ∧ t.cores = s.cores

/-- Neither the beat nor the programs move. -/
def KeptBeat (s t : Chip) : Prop := t.beat = s.beat ∧ t.edges = s.edges ∧ t.mem = s.mem ∧ t.cores = s.cores

/-- `t` is `s` with other data of the beat unit, which its own counts of a miss may go with: every other reading is the same. -/
structure BeatData (s t : Chip) : Prop where
  only : UnitOnly s t
  regs : t.regs = s.regs

section Data

variable {s t u : Chip}

theorem BeatData.refl (s : Chip) : BeatData s s := ⟨.refl s, rfl⟩

theorem BeatData.trans (h : BeatData s t) (h2 : BeatData t u) : BeatData s u := ⟨h.only.trans h2.only, h2.regs.trans h.regs⟩

theorem BeatData.updBeat (h : BeatData s t) {f : BeatUnit → BeatUnit} : BeatData s (t.updBeat f) := ⟨h.only.updBeat, h.regs⟩

theorem BeatData.count (h : BeatData s t) {page sel n : Nat} : BeatData s (t.count page sel n) := ⟨h.only.count, h.regs⟩

theorem BeatData.kept (h : BeatData s t) : KeptBeat s t := ⟨Chip.beat_of_regs h.regs, h.only.edges, h.only.mem, h.only.cores⟩

theorem KeptBeat.trans (h : KeptBeat s t) (h2 : KeptBeat t u) : KeptBeat s u := by
  obtain ⟨hb, he, hm, hc⟩ := h
  obtain ⟨hb2, he2, hm2, hc2⟩ := h2
  exact ⟨hb2.trans hb, he2.trans he, hm2.trans hm, hc2.trans hc⟩

theorem MadeEdge.trans_kept {load : Bool} (h : MadeEdge s t load) (h2 : KeptBeat t u) : MadeEdge s u load := by
  obtain ⟨hb, he, hm, hc⟩ := h
  obtain ⟨hb2, he2, hm2, hc2⟩ := h2
  exact ⟨hb2.trans hb, he2.trans he, hm2.trans hm, hc2.trans hc⟩

/-- An edge after a change of data that leaves the load alone. -/
theorem BeatData.edge (h : BeatData s t) (hload : t.beatU.loadNext = s.beatU.loadNext) (d : Nat) (load : Bool) :
    MadeEdge s (t.edge d load) load := by
  obtain ⟨hbeat, hedges, hmem, hcores, -⟩ := t.edge_spec d load
  refine ⟨hbeat.trans ?_, hedges.trans (congrArg (· + 1) h.only.edges), hmem.trans h.only.mem, hcores.trans h.only.cores⟩
  rw [Chip.edgeBeat, hload, Chip.beat_of_regs h.regs, Chip.get64_of_regs h.regs, Chip.edgeBeat]

/-- A miss that sends the master back (R37). -/
theorem Chip.missedAgain_spec (s : Chip) : KeptBeat s s.missedAgain ∧ s.missedAgain.beatState = bsHOLDOVER ∧
    s.missedAgain.countOf pgBEAT 0 = min (s.countOf pgBEAT 0 + 1) (2 ^ 64 - 1) ∧
    s.missedAgain.countOf pgBEAT 4 = min (s.countOf pgBEAT 4 + 1) (2 ^ 64 - 1) := by
  obtain ⟨hst, honly, hregs, hcount, hcounts, -⟩ := (s.count pgBEAT 0 1).enterHoldover_spec
  rw [Chip.missedAgain]
  have hc : KeptBeat s (s.count pgBEAT 0 1) := (BeatData.refl s).count.kept
  refine ⟨hc.trans ⟨Chip.beat_of_sameRegs hregs (by decide) (by decide), honly.edges, honly.mem, honly.cores⟩, hst, ?_, ?_⟩
  · rw [hcounts.countOf (by decide), Chip.countOf_count_same]
  · rw [hcount, Chip.countOf_count_other _ _ (by decide)]

end Data

/-! ## BEATREF is sampled rising -/

/-- A tick more than one from the predicted edge (R36). -/
theorem farFrom_iff (d tick : Nat) : farFrom (d / 256) tick = true ↔ d / 256 + 1 < tick ∨ tick + 1 < d / 256 := by
  rw [farFrom, Bool.or_eq_true, decide_eq_true_eq, decide_eq_true_eq]

/-- BEATREF's edge is noted, and the run of edges a period apart (R37). -/
def Chip.refSeen (s : Chip) (tick : Nat) : Chip :=
  let run := if s.beatU.lastRef = some (tick - s.get pgBEAT fBeatPeriod) && decide (s.get pgBEAT fBeatPeriod ≤ tick) then s.beatU.refRun + 1 else 1
  s.updBeat fun v => { v with lastRef := some tick, refRun := run }

theorem Chip.refSeen_data (s : Chip) (tick : Nat) : BeatData s (s.refSeen tick) := by
  rw [Chip.refSeen]
  exact (BeatData.refl s).updBeat

section Sampled

variable {s : Chip} (tick : Nat) (sync : Bool) (hext : s.extMaster = true)
include hext

theorem Chip.beatref_acquire (hst : s.beatState = bsACQUIRE) (hcalm : s.calm = false)
    (hnear : s.beatU.again = false ∨ ∀ d, s.beatU.next = some d → farFrom (d / 256) tick = false) :
    s.beatrefEdge tick sync = ((s.refSeen tick).edge (256 * tick) sync).updBeat fun v => { v with synced := v.synced || sync, step := 0 } := by
  have hstay : ∀ q, s.predicted = some q → (s.beatU.again && farFrom q tick) = false := fun q hq => by
    obtain ⟨d, hd, rfl⟩ := Option.map_eq_some_iff.1 hq
    rcases hnear with h | h
    · rw [h, Bool.false_and]
    · rw [h d hd, Bool.and_false]
  cases hpred : s.predicted with
  | none => simp only [Chip.beatrefEdge, hext, hst, hcalm, hpred, Bool.not_true, Bool.and_false, Bool.false_eq_true, if_false, if_true]; rfl
  | some q =>
    simp only [Chip.beatrefEdge, hext, hst, hcalm, hpred, hstay q hpred, Bool.not_true, Bool.false_eq_true, if_false, if_true]
    rfl

theorem Chip.beatref_again {d : Nat} (hst : s.beatState = bsACQUIRE) (hcalm : s.calm = false) (hagain : s.beatU.again = true)
    (hnext : s.beatU.next = some d) (hfar : farFrom (d / 256) tick = true) :
    s.beatrefEdge tick sync = (s.refSeen tick).missedAgain := by
  have hpred : s.predicted = some (d / 256) := by rw [Chip.predicted, hnext, Option.map_some]
  simp only [Chip.beatrefEdge, hext, hst, hcalm, hagain, hpred, hfar, Bool.not_true, Bool.false_eq_true, if_false, if_true, Bool.and_self]
  rfl

theorem Chip.beatref_calm {l : Nat} (hst : s.beatState = bsACQUIRE) (hcalm : s.calm = true) (href : s.beatU.lastRef = none)
    (hlast : s.beatU.last = some l) :
    let d : Int := (256 * tick : Nat) - (l : Int)
    let e := if (s.finePeriod : Int) < 2 * d then d - s.finePeriod else d
    s.beatrefEdge tick sync = (s.refSeen tick).updBeat fun v =>
      { v with step := clampTo 8 e, next := some (l + s.finePeriod + clampTo 8 e : Int).toNat, synced := decide (e = 0) } := by
  intro d e
  rw [Chip.refSeen]
  simp only [Chip.beatrefEdge, hext, hst, hcalm, href, hlast, Bool.not_true, Bool.false_eq_true, if_false, if_true]
  rfl

theorem Chip.beatref_locked {d : Nat} (hst : s.beatState = bsLOCKED) (hnext : s.beatU.next = some d) :
    s.beatrefEdge tick sync = if farFrom (d / 256) tick = true then s.countMiss.updBeat fun v => { v with stray := true }
      else (((s.refSeen tick).offByOne (d / 256) tick).edge (256 * tick) false).updBeat fun v => { v with step := 0 } := by
  have hpred : s.predicted = some (d / 256) := by rw [Chip.predicted, hnext, Option.map_some]
  have hne : bsLOCKED ≠ bsACQUIRE := by decide
  simp only [Chip.beatrefEdge, hext, hst, hpred, hne, Bool.not_true, Bool.false_eq_true, if_false, if_true]
  rfl

theorem Chip.beatref_holdover (hst : s.beatState = bsHOLDOVER) (hper : s.get pgBEAT fBeatPeriod ≤ tick)
    (href : s.beatU.lastRef = some (tick - s.get pgBEAT fBeatPeriod)) (hrun : 2 ≤ s.beatU.refRun) (hact : s.anyActive = true) :
    s.beatrefEdge tick sync = (s.refSeen tick).reacquire := by
  have hne : bsHOLDOVER ≠ bsACQUIRE ∧ bsHOLDOVER ≠ bsLOCKED := by decide
  have hthree : 3 ≤ s.beatU.refRun + 1 := Nat.succ_le_succ hrun
  simp only [Chip.beatrefEdge, hext, hst, hne.1, hne.2, href, hper, hact, hthree, Bool.not_true, Bool.false_eq_true, if_false, if_true,
    decide_true, Bool.and_self]
  rw [Chip.refSeen, href]
  simp only [hper, decide_true, Bool.and_self, if_true]

end Sampled

/-! ## What each of its edges leaves -/

section Left

variable {s : Chip} {d : Nat} (tick : Nat)

/-- A data change after the edge leaves it made. -/
theorem MadeEdge.updBeat {t : Chip} {load : Bool} (h : MadeEdge s t load) (f : BeatUnit → BeatUnit) : MadeEdge s (t.updBeat f) load :=
  h.trans_kept (BeatData.refl t).updBeat.kept

/-- Misses that an edge at a tick near the predicted one counts (R36, R498). -/
theorem Chip.offByOne_spec (u : Chip) (q : Nat) : BeatData u (u.offByOne q tick) ∧ (u.offByOne q tick).beatU.loadNext = u.beatU.loadNext ∧
    (u.offByOne q tick).beatU.stopNext = u.beatU.stopNext ∧
    (u.offByOne q tick).beatU.misses = (if q = tick then 0 else u.beatU.misses + 1) ∧
    (q ≠ tick → (u.offByOne q tick).countOf pgBEAT 0 = min (u.countOf pgBEAT 0 + 1) (2 ^ 64 - 1)) := by
  rw [Chip.offByOne]
  split
  case isTrue h => exact ⟨(BeatData.refl u).updBeat, rfl, rfl, rfl, fun hne => absurd h hne⟩
  case isFalse =>
    rw [Chip.countMiss]
    exact ⟨(BeatData.refl u).count.updBeat, rfl, rfl, rfl, fun _ => (Chip.countOf_updBeat ..).trans (Chip.countOf_count_same ..)⟩

/-- The data of an edge at a tick near the predicted one, in LOCKED (R36). -/
theorem Chip.lockedEdge_spec (s : Chip) (q tick : Nat) :
    let t := (((s.refSeen tick).offByOne q tick).edge (256 * tick) false).updBeat fun v => { v with step := 0 }
    MadeEdge s t false ∧ (s.beatU.stopNext = false → t.beatU.misses = if q = tick then 0 else s.beatU.misses + 1) ∧
    (q ≠ tick → t.countOf pgBEAT 0 = min (s.countOf pgBEAT 0 + 1) (2 ^ 64 - 1)) := by
  obtain ⟨hdata, hload, hstop, hmisses, hcount⟩ := Chip.offByOne_spec tick (s.refSeen tick) q
  have hseen := s.refSeen_data tick
  have hseencounts : (s.refSeen tick).counts = s.counts := rfl
  have hseenload : (s.refSeen tick).beatU.loadNext = s.beatU.loadNext := rfl
  have hseenstop : (s.refSeen tick).beatU.stopNext = s.beatU.stopNext := rfl
  have hseenmiss : (s.refSeen tick).beatU.misses = s.beatU.misses := rfl
  generalize s.refSeen tick = u at *
  generalize u.offByOne q tick = v at *
  obtain ⟨-, -, -, -, -, hcounts, hgo⟩ := v.edge_spec (256 * tick) false
  refine ⟨((hseen.trans hdata).edge (hload.trans hseenload) _ _).updBeat _, fun h => ?_, fun h => ?_⟩
  · obtain ⟨-, hm, -⟩ := hgo (hstop.trans (hseenstop.trans h))
    exact hm.trans (hmisses.trans (by rw [hseenmiss]))
  · rw [Chip.countOf_updBeat, hcounts 0 (.inl rfl), hcount h, Chip.countOf_of_counts hseencounts]

/-- A reference miss in LOCKED: the beat is made at the prediction, and counts once with a stray edge (R36). -/
theorem Chip.missedEdge_spec (s : Chip) (tick : Nat) (hstop : s.beatU.stopNext = false) :
    let t := ((if s.beatU.stray then s else s.countMiss).edge (256 * tick) false).updBeat fun v => { v with refRun := 0 }
    MadeEdge s t false ∧ t.beatU.misses = s.beatU.misses + (if s.beatU.stray then 0 else 1) ∧
    t.countOf pgBEAT 0 = min (s.countOf pgBEAT 0 + (if s.beatU.stray then 0 else 1)) (2 ^ 64 - 1) := by
  have hlt := s.countOf_lt pgBEAT 0
  have hmiss : ∀ v : Chip, v = (if s.beatU.stray then s else s.countMiss) → BeatData s v ∧ v.beatU.loadNext = s.beatU.loadNext ∧
      v.beatU.stopNext = s.beatU.stopNext ∧ v.beatU.misses = s.beatU.misses + (if s.beatU.stray then 0 else 1) ∧
      v.countOf pgBEAT 0 = min (s.countOf pgBEAT 0 + (if s.beatU.stray then 0 else 1)) (2 ^ 64 - 1) := by
    rintro v rfl
    split
    · exact ⟨.refl s, rfl, rfl, rfl, (Nat.min_eq_left (Nat.le_sub_one_of_lt hlt)).symm⟩
    · rw [Chip.countMiss]
      exact ⟨(BeatData.refl s).count.updBeat, rfl, rfl, rfl, (Chip.countOf_updBeat ..).trans (Chip.countOf_count_same ..)⟩
  obtain ⟨hdata, hload, hstop', hmisses, hcount⟩ := hmiss _ rfl
  generalize (if s.beatU.stray then s else s.countMiss) = v at *
  obtain ⟨-, -, -, -, -, hcounts, hgo⟩ := v.edge_spec (256 * tick) false
  obtain ⟨-, hm, -⟩ := hgo (hstop'.trans hstop)
  exact ⟨(hdata.edge hload _ _).updBeat _, hm.trans hmisses, (Chip.countOf_updBeat ..).trans ((hcounts 0 (.inl rfl)).trans hcount)⟩

/-- A missed edge in the ACQUIRE that follows a HOLDOVER: the beat is made, and the master goes back (R37). -/
theorem Chip.missedAcquire_spec (s : Chip) (tick : Nat) :
    let t := ((s.edge (256 * tick) false).updBeat fun v => { v with refRun := 0 }).missedAgain
    MadeEdge s t false ∧ t.beatState = bsHOLDOVER ∧ t.countOf pgBEAT 0 = min (s.countOf pgBEAT 0 + 1) (2 ^ 64 - 1) ∧
    t.countOf pgBEAT 4 = min (s.countOf pgBEAT 4 + 1) (2 ^ 64 - 1) := by
  obtain ⟨-, -, -, -, -, hcounts, -⟩ := s.edge_spec (256 * tick) false
  have hmade : MadeEdge s ((s.edge (256 * tick) false).updBeat fun v => { v with refRun := 0 }) false :=
    ((BeatData.refl s).edge rfl _ _).updBeat _
  obtain ⟨hkept, hst, h0, h4⟩ := ((s.edge (256 * tick) false).updBeat fun v => { v with refRun := 0 }).missedAgain_spec
  rw [Chip.countOf_updBeat, hcounts 0 (.inl rfl)] at h0
  rw [Chip.countOf_updBeat, hcounts 4 (.inr rfl)] at h4
  exact ⟨hmade.trans_kept hkept, hst, h0, h4⟩

theorem Chip.referenceMiss_locked (hext : s.extMaster = true) (hst : s.beatState = bsLOCKED) (hnext : s.beatU.next = some d) :
    s.referenceMiss (d / 256) = ((if s.beatU.stray then s else s.countMiss).edge (256 * (d / 256)) false).updBeat
      fun v => { v with refRun := 0 } := by
  have hpred : s.predicted = some (d / 256) := by rw [Chip.predicted, hnext, Option.map_some]
  simp only [Chip.referenceMiss, hext, hst, hpred, Bool.not_true, Bool.false_eq_true, if_false, if_true]

theorem Chip.referenceMiss_acquire (hext : s.extMaster = true) (hst : s.beatState = bsACQUIRE) (hcalm : s.calm = false)
    (hagain : s.beatU.again = true) (hnext : s.beatU.next = some d) :
    s.referenceMiss (d / 256) = ((s.edge (256 * (d / 256)) false).updBeat fun v => { v with refRun := 0 }).missedAgain := by
  have hpred : s.predicted = some (d / 256) := by rw [Chip.predicted, hnext, Option.map_some]
  have hne : bsACQUIRE ≠ bsLOCKED := by decide
  simp [Chip.referenceMiss, hext, hst, hpred, hcalm, hagain, hne]

/-- Four misses in a row (R36). -/
theorem Chip.masterHoldover_spec (hext : s.extMaster = true) (hst : s.beatState = bsLOCKED) (hmiss : 4 ≤ s.beatU.misses) :
    s.masterHoldover.beatState = bsHOLDOVER ∧ s.masterHoldover.bit pgBEAT ⟨0x028, 1, 1⟩ = true ∧
    SameRegs s s.masterHoldover [pgBEAT + 0x028, pgBEAT + 0x110] ∧
    s.masterHoldover.countOf pgBEAT 4 = min (s.countOf pgBEAT 4 + 1) (2 ^ 64 - 1) ∧ KeptBeat s s.masterHoldover := by
  obtain ⟨hhold, honly, hregs, hcount, -, hirq⟩ := s.enterHoldover_spec
  rw [Chip.masterHoldover, if_pos (by simp [hext, hst, hmiss])]
  generalize s.enterBeat bsHOLDOVER = u at *
  have honly' := honly.updBeat (f := fun v => { v with misses := 0, refRun := 0 })
  exact ⟨(Chip.get_updBeat ..).trans hhold, (Chip.bit_updBeat ..).trans (hirq hst), hregs.of_regs rfl,
    (Chip.countOf_updBeat ..).trans hcount, (Chip.beat_of_regs rfl).trans (Chip.beat_of_sameRegs hregs (by decide) (by decide)),
    honly'.edges, honly'.mem, honly'.cores⟩

/-- LOCKED where its condition holds (R37, R40). -/
theorem Chip.beatLock_spec (hst : s.beatState = bsACQUIRE)
    (hready : (if s.isMaster then s.extMaster && decide (3 ≤ s.beatU.refRun) && s.beatU.synced else decide (8 ≤ s.beatU.good)) = true) :
    s.beatLock.beatState = bsLOCKED ∧ s.beatLock.bit pgBEAT ⟨0x028, 0, 1⟩ = true ∧
    SameRegs s s.beatLock [pgBEAT + 0x028, pgBEAT + 0x110] ∧ KeptBeat s s.beatLock := by
  obtain ⟨hlocked, hirq, hrest, hregs⟩ := s.enterLocked_spec
  rw [Chip.beatLock]
  simp only [hst, hready, decide_true, Bool.and_self, if_true]
  rw [Chip.calmStep_eq]
  generalize s.enterBeat bsLOCKED = u at *
  have hdata : BeatData u ((u.updBeat fun v => { v with misses := 0, missing := 0, slow := false, again := false }).updBeat
      (BeatUnit.calmed · (u.updBeat fun v => { v with misses := 0, missing := 0, slow := false, again := false }).finePeriod)) :=
    (BeatData.refl u).updBeat.updBeat
  have honly := (UnitOnly.of_regsOnly hrest).trans hdata.only
  exact ⟨(Chip.get_of_regs hdata.regs).trans hlocked, (Chip.bit_of_regs hdata.regs).trans hirq, hregs.of_regs hdata.regs,
    (Chip.beat_of_regs hdata.regs).trans (Chip.beat_of_sameRegs hregs (by decide) (by decide)), honly.edges, honly.mem, honly.cores⟩

end Left

/-- Settles O40: each command is a change of the unit's data, an edge, or the entry of a state, whose laws give its clause. -/
theorem beatMaster : Obligations.BeatMaster := by
  unfold Obligations.BeatMaster
  intro s tick sync hup hext u n kept made back far
  have hfar : ∀ d, far d ↔ farFrom (d / 256) tick = true := fun d => (farFrom_iff d tick).symm
  have hnotfar : ∀ d, ¬far d → farFrom (d / 256) tick = false := fun d h => Bool.eq_false_iff.2 fun h2 => h ((hfar d).2 h2)
  have hsampled : ∀ {P : Chip → Prop}, P (s.chip.beatrefEdge tick sync) → Runs (.beatrefEdge tick sync) s P :=
    fun h => runs_fabric (f := fun v => v.beatrefEdge tick sync) rfl hup h
  have hmissed : ∀ {P : Chip → Prop}, P (s.chip.referenceMiss tick) → Runs (.referenceMiss tick) s P :=
    fun h => runs_fabric (f := fun v => v.referenceMiss tick) rfl hup h
  have hseen := s.chip.refSeen_data tick
  refine ⟨fun hst hcalm hnear => hsampled ?_, fun d hst hcalm hagain hnext hd => hsampled ?_, fun l hst hcalm href hlast => hsampled ?_,
    fun d hst hnext => ⟨fun htick => hsampled ?_, fun htick hd => hsampled ?_, fun hd => hsampled ?_, fun htick hstop => hmissed ?_⟩,
    fun d hst hcalm hagain hnext htick hstop => hmissed ?_, fun hst hmiss => ?_, fun hst hper href hrun hact => hsampled ?_,
    fun hst hrun hsync => ?_⟩
  · rw [Chip.beatref_acquire tick sync hext hst hcalm (hnear.imp_right fun h d hd => hnotfar d (h d hd))]
    exact (hseen.edge rfl _ _).updBeat _
  · rw [Chip.beatref_again tick sync hext hst hcalm hagain hnext ((hfar d).1 hd)]
    obtain ⟨hkept, hback, h0, h4⟩ := (s.chip.refSeen tick).missedAgain_spec
    exact ⟨hseen.kept.trans hkept, hback, h0, h4⟩
  · rw [Chip.beatref_calm tick sync hext hst hcalm href hlast]
    exact ⟨hseen.updBeat.kept, rfl, rfl, hseen.updBeat.regs⟩
  · obtain ⟨hmade, hmisses, -⟩ := s.chip.lockedEdge_spec (d / 256) tick
    rw [Chip.beatref_locked tick sync hext hst hnext, if_neg (by rw [htick]; simp [farFrom])]
    exact ⟨hmade, fun h => (hmisses h).trans (if_pos htick.symm)⟩
  · obtain ⟨hmade, hmisses, hcount⟩ := s.chip.lockedEdge_spec (d / 256) tick
    rw [Chip.beatref_locked tick sync hext hst hnext, if_neg (by simp [hnotfar d hd])]
    exact ⟨hmade, fun h => (hmisses h).trans (if_neg (Ne.symm htick)), hcount (Ne.symm htick)⟩
  · rw [Chip.beatref_locked tick sync hext hst hnext, if_pos ((hfar d).1 hd), Chip.countMiss]
    have hdata := (BeatData.refl s.chip).count (page := pgBEAT) (sel := 0) (n := 1)
    exact ⟨hdata.updBeat.updBeat.kept, rfl, rfl, (Chip.countOf_updBeat ..).trans ((Chip.countOf_updBeat ..).trans (Chip.countOf_count_same ..))⟩
  · rw [htick, Chip.referenceMiss_locked hext hst hnext]
    exact s.chip.missedEdge_spec (d / 256) hstop
  · rw [htick, Chip.referenceMiss_acquire hext hst hcalm hagain hnext]
    exact s.chip.missedAcquire_spec (d / 256)
  · exact runs_fabric rfl hup (Chip.masterHoldover_spec hext hst hmiss)
  · rw [Chip.beatref_holdover tick sync hext hst hper href hrun hact]
    obtain ⟨honly, hacq, -, ⟨-, -, -, -, hslow, -⟩, -, hregs⟩ := (s.chip.refSeen tick).reacquire_spec
    have hregs' := hregs (show s.chip.beatState ≠ bsLOCKED by rw [hst]; decide)
    exact ⟨hacq, hslow.trans hact, hseen.kept.trans ⟨Chip.beat_of_sameRegs hregs' (by decide) (by decide), honly.edges, honly.mem,
      honly.cores⟩, hregs'⟩
  · have hm : s.chip.isMaster = true := (Bool.and_eq_true_iff.1 hext).1
    have hready : (if s.chip.isMaster then s.chip.extMaster && decide (3 ≤ s.chip.beatU.refRun) && s.chip.beatU.synced
        else decide (8 ≤ s.chip.beatU.good)) = true := by
      rw [if_pos hm, hext, decide_eq_true hrun, hsync, Bool.and_self, Bool.and_self]
    exact runs_fabric rfl hup (Chip.beatLock_spec hst hready)

end Sys2Proof.Machine
end

section
/-! A disciplined device (R38, R40, R42, R313). -/

namespace Sys2Proof.Machine

/-! ## A marker is judged -/

section Steer

variable {s : Chip} {port : Nat} {m : Marker} {arrival : Int}

/-- When a marker left its sender, on this device's clock (R38). -/
def Chip.markerAt (s : Chip) (port : Nat) (m : Marker) (arrival : Int) : Int := arrival - m.depart - s.get (pgLNK port) fDelay

/-- The marker's hops and master are this device's, one hop on (R39). -/
def Chip.putHops (s : Chip) (m : Marker) : Chip := (s.put pgBEAT fBeatHops (m.hops + 1)).put pgBEAT fBeatMasterId m.masterId

/-- A marker of another period is a fault while the device is not LOCKED (R40). -/
theorem Chip.steer_period (hst : s.beatState ≠ bsLOCKED) (hper : m.period ≠ s.get pgBEAT fBeatPeriod) :
    s.steer port m arrival = s.beatFault 2 := by
  simp only [Chip.steer, hst, hper, ne_eq, not_false_eq_true, decide_true, decide_false, Bool.not_false, Bool.and_self, if_true]

/-- The first marker gives the beat (R38, R42). -/
theorem Chip.steer_first (hst : s.beatState = bsACQUIRE) (hlast : s.beatU.last = none) (hper : m.period = s.get pgBEAT fBeatPeriod)
    (hbeat : s.calm = false ∨ m.beat.toNat = s.beat) :
    s.steer port m arrival = ((s.putHops m).put64 pgBEAT 0x118 m.beat.toNat).updBeat fun v =>
      { v with last := some (s.markerAt port m arrival).toNat, next := some (s.markerAt port m arrival + s.finePeriod).toNat,
               seen := true, good := 1, missing := 0 } := by
  have hsame : (s.calm && decide (m.beat.toNat ≠ s.beat)) = false := by
    rcases hbeat with h | h <;> simp [h]
  have hne : bsACQUIRE ≠ bsLOCKED := by decide
  simp only [Chip.steer, hst, hlast, hper, hsame, ne_eq, not_true_eq_false, decide_false, Bool.and_false, Bool.false_eq_true, if_false]
  rfl

/-- The steering that a marker within the same beat gives (R38). -/
theorem Chip.steer_same {l : Nat} {d : Int} (hlast : s.beatU.last = some l) (hd : d = s.markerAt port m arrival - l)
    (hhalf : 2 * d ≤ s.finePeriod) (hper : s.beatState = bsLOCKED ∨ m.period = s.get pgBEAT fBeatPeriod) (hbeat : m.beat.toNat = s.beat) :
    s.steer port m arrival =
      if s.beatState = bsLOCKED ∧ (d < -640 ∨ 640 < d) then (s.putHops m).put pgBEAT fBeatPhase (sat32 d)
      else ((s.putHops m).put pgBEAT fBeatPhase (sat32 d)).updBeat fun v =>
        let st := clampTo (if s.beatState = bsLOCKED ∨ s.calm = true then 8 else 256) d
        { v with step := st, next := some (l + s.finePeriod + st : Int).toNat, seen := true, missing := 0,
                 good := if decide (-20 < d) && decide (d < 20) then v.good + 1 else 0 } := by
  have hd' : arrival - m.depart - s.get (pgLNK port) ⟨0x10C, 0, 32⟩ - l = d := hd.symm
  rw [Chip.putHops]
  have hexpected : s.beat + 0 = s.beat := by omega
  have hahead : ¬ (s.finePeriod : Int) < 2 * d := not_lt.2 hhalf
  have hperiod : (!decide (s.beatState = bsLOCKED) && decide (m.period ≠ s.get pgBEAT fBeatPeriod)) = false := by
    rcases hper with h | h <;> simp [h]
  simp only [Chip.steer, hlast, hd', hahead, hperiod, hbeat, decide_false, Bool.false_eq_true, if_false, hexpected, ne_eq, not_true_eq_false,
    Bool.false_and, if_true]
  by_cases hlock : s.beatState = bsLOCKED
  · by_cases hsound : d < -640 ∨ 640 < d
    · have hout : (decide (-640 ≤ d) && decide (d ≤ 640)) = false := by
        rcases hsound with h | h <;> simp [h]
      simp only [hlock, hsound, hout, decide_true, Bool.not_false, Bool.and_self, if_true, and_self]
    · have hin : (decide (-640 ≤ d) && decide (d ≤ 640)) = true := by
        simp only [Bool.and_eq_true, decide_eq_true_eq]
        omega
      simp only [hlock, hsound, hin, decide_true, Bool.not_true, Bool.and_false, Bool.false_eq_true, if_false, and_false, Bool.true_or, true_or,
        if_true]
  · simp only [hlock, decide_false, Bool.false_and, Bool.false_eq_true, if_false, false_and, false_or, Bool.false_or]

/-- A marker of another beat is a fault in LOCKED (R40). -/
theorem Chip.steer_other {l : Nat} {d : Int} (hst : s.beatState = bsLOCKED) (hlast : s.beatU.last = some l)
    (hd : d = s.markerAt port m arrival - l) (hhalf : 2 * d ≤ s.finePeriod) (hbeat : m.beat.toNat ≠ s.beat) :
    s.steer port m arrival = ((s.putHops m).put pgBEAT fBeatPhase (sat32 d)).beatFault 3 := by
  have hd' : arrival - m.depart - s.get (pgLNK port) ⟨0x10C, 0, 32⟩ - l = d := hd.symm
  rw [Chip.putHops]
  have hexpected : s.beat + 0 = s.beat := by omega
  have hahead : ¬ (s.finePeriod : Int) < 2 * d := not_lt.2 hhalf
  simp only [Chip.steer, hst, hlast, hd', hahead, hbeat, decide_true, decide_false, Bool.not_true, Bool.false_and, Bool.false_eq_true, if_false,
    hexpected, ne_eq, not_false_eq_true, Bool.true_or, Bool.and_self, if_true]

end Steer

/-! ## What the marker leaves -/

section Marked

variable (s : Chip) (m : Marker)

theorem Chip.putHops_spec : RegsOnly s (s.putHops m) ∧ (s.putHops m).beatState = s.beatState ∧
    (s.putHops m).get pgBEAT fBeatHops = (m.hops + 1) % 16 ∧ (s.putHops m).get pgBEAT fBeatMasterId = m.masterId % 1024 ∧
    (s.putHops m).get pgBEAT fBeatOnBk = s.get pgBEAT fBeatOnBk ∧ SameRegs s (s.putHops m) [pgBEAT + 0x110] := by
  unfold Chip.putHops
  refine ⟨(RegsOnly.refl s).put.put, ?_, ?_, ?_, ?_, ((SameRegs.refl s _).put (by simp [fBeatHops])).put (by simp [fBeatMasterId])⟩
  · rw [Chip.beatState, Chip.get_put_off _ _ (by decide), Chip.get_put_off _ _ (by decide), Chip.beatState]
  · rw [Chip.get_put_off _ _ (by decide), Chip.get_put_same _ _ _ _ (by decide)]
    rfl
  · rw [Chip.get_put_same _ _ _ _ (by decide)]
    rfl
  · rw [Chip.get_put_off _ _ (by decide), Chip.get_put_off _ _ (by decide)]

/-- The hops, the master and the phase error (R38, R39, R484). -/
def Chip.putPhase (s : Chip) (m : Marker) (d : Int) : Chip := (s.putHops m).put pgBEAT fBeatPhase (sat32 d)

/-- A small number in 32 bits reads back as it is. -/
theorem toInt_sat32 {d : Int} (h1 : -640 ≤ d) (h2 : d ≤ 640) : (BitVec.ofNat 32 (sat32 d)).toInt = d := by
  have h : sat32 d = (d % 2 ^ 32).toNat := by
    rw [sat32, min_eq_right (by omega), max_eq_right (by omega)]
  rw [BitVec.toInt_eq_toNat_cond, BitVec.toNat_ofNat, h]
  split <;> omega

theorem Chip.putPhase_spec (d : Int) : RegsOnly s (s.putPhase m d) ∧ (s.putPhase m d).beatState = s.beatState ∧
    (s.putPhase m d).get pgBEAT fBeatOnBk = s.get pgBEAT fBeatOnBk ∧ (s.putPhase m d).beat = s.beat ∧
    (-640 ≤ d → d ≤ 640 → ((s.putPhase m d).reg (pgBEAT + 0x114)).toInt = d) := by
  obtain ⟨hrest, hst, -, -, hbk, hregs⟩ := s.putHops_spec m
  unfold Chip.putPhase
  refine ⟨hrest.put, (Chip.get_put_off _ _ (by decide)).trans hst, (Chip.get_put_off _ _ (by decide)).trans hbk, ?_, fun h1 h2 => ?_⟩
  · exact Chip.beat_of_sameRegs (SameRegs.put (l := [pgBEAT + 0x110, pgBEAT + 0x114]) (hregs.weaken (by decide)) (by decide))
      (by decide) (by decide)
  · have hget := (s.putHops m).get_put_same pgBEAT fBeatPhase (sat32 d) (by decide)
    have hreg : ((s.putHops m).put pgBEAT fBeatPhase (sat32 d)).reg (pgBEAT + 0x114) = BitVec.ofNat 32 (sat32 d) := by
      generalize (s.putHops m).put pgBEAT fBeatPhase (sat32 d) = u at *
      refine BitVec.eq_of_toNat_eq ?_
      rw [BitVec.toNat_ofNat, ← show u.get pgBEAT fBeatPhase = sat32 d % 2 ^ 32 from hget, Chip.get, bf, BitVec.extractLsb'_toNat]
      exact (Nat.mod_eq_of_lt (u.reg (pgBEAT + 0x114)).isLt).symm
    rw [hreg, toInt_sat32 h1 h2]

theorem Chip.calm_congr {s t : Chip} (hr : t.regs = s.regs) (hu : t.beatU = s.beatU) : t.calm = s.calm := by
  have hactive : t.anyActive = s.anyActive := by
    simp only [Chip.anyActive, Chip.ctxState, Chip.get_of_regs hr]
    rfl
  rw [Chip.calm, hu, hactive, Chip.calm]

end Marked

/-! ## A marker arrives -/

section Arrives

variable {s : Chip} {port : Nat} {m : Marker} {arrival : Int} (hpres : s.portPresent port = true) (hup : s.portState port = psUP)
  (hslave : s.isMaster = false)
include hpres hup hslave

/-- The marker of the port that the unit takes its markers from (R313). -/
theorem Chip.markerReceive_used (hport : port = s.upstream) (hst : s.beatState = bsACQUIRE ∨ s.beatState = bsLOCKED) :
    s.markerReceive port m arrival = (s.count (pgLNK port) 0x11 1).steer port m arrival := by
  have hhold : s.beatState ≠ bsHOLDOVER := by rcases hst with h | h <;> rw [h] <;> decide
  have huse : (decide (s.beatState = bsACQUIRE) || decide (s.beatState = bsLOCKED)) = true := by rcases hst with h | h <;> simp [h]
  simp only [Chip.markerReceive, hpres, hup, hslave, ← hport, hhold, huse, ne_eq, not_true_eq_false, decide_false, Bool.not_true, Bool.or_self,
    Bool.false_eq_true, if_false, if_true]

/-- A marker of the primary port in HOLDOVER (R40). -/
theorem Chip.markerReceive_holdover (hport : port = s.get pgBEAT fBeatUpPort) (hst : s.beatState = bsHOLDOVER) :
    s.markerReceive port m arrival = (((s.count (pgLNK port) 0x11 1).reacquire).put pgBEAT fBeatOnBk 0).steer port m arrival := by
  simp only [Chip.markerReceive, hpres, hup, hslave, ← hport, hst, ne_eq, not_true_eq_false, decide_false, Bool.not_true, Bool.or_self,
    Bool.false_eq_true, if_false, if_true]

end Arrives

/-- The count of a port's marker changes nothing else. -/
theorem Chip.countMarker_spec (s : Chip) (port : Nat) : BeatData s (s.count (pgLNK port) 0x11 1) ∧
    (s.count (pgLNK port) 0x11 1).beatU = s.beatU ∧
    (s.count (pgLNK port) 0x11 1).countOf (pgLNK port) 0x11 = min (s.countOf (pgLNK port) 0x11 + 1) (2 ^ 64 - 1) :=
  ⟨(BeatData.refl s).count, rfl, Chip.countOf_count_same ..⟩

section Disciplined

variable {s : State} {port : Nat} {m : Marker} {arrival : Int} (hup : s.chip.fabricUp = true) (hslave : s.chip.isMaster = false)
  (hpres : s.chip.portPresent port = true) (hport : s.chip.portState port = psUP)
include hup hslave hpres hport

omit hslave hport in
theorem runs_marker {P : Chip → Prop} (h : P (s.chip.markerReceive port m arrival)) : Runs (.markerReceive port m arrival) s P :=
  runs_unit (f := fun u => u.markerReceive port m arrival) rfl (portPresent_lt hpres) hup h

section Upstream

variable (hsrc : port = s.chip.upstream)
include hsrc

theorem marker_first (hst : s.chip.beatState = bsACQUIRE) (hlast : s.chip.beatU.last = none)
    (hper : m.period = s.chip.get pgBEAT fBeatPeriod) (hbeat : s.chip.calm = false ∨ m.beat.toNat = s.chip.beat) :
    Runs (.markerReceive port m arrival) s fun t =>
      t.beat = m.beat.toNat ∧ t.get pgBEAT fBeatHops = (m.hops + 1) % 16 ∧ t.get pgBEAT fBeatMasterId = m.masterId % 1024 ∧
      t.beatU.last = some (s.chip.markerAt port m arrival).toNat ∧ t.beatState = bsACQUIRE ∧ t.mem = s.chip.mem ∧
      t.countOf (pgLNK port) 0x11 = min (s.chip.countOf (pgLNK port) 0x11 + 1) (2 ^ 64 - 1) := by
  refine runs_marker hup hpres ?_
  rw [Chip.markerReceive_used hpres hport hslave hsrc (.inl hst)]
  obtain ⟨hdata, hunit, hcount⟩ := s.chip.countMarker_spec port
  generalize s.chip.count (pgLNK port) 0x11 1 = u at *
  have hst' : u.beatState = bsACQUIRE := (Chip.get_of_regs hdata.regs).trans hst
  rw [Chip.steer_first hst' (hunit ▸ hlast) (hper.trans (Chip.get_of_regs hdata.regs).symm)
    (by rw [Chip.calm_congr hdata.regs hunit, Chip.beat_of_regs hdata.regs]; exact hbeat)]
  have hat : u.markerAt port m arrival = s.chip.markerAt port m arrival := by
    rw [Chip.markerAt, Chip.get_of_regs hdata.regs, Chip.markerAt]
  rw [hat]
  obtain ⟨hrest, hstate, hhops, hid, -, -⟩ := u.putHops_spec m
  generalize u.putHops m = v at *
  have hbeat' := v.get64_put64_same pgBEAT 0x118 m.beat.toNat m.beat.isLt
  have hother : ∀ f : Fld, f.off = 0x110 → (v.put64 pgBEAT 0x118 m.beat.toNat).get pgBEAT f = v.get pgBEAT f := fun f hf =>
    Chip.get_put64_other _ _ (by rw [hf]; decide) (by rw [hf]; decide)
  have honly : RegsOnly u (v.put64 pgBEAT 0x118 m.beat.toNat) := hrest.put64
  generalize v.put64 pgBEAT 0x118 m.beat.toNat = w at *
  refine ⟨(Chip.beat_of_regs rfl).trans hbeat', ?_, ?_, rfl, ?_, ?_, ?_⟩
  · rw [Chip.get_updBeat, hother _ rfl, hhops]
  · rw [Chip.get_updBeat, hother _ rfl, hid]
  · exact (Chip.get_updBeat ..).trans ((hother _ rfl).trans (hstate.trans hst'))
  · exact (honly.keeps Chip.mem fun _ _ => rfl).trans hdata.only.mem
  · rw [Chip.countOf_updBeat, Chip.countOf_of_counts (honly.keeps Chip.counts fun _ _ => rfl), hcount]

theorem marker_period (hst : s.chip.beatState = bsACQUIRE) (hper : m.period ≠ s.chip.get pgBEAT fBeatPeriod) :
    Runs (.markerReceive port m arrival) s fun t =>
      t.beatState = bsFAULT ∧ t.get pgBEAT fBeatCause = 2 ∧ t.bit pgBEAT ⟨0x010, errBit eBEAT_LOSS, 1⟩ = true := by
  refine runs_marker hup hpres ?_
  rw [Chip.markerReceive_used hpres hport hslave hsrc (.inl hst)]
  obtain ⟨hdata, -, -⟩ := s.chip.countMarker_spec port
  generalize s.chip.count (pgLNK port) 0x11 1 = u at *
  have hst' : u.beatState ≠ bsLOCKED := by
    rw [show u.beatState = bsACQUIRE from (Chip.get_of_regs hdata.regs).trans hst]
    decide
  rw [Chip.steer_period hst' (by rw [Chip.get_of_regs hdata.regs]; exact hper)]
  obtain ⟨hfault, hcause, hlogged, -⟩ := u.beatFault_spec (cause := 2) (by decide)
  exact ⟨hfault, hcause, hlogged⟩

section Locked

variable {l : Nat} {d : Int} (hst : s.chip.beatState = bsLOCKED) (hlast : s.chip.beatU.last = some l)
  (hd : d = s.chip.markerAt port m arrival - l) (hhalf : 2 * d ≤ s.chip.finePeriod)
include hst hlast hd hhalf

/-- A marker far from the edge steers nothing, and a near one steers it by the LOCKED rate (R38). -/
theorem marker_steers (hbeat : m.beat.toNat = s.chip.beat) : Runs (.markerReceive port m arrival) s fun t =>
    t.beatState = bsLOCKED ∧ t.beat = s.chip.beat ∧ t.mem = s.chip.mem ∧ t.cores = s.chip.cores ∧
    (d < -640 ∨ 640 < d → t.beatU = s.chip.beatU) ∧
    (-640 ≤ d → d ≤ 640 → (t.reg (pgBEAT + 0x114)).toInt = d ∧ t.beatU.step = clampTo 8 d ∧
      t.beatU.next = some (l + s.chip.finePeriod + clampTo 8 d : Int).toNat) := by
  refine runs_marker hup hpres ?_
  rw [Chip.markerReceive_used hpres hport hslave hsrc (.inr hst)]
  obtain ⟨hdata, hunit, -⟩ := s.chip.countMarker_spec port
  generalize s.chip.count (pgLNK port) 0x11 1 = u at *
  have hst' : u.beatState = bsLOCKED := (Chip.get_of_regs hdata.regs).trans hst
  have hfine : u.finePeriod = s.chip.finePeriod := congrArg (256 * ·) (Chip.get_of_regs hdata.regs)
  have hat : d = u.markerAt port m arrival - l := by rw [Chip.markerAt, Chip.get_of_regs hdata.regs]; exact hd
  rw [Chip.steer_same (hunit ▸ hlast) hat (by rw [hfine]; exact hhalf) (.inl hst') (hbeat.trans (Chip.beat_of_regs hdata.regs).symm)]
  obtain ⟨hrest, hstate, -, hbeat', hphase⟩ := u.putPhase_spec m d
  rw [← Chip.putPhase]
  generalize u.putPhase m d = v at *
  have hvunit : v.beatU = s.chip.beatU := (hrest.keeps Chip.beatU fun _ _ => rfl).trans hunit
  have honly := hdata.only.trans (.of_regsOnly hrest)
  have hvbeat : v.beat = s.chip.beat := hbeat'.trans (Chip.beat_of_regs hdata.regs)
  simp only [hst', true_and, true_or, if_true]
  split
  case isTrue hout =>
    exact ⟨hstate.trans hst', hvbeat, honly.mem, honly.cores, fun _ => hvunit, fun h1 h2 => by omega⟩
  case isFalse hin =>
    refine ⟨(Chip.get_updBeat ..).trans (hstate.trans hst'), (Chip.beat_of_regs rfl).trans hvbeat, honly.updBeat.mem, honly.updBeat.cores,
      fun h => absurd h hin, fun h1 h2 => ⟨(congrArg BitVec.toInt (Chip.reg_updBeat ..)).trans (hphase h1 h2), rfl, ?_⟩⟩
    rw [← hfine]
    rfl

theorem marker_number (hbeat : m.beat.toNat ≠ s.chip.beat) : Runs (.markerReceive port m arrival) s fun t =>
    t.beatState = bsFAULT ∧ t.get pgBEAT fBeatCause = 3 ∧ t.bit pgBEAT ⟨0x010, errBit eBEAT_LOSS, 1⟩ = true := by
  refine runs_marker hup hpres ?_
  rw [Chip.markerReceive_used hpres hport hslave hsrc (.inr hst)]
  obtain ⟨hdata, hunit, -⟩ := s.chip.countMarker_spec port
  generalize s.chip.count (pgLNK port) 0x11 1 = u at *
  have hat : d = u.markerAt port m arrival - l := by rw [Chip.markerAt, Chip.get_of_regs hdata.regs]; exact hd
  have hfine : u.finePeriod = s.chip.finePeriod := congrArg (256 * ·) (Chip.get_of_regs hdata.regs)
  rw [Chip.steer_other ((Chip.get_of_regs hdata.regs).trans hst) (hunit ▸ hlast) hat (by rw [hfine]; exact hhalf)
    (by rw [Chip.beat_of_regs hdata.regs]; exact hbeat)]
  obtain ⟨hfault, hcause, hlogged, -⟩ := ((u.putHops m).put pgBEAT fBeatPhase (sat32 d)).beatFault_spec (cause := 3) (by decide)
  exact ⟨hfault, hcause, hlogged⟩

end Locked

end Upstream

/-- A marker of the primary port ends HOLDOVER (R40). -/
theorem marker_holdover {l : Nat} {d : Int} (hsrc : port = s.chip.get pgBEAT fBeatUpPort) (hst : s.chip.beatState = bsHOLDOVER)
    (hper : m.period = s.chip.get pgBEAT fBeatPeriod) (hbeat : m.beat.toNat = s.chip.beat) (hlast : s.chip.beatU.last = some l)
    (hd : d = s.chip.markerAt port m arrival - l) (hhalf : 2 * d ≤ s.chip.finePeriod) :
    Runs (.markerReceive port m arrival) s fun t =>
      t.beatState = bsACQUIRE ∧ t.get pgBEAT fBeatOnBk = 0 ∧ t.beat = s.chip.beat ∧ t.beatU.again = true ∧ t.mem = s.chip.mem ∧
      t.cores = s.chip.cores := by
  refine runs_marker hup hpres ?_
  rw [Chip.markerReceive_holdover hpres hport hslave hsrc hst]
  obtain ⟨hdata, hunit, -⟩ := s.chip.countMarker_spec port
  generalize s.chip.count (pgLNK port) 0x11 1 = u at *
  have hst' : u.beatState ≠ bsLOCKED := by
    rw [show u.beatState = bsHOLDOVER from (Chip.get_of_regs hdata.regs).trans hst]
    decide
  obtain ⟨honly, hacq, -, ⟨-, -, -, hagain, -, hkeptlast⟩, -, hregs⟩ := u.reacquire_spec
  have hregs' := hregs hst'
  have hlast' : u.reacquire.beatU.last = some l := by rw [hkeptlast, hunit]; exact hlast
  generalize u.reacquire = v at *
  have hput : SameRegs u (v.put pgBEAT fBeatOnBk 0) [pgBEAT + 0x110] := hregs'.put (by simp [fBeatOnBk])
  have hputst : (v.put pgBEAT fBeatOnBk 0).beatState = bsACQUIRE := (Chip.get_put_off _ _ (by decide)).trans hacq
  have hputbk : (v.put pgBEAT fBeatOnBk 0).get pgBEAT fBeatOnBk = 0 := Chip.get_put_same _ _ _ _ (by decide)
  have hputunit : (v.put pgBEAT fBeatOnBk 0).beatU = v.beatU := (RegsOnly.refl v).put.keeps Chip.beatU fun _ _ => rfl
  have hputonly : UnitOnly s.chip (v.put pgBEAT fBeatOnBk 0) := (hdata.only.trans honly).trans (.of_regsOnly (RegsOnly.refl v).put)
  generalize v.put pgBEAT fBeatOnBk 0 = w at *
  have hwbeat : w.beat = s.chip.beat := (Chip.beat_of_sameRegs hput (by decide) (by decide)).trans (Chip.beat_of_regs hdata.regs)
  have hwget : ∀ page (f : Fld), page + f.off ≠ pgBEAT + 0x110 → w.get page f = s.chip.get page f := fun page f hf =>
    (hput.get (by simpa using hf)).trans (Chip.get_of_regs hdata.regs)
  have hfine : w.finePeriod = s.chip.finePeriod := congrArg (256 * ·) (hwget _ _ (by decide))
  have hat : d = w.markerAt port m arrival - l := by
    rw [Chip.markerAt, hwget _ _ (by simp only [pgLNK, pgBEAT, fDelay]; omega)]; exact hd
  rw [Chip.steer_same (by rw [hputunit]; exact hlast') hat (by rw [hfine]; exact hhalf)
    (.inr (hper.trans (hwget _ _ (by decide)).symm)) (hbeat.trans hwbeat.symm)]
  have hnot : ¬(w.beatState = bsLOCKED ∧ (d < -640 ∨ 640 < d)) := fun h => absurd (hputst.symm.trans h.1) (by decide)
  rw [if_neg hnot]
  obtain ⟨hrest, hstate, hbk, hbeat', -⟩ := w.putPhase_spec m d
  rw [← Chip.putPhase]
  generalize w.putPhase m d = x at *
  have hxonly := hputonly.trans (.of_regsOnly hrest)
  have hxunit : x.beatU = w.beatU := hrest.keeps Chip.beatU fun _ _ => rfl
  refine ⟨(Chip.get_updBeat ..).trans (hstate.trans hputst), (Chip.get_updBeat ..).trans (hbk.trans hputbk),
    (Chip.beat_of_regs rfl).trans (hbeat'.trans hwbeat), ?_, hxonly.updBeat.mem, hxonly.updBeat.cores⟩
  rw [Chip.updBeat, hxunit, hputunit]
  exact hagain

end Disciplined

/-! ## The conditions on beats -/

section Conditions

variable {s : State} (hup : s.chip.fabricUp = true) (hslave : s.chip.isMaster = false)
include hup hslave

theorem disciplined_locks (hst : s.chip.beatState = bsACQUIRE) (hgood : 8 ≤ s.chip.beatU.good) : Runs .beatLock s fun t =>
    t.beatState = bsLOCKED ∧ t.bit pgBEAT ⟨0x028, 0, 1⟩ = true ∧ SameRegs s.chip t [pgBEAT + 0x028, pgBEAT + 0x110] := by
  obtain ⟨hlocked, hirq, hregs, -⟩ := Chip.beatLock_spec hst (by rw [if_neg (by simp [hslave]), decide_eq_true hgood])
  exact runs_fabric rfl hup ⟨hlocked, hirq, hregs⟩

theorem lockTimeout_faults (hst : s.chip.beatState = bsACQUIRE) (hacq : 4096 ≤ s.chip.beatU.acq) : Runs .lockTimeout s fun t =>
    t.beatState = bsFAULT ∧ t.get pgBEAT fBeatCause = 1 ∧ t.bit pgBEAT ⟨0x010, errBit eBEAT_LOSS, 1⟩ = true ∧ t.mem = s.chip.mem := by
  refine runs_fabric rfl hup ?_
  obtain ⟨hfault, hcause, hlogged, honly⟩ := s.chip.beatFault_spec (cause := 1) (by decide)
  rw [if_pos (by simp [hst, hslave, hacq])]
  exact ⟨hfault, hcause, hlogged, honly.mem⟩

theorem markerLoss_holds (hst : s.chip.beatState = bsLOCKED) (hmissing : 4 ≤ s.chip.beatU.missing) : Runs .markerLoss s fun t =>
    t.beatState = bsHOLDOVER ∧ t.bit pgBEAT ⟨0x028, 1, 1⟩ = true ∧ SameRegs s.chip t [pgBEAT + 0x028, pgBEAT + 0x110] ∧
    t.mem = s.chip.mem := by
  refine runs_fabric rfl hup ?_
  obtain ⟨hhold, honly, hregs, -, -, hirq⟩ := s.chip.enterHoldover_spec
  rw [if_pos (by simp [hst, hslave, hmissing])]
  exact ⟨hhold, hirq hst, hregs, honly.mem⟩

end Conditions

/-- Settles O41: a marker by what `Chip.steer` makes of it, the rest by the entry of a state. -/
theorem beatDisciplined : Obligations.BeatDisciplined := by
  unfold Obligations.BeatDisciplined
  intro s hup hslave
  refine ⟨fun port m arrival hpres hport hsrc => ⟨fun hst hlast hper hbeat => ?_, fun hst hper => ?_, fun l d hst hlast hd hhalf => ?_⟩,
    fun port m arrival d l hpres hport hsrc hst hper hbeat hlast hd hhalf => ?_, fun hst hgood => ?_, fun hst hacq => ?_, fun hst hmiss => ?_⟩
  · exact marker_first hup hslave hpres hport hsrc hst hlast hper hbeat
  · exact marker_period hup hslave hpres hport hsrc hst hper
  · have hsteers := fun hbeat => marker_steers hup hslave hpres hport hsrc hst hlast hd hhalf hbeat
    refine ⟨fun hbeat hout => runs_mono (hsteers hbeat) ?_, fun hbeat h1 h2 => runs_mono (hsteers hbeat) ?_,
      fun hbeat => marker_number hup hslave hpres hport hsrc hst hlast hd hhalf hbeat⟩
    · exact fun t ⟨hlock, hb, hmem, hcores, hunit, _⟩ => ⟨hlock, hunit hout, hb, hmem, hcores⟩
    · intro t ⟨hlock, hb, hmem, hcores, _, hsteer⟩
      obtain ⟨hphase, hstep, hnext⟩ := hsteer h1 h2
      exact ⟨hb, hlock, hphase, hstep, hnext, hmem, hcores⟩
  · exact marker_holdover hup hslave hpres hport hsrc hst hper hbeat hlast hd hhalf
  · exact disciplined_locks hup hslave hst hgood
  · exact lockTimeout_faults hup hslave hst hacq
  · exact markerLoss_holds hup hslave hst hmiss

end Sys2Proof.Machine
end

section
/-! Frequency switches, the voltage, the governor, gusts and lane adaptation (R60, R421, R422, R423, R428, R431). -/

namespace Sys2Proof.Machine

/-! ## A switch is requested (R423) -/

section Switch

variable (s : Chip) (f b : Nat)

theorem Chip.mem_of_regsOnly {s t : Chip} (h : RegsOnly s t) : t.mem = s.mem := h.keeps Chip.mem fun _ _ => rfl

/-- The refusal's cause and interrupt. -/
def Chip.refuseSwitch (s : Chip) (k : Nat) : Chip := (s.put pgCLK fFswReject k).raise pgCLK 1

theorem Chip.requestSwitch_some {k : Nat} (h : s.switchCause f b = some k) :
    s.requestSwitch f b = if k = 4 then (s.refuseSwitch k).count pgGOV 0x09 1 else s.refuseSwitch k := by
  rw [show Chip.requestSwitch = delta% Chip.requestSwitch from rfl]
  beta_reduce
  rw [h]
  rfl

/-- The switch is pending. -/
def Chip.pendSwitch (s : Chip) (f b : Nat) : Chip :=
  ({ s with pow := { s.pow with pend := some (f, b, false) } } : Chip).put pgCLK fFswPend 1

theorem Chip.requestSwitch_none (h : s.switchCause f b = none) :
    s.requestSwitch f b = if s.get pgCLK fCurFreq < f then (s.addCharge b (s.switchCharge f)).pendSwitch f b else s.pendSwitch f b := by
  rw [show Chip.requestSwitch = delta% Chip.requestSwitch from rfl]
  beta_reduce
  rw [h]
  dsimp only
  split <;> rfl

/-- The refusal of a switch: its cause and its interrupt (R423). -/
theorem Chip.requestSwitch_refused {k : Nat} (hcause : s.switchCause f b = some k) (hk : k < 8) :
    (s.requestSwitch f b).get pgCLK fFswReject = k ∧ (s.requestSwitch f b).bit pgCLK ⟨0x028, 1, 1⟩ = true ∧
    (s.requestSwitch f b).pow = s.pow ∧ SameRegs s (s.requestSwitch f b) [pgCLK + 0x10C, pgCLK + 0x028] ∧
    (s.requestSwitch f b).mem = s.mem ∧ (s.requestSwitch f b).cores = s.cores ∧ (s.requestSwitch f b).ports = s.ports := by
  have hreject : (s.refuseSwitch k).get pgCLK fFswReject = k := by
    rw [Chip.refuseSwitch, Chip.get_raise_other _ _ (by decide), Chip.get_put_same _ _ _ _ (by decide)]
    exact Nat.mod_eq_of_lt hk
  have hirq : (s.refuseSwitch k).bit pgCLK ⟨0x028, 1, 1⟩ = true := Chip.bit_raise _ _ _ (by decide)
  have hrest : RegsOnly s (s.refuseSwitch k) := (RegsOnly.refl s).put.raise
  have hregs : SameRegs s (s.refuseSwitch k) [pgCLK + 0x10C, pgCLK + 0x028] := ((SameRegs.refl s _).put (by simp [fFswReject])).raise (by simp)
  have hpow := hrest.keeps Chip.pow fun _ _ => rfl
  have hcores := hrest.keeps Chip.cores fun _ _ => rfl
  have hports := hrest.keeps Chip.ports fun _ _ => rfl
  rw [Chip.requestSwitch_some s f b hcause]
  generalize s.refuseSwitch k = t at *
  split
  · refine ⟨(Chip.get_count ..).trans hreject, (Chip.bit_count ..).trans hirq, ?_, hregs.count, ?_, ?_, ?_⟩
    · simpa using hpow
    · simpa using Chip.mem_of_regsOnly hrest
    · simpa using hcores
    · simpa using hports
  · exact ⟨hreject, hirq, hpow, hregs, Chip.mem_of_regsOnly hrest, hcores, hports⟩

theorem Chip.pendSwitch_spec : (s.pendSwitch f b).pow = { s.pow with pend := some (f, b, false) } ∧
    (s.pendSwitch f b).get pgCLK fFswPend = 1 ∧ SameRegs s (s.pendSwitch f b) [pgCLK + 0x10C] ∧
    (s.pendSwitch f b).mem = s.mem ∧ (s.pendSwitch f b).cores = s.cores ∧ (s.pendSwitch f b).ports = s.ports := by
  unfold Chip.pendSwitch
  refine ⟨by simp, Chip.get_put_same _ _ _ _ (by decide), SameRegs.put ((SameRegs.refl s _).of_regs rfl) (by simp [fFswPend]), by simp, by simp,
    by simp⟩

/-- A switch that is taken is pending, with its charge where the frequency rises (R423, R433). -/
theorem Chip.requestSwitch_taken (hcause : s.switchCause f b = none) :
    (s.requestSwitch f b).pow.pend = some (f, b, false) ∧ (s.requestSwitch f b).get pgCLK fFswPend = 1 ∧
    SameRegs s (s.requestSwitch f b) [pgCLK + 0x10C] ∧
    (¬ s.get pgCLK fCurFreq < f → (s.requestSwitch f b).pow = { s.pow with pend := some (f, b, false) }) ∧
    (s.get pgCLK fCurFreq < f → (s.requestSwitch f b).chargeAt b = s.chargeAt b + s.switchCharge f) ∧
    (s.requestSwitch f b).mem = s.mem ∧ (s.requestSwitch f b).cores = s.cores ∧ (s.requestSwitch f b).ports = s.ports := by
  rw [Chip.requestSwitch_none s f b hcause]
  split
  case isTrue hrise =>
    have hcharged : (s.addCharge b (s.switchCharge f)).pow.charges = sset natReset s.pow.charges b (s.chargeAt b + s.switchCharge f) := rfl
    have hregs : (s.addCharge b (s.switchCharge f)).regs = s.regs := rfl
    have hmem : (s.addCharge b (s.switchCharge f)).mem = s.mem := rfl
    have hcores : (s.addCharge b (s.switchCharge f)).cores = s.cores := rfl
    have hports : (s.addCharge b (s.switchCharge f)).ports = s.ports := rfl
    generalize s.addCharge b (s.switchCharge f) = t at *
    obtain ⟨hpow, hpend, hsame, hmem', hcores', hports'⟩ := t.pendSwitch_spec f b
    refine ⟨by rw [hpow], hpend, SameRegs.trans ((SameRegs.refl s _).of_regs hregs) hsame, fun h => absurd hrise h, fun _ => ?_,
      hmem'.trans hmem, hcores'.trans hcores, hports'.trans hports⟩
    rw [Chip.chargeAt, hpow, hcharged, sget_sset_same]
  case isFalse hfall =>
    obtain ⟨hpow, hpend, hsame, hmem, hcores, hports⟩ := s.pendSwitch_spec f b
    exact ⟨by rw [hpow], hpend, hsame, fun _ => hpow, fun h => absurd h hfall, hmem, hcores, hports⟩

/-- The rules in their order, once the beat is far enough ahead of the last switch (R423). -/
theorem Chip.switchCause_of_time (h1 : s.beat + 4 ≤ b) (h2 : s.lastSwitch + 8 ≤ b) : s.switchCause f b =
    if s.get pgCLK fCurFreq < f ∧ ¬(s.bit pgGOV fVOk = true ∧ s.vNeed f ≤ 2 * (s.get pgGOV fVddSet : Int)) then some 3
    else if s.get pgCLK fCurFreq < f ∧ s.rampFits b (s.switchCharge f) = false then some 4
    else if s.pow.pend ≠ none then some 5 else if 16 < f then some 6 else none := by
  have hvolts : (decide (s.get pgCLK fCurFreq < f) && (!s.bit pgGOV fVOk || !s.vEnough (s.get pgGOV fVddSet) f)) = true ↔
      s.get pgCLK fCurFreq < f ∧ ¬(s.bit pgGOV fVOk = true ∧ s.vNeed f ≤ 2 * (s.get pgGOV fVddSet : Int)) := by
    rw [Chip.vEnough, Bool.and_eq_true, Bool.or_eq_true, Bool.not_eq_true', Bool.not_eq_true', decide_eq_true_eq, decide_eq_false_iff_not,
      not_and_or, Bool.not_eq_true]
  have hfits : (decide (s.get pgCLK fCurFreq < f) && !s.rampFits b (s.switchCharge f)) = true ↔
      s.get pgCLK fCurFreq < f ∧ s.rampFits b (s.switchCharge f) = false := by
    rw [Bool.and_eq_true, Bool.not_eq_true', decide_eq_true_eq]
  have hpend : s.pow.pend.isSome = true ↔ s.pow.pend ≠ none := Option.isSome_iff_ne_none
  rw [Chip.switchCause]
  simp only [if_neg (not_lt.2 h1), if_neg (not_lt.2 h2), hvolts, hfits, hpend]

end Switch

/-! ## What requests for another frequency may change -/

/-- A request for a frequency writes the switch registers and VDD_SET, keeps what is raised and done, and changes of the rest counts and
the clocks' own data only. -/
structure SwitchKeeps (s t : Chip) : Prop where
  rest : t = { s with regs := t.regs, counts := t.counts, pow := t.pow }
  regs : SameRegs s t [pgCLK + 0x028, pgCLK + 0x100, pgCLK + 0x104, pgCLK + 0x108, pgCLK + 0x10C, pgGOV + 0x124]
  raised : ∀ b, s.bit pgCLK ⟨0x028, b, 1⟩ = true → t.bit pgCLK ⟨0x028, b, 1⟩ = true
  done : t.get pgCLK fFswDone = s.get pgCLK fFswDone
  tick : t.pow.lastTick = s.pow.lastTick

section SwitchKeeps

variable {s t u : Chip}

theorem SwitchKeeps.refl (s : Chip) : SwitchKeeps s s := ⟨rfl, .refl s _, fun _ h => h, rfl, rfl⟩

theorem SwitchKeeps.trans (h : SwitchKeeps s t) (h2 : SwitchKeeps t u) : SwitchKeeps s u := by
  refine ⟨?_, h.regs.trans h2.regs, fun b hb => h2.raised b (h.raised b hb), h2.done.trans h.done, h2.tick.trans h.tick⟩
  have ht := h.rest
  have hu := h2.rest
  rw [ht] at hu
  exact hu

theorem SwitchKeeps.keeps {β : Type} (h : SwitchKeeps s t) (g : Chip → β)
    (hg : ∀ (u : Chip) r n p, g { u with regs := r, counts := n, pow := p } = g u) : g t = g s :=
  (congrArg g h.rest).trans (hg s ..)

/-- A write of a field beside those that are kept. -/
theorem switchKeeps_put {page v : Nat} {f : Fld}
    (h : page + f.off ∈ [pgCLK + 0x100, pgCLK + 0x104, pgCLK + 0x108, pgCLK + 0x10C, pgGOV + 0x124])
    (hdone : pgCLK + 0x10C ≠ page + f.off ∨ f.lo + f.len ≤ 2 ∨ 3 ≤ f.lo) : SwitchKeeps s (s.put page f v) := by
  have hirq : page + f.off ≠ pgCLK + 0x028 := fun h2 => by rw [h2] at h; exact absurd h (by decide)
  refine ⟨rfl, (SameRegs.refl s _).put (List.mem_cons_of_mem _ h), fun b hb => ?_, Chip.get_put_off _ _ ?_, by simp⟩
  · rw [Chip.bit, Chip.get_put_off _ _ (.inl hirq.symm)]
    exact hb
  · exact hdone.imp_right fun h => h.symm.imp_left id

theorem switchKeeps_put64 {v : Nat} : SwitchKeeps s (s.put64 pgCLK 0x104 v) := by
  refine ⟨rfl, (SameRegs.refl s _).put64 (by simp) (by simp), fun b hb => ?_, Chip.get_put64_other _ _ (by decide) (by decide), by simp⟩
  rw [Chip.bit, Chip.get_put64_other _ _ (by show pgCLK + 0x028 ≠ _; decide) (by show pgCLK + 0x028 ≠ _; decide)]
  exact hb

theorem switchKeeps_raise {b : Nat} : SwitchKeeps s (s.raise pgCLK b) := by
  refine ⟨rfl, (SameRegs.refl s _).raise (by simp), fun i hi => ?_, Chip.get_raise_other _ _ (by decide), by simp⟩
  rw [Chip.bit_eq] at hi
  rw [Chip.bit_eq, Chip.raise, Chip.reg_setReg_same, BitVec.getLsbD_or, hi, Bool.true_or]

theorem switchKeeps_count {page sel n : Nat} : SwitchKeeps s (s.count page sel n) :=
  ⟨rfl, (SameRegs.refl s _).count, fun _ h => (Chip.bit_count ..).trans h, Chip.get_count .., by simp⟩

theorem switchKeeps_pow {p : Power} (h : p.lastTick = s.pow.lastTick) : SwitchKeeps s { s with pow := p } :=
  ⟨rfl, (SameRegs.refl s _).of_regs rfl, fun _ hb => (Chip.bit_of_regs rfl).trans hb, Chip.get_of_regs rfl, h⟩

theorem switchKeeps_refuseSwitch (s : Chip) (k : Nat) : SwitchKeeps s (s.refuseSwitch k) :=
  (switchKeeps_put (page := pgCLK) (f := fFswReject) (by decide) (by decide)).trans switchKeeps_raise

theorem switchKeeps_pendSwitch (s : Chip) (f b : Nat) : SwitchKeeps s (s.pendSwitch f b) := by
  rw [Chip.pendSwitch]
  exact (switchKeeps_pow (p := { s.pow with pend := some (f, b, false) }) rfl).trans
    (switchKeeps_put (page := pgCLK) (f := fFswPend) (by decide) (by decide))

theorem switchKeeps_requestSwitch (s : Chip) (f b : Nat) : SwitchKeeps s (s.requestSwitch f b) := by
  cases h : s.switchCause f b with
  | none =>
    rw [Chip.requestSwitch_none s f b h]
    split
    · exact SwitchKeeps.trans (t := s.addCharge b (s.switchCharge f)) (switchKeeps_pow rfl) (switchKeeps_pendSwitch _ f b)
    · exact switchKeeps_pendSwitch s f b
  | some k =>
    rw [Chip.requestSwitch_some s f b h]
    split
    · exact (switchKeeps_refuseSwitch s k).trans switchKeeps_count
    · exact switchKeeps_refuseSwitch s k

theorem switchKeeps_governorSwitch (s : Chip) (f : Nat) : SwitchKeeps s (s.governorSwitch f) :=
  ((switchKeeps_put (by decide) (by decide)).trans switchKeeps_put64).trans (switchKeeps_requestSwitch _ f _)

theorem switchKeeps_wanted (s : Chip) : SwitchKeeps s s.wanted := by
  have hpow : SwitchKeeps s { s with pow := { s.pow with want := none } } := switchKeeps_pow rfl
  rw [Chip.wanted]
  split
  · split
    · exact .refl s
    · split
      · exact hpow.trans (switchKeeps_governorSwitch _ _)
      · exact hpow
  · exact .refl s

theorem switchKeeps_setVdd (s : Chip) (mv : Nat) : SwitchKeeps s (s.setVdd mv) :=
  (switchKeeps_put (by decide) (by decide)).trans (switchKeeps_put (by decide) (by decide))

/-- The governor's switch lowers VDD_SET after it, where it is pending (R428). -/
def Chip.lowerLater (s : Chip) : Chip := { s with pow := { s.pow with lower := s.pow.pend.isSome } }

/-- A higher frequency is wanted. -/
def Chip.wantFreq (s : Chip) (f : Nat) : Chip := { s with pow := { s.pow with want := some f } }

theorem Chip.moveFreq_eq (s : Chip) (f t : Nat) : s.moveFreq f t =
    if t < f then (if s.pow.pend.isSome then s else (s.governorSwitch t).lowerLater)
    else if f < t then ((if s.vEnough (s.get pgGOV fVddSet) t then s else s.setVdd (s.vFor t)).wantFreq t).wanted
    else s := by
  rw [show Chip.moveFreq = delta% Chip.moveFreq from rfl]
  rfl

theorem switchKeeps_lowerLater (s : Chip) : SwitchKeeps s s.lowerLater := switchKeeps_pow rfl

theorem switchKeeps_wantFreq (s : Chip) (f : Nat) : SwitchKeeps s (s.wantFreq f) := switchKeeps_pow rfl

theorem switchKeeps_moveFreq (s : Chip) (f t : Nat) : SwitchKeeps s (s.moveFreq f t) := by
  rw [Chip.moveFreq_eq]
  split
  · split
    · exact .refl s
    · exact (switchKeeps_governorSwitch s t).trans (switchKeeps_lowerLater _)
  · split
    · refine SwitchKeeps.trans ?_ ((switchKeeps_wantFreq _ t).trans (switchKeeps_wanted _))
      split
      · exact .refl s
      · exact switchKeeps_setVdd s _
    · exact .refl s

end SwitchKeeps

/-! ## The switch beat and the voltage (R60, R421, R423) -/

section AtBeat

variable (s : Chip)

/-- The registers of a switch that is taken, and its interrupt. -/
def Chip.putSwitch (s : Chip) (f b : Nat) : Chip :=
  (((((({ s with pow := { s.pow with pend := none, lower := false } } : Chip).put pgCLK fCurFreq f).put64 pgCLK 0x114 b).put pgCLK fFswPend 0).put
    pgCLK fFswDone 1).raise pgCLK 0)

theorem Chip.putSwitch_spec {f : Nat} (b : Nat) (hf : f ≤ 16) : (s.putSwitch f b).get pgCLK fCurFreq = f ∧
    (s.putSwitch f b).lastSwitch = b % 2 ^ 64 ∧ (s.putSwitch f b).get pgCLK fFswPend = 0 ∧ (s.putSwitch f b).get pgCLK fFswDone = 1 ∧
    (s.putSwitch f b).bit pgCLK ⟨0x028, 0, 1⟩ = true ∧
    (s.putSwitch f b).pow = { s.pow with pend := none, lower := false } ∧ (s.putSwitch f b).mem = s.mem ∧ (s.putSwitch f b).cores = s.cores := by
  unfold Chip.putSwitch
  refine ⟨?_, ?_, ?_, ?_, Chip.bit_raise _ _ _ (by decide), by simp, by simp, by simp⟩
  · rw [Chip.get_raise_other _ _ (by decide), Chip.get_put_off _ _ (by decide), Chip.get_put_off _ _ (by decide),
      Chip.get_put64_other _ _ (by decide) (by decide), Chip.get_put_same _ _ _ _ (by decide)]
    exact Nat.mod_eq_of_lt (by simp only [fCurFreq]; omega)
  · rw [← Chip.get64_put64_cut _ pgCLK 0x114 b]
    exact Chip.get64_congr _ ((Chip.reg_raise_other _ _ _ _ (by decide)).trans ((Chip.reg_put_other _ _ _ _ _ (by decide)).trans
      (Chip.reg_put_other _ _ _ _ _ (by decide)))) ((Chip.reg_raise_other _ _ _ _ (by decide)).trans
      ((Chip.reg_put_other _ _ _ _ _ (by decide)).trans (Chip.reg_put_other _ _ _ _ _ (by decide))))
  · rw [Chip.get_raise_other _ _ (by decide), Chip.get_put_off _ _ (by decide), Chip.get_put_same _ _ _ _ (by decide)]
    rfl
  · rw [Chip.get_raise_other _ _ (by decide), Chip.get_put_same _ _ _ _ (by decide)]
    rfl

/-- The counts of a switch, and the voltage that it lowers. -/
def Chip.countSwitch (s t : Chip) (f : Nat) (em : Bool) : Chip :=
  let old := s.get pgCLK fCurFreq
  let t2 := if old < f then t.count pgGOV 0 1 else if f < old then t.count pgGOV 1 1 else t
  let t3 := if em then t2.count pgGOV 2 1 else t2
  if s.pow.lower then t3.setVdd (t3.vFor f) else t3

/-- A step that requests nothing: the pending switch stays as it is. -/
structure SwitchQuiet (s t : Chip) : Prop where
  keeps : SwitchKeeps s t
  pow : t.pow = s.pow
  pending : t.get pgCLK fFswPend = s.get pgCLK fFswPend

theorem SwitchQuiet.refl (s : Chip) : SwitchQuiet s s := ⟨.refl s, rfl, rfl⟩

theorem SwitchQuiet.trans {s t u : Chip} (h : SwitchQuiet s t) (h2 : SwitchQuiet t u) : SwitchQuiet s u :=
  ⟨h.keeps.trans h2.keeps, h2.pow.trans h.pow, h2.pending.trans h.pending⟩

theorem switchQuiet_count (s : Chip) (page sel n : Nat) : SwitchQuiet s (s.count page sel n) :=
  ⟨switchKeeps_count, by simp, Chip.get_count ..⟩

theorem switchQuiet_setVdd (s : Chip) (mv : Nat) : SwitchQuiet s (s.setVdd mv) :=
  ⟨switchKeeps_setVdd s mv, by simp [Chip.setVdd], (Chip.get_put_off _ _ (by decide)).trans (Chip.get_put_off _ _ (by decide))⟩

theorem switchQuiet_countSwitch (s t : Chip) (f : Nat) (em : Bool) : SwitchQuiet t (s.countSwitch t f em) := by
  have hcount : SwitchQuiet t (if s.get pgCLK fCurFreq < f then t.count pgGOV 0 1 else if f < s.get pgCLK fCurFreq then t.count pgGOV 1 1 else t) := by
    split
    · exact switchQuiet_count ..
    · split
      · exact switchQuiet_count ..
      · exact .refl t
  rw [Chip.countSwitch]
  generalize (if s.get pgCLK fCurFreq < f then t.count pgGOV 0 1 else if f < s.get pgCLK fCurFreq then t.count pgGOV 1 1 else t) = u at *
  have hem : SwitchQuiet t (if em then u.count pgGOV 2 1 else u) := by
    split
    · exact hcount.trans (switchQuiet_count ..)
    · exact hcount
  generalize (if em then u.count pgGOV 2 1 else u) = v at *
  split
  · exact hem.trans (switchQuiet_setVdd v _)
  · exact hem

theorem Chip.switchTaken_eq {f b : Nat} {em : Bool} (h : s.pow.pend = some (f, b, em)) (hb : b ≤ s.beat) :
    s.switchTaken = s.countSwitch (s.putSwitch (if s.get pgGOV fPstate = 1 then 0 else f) b) (if s.get pgGOV fPstate = 1 then 0 else f) em := by
  rw [Chip.switchTaken, h]
  dsimp only
  rw [if_neg (not_lt.2 hb)]
  rfl

/-- The edge of the switch beat (R60, R423; log 49, log 66). -/
theorem Chip.switchBeat_taken {f b : Nat} {em : Bool} (h : s.pow.pend = some (f, b, em)) (hf : f ≤ 16) (hb : b ≤ s.beat) :
    s.switchBeat.get pgCLK fCurFreq = (if s.get pgGOV fPstate = 1 then 0 else f) ∧ s.switchBeat.lastSwitch = b % 2 ^ 64 ∧
    s.switchBeat.get pgCLK fFswDone = 1 ∧ s.switchBeat.bit pgCLK ⟨0x028, 0, 1⟩ = true ∧
    (s.pow.want = none → s.switchBeat.get pgCLK fFswPend = 0 ∧ s.switchBeat.pow.pend = none) ∧
    s.switchBeat.mem = s.mem ∧ s.switchBeat.cores = s.cores := by
  have hg : (if s.get pgGOV fPstate = 1 then 0 else f) ≤ 16 := by split <;> omega
  obtain ⟨hcur, hlast, hpend, hdone, hirq, hpow, hmem, hcores⟩ := s.putSwitch_spec b hg
  have hquiet := switchQuiet_countSwitch s (s.putSwitch (if s.get pgGOV fPstate = 1 then 0 else f) b) (if s.get pgGOV fPstate = 1 then 0 else f) em
  have hbeat : s.switchBeat = s.switchTaken.wanted := by
    rw [Chip.switchBeat, s.switchTaken_eq h hb, hquiet.pow, hpow, h]
    rfl
  rw [hbeat, s.switchTaken_eq h hb]
  generalize s.countSwitch (s.putSwitch (if s.get pgGOV fPstate = 1 then 0 else f) b) (if s.get pgGOV fPstate = 1 then 0 else f) em = u at *
  generalize s.putSwitch (if s.get pgGOV fPstate = 1 then 0 else f) b = v at *
  have hkeeps : SwitchKeeps v u.wanted := hquiet.keeps.trans (switchKeeps_wanted u)
  refine ⟨(hkeeps.regs.get (by decide)).trans hcur, (hkeeps.regs.get64 (by decide) (by decide)).trans hlast, hkeeps.done.trans hdone,
    hkeeps.raised 0 hirq, fun hwant => ?_, (hkeeps.keeps Chip.mem fun _ _ _ _ => rfl).trans hmem,
    (hkeeps.keeps Chip.cores fun _ _ _ _ => rfl).trans hcores⟩
  have hnone : u.wanted = u := by
    rw [Chip.wanted, hquiet.pow, hpow]
    simp only [hwant]
  rw [hnone, hquiet.pow, hpow, hquiet.pending]
  exact ⟨hpend, rfl⟩

theorem Chip.switchBeat_early {f b : Nat} {em : Bool} (h : s.pow.pend = some (f, b, em)) (hb : s.beat < b) : s.switchBeat = s := by
  have htaken : s.switchTaken = s := by
    rw [Chip.switchTaken, h]
    exact if_pos hb
  rw [Chip.switchBeat, htaken, h]
  rfl

/-- Two voltages within 5 mV of each other. -/
theorem nearMv_iff (a b : Nat) : nearMv a b = true ↔ a ≤ b + 5 ∧ b ≤ a + 5 := by
  rw [nearMv, Bool.and_eq_true, decide_eq_true_eq, decide_eq_true_eq]

/-- A new setting: V_OK stays only where old and new lie near (R421). -/
theorem Chip.setVdd_spec {mv : Nat} (hmv : mv < 2 ^ 11) : (s.setVdd mv).get pgGOV fVddSet = mv ∧
    SameRegs s (s.setVdd mv) [pgGOV + 0x124] ∧ (s.setVdd mv).mem = s.mem ∧
    ((mv ≤ s.vLevel + 5 ∧ s.vLevel ≤ mv + 5) ∧ (mv ≤ s.get pgGOV fVddSet + 5 ∧ s.get pgGOV fVddSet ≤ mv + 5) →
      (s.setVdd mv).get pgGOV fVOk = s.get pgGOV fVOk) ∧
    (¬((mv ≤ s.vLevel + 5 ∧ s.vLevel ≤ mv + 5) ∧ (mv ≤ s.get pgGOV fVddSet + 5 ∧ s.get pgGOV fVddSet ≤ mv + 5)) →
      (s.setVdd mv).get pgGOV fVOk = 0) := by
  have hok : (s.setVdd mv).get pgGOV fVOk =
      if (nearMv mv s.vLevel && nearMv mv (s.get pgGOV fVddSet) && s.bit pgGOV fVOk) = true then 1 else 0 := by
    rw [Chip.setVdd, Chip.get_put_same _ _ _ _ (by decide)]
    split <;> rfl
  rw [hok]
  refine ⟨?_, ((SameRegs.refl s _).put (by simp [fVddSet])).put (by simp [fVOk]), by simp [Chip.setVdd], fun h => ?_, fun h => ?_⟩
  · rw [Chip.setVdd, Chip.get_put_off _ _ (by decide), Chip.get_put_same _ _ _ _ (by decide)]
    exact Nat.mod_eq_of_lt hmv
  · have hlt : s.get pgGOV fVOk < 2 := s.get_lt pgGOV fVOk
    rw [(nearMv_iff _ _).2 h.1, (nearMv_iff _ _).2 h.2, Bool.and_self, Bool.true_and, Chip.bit]
    simp only [ne_eq, decide_not, Bool.not_eq_true', decide_eq_false_iff_not]
    split <;> omega
  · refine if_neg fun hall => h ?_
    rw [Bool.and_eq_true, Bool.and_eq_true, nearMv_iff, nearMv_iff] at hall
    exact hall.1

end AtBeat

/-! ## The first part of O42 -/

section Clocks

variable {s : State} (hup : s.chip.fabricUp = true)
include hup

theorem runs_fswGo {P : Chip → Prop} {f b : Nat} (hf : s.chip.get pgCLK fFswFreq = f) (hb : s.chip.get64 pgCLK 0x104 = b)
    (hP : P (s.chip.requestSwitch f b)) : Runs .fswGo s P := by
  subst hf hb
  exact runs_fabric (f := fun u => u.requestSwitch (u.get pgCLK fFswFreq) (u.get64 pgCLK 0x104)) rfl hup hP

theorem fswGo_refused {f b k : Nat} (hf : s.chip.get pgCLK fFswFreq = f) (hb : s.chip.get64 pgCLK 0x104 = b) (hk : k < 8)
    (hcause : s.chip.switchCause f b = some k) : Runs .fswGo s fun t =>
      t.get pgCLK fFswReject = k ∧ t.bit pgCLK ⟨0x028, 1, 1⟩ = true ∧ t.pow = s.chip.pow ∧
      SameRegs s.chip t [pgCLK + 0x10C, pgCLK + 0x028] ∧ t.mem = s.chip.mem ∧ t.cores = s.chip.cores := by
  obtain ⟨hreject, hirq, hpow, hregs, hmem, hcores, -⟩ := s.chip.requestSwitch_refused f b hcause hk
  exact runs_fswGo hup hf hb ⟨hreject, hirq, hpow, hregs, hmem, hcores⟩

theorem fswGo_taken {f b : Nat} (hf : s.chip.get pgCLK fFswFreq = f) (hb : s.chip.get64 pgCLK 0x104 = b)
    (hcause : s.chip.switchCause f b = none) : Runs .fswGo s fun t =>
      t.pow.pend = some (f, b, false) ∧ t.get pgCLK fFswPend = 1 ∧ SameRegs s.chip t [pgCLK + 0x10C] ∧
      (¬ s.chip.get pgCLK fCurFreq < f → t.pow = { s.chip.pow with pend := some (f, b, false) }) ∧
      (s.chip.get pgCLK fCurFreq < f → t.chargeAt b = s.chip.chargeAt b + s.chip.switchCharge f) ∧ t.mem = s.chip.mem ∧
      t.cores = s.chip.cores := by
  obtain ⟨hpend, hbit, hregs, hpow, hcharge, hmem, hcores, -⟩ := s.chip.requestSwitch_taken f b hcause
  exact runs_fswGo hup hf hb ⟨hpend, hbit, hregs, hpow, hcharge, hmem, hcores⟩

theorem vddWrite_far {mv : Nat} (h : 860 < mv) : Runs (.vddSetWrite mv) s fun t => t = s.chip := by
  refine runs_fabric (f := fun u => u.vddWrite mv) rfl hup ?_
  rw [Chip.vddWrite]
  exact if_pos h

theorem vddWrite_set {mv : Nat} (hmv : mv < 2 ^ 11) (h : mv ≤ 860)
    (hv : s.chip.vNeed (max (s.chip.get pgCLK fCurFreq) ((s.chip.pow.pend.map (·.1)).getD 0)) ≤ 2 * (mv : Int)) :
    let near := fun (v : Nat) => mv ≤ v + 5 ∧ v ≤ mv + 5
    Runs (.vddSetWrite mv) s fun t =>
      t.get pgGOV fVddSet = mv ∧ SameRegs s.chip t [pgGOV + 0x124] ∧ t.mem = s.chip.mem ∧
      (near s.chip.vLevel ∧ near (s.chip.get pgGOV fVddSet) → t.get pgGOV fVOk = s.chip.get pgGOV fVOk) ∧
      (¬(near s.chip.vLevel ∧ near (s.chip.get pgGOV fVddSet)) → t.get pgGOV fVOk = 0) := by
  refine runs_fabric (f := fun u => u.vddWrite mv) rfl hup ?_
  rw [Chip.vddWrite]
  dsimp only
  rw [if_neg (not_lt.2 h), if_pos (show s.chip.vEnough mv _ = true from decide_eq_true hv)]
  exact s.chip.setVdd_spec hmv

theorem vddWrite_low {mv : Nat} (h : mv ≤ 860)
    (hv : 2 * (mv : Int) < s.chip.vNeed (max (s.chip.get pgCLK fCurFreq) ((s.chip.pow.pend.map (·.1)).getD 0))) :
    Runs (.vddSetWrite mv) s fun t =>
      t.get pgGOV fVddSet = s.chip.get pgGOV fVddSet ∧ t.get pgGOV fVsetReject = 1 ∧ SameRegs s.chip t [pgGOV + 0x124] := by
  refine runs_fabric (f := fun u => u.vddWrite mv) rfl hup ?_
  rw [Chip.vddWrite]
  rw [if_neg (not_lt.2 h), if_neg (by rw [Chip.vEnough, decide_eq_true_eq]; exact not_le.2 hv)]
  exact ⟨Chip.get_put_off _ _ (by decide), Chip.get_put_same _ _ _ _ (by decide), (SameRegs.refl _ _).put (by simp [fVsetReject])⟩

theorem vddSettled_ok (h : s.chip.pow.want = none) : Runs .vddSettled s fun t =>
    t.get pgGOV fVOk = 1 ∧ t.vLevel = s.chip.get pgGOV fVddSet ∧ SameRegs s.chip t [pgGOV + 0x124] ∧ t.mem = s.chip.mem := by
  refine runs_fabric rfl hup ?_
  have hsettled : s.chip.vddSettled =
      ({ s.chip with pow := { s.chip.pow with level := some (s.chip.get pgGOV fVddSet) } } : Chip).put pgGOV fVOk 1 := by
    rw [Chip.vddSettled, Chip.wanted]
    simp [h]
  rw [hsettled]
  refine ⟨Chip.get_put_same _ _ _ _ (by decide), ?_, SameRegs.put ((SameRegs.refl _ _).of_regs rfl) (by simp [fVOk]), by simp⟩
  simp [Chip.vLevel]

end Clocks

end Sys2Proof.Machine
end

section
/-! The governor's tick, gusts and lane adaptation (R422, R428, R431). -/

namespace Sys2Proof.Machine

/-! ## The readings (R428, R435) -/

section Readings

variable (s : Chip) (r : PowerReadings)

/-- The energies are added to their 64-bit registers. -/
def Chip.addEnergy (s : Chip) (r : PowerReadings) (k : Nat) : Chip :=
  s.put64 pgGOV (0x200 + 8 * k) (s.get64 pgGOV (0x200 + 8 * k) + (r.energy[k]?).getD 0)

/-- The readings of the input. -/
def Chip.putReadings (s : Chip) (r : PowerReadings) : Chip :=
  (((s.put pgGOV fVinMv r.vinMv).put pgGOV fIinMa (r.iinMa.headD 0)).put pgGOV fPinW (r.pinW.headD 0)).put pgGOV fPinTau r.pinTau1

theorem Chip.takeReadings_eq : s.takeReadings r = ((s.putReadings r).put pgGOV fVinMin (min (s.get pgGOV fVinMin)
    ((s.putReadings r).get pgGOV fVinMv))).forEach (List.range 10) (fun t k => t.addEnergy r k) := rfl

theorem Chip.putReadings_spec : RegsOnly s (s.putReadings r) ∧ (s.putReadings r).get pgGOV fVinMv = r.vinMv % 2 ^ 16 ∧
    (s.putReadings r).get pgGOV fIinMa = r.iinMa.headD 0 % 2 ^ 16 ∧ (s.putReadings r).get pgGOV fPinW = r.pinW.headD 0 % 2 ^ 11 ∧
    (s.putReadings r).get pgGOV fPinTau = r.pinTau1 % 2 ^ 11 ∧
    SameRegs s (s.putReadings r) [pgGOV + 0x130, pgGOV + 0x134, pgGOV + 0x138] := by
  unfold Chip.putReadings
  refine ⟨(RegsOnly.refl s).put.put.put.put, ?_, ?_, ?_, Chip.get_put_same _ _ _ _ (by decide),
    ((((SameRegs.refl s _).put ?_).put ?_).put ?_).put ?_⟩
  · rw [Chip.get_put_off _ _ (by decide), Chip.get_put_off _ _ (by decide), Chip.get_put_off _ _ (by decide), Chip.get_put_same _ _ _ _ (by decide)]
    rfl
  · rw [Chip.get_put_off _ _ (by decide), Chip.get_put_off _ _ (by decide), Chip.get_put_same _ _ _ _ (by decide)]
    rfl
  · rw [Chip.get_put_off _ _ (by decide), Chip.get_put_same _ _ _ _ (by decide)]
    rfl
  all_goals decide

/-- Each energy of a list is added once. -/
theorem Chip.addEnergies_spec (l : List Nat) : l.Nodup →
    RegsOnly s (s.forEach l fun t k => t.addEnergy r k) ∧
    (∀ j, (∀ k ∈ l, j ≠ pgGOV + (0x200 + 8 * k) ∧ j ≠ pgGOV + (0x200 + 8 * k) + 4) →
      (s.forEach l fun t k => t.addEnergy r k).reg j = s.reg j) ∧
    (∀ k ∈ l, (s.forEach l fun t k => t.addEnergy r k).get64 pgGOV (0x200 + 8 * k) =
      (s.get64 pgGOV (0x200 + 8 * k) + (r.energy[k]?).getD 0) % 2 ^ 64) := by
  induction l generalizing s with
  | nil => exact fun _ => ⟨.refl s, fun _ _ => rfl, fun k hk => absurd hk (List.not_mem_nil)⟩
  | cons a l ih =>
    intro hnodup
    obtain ⟨ha, hl⟩ := List.nodup_cons.1 hnodup
    obtain ⟨hrest, hregs, henergy⟩ := ih (s.addEnergy r a) hl
    have hother : ∀ j, j ≠ pgGOV + (0x200 + 8 * a) → j ≠ pgGOV + (0x200 + 8 * a) + 4 → (s.addEnergy r a).reg j = s.reg j := fun j h1 h2 =>
      Chip.reg_put64_other _ _ _ _ _ h1 h2
    refine ⟨((RegsOnly.refl s).put64).trans hrest, fun j hj => ?_, fun k hk => ?_⟩
    · obtain ⟨h1, h2⟩ := hj a (List.mem_cons_self ..)
      exact (hregs j fun k hk => hj k (List.mem_cons_of_mem a hk)).trans (hother j h1 h2)
    · rcases List.mem_cons.1 hk with rfl | hk
      · refine (Chip.get64_congr _ (hregs _ fun k' hk' => ?_) (hregs _ fun k' hk' => ?_)).trans (s.get64_put64_cut _ _ _)
        all_goals
          have hne : k' ≠ k := ne_of_mem_of_not_mem hk' ha
          omega
      · have hne : k ≠ a := ne_of_mem_of_not_mem hk ha
        refine (henergy k hk).trans ?_
        rw [Chip.get64_congr s (hother _ (by omega) (by omega)) (hother _ (by omega) (by omega))]

/-- What the readings leave in the registers, and which registers they leave. -/
theorem Chip.takeReadings_spec : RegsOnly s (s.takeReadings r) ∧
    (s.takeReadings r).get pgGOV fVinMv = r.vinMv % 2 ^ 16 ∧ (s.takeReadings r).get pgGOV fIinMa = r.iinMa.headD 0 % 2 ^ 16 ∧
    (s.takeReadings r).get pgGOV fPinW = r.pinW.headD 0 % 2 ^ 11 ∧ (s.takeReadings r).get pgGOV fPinTau = r.pinTau1 % 2 ^ 11 ∧
    (s.takeReadings r).get pgGOV fVinMin = min (s.get pgGOV fVinMin) (r.vinMv % 2 ^ 16) ∧
    (∀ k, k < 10 → (s.takeReadings r).get64 pgGOV (0x200 + 8 * k) =
      (s.get64 pgGOV (0x200 + 8 * k) + (r.energy[k]?).getD 0) % 2 ^ 64) ∧
    (∀ j, (j < pgGOV + 0x130 ∨ pgGOV + 0x140 ≤ j) → (j < pgGOV + 0x200 ∨ pgGOV + 0x250 ≤ j) → (s.takeReadings r).reg j = s.reg j) := by
  obtain ⟨hrest, hvin, hiin, hpin, htau, hregs⟩ := s.putReadings_spec r
  rw [Chip.takeReadings_eq, hvin]
  generalize s.putReadings r = u at *
  have hmin : (u.put pgGOV fVinMin (min (s.get pgGOV fVinMin) (r.vinMv % 2 ^ 16))).get pgGOV fVinMin =
      min (s.get pgGOV fVinMin) (r.vinMv % 2 ^ 16) := by
    rw [Chip.get_put_same _ _ _ _ (by decide)]
    exact Nat.mod_eq_of_lt (lt_of_le_of_lt (Nat.min_le_left ..) (s.get_lt pgGOV fVinMin))
  have hkept : ∀ f : Fld, f.off ≠ 0x13C →
      (u.put pgGOV fVinMin (min (s.get pgGOV fVinMin) (r.vinMv % 2 ^ 16))).get pgGOV f = u.get pgGOV f := fun f hf =>
    Chip.get_put_off _ _ (.inl (by simp only [fVinMin]; omega))
  have hrest' : RegsOnly s (u.put pgGOV fVinMin (min (s.get pgGOV fVinMin) (r.vinMv % 2 ^ 16))) := hrest.put
  have hregs' : SameRegs s (u.put pgGOV fVinMin (min (s.get pgGOV fVinMin) (r.vinMv % 2 ^ 16)))
      [pgGOV + 0x130, pgGOV + 0x134, pgGOV + 0x138, pgGOV + 0x13C] := SameRegs.put (hregs.weaken (by decide)) (by decide)
  generalize u.put pgGOV fVinMin (min (s.get pgGOV fVinMin) (r.vinMv % 2 ^ 16)) = v at *
  obtain ⟨henergy, hother, hadded⟩ := v.addEnergies_spec r (List.range 10) List.nodup_range
  have hlow : ∀ f : Fld, f.off < 0x200 → (v.forEach (List.range 10) fun t k => t.addEnergy r k).get pgGOV f = v.get pgGOV f := fun f hf =>
    v.get_congr (hother _ fun k _ => by omega)
  refine ⟨hrest'.trans henergy, ?_, ?_, ?_, ?_, (hlow _ (by decide)).trans hmin, fun k hk => ?_, fun j h1 h2 => ?_⟩
  · rw [hlow _ (by decide), hkept _ (by decide), hvin]
  · rw [hlow _ (by decide), hkept _ (by decide), hiin]
  · rw [hlow _ (by decide), hkept _ (by decide), hpin]
  · rw [hlow _ (by decide), hkept _ (by decide), htau]
  · rw [hadded k (List.mem_range.2 hk), hregs'.get64]
    all_goals simp only [pgGOV, List.mem_cons, List.not_mem_nil, or_false]; omega
  · refine (hother j fun k hk => ?_).trans (hregs' j ?_)
    · have := List.mem_range.1 hk
      omega
    · simp only [pgGOV, List.mem_cons, List.not_mem_nil, or_false] at *
      omega

end Readings

/-! ## The governor's own steps (R428, R429) -/

/-- A step of the governor that asks for no frequency: it writes its status, its interrupts and VRT, and changes of the rest counts, the
ports' adaptation and the clocks' data but what is pending. -/
structure GovStep (s t : Chip) : Prop where
  rest : t = { s with regs := t.regs, counts := t.counts, ports := t.ports, pow := t.pow }
  regs : SameRegs s t [pgGOV + 0x028, pgGOV + 0x128, pgGOV + 0x140]
  throttling : t.get pgGOV fThrottling = s.get pgGOV fThrottling
  pend : t.pow.pend = s.pow.pend
  tick : t.pow.lastTick = s.pow.lastTick

section GovStep

variable {s t u : Chip}

theorem GovStep.refl (s : Chip) : GovStep s s := ⟨rfl, .refl s _, rfl, rfl, rfl⟩

theorem GovStep.trans (h : GovStep s t) (h2 : GovStep t u) : GovStep s u := by
  refine ⟨?_, h.regs.trans h2.regs, h2.throttling.trans h.throttling, h2.pend.trans h.pend, h2.tick.trans h.tick⟩
  have ht := h.rest
  have hu := h2.rest
  rw [ht] at hu
  exact hu

theorem GovStep.keeps {β : Type} (h : GovStep s t) (g : Chip → β)
    (hg : ∀ (u : Chip) r n p w, g { u with regs := r, counts := n, ports := p, pow := w } = g u) : g t = g s :=
  (congrArg g h.rest).trans (hg s ..)

theorem GovStep.ite {p : Prop} {_ : Decidable p} (h : GovStep s t) (h2 : GovStep s u) : GovStep s (if p then t else u) := by
  split
  · exact h
  · exact h2

theorem govStep_count {page sel n : Nat} : GovStep s (s.count page sel n) :=
  ⟨rfl, (SameRegs.refl s _).count, Chip.get_count .., by simp, by simp⟩

theorem govStep_raise {b : Nat} : GovStep s (s.raise pgGOV b) :=
  ⟨rfl, (SameRegs.refl s _).raise (by simp), Chip.get_raise_other _ _ (by decide), by simp, by simp⟩

theorem govStep_updPort {p : Nat} {g : Port → Port} : GovStep s (s.updPort p g) :=
  ⟨rfl, (SameRegs.refl s _).of_regs (by simp), Chip.get_updPort .., by simp, by simp⟩

/-- A write of another field of the status, or of VRT. -/
theorem govStep_put {f : Fld} {v : Nat} (h : f.off = 0x128 ∨ (f.off = 0x140 ∧ 1 ≤ f.lo)) : GovStep s (s.put pgGOV f v) := by
  refine ⟨rfl, (SameRegs.refl s _).put ?_, Chip.get_put_off _ _ ?_, by simp, by simp⟩
  · rcases h with h | h <;> simp [h]
  · simp only [fThrottling, pgGOV]
    omega

theorem govStep_raiseVrt (s : Chip) : GovStep s s.raiseVrt := by
  have hpow : GovStep s { s with pow := { s.pow with gustSat := false } } := ⟨rfl, (SameRegs.refl s _).of_regs rfl, Chip.get_of_regs rfl, rfl, rfl⟩
  rw [Chip.raiseVrt]
  exact ((hpow.trans (govStep_put (.inl rfl))).trans govStep_count).ite hpow

theorem govStep_adaptStart (s : Chip) : GovStep s s.adaptStart := by
  refine foldl_trans GovStep .refl .trans _ _ (fun t r => ?_) s
  dsimp only
  split
  · exact .refl t
  · split
    · exact govStep_updPort.trans govStep_count
    · exact .refl t

end GovStep

/-! ## The tick (R428) -/

section Tick

variable (s : Chip) (r : PowerReadings)

/-- What is counted and raised where a sensor is hot or a limit exceeded, and the adaptations that begin; `old` is THROTTLING before the
tick. -/
def Chip.govAlarm (s : Chip) (old hot ov : Bool) : Chip :=
  let s3 := if hot then (if old then s else s.raise pgGOV 2).count pgGOV 4 1 else s
  (if ov then s3.count pgGOV 5 1 else s3).adaptStart

theorem govStep_govAlarm (old hot ov : Bool) : GovStep s (s.govAlarm old hot ov) := by
  have hheat : GovStep s (if hot then (if old then s else s.raise pgGOV 2).count pgGOV 4 1 else s) :=
    (((GovStep.refl s).ite govStep_raise).trans govStep_count).ite (.refl s)
  rw [Chip.govAlarm]
  exact ((hheat.trans govStep_count).ite hheat).trans (govStep_adaptStart _)

/-- PL_FLOOR and CAP_ON (R429, R435). -/
def Chip.govFloor (s : Chip) (limited : Bool) (f : Nat) : Chip :=
  let low := limited && decide (f ≤ s.highFloor)
  let s5 := s.put pgGOV fPlFloor (if low then 1 else 0)
  let s6 := if low && !(s.bit pgGOV fPlFloor) then s5.raise pgGOV 1 else s5
  s6.put pgGOV fCapOn (if s.bit pgGOV fCapEn && limited && decide (f = s.highFloor) then 1 else 0)

theorem govStep_govFloor (limited : Bool) (f : Nat) : GovStep s (s.govFloor limited f) := by
  have hfloor : ∀ v, GovStep s (s.put pgGOV fPlFloor v) := fun v => govStep_put (by decide)
  rw [Chip.govFloor]
  exact (((hfloor _).trans govStep_raise).ite (hfloor _)).trans (govStep_put (by decide))

/-- The readings of a tick, as it takes them. -/
def Chip.govRead (s : Chip) (r : PowerReadings) : Chip :=
  (({ s with pow := { s.pow with lastTick := s.edges, want := none } } : Chip).takeReadings r).raiseVrt

/-- The tick up to its request. -/
def Chip.govWatch (s : Chip) (r : PowerReadings) : Chip :=
  let s1 := s.govRead r
  (s1.put pgGOV fThrottling (if s1.hot then 1 else 0)).govAlarm (s1.bit pgGOV fThrottling) s1.hot (s1.overLimit r)

theorem Chip.governorTick_eq (h : s.pow.lastTick + s.get pgGOV fGovPeriod ≤ s.edges) : s.governorTick r =
    let s1 := s.govRead r
    let s4 := s.govWatch r
    if s4.bit pgTHM fEmerg || s4.get pgGOV fPstate = 1 then s4
    else
      let f := (s4.pow.pend.map fun p => p.1).getD (s4.get pgCLK fCurFreq)
      let s7 := s4.govFloor (s1.overLimit r || s1.hot) f
      s7.moveFreq f (s7.targetFreq r f) := by
  rw [show Chip.governorTick = delta% Chip.governorTick from rfl]
  beta_reduce
  rw [if_neg (not_lt.2 h)]
  rfl

/-- The registers that a tick writes after its readings. -/
def govRegs : List Nat :=
  [pgGOV + 0x028, pgGOV + 0x128, pgGOV + 0x140, pgCLK + 0x028, pgCLK + 0x100, pgCLK + 0x104, pgCLK + 0x108, pgCLK + 0x10C, pgGOV + 0x124]

/-- What a tick's request leaves of what its readings gave. -/
theorem Chip.governorTick_keeps (h : s.pow.lastTick + s.get pgGOV fGovPeriod ≤ s.edges) :
    SameRegs (s.govWatch r) (s.governorTick r) govRegs ∧
    (s.governorTick r).get pgGOV fThrottling = (s.govWatch r).get pgGOV fThrottling ∧
    (s.governorTick r).pow.lastTick = (s.govWatch r).pow.lastTick ∧ (s.governorTick r).mem = (s.govWatch r).mem ∧
    (s.governorTick r).cores = (s.govWatch r).cores := by
  rw [Chip.governorTick_eq s r h]
  generalize s.govWatch r = u
  dsimp only
  split
  · exact ⟨.refl u _, rfl, rfl, rfl, rfl⟩
  · have hfloor := govStep_govFloor u ((s.govRead r).overLimit r || (s.govRead r).hot)
      ((u.pow.pend.map fun p => p.1).getD (u.get pgCLK fCurFreq))
    generalize u.govFloor ((s.govRead r).overLimit r || (s.govRead r).hot) ((u.pow.pend.map fun p => p.1).getD (u.get pgCLK fCurFreq)) = v at *
    have hmove := switchKeeps_moveFreq v ((u.pow.pend.map fun p => p.1).getD (u.get pgCLK fCurFreq))
      (v.targetFreq r ((u.pow.pend.map fun p => p.1).getD (u.get pgCLK fCurFreq)))
    exact ⟨(hfloor.regs.weaken (by decide)).trans (hmove.regs.weaken (by decide)), (hmove.regs.get (by decide)).trans hfloor.throttling,
      hmove.tick.trans hfloor.tick, (hmove.keeps Chip.mem fun _ _ _ _ => rfl).trans (hfloor.keeps Chip.mem fun _ _ _ _ _ => rfl),
      (hmove.keeps Chip.cores fun _ _ _ _ => rfl).trans (hfloor.keeps Chip.cores fun _ _ _ _ _ => rfl)⟩

/-- What a tick has read and watched (R428, R435). -/
theorem Chip.govWatch_spec :
    ((s.govWatch r).get pgGOV fVinMv = r.vinMv % 2 ^ 16 ∧ (s.govWatch r).get pgGOV fIinMa = r.iinMa.headD 0 % 2 ^ 16 ∧
      (s.govWatch r).get pgGOV fPinW = r.pinW.headD 0 % 2 ^ 11 ∧ (s.govWatch r).get pgGOV fPinTau = r.pinTau1 % 2 ^ 11 ∧
      (s.govWatch r).get pgGOV fVinMin = min (s.get pgGOV fVinMin) (r.vinMv % 2 ^ 16) ∧
      (s.govWatch r).get pgGOV fThrottling = (if s.hot then 1 else 0) ∧
      (∀ k, k < 10 → (s.govWatch r).get64 pgGOV (0x200 + 8 * k) =
        (s.get64 pgGOV (0x200 + 8 * k) + (r.energy[k]?).getD 0) % 2 ^ 64)) ∧
    (s.govWatch r).pow.lastTick = s.edges ∧ (s.govWatch r).pow.pend = s.pow.pend ∧ (s.govWatch r).mem = s.mem ∧
    (s.govWatch r).cores = s.cores ∧
    (∀ j, j ∉ [pgGOV + 0x028, pgGOV + 0x128, pgGOV + 0x140] → (j < pgGOV + 0x130 ∨ pgGOV + 0x140 ≤ j) →
      (j < pgGOV + 0x200 ∨ pgGOV + 0x250 ≤ j) → (s.govWatch r).reg j = s.reg j) := by
  rw [Chip.govWatch, Chip.govRead]
  generalize hs0 : ({ s with pow := { s.pow with lastTick := s.edges, want := none } } : Chip) = s0
  have hregs0 : s0.regs = s.regs := by rw [← hs0]
  have htick0 : s0.pow.lastTick = s.edges := by rw [← hs0]
  have hpend0 : s0.pow.pend = s.pow.pend := by rw [← hs0]
  have hmem0 : s0.mem = s.mem := by rw [← hs0]
  have hcores0 : s0.cores = s.cores := by rw [← hs0]
  clear hs0
  obtain ⟨hread, hvin, hiin, hpin, htau, hmin, henergy, hother⟩ := s0.takeReadings_spec r
  generalize s0.takeReadings r = u at *
  have hvrt := govStep_raiseVrt u
  generalize u.raiseVrt = v at *
  have hreg : ∀ j, j ∉ [pgGOV + 0x028, pgGOV + 0x128, pgGOV + 0x140] → (j < pgGOV + 0x130 ∨ pgGOV + 0x140 ≤ j) →
      (j < pgGOV + 0x200 ∨ pgGOV + 0x250 ≤ j) → v.reg j = s.reg j := fun j h h1 h2 =>
    (hvrt.regs j h).trans ((hother j h1 h2).trans (Chip.reg_of_regs hregs0))
  have hhot : v.hot = s.hot := by
    rw [Chip.hot, s.get_congr (hreg _ (by decide) (by decide) (by decide)), s.get_congr (hreg _ (by decide) (by decide) (by decide)), Chip.hot]
  rw [hhot]
  generalize hn : (if s.hot then 1 else 0) = n
  have hput : SameRegs v (v.put pgGOV fThrottling n) [pgGOV + 0x028, pgGOV + 0x128, pgGOV + 0x140] := (SameRegs.refl v _).put (by decide)
  have hthrottling : (v.put pgGOV fThrottling n).get pgGOV fThrottling = n := by
    rw [Chip.get_put_same _ _ _ _ (by decide), ← hn]
    split <;> rfl
  have hrest : RegsOnly v (v.put pgGOV fThrottling n) := (RegsOnly.refl v).put
  have halarm := govStep_govAlarm (v.put pgGOV fThrottling n) (v.bit pgGOV fThrottling) s.hot (v.overLimit r)
  generalize (v.put pgGOV fThrottling n).govAlarm (v.bit pgGOV fThrottling) s.hot (v.overLimit r) = x at *
  generalize v.put pgGOV fThrottling n = w at *
  have hx : SameRegs u x [pgGOV + 0x028, pgGOV + 0x128, pgGOV + 0x140] := hvrt.regs.trans (hput.trans halarm.regs)
  have hpow : w.pow = v.pow := hrest.keeps Chip.pow fun _ _ => rfl
  have hupow : u.pow = s0.pow := hread.keeps Chip.pow fun _ _ => rfl
  refine ⟨⟨(hx.get (by decide)).trans hvin, (hx.get (by decide)).trans hiin, (hx.get (by decide)).trans hpin,
    (hx.get (by decide)).trans htau, ?_, halarm.throttling.trans hthrottling, fun k hk => ?_⟩, ?_, ?_, ?_, ?_, fun j h h1 h2 => ?_⟩
  · rw [hx.get (by decide), hmin, Chip.get_of_regs hregs0]
  · have hfar : ∀ o, o < 0x50 → pgGOV + (0x200 + o) ∉ [pgGOV + 0x028, pgGOV + 0x128, pgGOV + 0x140] := fun o _ => by
      simp only [List.mem_cons, List.not_mem_nil, or_false]
      omega
    rw [hx.get64 (hfar _ (by omega)) (hfar (8 * k + 4) (by omega)), henergy k hk, Chip.get64_of_regs hregs0]
  · rw [halarm.tick, hpow, hvrt.tick, hupow, htick0]
  · rw [halarm.pend, hpow, hvrt.pend, hupow, hpend0]
  · rw [halarm.keeps Chip.mem fun _ _ _ _ _ => rfl, hrest.keeps Chip.mem fun _ _ => rfl, hvrt.keeps Chip.mem fun _ _ _ _ _ => rfl,
      hread.keeps Chip.mem fun _ _ => rfl, hmem0]
  · rw [halarm.keeps Chip.cores fun _ _ _ _ _ => rfl, hrest.keeps Chip.cores fun _ _ => rfl, hvrt.keeps Chip.cores fun _ _ _ _ _ => rfl,
      hread.keeps Chip.cores fun _ _ => rfl, hcores0]
  · exact (halarm.regs j h).trans ((hput j h).trans (hreg j h h1 h2))

end Tick

/-! ## A tick at which only heat asks for less (R428; log 49) -/

section Heat

variable {s v : Chip} {r : PowerReadings}

/-- Registers that hold no reading and no status of the governor. -/
def GovUnread (j : Nat) : Prop :=
  j ∉ [pgGOV + 0x028, pgGOV + 0x128, pgGOV + 0x140] ∧ (j < pgGOV + 0x130 ∨ pgGOV + 0x140 ≤ j) ∧ (j < pgGOV + 0x200 ∨ pgGOV + 0x250 ≤ j)

theorem govUnread_of {j : Nat} (h : j ∉ [pgGOV + 0x028, pgGOV + 0x128, pgGOV + 0x140])
    (h1 : j < pgGOV + 0x130 ∨ pgGOV + 0x140 ≤ j) (h2 : j < pgGOV + 0x200 ∨ pgGOV + 0x250 ≤ j) : GovUnread j := ⟨h, h1, h2⟩

section Same

variable (hsame : ∀ j, GovUnread j → v.reg j = s.reg j)
include hsame

theorem Chip.highFloor_same : v.highFloor = s.highFloor := by
  have hfield : ∀ c < 16, ∀ f : Fld, f.off = 0x300 + 4 * c → v.get pgGOV f = s.get pgGOV f := fun c hc f hf =>
    s.get_congr (hsame _ (govUnread_of (by simp only [hf, pgGOV, List.mem_cons, List.not_mem_nil, or_false]; omega) (.inr (by omega)) (.inr (by omega))))
  rw [Chip.highFloor, Chip.highFloor]
  refine congrArg (List.foldl max 0) (List.map_congr_left fun c hc => ?_)
  rw [Chip.bit, hfield c (List.mem_range.1 hc) _ rfl, hfield c (List.mem_range.1 hc) _ rfl, Chip.bit]

/-- Below the readings the governor's target is the one that the registers before the tick give. -/
theorem Chip.targetFreq_heat (hhot : s.hot = true) (hover : s.overLimit r = false) (f : Nat) :
    v.targetFreq r f = max (min (f - s.get pgGOV fThrStep) (s.get pgGOV fFMax)) s.highFloor := by
  have hget : ∀ page (f : Fld), GovUnread (page + f.off) → v.get page f = s.get page f := fun page f h => s.get_congr (hsame _ h)
  have hgov : ∀ f : Fld, f.off ∈ [0x108, 0x110, 0x114, 0x118] → v.get pgGOV f = s.get pgGOV f := fun f h => by
    refine hget _ _ (govUnread_of ?_ ?_ ?_)
    all_goals
      simp only [pgGOV, List.mem_cons, List.not_mem_nil, or_false] at *
      omega
  have hhot' : v.hot = true := by
    rw [Chip.hot, hget _ _ (govUnread_of (by decide) (by decide) (by decide)), hget _ _ (govUnread_of (by decide) (by decide) (by decide))]
    exact hhot
  have hover' : v.overLimit r = false := by
    rw [Chip.overLimit, hgov _ (by decide), hgov _ (by decide), hgov _ (by decide), hgov _ (by decide)]
    exact hover
  rw [Chip.targetFreq, hhot', hover']
  simp only [Bool.or_true, if_true, Bool.false_eq_true, if_false, Nat.zero_max]
  rw [hgov _ (by decide), hgov _ (by decide), Chip.highFloor_same hsame]

end Same

/-- A lower frequency is requested at the earliest beat that R423 allows. -/
theorem Chip.governorSwitch_lower {low f : Nat} (hcur : v.get pgCLK fCurFreq = f) (hlow : low < f) (hf : f ≤ 16) (hpend : v.pow.pend = none) :
    let b := max (v.beat + 4) (v.lastSwitch + 8)
    (v.governorSwitch low).pow.pend = some (low, b, false) ∧ (v.governorSwitch low).get pgCLK fFswPend = 1 ∧
    (v.governorSwitch low).get pgCLK fFswFreq = low ∧ (v.governorSwitch low).get64 pgCLK 0x104 = b % 2 ^ 64 := by
  have hsw : v.governorSwitch low =
      ((v.put pgCLK fFswFreq low).put64 pgCLK 0x104 v.earliestSwitch).requestSwitch low v.earliestSwitch := by
    rw [Chip.governorSwitch]
  have hb4 : v.beat + 4 ≤ v.earliestSwitch := Nat.le_max_left ..
  have hb8 : v.lastSwitch + 8 ≤ v.earliestSwitch := Nat.le_max_right ..
  rw [← Chip.earliestSwitch]
  dsimp only
  generalize v.earliestSwitch = b at *
  have hfreq : ((v.put pgCLK fFswFreq low).put64 pgCLK 0x104 b).get pgCLK fFswFreq = low := by
    rw [Chip.get_put64_other _ _ (by decide) (by decide), Chip.get_put_same _ _ _ _ (by decide)]
    exact Nat.mod_eq_of_lt (by simp only [fFswFreq]; omega)
  have hbeat64 := (v.put pgCLK fFswFreq low).get64_put64_cut pgCLK 0x104 b
  have hregs : SameRegs v ((v.put pgCLK fFswFreq low).put64 pgCLK 0x104 b) [pgCLK + 0x100, pgCLK + 0x104, pgCLK + 0x108] :=
    ((SameRegs.refl v _).put (by decide)).put64 (by decide) (by decide)
  have hrest : RegsOnly v ((v.put pgCLK fFswFreq low).put64 pgCLK 0x104 b) := (RegsOnly.refl v).put.put64
  rw [hsw]
  generalize (v.put pgCLK fFswFreq low).put64 pgCLK 0x104 b = w at *
  have hcur' : w.get pgCLK fCurFreq = f := (hregs.get (by decide)).trans hcur
  have hfall : ¬ w.get pgCLK fCurFreq < low := by omega
  have hpend' : w.pow.pend = none := (congrArg Power.pend (hrest.keeps Chip.pow fun _ _ => rfl)).trans hpend
  have hcause : w.switchCause low b = none := by
    rw [Chip.switchCause_of_time w low b
      (by rw [Chip.beat_of_sameRegs hregs (by decide) (by decide)]; exact hb4)
      (by rw [show w.lastSwitch = v.lastSwitch from hregs.get64 (by decide) (by decide)]; exact hb8)]
    rw [if_neg (fun h => hfall h.1), if_neg (fun h => hfall h.1), if_neg (not_not.2 hpend'), if_neg (by omega)]
  obtain ⟨hp, hbit, hsame, -⟩ := w.requestSwitch_taken low b hcause
  exact ⟨hp, hbit, (hsame.get (by decide)).trans hfreq, (hsame.get64 (by decide) (by decide)).trans hbeat64⟩

/-- Noting that a lower frequency is under way leaves the registers and the pending switch. -/
theorem Chip.lowerLater_shows (w : Chip) : w.lowerLater.pow.pend = w.pow.pend ∧ w.lowerLater.regs = w.regs := by
  rw [Chip.lowerLater]
  exact ⟨rfl, rfl⟩

/-- R422: when only heat asks for it, the tick requests the lower frequency at the earliest beat. -/
theorem Chip.governorTick_heat {f low b : Nat} (htick : s.pow.lastTick + s.get pgGOV fGovPeriod ≤ s.edges) (hhot : s.hot = true)
    (hover : s.overLimit r = false) (hemerg : s.bit pgTHM fEmerg = false) (hpend : s.pow.pend = none) (hcur : s.get pgCLK fCurFreq = f)
    (hf : f ≤ 16) (hps : s.get pgGOV fPstate ≠ 1)
    (hlow : max (min (f - s.get pgGOV fThrStep) (s.get pgGOV fFMax)) s.highFloor = low) (hb : max (s.beat + 4) (s.lastSwitch + 8) = b)
    (hless : low < f) :
    (s.governorTick r).pow.pend = some (low, b, false) ∧ (s.governorTick r).get pgCLK fFswPend = 1 ∧
    (s.governorTick r).get pgCLK fFswFreq = low ∧ (s.governorTick r).get64 pgCLK 0x104 = b % 2 ^ 64 := by
  obtain ⟨-, -, hpend', -, -, hsame⟩ := s.govWatch_spec r
  rw [Chip.governorTick_eq s r htick]
  dsimp only
  generalize s.govWatch r = u at *
  have hsameu : ∀ j, GovUnread j → u.reg j = s.reg j := fun j ⟨h, h1, h2⟩ => hsame j h h1 h2
  have hget : ∀ page (f : Fld), GovUnread (page + f.off) → u.get page f = s.get page f := fun page f h => s.get_congr (hsameu _ h)
  have hthm : ∀ page (f : Fld), page + f.off ∈ [pgTHM + 0x108, pgGOV + 0x104, pgCLK + 0x110] → u.get page f = s.get page f := fun page f h => by
    refine hget _ _ (govUnread_of ?_ ?_ ?_)
    all_goals
      simp only [pgGOV, pgTHM, pgCLK, List.mem_cons, List.not_mem_nil, or_false] at *
      omega
  have hgo : (u.bit pgTHM fEmerg || decide (u.get pgGOV fPstate = 1)) = false := by
    rw [Chip.bit, hthm _ _ (by decide), hthm _ _ (by decide), ← Chip.bit, hemerg, decide_eq_false hps, Bool.or_self]
  have hfreq : (u.pow.pend.map fun p => p.1).getD (u.get pgCLK fCurFreq) = f := by
    rw [hpend', hpend, hthm _ _ (by decide), hcur]
    rfl
  rw [if_neg (by rw [hgo]; decide), hfreq]
  have hfloor := govStep_govFloor u ((s.govRead r).overLimit r || (s.govRead r).hot) f
  generalize u.govFloor ((s.govRead r).overLimit r || (s.govRead r).hot) f = v at *
  have hsamev : ∀ j, GovUnread j → v.reg j = s.reg j := fun j hj => (hfloor.regs j hj.1).trans (hsameu j hj)
  have hvpend : v.pow.pend = none := hfloor.pend.trans (hpend'.trans hpend)
  have hvcur : v.get pgCLK fCurFreq = f := (hfloor.regs.get (by decide)).trans ((hthm _ _ (by decide)).trans hcur)
  have hvbeat : v.beat = s.beat := s.get64_congr (hsamev _ (govUnread_of (by decide) (by decide) (by decide)))
    (hsamev _ (govUnread_of (by decide) (by decide) (by decide)))
  have hvlast : v.lastSwitch = s.lastSwitch := s.get64_congr (hsamev _ (govUnread_of (by decide) (by decide) (by decide)))
    (hsamev _ (govUnread_of (by decide) (by decide) (by decide)))
  obtain ⟨hp, hbit, hfswf, hfswb⟩ := Chip.governorSwitch_lower hvcur hless hf hvpend
  rw [Chip.moveFreq_eq, Chip.targetFreq_heat hsamev hhot hover, hlow, if_pos hless, hvpend, if_neg (by simp)]
  rw [hvbeat, hvlast, hb] at hp hfswb
  generalize v.governorSwitch low = w at *
  obtain ⟨hlpend, hlregs⟩ := w.lowerLater_shows
  rw [hlpend, Chip.get_of_regs hlregs, Chip.get_of_regs hlregs, Chip.get64_of_regs hlregs]
  exact ⟨hp, hbit, hfswf, hfswb⟩

end Heat

end Sys2Proof.Machine
end

section
/-! Gusts and lane adaptation, and O42 (R422, R431). -/

namespace Sys2Proof.Machine

variable {s : State}

/-! ## Gusts (R422) -/

/-- A region's window counts `n` gusts. -/
def Chip.setGusts (s : Chip) (r n : Nat) : Chip := { s with pow := { s.pow with gustWin := sset natReset s.pow.gustWin r n } }

theorem Chip.setGusts_shows (s : Chip) (r n : Nat) : sget natReset (s.setGusts r n).pow.gustWin r = n ∧ (s.setGusts r n).regs = s.regs :=
  ⟨sget_sset_same .., rfl⟩

/-- A window is saturated. -/
def Chip.saturate (s : Chip) : Chip := { s with pow := { s.pow with gustSat := true } }

theorem Chip.gust_eq {s : Chip} {r n : Nat} {new : Bool} (hdroop : s.bit pgCLK fDroopEn = true)
    (hn : (if new then 0 else sget natReset s.pow.gustWin r) = n) : s.gust r new =
      if n < 64 then ((s.setGusts r (n + 1)).inc pgCLK (fGustCnt r) 1).put pgCLK (fGustMax r) (max (s.get pgCLK (fGustMax r)) (n + 1))
      else (s.saturate.put pgCLK (fGustSat r) 1).raise pgCLK 2 := by
  rw [Chip.gust, hdroop]
  dsimp only
  rw [hn]
  rfl

section Gust

variable {r n : Nat} {new : Bool} (hr : r < 42) (hup : s.chip.fabricUp = true) (hdroop : s.chip.bit pgCLK fDroopEn = true)
  (hn : (if new then 0 else sget natReset s.chip.pow.gustWin r) = n)
include hr hup hdroop hn

theorem gust_counts (h : n < 64) : Runs (.gust r new) s fun t =>
    t.get pgCLK (fGustCnt r) = min (s.chip.get pgCLK (fGustCnt r) + 1) (2 ^ 32 - 1) ∧
    t.get pgCLK (fGustMax r) = max (s.chip.get pgCLK (fGustMax r)) (n + 1) ∧
    sget natReset t.pow.gustWin r = n + 1 ∧ SameRegs s.chip t [pgCLK + 0x200 + 8 * r, pgCLK + 0x204 + 8 * r] := by
  refine runs_unit (f := fun u => u.gust r new) rfl hr hup ?_
  rw [Chip.gust_eq hdroop hn, if_pos h]
  generalize hmax : max (s.chip.get pgCLK (fGustMax r)) (n + 1) = m
  have hm : m < 2 ^ 7 := by
    have hold : s.chip.get pgCLK (fGustMax r) < 2 ^ 7 := s.chip.get_lt pgCLK (fGustMax r)
    omega
  obtain ⟨hwin, hregs⟩ := s.chip.setGusts_shows r (n + 1)
  generalize s.chip.setGusts r (n + 1) = u at *
  refine ⟨?_, ?_, ?_, ?_⟩
  · rw [Chip.get_put_off _ _ (by simp only [fGustCnt, fGustMax]; omega), Chip.get_inc_same _ _ _ _ (by decide : 0 + 32 ≤ 32), Chip.get_of_regs hregs]
    rfl
  · rw [Chip.get_put_same _ _ _ _ (by decide : 0 + 7 ≤ 32)]
    exact Nat.mod_eq_of_lt hm
  · rw [((RegsOnly.refl u).inc.put).keeps Chip.pow fun _ _ => rfl, hwin]
  · exact (((SameRegs.refl s.chip _).of_regs hregs).inc (by simp [fGustCnt, Nat.add_assoc])).put (by simp [fGustMax, Nat.add_assoc])

theorem gust_saturates (h : 64 ≤ n) : Runs (.gust r new) s fun t =>
    t.get pgCLK (fGustSat r) = 1 ∧ t.bit pgCLK ⟨0x028, 2, 1⟩ = true ∧ t.pow = { s.chip.pow with gustSat := true } ∧
    SameRegs s.chip t [pgCLK + 0x204 + 8 * r, pgCLK + 0x028] := by
  refine runs_unit (f := fun u => u.gust r new) rfl hr hup ?_
  rw [Chip.gust_eq hdroop hn, if_neg (not_lt.2 h)]
  have hpow : s.chip.saturate.pow = { s.chip.pow with gustSat := true } := rfl
  have hregs : s.chip.saturate.regs = s.chip.regs := rfl
  generalize s.chip.saturate = u at *
  refine ⟨?_, Chip.bit_raise _ _ _ (by decide), (((RegsOnly.refl u).put.raise).keeps Chip.pow fun _ _ => rfl).trans hpow,
    (((SameRegs.refl s.chip _).of_regs hregs).put (by simp [fGustSat, Nat.add_assoc])).raise (List.mem_cons_of_mem _ (List.mem_singleton_self _))⟩
  rw [Chip.get_raise_other _ _ (by simp only [fGustSat]; omega), Chip.get_put_same _ _ _ _ (by decide : 7 + 1 ≤ 32)]
  rfl

end Gust

/-! ## Lane adaptation (R431) -/

/-- What makes adaptation due on a port is its own data and the registers. -/
theorem Chip.adaptDue_congr {u v : Chip} {p : Nat} (hregs : v.regs = u.regs) (htemp : (v.port p).adTemp = (u.port p).adTemp)
    (hedge : (v.port p).adEdge = (u.port p).adEdge) (hident : v.ident = u.ident) (hedges : v.edges = u.edges) : v.adaptDue p = u.adaptDue p := by
  have htherm : v.linkTemp p = u.linkTemp p := Chip.get_of_regs hregs
  have hstate : v.portState p = u.portState p := Chip.get_of_regs hregs
  have hpresent : v.portPresent p = u.portPresent p := by rw [Chip.portPresent, hident, Chip.portPresent]
  rw [Chip.adaptDue, Chip.adaptDue]
  rw [htherm, hstate, hpresent, htemp, hedge, hedges, Chip.get_of_regs hregs, Chip.get_of_regs hregs]

/-- Where no port is due, no adaptation begins. -/
theorem Chip.adaptStart_idle {u : Chip} (h : ∀ q < 16, u.adaptDue q = false) : u.adaptStart = u := by
  have hnone : ∀ q, u.adaptDue q = false := fun q => by
    by_cases hq : q < 16
    · exact h q hq
    · have habsent : u.portPresent q = false := Bool.eq_false_iff.2 fun hp => hq (portPresent_lt hp)
      rw [Chip.adaptDue, habsent, Bool.false_and, Bool.false_and]
  refine List.foldl_fixed' (fun r => ?_) _
  have hfind : (((List.range 4).map fun i => 4 * r + i).find? u.adaptDue) = none :=
    List.find?_eq_none.2 fun q _ => by rw [hnone q]; decide
  dsimp only
  rw [hfind]
  exact ite_self u

/-- A port whose adaptation has ended. -/
def Port.adapted (k : Port) : Port := { k with adapting := false }

theorem Chip.adaptDue_adapted (u : Chip) (p q : Nat) : (u.updPort p Port.adapted).adaptDue q = u.adaptDue q := by
  by_cases hq : q = p
  · subst hq
    exact Chip.adaptDue_congr rfl (by rw [Chip.port_updPort_same]; rfl) (by rw [Chip.port_updPort_same]; rfl) rfl rfl
  · have hport := u.port_updPort_other Port.adapted hq
    exact Chip.adaptDue_congr rfl (by rw [hport]) (by rw [hport]) rfl rfl

theorem laneAdaptation_ends {p : Nat} (hp : p < 16) (hup : s.chip.fabricUp = true) (hadapt : (s.chip.port p).adapting = true)
    (hdue : ∀ q < 16, s.chip.adaptDue q = false) : Runs (.laneAdaptationDone p) s fun t =>
      t.port p = { s.chip.port p with adapting := false } ∧ t.regs = s.chip.regs ∧ t.mem = s.chip.mem := by
  refine runs_unit (f := fun u => if (u.port p).adapting then (u.updPort p Port.adapted).adaptStart else u) rfl hp hup ?_
  rw [if_pos hadapt, Chip.adaptStart_idle fun q hq => (s.chip.adaptDue_adapted p q).trans (hdue q hq)]
  exact ⟨Chip.port_updPort_same .., rfl, rfl⟩

/-! ## O42 -/

section Switches

variable (hup : s.chip.fabricUp = true)
include hup

/-- Every request for a switch (R423): the first rule that it breaks, or the pending switch. -/
theorem fswGo_cases {f b : Nat} (hf : s.chip.get pgCLK fFswFreq = f) (hb : s.chip.get64 pgCLK 0x104 = b) :
    let rise := s.chip.get pgCLK fCurFreq < f
    let volts := s.chip.bit pgGOV fVOk = true ∧ s.chip.vNeed f ≤ 2 * (s.chip.get pgGOV fVddSet : Int)
    let fits := s.chip.rampFits b (s.chip.switchCharge f) = true
    let refused := fun (k : Nat) => Runs .fswGo s fun t =>
      t.get pgCLK fFswReject = k ∧ t.bit pgCLK ⟨0x028, 1, 1⟩ = true ∧ t.pow = s.chip.pow ∧
      SameRegs s.chip t [pgCLK + 0x10C, pgCLK + 0x028] ∧ t.mem = s.chip.mem ∧ t.cores = s.chip.cores
    (b < s.chip.beat + 4 → refused 1) ∧
    (s.chip.beat + 4 ≤ b → b < s.chip.lastSwitch + 8 → refused 2) ∧
    (s.chip.beat + 4 ≤ b → s.chip.lastSwitch + 8 ≤ b →
      (rise → ¬volts → refused 3) ∧ (rise → volts → ¬fits → refused 4) ∧
      ((rise → volts ∧ fits) → s.chip.pow.pend ≠ none → refused 5) ∧
      ((rise → volts ∧ fits) → s.chip.pow.pend = none → 16 < f → refused 6) ∧
      ((rise → volts ∧ fits) → s.chip.pow.pend = none → f ≤ 16 → Runs .fswGo s fun t =>
        t.pow.pend = some (f, b, false) ∧ t.get pgCLK fFswPend = 1 ∧ SameRegs s.chip t [pgCLK + 0x10C] ∧
        (¬rise → t.pow = { s.chip.pow with pend := some (f, b, false) }) ∧
        (rise → t.chargeAt b = s.chip.chargeAt b + s.chip.switchCharge f) ∧ t.mem = s.chip.mem ∧ t.cores = s.chip.cores)) := by
  intro rise volts fits refused
  have hrefused : ∀ k < 8, s.chip.switchCause f b = some k → refused k := fun k hk => fswGo_refused hup hf hb hk
  refine ⟨fun h => hrefused 1 (by decide) ?_, fun h h2 => hrefused 2 (by decide) ?_, fun h h2 => ?_⟩
  · rw [Chip.switchCause, if_pos h]
  · rw [Chip.switchCause, if_neg (not_lt.2 h), if_pos h2]
  · have hcause := s.chip.switchCause_of_time f b h h2
    have hkept : (rise → volts ∧ fits) → s.chip.switchCause f b = if s.chip.pow.pend ≠ none then some 5 else if 16 < f then some 6 else none :=
      fun hok => by
        rw [hcause, if_neg fun ⟨hrise, hv⟩ => hv (hok hrise).1, if_neg fun ⟨hrise, hv⟩ => Bool.eq_false_iff.1 hv (hok hrise).2]
    refine ⟨fun hrise hv => hrefused 3 (by decide) ?_, fun hrise hv hfit => hrefused 4 (by decide) ?_, fun hok hp => hrefused 5 (by decide) ?_,
      fun hok hp hbig => hrefused 6 (by decide) ?_, fun hok hp hbig => fswGo_taken hup hf hb ?_⟩
    · rw [hcause, if_pos ⟨hrise, hv⟩]
    · rw [hcause, if_neg fun ⟨_, hv'⟩ => hv' hv, if_pos ⟨hrise, Bool.eq_false_iff.2 hfit⟩]
    · rw [hkept hok, if_pos hp]
    · rw [hkept hok, if_neg (not_not.2 hp), if_pos hbig]
    · rw [hkept hok, if_neg (not_not.2 hp), if_neg (not_lt.2 hbig)]

theorem switchBeat_cases (f b : Nat) (em : Bool) (h : s.chip.pow.pend = some (f, b, em)) (hf : f ≤ 16) :
    (b ≤ s.chip.beat → Runs .switchBeat s fun t =>
      t.get pgCLK fCurFreq = (if s.chip.get pgGOV fPstate = 1 then 0 else f) ∧ t.lastSwitch = b % 2 ^ 64 ∧ t.get pgCLK fFswDone = 1 ∧
      t.bit pgCLK ⟨0x028, 0, 1⟩ = true ∧ (s.chip.pow.want = none → t.get pgCLK fFswPend = 0 ∧ t.pow.pend = none) ∧
      t.mem = s.chip.mem ∧ t.cores = s.chip.cores) ∧
    (s.chip.beat < b → Runs .switchBeat s fun t => t = s.chip) :=
  ⟨fun hb => runs_fabric rfl hup (s.chip.switchBeat_taken h hf hb), fun hb => runs_fabric rfl hup (s.chip.switchBeat_early h hb)⟩

end Switches

section Governor

variable (hup : s.chip.fabricUp = true) (r : PowerReadings) (htick : s.chip.pow.lastTick + s.chip.get pgGOV fGovPeriod ≤ s.chip.edges)
include hup htick

theorem governorTick_reads : Runs (.governorTick r) s fun t =>
    t.get pgGOV fVinMv = r.vinMv % 2 ^ 16 ∧ t.get pgGOV fIinMa = r.iinMa.headD 0 % 2 ^ 16 ∧
    t.get pgGOV fPinW = r.pinW.headD 0 % 2 ^ 11 ∧ t.get pgGOV fPinTau = r.pinTau1 % 2 ^ 11 ∧
    t.get pgGOV fVinMin = min (s.chip.get pgGOV fVinMin) (r.vinMv % 2 ^ 16) ∧
    t.get pgGOV fThrottling = (if s.chip.hot then 1 else 0) ∧ t.pow.lastTick = s.chip.edges ∧
    (∀ k, k < 10 → t.get64 pgGOV (0x200 + 8 * k) = (s.chip.get64 pgGOV (0x200 + 8 * k) + r.energy.getD k 0) % 2 ^ 64) ∧
    t.mem = s.chip.mem ∧ t.cores = s.chip.cores := by
  refine runs_fabric (f := fun u => u.governorTick r) rfl hup ?_
  obtain ⟨hregs, hthrottling, hlast, hmem, hcores⟩ := s.chip.governorTick_keeps r htick
  obtain ⟨⟨hvin, hiin, hpin, htau, hmin, hhot, henergy⟩, htick', -, hmem', hcores', -⟩ := s.chip.govWatch_spec r
  generalize s.chip.governorTick r = t at *
  generalize s.chip.govWatch r = u at *
  refine ⟨(hregs.get (by decide)).trans hvin, (hregs.get (by decide)).trans hiin, (hregs.get (by decide)).trans hpin,
    (hregs.get (by decide)).trans htau, (hregs.get (by decide)).trans hmin, hthrottling.trans hhot, hlast.trans htick', fun k hk => ?_,
    hmem.trans hmem', hcores.trans hcores'⟩
  have hfar : ∀ o, o < 0x50 → pgGOV + (0x200 + o) ∉ govRegs := fun o ho => by
    simp only [govRegs, pgGOV, pgCLK, List.mem_cons, List.not_mem_nil, or_false]
    omega
  rw [hregs.get64 (hfar _ (by omega)) (hfar (8 * k + 4) (by omega)), henergy k hk, List.getD_eq_getElem?_getD]

theorem governorTick_lowers (f : Nat) (hhot : s.chip.hot = true) (hover : s.chip.overLimit r = false)
    (hemerg : s.chip.bit pgTHM fEmerg = false) (hpend : s.chip.pow.pend = none) (hcur : s.chip.get pgCLK fCurFreq = f) (hf : f ≤ 16)
    (hps : s.chip.get pgGOV fPstate ≠ 1) :
    let low := max (min (f - s.chip.get pgGOV fThrStep) (s.chip.get pgGOV fFMax)) s.chip.highFloor
    low < f → Runs (.governorTick r) s fun t =>
      let b := max (s.chip.beat + 4) (s.chip.lastSwitch + 8)
      t.pow.pend = some (low, b, false) ∧ t.get pgCLK fFswPend = 1 ∧ t.get pgCLK fFswFreq = low ∧ t.get64 pgCLK 0x104 = b % 2 ^ 64 :=
  fun hless => runs_fabric (f := fun u => u.governorTick r) rfl hup
    (Chip.governorTick_heat htick hhot hover hemerg hpend hcur hf hps rfl rfl hless)

end Governor

/-- Settles O42: frequency switches and the voltage, the governor's tick, gusts and lane adaptation. -/
theorem clocksAndGovernor : Obligations.ClocksAndGovernor := by
  unfold Obligations.ClocksAndGovernor
  refine ⟨fun s hup => ⟨fswGo_cases hup rfl rfl, switchBeat_cases hup, fun mv hmv => ⟨vddWrite_far hup, vddWrite_set hup hmv, vddWrite_low hup⟩,
    vddSettled_ok hup⟩, fun s hup => ⟨fun r htick => ⟨governorTick_reads hup r htick, governorTick_lowers hup r htick⟩,
    fun r new hr hdroop => ⟨gust_counts hr hup hdroop rfl, gust_saturates hr hup hdroop rfl⟩,
    fun p hp hadapt hdue => laneAdaptation_ends hp hup hadapt hdue⟩⟩

end Sys2Proof.Machine
end

section
/-! Cells that a port receives (R309, R310, R312, R315, R320 to R324, R333). -/

namespace Sys2Proof.Machine

/-! ## Operations on a port's own data and counts -/

/-- Of the device, only counts and the ports' own data change. -/
structure PortOnly (s t : Chip) : Prop where
  rest : t = { s with counts := t.counts, ports := t.ports }

/-- An event count has risen, up to its limit. -/
def CountUp (s t : Chip) (page sel n : Nat) : Prop := t.countOf page sel = min (s.countOf page sel + n) (2 ^ 64 - 1)

section PortOnly

variable {s t u : Chip}

theorem PortOnly.refl (s : Chip) : PortOnly s s := ⟨rfl⟩

theorem PortOnly.trans (h : PortOnly s t) (h2 : PortOnly t u) : PortOnly s u := by
  have ht := h.rest
  have hu := h2.rest
  rw [ht] at hu
  exact ⟨hu⟩

theorem PortOnly.count (h : PortOnly s t) {page sel n : Nat} : PortOnly s (t.count page sel n) := h.trans ⟨rfl⟩

theorem PortOnly.updPort (h : PortOnly s t) {p : Nat} {g : Port → Port} : PortOnly s (t.updPort p g) := h.trans ⟨rfl⟩

theorem PortOnly.keeps {β : Type} (h : PortOnly s t) (g : Chip → β) (hg : ∀ (u : Chip) n p, g { u with counts := n, ports := p } = g u) : g t = g s :=
  (congrArg g h.rest).trans (hg s ..)

theorem PortOnly.regs (h : PortOnly s t) : t.regs = s.regs := h.keeps Chip.regs fun _ _ _ => rfl
theorem PortOnly.net (h : PortOnly s t) : t.net = s.net := h.keeps Chip.net fun _ _ _ => rfl
theorem PortOnly.mem (h : PortOnly s t) : t.mem = s.mem := h.keeps Chip.mem fun _ _ _ => rfl
theorem PortOnly.ident (h : PortOnly s t) : t.ident = s.ident := h.keeps Chip.ident fun _ _ _ => rfl

theorem Chip.cell_of_regs (h : t.regs = s.regs) (type info : Nat) : t.cell type info = s.cell type info := by
  rw [Chip.cell, Chip.cell, Chip.devId, Chip.devId, Chip.get_of_regs h]

theorem Chip.route_of_regs (h : t.regs = s.regs) (n : Nat) : t.route n = s.route n := by
  rw [Chip.route, Chip.route, Chip.reg_of_regs h]

theorem Chip.portState_of_regs (h : t.regs = s.regs) (p : Nat) : t.portState p = s.portState p := Chip.get_of_regs h

theorem Chip.portPresent_of_ident (h : t.ident = s.ident) (p : Nat) : t.portPresent p = s.portPresent p := by
  rw [Chip.portPresent, Chip.portPresent, h]

theorem countUp_count (s : Chip) (page sel n : Nat) : CountUp s (s.count page sel n) page sel n := s.countOf_count_same page sel n

theorem CountUp.of_countOf {page sel n : Nat} (h : CountUp s t page sel n) (hu : u.countOf page sel = t.countOf page sel) :
    CountUp s u page sel n := hu.trans h

theorem CountUp.of_before {page sel n : Nat} (h : CountUp t u page sel n) (ht : t.countOf page sel = s.countOf page sel) :
    CountUp s u page sel n := by
  rw [CountUp, h, ht]

theorem countUp_zero {page sel : Nat} (h : t.countOf page sel = s.countOf page sel) : CountUp s t page sel 0 := by
  have hlt := s.countOf_lt page sel
  rw [CountUp, h]
  omega

end PortOnly

/-! ## A cell that is not accepted (R309, R321, R333) -/

section Bad

variable {s u : Chip} {p : Nat}

/-- A NAK for the expected cell leaves, unless the hold-off runs. -/
def CellNak (s t : Chip) (p : Nat) : Prop :=
  ((s.port p).nakHold = true → t.ports = s.ports) ∧
  ((s.port p).nakHold = false →
    t.port p = { (s.port p).start (s.cell 3 ((s.port p).rxSeq + 2 ^ 12)) with nakHold := true } ∧ CountUp s t (pgLNK p) 4 1) ∧
  t.net = s.net ∧ t.regs = s.regs

theorem Chip.sendNak_portOnly (u : Chip) (p : Nat) : PortOnly u (u.sendNak p) := by
  rw [Chip.sendNak]
  split
  · exact .refl u
  · exact (PortOnly.refl u).updPort.count

theorem Chip.countOf_sendNak {sel : Nat} (h : sel ≠ 4) : (u.sendNak p).countOf (pgLNK p) sel = u.countOf (pgLNK p) sel := by
  rw [Chip.sendNak]
  split
  · rfl
  · rw [Chip.countOf_count_other _ _ (by omega), Chip.countOf_updPort]

/-- The NAK of a cell whose fault has been counted. -/
theorem Chip.sendNak_cellNak (hu : PortOnly s u) (hports : u.ports = s.ports) (hcount : u.countOf (pgLNK p) 4 = s.countOf (pgLNK p) 4) :
    CellNak s (u.sendNak p) p := by
  have hnak := u.sendNak_portOnly p
  have hport : u.port p = s.port p := Chip.port_of_ports hports
  refine ⟨fun hold => ?_, fun hold => ⟨?_, ?_⟩, hnak.net.trans hu.net, hnak.regs.trans hu.regs⟩
  · rw [Chip.sendNak, hport, if_pos hold, hports]
  all_goals rw [Chip.sendNak, hport, if_neg (by rw [hold]; decide)]
  · rw [Chip.port_count, Chip.port_updPort_same, hport, Chip.cell_of_regs hu.regs]
  · exact (countUp_count _ _ _ _).of_before ((Chip.countOf_updPort ..).trans hcount)

theorem Chip.badIn_hcrc (s : Chip) (p : Nat) : CellNak s (s.badIn p .hcrc) p ∧ CountUp s (s.badIn p .hcrc) (pgLNK p) 0x0B 1 :=
  ⟨Chip.sendNak_cellNak (PortOnly.refl s).count rfl (Chip.countOf_count_other _ _ (by omega)),
    (countUp_count s _ _ _).of_countOf (Chip.countOf_sendNak (by decide))⟩

/-- A cell that FEC cannot correct: the symbols that each lane has corrected are counted beside it (R309, R333). -/
theorem Chip.badIn_fec (s : Chip) (p : Nat) (l : List Nat) : CellNak s (s.badIn p (.fec l)) p ∧ CountUp s (s.badIn p (.fec l)) (pgLNK p) 6 1 ∧
    ∀ i < 4, CountUp s (s.badIn p (.fec l)) (pgLNK p) (7 + i) ((l[i]?).getD 0) := by
  have hlanes : (s.count (pgLNK p) 6 1).forEach (List.range 4) (fun t i => t.count (pgLNK p) (7 + i) ((l[i]?).getD 0)) =
      ((((s.count (pgLNK p) 6 1).count (pgLNK p) 7 ((l[0]?).getD 0)).count (pgLNK p) 8 ((l[1]?).getD 0)).count (pgLNK p) 9
        ((l[2]?).getD 0)).count (pgLNK p) 10 ((l[3]?).getD 0) := rfl
  have hnak : ∀ sel, sel ≠ 4 → ∀ u : Chip, (u.sendNak p).countOf (pgLNK p) sel = u.countOf (pgLNK p) sel := fun sel h u => Chip.countOf_sendNak h
  rw [Chip.badIn, hlanes]
  refine ⟨Chip.sendNak_cellNak (PortOnly.refl s).count.count.count.count.count rfl ?_, ?_, fun i hi => ?_⟩
  · simp [Chip.countOf_count_other]
  · refine CountUp.of_countOf (countUp_count s _ _ _) ((hnak 6 (by decide) _).trans ?_)
    simp [Chip.countOf_count_other]
  · refine CountUp.of_countOf (t := _) ?_ (hnak (7 + i) (by omega) _)
    interval_cases i <;> simp [CountUp, Chip.countOf_count_other, Chip.countOf_count_same]

theorem Chip.badIn_reserved (s : Chip) (p : Nat) : CountUp s (s.badIn p .reservedType) (pgLNK p) 0x0B 1 ∧
    s.badIn p .reservedType = { s with counts := (s.badIn p .reservedType).counts } :=
  ⟨countUp_count .., rfl⟩

end Bad

/-! ## Which cells are accepted (R310, R321) -/

section Accepted

variable {s : Chip} {p type : Nat} {h : BitVec 128} {f : Chip → Chip}

theorem Chip.cellIn_bad (hbad : hcGood h = false) : s.cellIn p type h f = s.badIn p .hcrc := by
  rw [Chip.cellIn, hbad]
  rfl

theorem Chip.cellIn_reserved (hgood : hcGood h = true) (hres : 6 ≤ hcType h) : s.cellIn p type h f = s.badIn p .reservedType := by
  rw [Chip.cellIn, hgood, if_neg (by decide), if_pos hres]

theorem Chip.cellIn_accept (hgood : hcGood h = true) (htype : hcType h = type) (hlow : type < 6) :
    s.cellIn p type h f = s.accept p (hcLseq h) f := by
  rw [Chip.cellIn, hgood, if_neg (by decide), if_neg (by omega), if_neg (not_not.2 htype)]

/-- A cell of another number is discarded for retry. -/
theorem Chip.accept_other {n : Nat} (hn : n ≠ (s.port p).rxSeq) : CellNak s (s.accept p n f) p := by
  rw [Chip.accept, if_neg hn.symm]
  exact Chip.sendNak_cellNak (.refl s) rfl rfl

/-- A port that has accepted a cell. -/
def Port.accepted (k : Port) : Port := { k with rxSeq := (k.rxSeq + 1) % 4096, rxRun := k.rxRun + 1, nakHold := false }

/-- The device whose port has accepted a cell, and acknowledged the 64th. -/
def Chip.taken (s : Chip) (p : Nat) : Chip :=
  if 64 ≤ (s.port p).rxRun + 1 then (s.updPort p Port.accepted).sendAck p else s.updPort p Port.accepted

theorem Chip.accept_same (f : Chip → Chip) : s.accept p (s.port p).rxSeq f = f (s.taken p) := by
  rw [Chip.accept, if_pos rfl, Chip.taken]
  dsimp only
  rw [Chip.port_updPort_same]
  rfl

/-- What accepting a cell brings about at a port, beside the credit. -/
def CellTaken (s t : Chip) (p : Nat) : Prop :=
  (t.port p).rxSeq = ((s.port p).rxSeq + 1) % 4096 ∧ (t.port p).nakHold = false ∧
  (if 64 ≤ (s.port p).rxRun + 1 then
      (t.port p).rxRun = 0 ∧ (t.port p).sent = some (s.cell 3 ((((s.port p).rxSeq + 1) % 4096 + 4095) % 4096))
    else (t.port p).rxRun = (s.port p).rxRun + 1 ∧ (t.port p).sent = (s.port p).sent)

theorem Chip.sendAck_spec (u : Chip) (p : Nat) : (u.sendAck p).port p =
    { (u.port p).start (u.cell 3 (((u.port p).rxSeq + 4095) % 4096)) with rxRun := 0 } := u.port_updPort_same p _

theorem Chip.taken_spec (s : Chip) (p : Nat) : PortOnly s (s.taken p) ∧ (s.taken p).counts = s.counts ∧ CellTaken s (s.taken p) p ∧
    (∀ q, ((s.taken p).port q).transit = (s.port q).transit ∧ ((s.taken p).port q).retU = (s.port q).retU ∧
      ((s.taken p).port q).retS = (s.port q).retS) := by
  have hother : ∀ q, q ≠ p → (s.taken p).port q = s.port q := fun q hq => by
    rw [Chip.taken]
    split
    · exact (Chip.port_updPort_other _ _ hq).trans (Chip.port_updPort_other _ _ hq)
    · exact Chip.port_updPort_other _ _ hq
  have hsame : CellTaken s (s.taken p) p ∧ ((s.taken p).port p).transit = (s.port p).transit ∧ ((s.taken p).port p).retU = (s.port p).retU ∧
      ((s.taken p).port p).retS = (s.port p).retS := by
    rw [CellTaken, Chip.taken]
    split
    · rw [Chip.sendAck_spec, Chip.port_updPort_same, Chip.cell_of_regs ((PortOnly.refl s).updPort.regs)]
      exact ⟨⟨rfl, rfl, rfl, rfl⟩, rfl, rfl, rfl⟩
    · rw [Chip.port_updPort_same]
      exact ⟨⟨rfl, rfl, rfl, rfl⟩, rfl, rfl, rfl⟩
  refine ⟨?_, ?_, hsame.1, fun q => ?_⟩
  · rw [Chip.taken]
    split
    · exact (PortOnly.refl s).updPort.updPort
    · exact (PortOnly.refl s).updPort
  · rw [Chip.taken]
    split <;> rfl
  · by_cases hq : q = p
    · rw [hq]
      exact hsame.2
    · rw [hother q hq]
      exact ⟨rfl, rfl, rfl⟩

end Accepted

/-! ## An accepted DATA cell (R312, R320, R323, R324) -/

section Data

variable {s u : Chip} {p : Nat} {h : BitVec 128} {pkts : List Packet}

/-- A cell's credit is due back, and the cell accepted. -/
def CellBack (s t : Chip) (p : Nat) (h : BitVec 128) : Prop :=
  (t.port p).rxSeq = ((s.port p).rxSeq + 1) % 4096 ∧ (t.port p).nakHold = false ∧
  (if 64 ≤ (s.port p).rxRun + 1 then
      (t.port p).rxRun = 0 ∧ (t.port p).sent = some (s.cell 3 ((((s.port p).rxSeq + 1) % 4096 + 4095) % 4096))
    else (t.port p).rxRun = (s.port p).rxRun + 1 ∧ (t.port p).sent = (s.port p).sent) ∧
  (t.port p).retU = (s.port p).retU + (if hcFlow h = 63 then 1 else 0) ∧ (t.port p).retS = (s.port p).retS + (if hcFlow h = 63 then 0 else 1)

/-- A credit more is due back at a port. -/
def Port.due (unassigned : Bool) (k : Port) : Port := if unassigned then { k with retU := k.retU + 1 } else { k with retS := k.retS + 1 }

theorem Chip.dueBack_eq (u : Chip) (p : Nat) (un : Bool) : u.dueBack p un = u.updPort p (Port.due un) := rfl

theorem Port.due_spec (k : Port) (un : Bool) : (k.due un).rxSeq = k.rxSeq ∧ (k.due un).nakHold = k.nakHold ∧ (k.due un).rxRun = k.rxRun ∧
    (k.due un).sent = k.sent ∧ (k.due un).retU = k.retU + (if un then 1 else 0) ∧ (k.due un).retS = k.retS + (if un then 0 else 1) := by
  cases un <;> exact ⟨rfl, rfl, rfl, rfl, rfl, rfl⟩

/-- The credit of an accepted cell. -/
theorem cellBack_dueBack {t : Chip} (hport : (t.port p) = ((s.taken p).port p).due (decide (hcFlow h = 63))) : CellBack s t p h := by
  obtain ⟨-, -, ⟨hseq, hhold, hack⟩, hrest⟩ := s.taken_spec p
  obtain ⟨-, hretU, hretS⟩ := hrest p
  obtain ⟨dseq, dhold, drun, dsent, dU, dS⟩ := ((s.taken p).port p).due_spec (decide (hcFlow h = 63))
  rw [CellBack, hport, dseq, dhold, drun, dsent, dU, dS, hretU, hretS]
  simp only [decide_eq_true_eq]
  exact ⟨hseq, hhold, hack, trivial, trivial⟩

/-- Packets that have come in join those of the device. -/
def Chip.deliver (u : Chip) (l : List Packet) : Chip := { u with net := u.net ++ l }

/-- A cell that a port passes on waits there (R323, R324). -/
def Chip.forward (u : Chip) (p q : Nat) (h : BitVec 128) (pkts : List Packet) : Chip :=
  u.updPort q fun k => { k with transit := k.transit ++ [(k.transitFlow p (hcFlow h),
    { type := 0, dst := hcDst h, src := hcSrc h, flow := hcFlow h, lseq := 0, len := hcLen h, ttl := hcTtl h - 1,
      poison := hcPoison h, info := hcInfo h, pkts := pkts, ctl := none, mark := none, inPort := some p })] }

theorem Chip.dataIn_eq (u : Chip) (p : Nat) (h : BitVec 128) (pkts : List Packet) : u.dataIn p h pkts =
    if (u.route (hcDst h)).testBit 5 then ((u.count (pgLNK p) 1 1).deliver (unpack h pkts)).dueBack p (decide (hcFlow h = 63))
    else if !((u.route (hcDst h)).testBit 4) || !((u.count (pgLNK p) 1 1).portPresent (u.route (hcDst h) % 16)) ||
        decide ((u.count (pgLNK p) 1 1).portState (u.route (hcDst h) % 16) = psDOWN) || decide (hcTtl h ≤ 1) then
      ((u.count (pgLNK p) 1 1).count (pgLNK p) 0x0E 1).dueBack p (decide (hcFlow h = 63))
    else (u.count (pgLNK p) 1 1).forward p (u.route (hcDst h) % 16) h pkts := rfl

/-- One whole message: each word's poison is POISON's (R312). -/
theorem unpack_message {q : Packet} {hd : BitVec 128} {o : Nat} {pad pos : Nat} {d : List TByte} (hbody : q.body = .message hd o pad pos d)
    (hstart : hcInfo h % 512 = 0) : unpack h [q] =
      [{ q with body := .message hd o pad pos (((List.range d.length).zip d).map fun e => (e.2.1, (hcPoison h).getLsbD ((16 + e.1) / 8))) }] := by
  rw [unpack]
  dsimp only
  rw [if_pos hstart, taggedFrom, taggedFrom, retag, hbody]
  simp only [Nat.zero_add]

/-- What is accepted and due back, whatever the cell's words do. -/
theorem cellBack_taken (h : BitVec 128) {t : Chip} (ht : t.ports = (s.taken p).ports) :
    CellBack s (t.dueBack p (decide (hcFlow h = 63))) p h := by
  refine cellBack_dueBack ?_
  rw [Chip.dueBack_eq, Chip.port_updPort_same, Chip.port_of_ports ht]

theorem taken_count (s : Chip) (p : Nat) : CountUp s ((s.taken p).count (pgLNK p) 1 1) (pgLNK p) 1 1 :=
  (countUp_count _ _ _ _).of_before (Chip.countOf_of_counts (s.taken_spec p).2.1)

/-- Delivered here (R323). -/
theorem Chip.dataIn_here (hlocal : (s.route (hcDst h)).testBit 5 = true) :
    ((s.taken p).dataIn p h pkts).net = s.net ++ unpack h pkts ∧ CellBack s ((s.taken p).dataIn p h pkts) p h ∧
    CountUp s ((s.taken p).dataIn p h pkts) (pgLNK p) 1 1 ∧ ((s.taken p).dataIn p h pkts).regs = s.regs ∧
    ((s.taken p).dataIn p h pkts).mem = s.mem := by
  obtain ⟨hu, -, -, -⟩ := s.taken_spec p
  have hcount := taken_count s p
  have hback := fun (t : Chip) => cellBack_taken (s := s) (p := p) (t := t) h
  rw [Chip.dataIn_eq, Chip.route_of_regs hu.regs, if_pos hlocal]
  generalize s.taken p = u at *
  exact ⟨congrArg (· ++ unpack h pkts) hu.net, hback _ rfl, hcount.of_countOf rfl, hu.regs, hu.mem⟩

/-- The cell waits in transit (R323, R324). -/
theorem Chip.dataIn_transit {r : Nat} (hr : s.route (hcDst h) = r) (hlocal : r.testBit 5 = false) (hvalid : r.testBit 4 = true)
    (hthere : s.portPresent (r % 16) = true) (hstate : s.portState (r % 16) ≠ psDOWN) (httl : 2 ≤ hcTtl h) :
    (s.taken p).dataIn p h pkts = ((s.taken p).count (pgLNK p) 1 1).forward p (r % 16) h pkts := by
  obtain ⟨hu, -, -, -⟩ := s.taken_spec p
  have hc : PortOnly s ((s.taken p).count (pgLNK p) 1 1) := hu.count
  rw [Chip.dataIn_eq, Chip.route_of_regs hu.regs, hr, hlocal, if_neg (by decide), hvalid, Chip.portPresent_of_ident hc.ident,
    Chip.portState_of_regs hc.regs, hthere, decide_eq_false hstate, decide_eq_false (by omega), if_neg (by decide)]

/-- The cell is discarded by routing (R323, R324). -/
theorem Chip.dataIn_lost {r : Nat} (hr : s.route (hcDst h) = r) (hlocal : r.testBit 5 = false)
    (hlost : r.testBit 4 = false ∨ s.portPresent (r % 16) = false ∨ s.portState (r % 16) = psDOWN ∨ hcTtl h ≤ 1) :
    (s.taken p).dataIn p h pkts = (((s.taken p).count (pgLNK p) 1 1).count (pgLNK p) 0x0E 1).dueBack p (decide (hcFlow h = 63)) := by
  obtain ⟨hu, -, -, -⟩ := s.taken_spec p
  have hc : PortOnly s ((s.taken p).count (pgLNK p) 1 1) := hu.count
  rw [Chip.dataIn_eq, Chip.route_of_regs hu.regs, hr, hlocal, if_neg (by decide), Chip.portPresent_of_ident hc.ident,
    Chip.portState_of_regs hc.regs, if_pos]
  rcases hlost with hv | hp | hd | ht
  · simp [hv]
  · simp [hp]
  · simp [hd]
  · simp [ht]

end Data

end Sys2Proof.Machine
end

section
/-! Acknowledgements, retries and credits that a port receives, and what each receiving command does (R320 to R322). -/

namespace Sys2Proof.Machine

/-! ## Acknowledgements and retries (R321, R322) -/

section Retry

variable {s : Chip} {p : Nat}

/-- The acknowledged cells leave the replay buffer. -/
def Chip.drop (s : Chip) (p : Nat) (keep : List LinkCell) (run : Nat) : Chip :=
  let s1 := (s.updPort p fun j => { j with replay := keep, resend := min j.resend keep.length, ackedRun := run }).put (pgLNK p)
    fReplayUsed keep.length
  if 1024 ≤ run then s1.put (pgLNK p) fConsec 0 else s1

theorem Chip.acknowledge_found {x : LinkCell} {pre rest : List LinkCell} (hreplay : (s.port p).replay = pre ++ x :: rest)
    (hpre : ∀ y ∈ pre, y.lseq ≠ x.lseq) :
    s.acknowledge p x.lseq true = s.drop p rest ((s.port p).ackedRun + (pre.length + 1)) ∧
    s.acknowledge p x.lseq false = s.drop p (x :: rest) ((s.port p).ackedRun + pre.length) := by
  have hrest : (s.port p).replay.dropWhile (fun y => decide (y.lseq ≠ x.lseq)) = x :: rest := by
    rw [hreplay, List.dropWhile_append_of_pos fun y hy => decide_eq_true (hpre y hy)]
    simp
  have hlen : (s.port p).replay.length = pre.length + (rest.length + 1) := by rw [hreplay, List.length_append, List.length_cons]
  have hn1 : pre.length + (rest.length + 1) - rest.length = pre.length + 1 := by omega
  have hn2 : pre.length + (rest.length + 1) - (rest.length + 1) = pre.length := by omega
  constructor
  · rw [Chip.acknowledge, hrest, if_neg (List.cons_ne_nil _ _), if_pos rfl, hlen, List.drop_one, List.tail_cons, hn1]
    rfl
  · rw [Chip.acknowledge, hrest, if_neg (List.cons_ne_nil _ _), if_neg Bool.false_ne_true, hlen, List.length_cons, hn2]
    rfl

theorem Chip.drop_spec (s : Chip) (p : Nat) (keep : List LinkCell) (run : Nat) :
    (s.drop p keep run).port p = { s.port p with replay := keep, resend := min (s.port p).resend keep.length, ackedRun := run } ∧
    (s.drop p keep run).get (pgLNK p) fReplayUsed = keep.length % 1024 ∧
    (s.drop p keep run).get (pgLNK p) fConsec = (if 1024 ≤ run then 0 else s.get (pgLNK p) fConsec) ∧
    SameRegs s (s.drop p keep run) [pgLNK p + 0x110] ∧ (s.drop p keep run).net = s.net ∧ (s.drop p keep run).mem = s.mem := by
  rw [Chip.drop]
  dsimp only
  have hregs : ∀ g : Port → Port, SameRegs s ((s.updPort p g).put (pgLNK p) fReplayUsed keep.length) [pgLNK p + 0x110] := fun g =>
    ((SameRegs.refl s _).of_regs rfl).put (List.mem_singleton_self _)
  split
  · refine ⟨by simp, ?_, Chip.get_put_same _ _ _ _ (by decide), (hregs _).put (List.mem_singleton_self _), by simp, by simp⟩
    rw [Chip.get_put_off _ _ (.inr (by decide)), Chip.get_put_same _ _ _ _ (by decide)]
    rfl
  · refine ⟨by simp, Chip.get_put_same _ _ _ _ (by decide), ?_, hregs _, by simp, by simp⟩
    rw [Chip.get_put_off _ _ (.inr (by decide)), Chip.get_updPort]

/-- A retry is counted, and every unacknowledged cell is due again. -/
def Chip.resent (s : Chip) (p n : Nat) : Chip :=
  let s1 := (s.put (pgLNK p) fConsec n).updPort p fun k => { k with resend := k.replay.length, ackedRun := 0 }
  if n = 4 then s1.raise (pgLNK p) 3 else s1

theorem Chip.resent_spec {n : Nat} (hn : n ≤ 8) : (s.resent p n).get (pgLNK p) fConsec = n ∧
    (s.resent p n).port p = { s.port p with resend := (s.port p).replay.length, ackedRun := 0 } ∧
    (n = 4 → (s.resent p n).bit (pgLNK p) ⟨0x028, 3, 1⟩ = true) ∧
    SameRegs s (s.resent p n) [pgLNK p + 0x110, pgLNK p + 0x028] ∧ (s.resent p n).net = s.net ∧ (s.resent p n).mem = s.mem := by
  have hcut : n % 2 ^ 4 = n := Nat.mod_eq_of_lt (by omega)
  have hregs : ∀ g : Port → Port, SameRegs s ((s.put (pgLNK p) fConsec n).updPort p g) [pgLNK p + 0x110, pgLNK p + 0x028] := fun g =>
    SameRegs.of_regs (t := s.put (pgLNK p) fConsec n) ((SameRegs.refl s _).put (List.mem_cons_self ..)) rfl
  rw [Chip.resent]
  dsimp only
  split
  · refine ⟨?_, by simp, fun _ => Chip.bit_raise _ _ _ (by decide), (hregs _).raise (by simp), by simp, by simp⟩
    rw [Chip.get_raise_other _ _ (by simp [fConsec]), Chip.get_updPort, Chip.get_put_same _ _ _ _ (by decide)]
    exact hcut
  case isFalse h4 =>
    refine ⟨?_, by simp, fun h => absurd h h4, hregs _, by simp, by simp⟩
    rw [Chip.get_updPort, Chip.get_put_same _ _ _ _ (by decide)]
    exact hcut

/-- A port that must degrade, and one that must go DOWN. -/
def Port.mustDegrade (l : BitVec 4) (k : Port) : Port := { k with degradeDue := some l }
def Port.mustDown (k : Port) : Port := { k with downDue := some 1 }

/-- The width to which a retry degrades the port (R322). -/
def Chip.retryWidth (s : Chip) (p n : Nat) (off : Option (BitVec 4)) : Option (BitVec 4) :=
  match off with
  | some l => if n = 4 ∧ s.bit (pgLNK p) fDegradeEn = true ∧ laneCount (widest l) < s.get (pgLNK p) fLanes then some (widest l) else none
  | none => none

/-- What the fourth and the eighth retry in a row bring about (R322). -/
def Chip.retried (s : Chip) (p n : Nat) (w : Option (BitVec 4)) : Chip :=
  let t := w.elim s fun l => s.updPort p (Port.mustDegrade l)
  if n = 8 then t.updPort p Port.mustDown else t

theorem Chip.retry_eq (s : Chip) (p : Nat) (off : Option (BitVec 4)) {n : Nat} (hn : min (s.get (pgLNK p) fConsec + 1) 8 = n) :
    s.retry p off = (s.resent p n).retried p n (s.retryWidth p n off) := by
  rw [show Chip.retry = delta% Chip.retry from rfl]
  beta_reduce
  rw [hn]
  cases off with
  | none => rfl
  | some l =>
    rw [Chip.retryWidth]
    by_cases hw : n = 4 ∧ s.bit (pgLNK p) fDegradeEn = true ∧ laneCount (widest l) < s.get (pgLNK p) fLanes
    · rw [if_pos hw]
      obtain ⟨h4, hen, hless⟩ := hw
      dsimp only
      rw [decide_eq_true h4, hen, decide_eq_true hless]
      rfl
    · rw [if_neg hw]
      have hno : (decide (n = 4) && s.bit (pgLNK p) fDegradeEn && decide (laneCount (widest l) < s.get (pgLNK p) fLanes)) = false :=
        Bool.eq_false_iff.2 fun h => hw (by simpa [and_assoc] using h)
      dsimp only
      rw [hno]
      rfl

theorem Chip.retried_spec (s : Chip) (p n : Nat) (w : Option (BitVec 4)) : PortOnly s (s.retried p n w) ∧
    ((s.retried p n w).port p).replay = (s.port p).replay ∧ ((s.retried p n w).port p).resend = (s.port p).resend ∧
    ((s.retried p n w).port p).ackedRun = (s.port p).ackedRun ∧
    ((s.retried p n w).port p).downDue = (if n = 8 then some 1 else (s.port p).downDue) ∧
    ((s.retried p n w).port p).degradeDue = w.or (s.port p).degradeDue := by
  have hwidth : ∃ t, w.elim s (fun l => s.updPort p (Port.mustDegrade l)) = t ∧ PortOnly s t ∧
      t.port p = { s.port p with degradeDue := w.or (s.port p).degradeDue } := by
    cases w with
    | none => exact ⟨s, rfl, .refl s, rfl⟩
    | some l => exact ⟨_, rfl, (PortOnly.refl s).updPort, Chip.port_updPort_same ..⟩
  obtain ⟨t, ht, hkeep, hport⟩ := hwidth
  rw [Chip.retried, ht]
  split
  · rw [Chip.port_updPort_same, hport]
    exact ⟨hkeep.updPort, rfl, rfl, rfl, rfl, rfl⟩
  · rw [hport]
    exact ⟨hkeep, rfl, rfl, rfl, rfl, rfl⟩

/-- A retry: every unacknowledged cell is due again, and the retry counts towards degrade and DOWN (R321, R322). -/
theorem Chip.retry_spec (s : Chip) (p : Nat) (off : Option (BitVec 4)) {n : Nat} (hn : min (s.get (pgLNK p) fConsec + 1) 8 = n) :
    (s.retry p off).get (pgLNK p) fConsec = n ∧ ((s.retry p off).port p).resend = (s.port p).replay.length ∧
    ((s.retry p off).port p).replay = (s.port p).replay ∧ ((s.retry p off).port p).ackedRun = 0 ∧
    (n = 4 → (s.retry p off).bit (pgLNK p) ⟨0x028, 3, 1⟩ = true) ∧
    ((s.retry p off).port p).downDue = (if n = 8 then some 1 else (s.port p).downDue) ∧
    ((s.retry p off).port p).degradeDue = (s.retryWidth p n off).or (s.port p).degradeDue ∧
    SameRegs s (s.retry p off) [pgLNK p + 0x110, pgLNK p + 0x028] ∧ (s.retry p off).net = s.net ∧ (s.retry p off).mem = s.mem := by
  rw [Chip.retry_eq s p off hn]
  obtain ⟨hconsec, hport, hirq, hregs, hnet, hmem⟩ := s.resent_spec (p := p) (n := n) (by omega)
  obtain ⟨hkeep, hreplay, hresend, hrun, hdown, hdegrade⟩ := (s.resent p n).retried_spec p n (s.retryWidth p n off)
  rw [hport] at hreplay hresend hrun hdown hdegrade
  rw [Chip.get_of_regs hkeep.regs, Chip.bit_of_regs hkeep.regs]
  exact ⟨hconsec, hresend, hreplay, hrun, hirq, hdown, hdegrade, hregs.of_regs hkeep.regs, hkeep.net.trans hnet, hkeep.mem.trans hmem⟩

end Retry

/-! ## The receiving commands -/

/-- What a transit cell that waits carries. -/
def cellData (e : Option Nat × LinkCell) : Nat × Nat × Nat × Nat × Nat × BitVec 32 × List Packet × Option Nat :=
  (e.2.type, e.2.dst, e.2.src, e.2.len, e.2.ttl, e.2.poison, e.2.pkts, e.2.inPort)

/-- A forwarded cell joins those that wait at its port; every port's own state of the link stays. -/
theorem Chip.forward_spec (u : Chip) (p q : Nat) (h : BitVec 128) (pkts : List Packet) : PortOnly u (u.forward p q h pkts) ∧
    ((u.forward p q h pkts).port q).transit.map cellData = (u.port q).transit.map cellData ++
        [(0, hcDst h, hcSrc h, hcLen h, hcTtl h - 1, hcPoison h, pkts, some p)] ∧
    (∀ i, ((u.forward p q h pkts).port i).rxSeq = (u.port i).rxSeq ∧ ((u.forward p q h pkts).port i).retU = (u.port i).retU ∧
      ((u.forward p q h pkts).port i).retS = (u.port i).retS) := by
  refine ⟨(PortOnly.refl u).updPort, ?_, fun i => ?_⟩
  · rw [Chip.forward, Chip.port_updPort_same, List.map_append]
    rfl
  · rw [Chip.forward]
    by_cases hi : i = q
    · rw [hi, Chip.port_updPort_same]
      exact ⟨rfl, rfl, rfl⟩
    · rw [Chip.port_updPort_other _ _ hi]
      exact ⟨rfl, rfl, rfl⟩

section Receive

variable {s : State} {p st : Nat} (hin : PortIn s.chip p st)
include hin

theorem Chip.cellsPass_of (hlo : psMEASURE ≤ st) (hhi : st ≤ psDEGRADING) : s.chip.cellsPass p = true := by
  rw [Chip.cellsPass, hin.state, decide_eq_true hlo, decide_eq_true hhi, Bool.and_self]

/-- A DATA cell at a port that takes one. -/
theorem runs_dataCell {P : Chip → Prop} {h : BitVec 128} {pkts : List Packet} (hst : st = psUP ∨ st = psDEGRADING)
    (hP : P (s.chip.cellIn p 0 h fun t => t.dataIn p h pkts)) : Runs (.dataCellReceive p h pkts) s P := by
  refine runs_port (f := fun u => if u.portState p = psUP || u.portState p = psDEGRADING then u.cellIn p 0 h (fun t => t.dataIn p h pkts) else u)
    rfl hin ?_
  rw [hin.state, if_pos (by simpa using hst)]
  exact hP

/-- A DATA cell of the expected number. -/
theorem runs_dataCell_taken {P : Chip → Prop} {h : BitVec 128} {pkts : List Packet} (hst : st = psUP ∨ st = psDEGRADING)
    (hgood : hcGood h = true) (htype : hcType h = 0) (hseq : hcLseq h = (s.chip.port p).rxSeq)
    (hP : P ((s.chip.taken p).dataIn p h pkts)) : Runs (.dataCellReceive p h pkts) s P := by
  refine runs_dataCell hin hst ?_
  rw [Chip.cellIn_accept hgood htype (by decide), hseq, Chip.accept_same]
  exact hP

/-- DATA cells that are not taken (R309, R310, R321). -/
theorem dataCell_refused (h : BitVec 128) (pkts : List Packet) (hst : st = psUP ∨ st = psDEGRADING) :
    let cell := Instr.dataCellReceive p h pkts
    (hcGood h = false → Runs cell s fun t => CellNak s.chip t p ∧ CountUp s.chip t (pgLNK p) 0x0B 1) ∧
    (hcGood h = true → 6 ≤ hcType h → Runs cell s fun t => CountUp s.chip t (pgLNK p) 0x0B 1 ∧ t = { s.chip with counts := t.counts }) ∧
    (hcGood h = true → hcType h = 0 → hcLseq h ≠ (s.chip.port p).rxSeq → Runs cell s fun t => CellNak s.chip t p) := by
  refine ⟨fun hbad => runs_dataCell hin hst ?_, fun hgood hres => runs_dataCell hin hst ?_, fun hgood htype hne => runs_dataCell hin hst ?_⟩
  · rw [Chip.cellIn_bad hbad]
    exact s.chip.badIn_hcrc p
  · rw [Chip.cellIn_reserved hgood hres]
    exact s.chip.badIn_reserved p
  · rw [Chip.cellIn_accept hgood htype (by decide)]
    exact Chip.accept_other hne

section Taken

variable {h : BitVec 128} {pkts : List Packet} (hst : st = psUP ∨ st = psDEGRADING) (hgood : hcGood h = true) (htype : hcType h = 0)
  (hnum : hcLseq h = (s.chip.port p).rxSeq) {r : Nat} (hr : s.chip.route (hcDst h) = r)
include hst hgood htype hnum hr

theorem dataCell_here (hlocal : r.testBit 5 = true) : Runs (.dataCellReceive p h pkts) s fun t =>
    t.net = s.chip.net ++ unpack h pkts ∧
    (∀ q hd o pad pos d, pkts = [q] → q.body = .message hd o pad pos d → hcInfo h % 512 = 0 →
      let tagged := ((List.range d.length).zip d).map fun e => (e.2.1, (hcPoison h).getLsbD ((16 + e.1) / 8))
      t.net = s.chip.net ++ [{ q with body := .message hd o pad pos tagged }]) ∧
    CellBack s.chip t p h ∧ CountUp s.chip t (pgLNK p) 1 1 ∧ t.regs = s.chip.regs ∧ t.mem = s.chip.mem := by
  refine runs_dataCell_taken hin hst hgood htype hnum ?_
  obtain ⟨hnet, hback, hcount, hregs, hmem⟩ := Chip.dataIn_here (s := s.chip) (p := p) (h := h) (pkts := pkts) (hr ▸ hlocal)
  refine ⟨hnet, fun q hd o pad pos d hone hbody hstart => ?_, hback, hcount, hregs, hmem⟩
  rw [hnet, hone, unpack_message hbody hstart]

theorem dataCell_passed (hlocal : r.testBit 5 = false) (hvalid : r.testBit 4 = true) (hthere : s.chip.portPresent (r % 16) = true)
    (hup : s.chip.portState (r % 16) ≠ psDOWN) (httl : 2 ≤ hcTtl h) : Runs (.dataCellReceive p h pkts) s fun t =>
      (t.port (r % 16)).transit.map cellData = (s.chip.port (r % 16)).transit.map cellData ++
        [(0, hcDst h, hcSrc h, hcLen h, hcTtl h - 1, hcPoison h, pkts, some p)] ∧
      (t.port p).rxSeq = ((s.chip.port p).rxSeq + 1) % 4096 ∧ (t.port p).retU = (s.chip.port p).retU ∧
      (t.port p).retS = (s.chip.port p).retS ∧
      CountUp s.chip t (pgLNK p) 1 1 ∧ t.net = s.chip.net ∧ t.regs = s.chip.regs ∧ t.mem = s.chip.mem := by
  refine runs_dataCell_taken hin hst hgood htype hnum ?_
  rw [Chip.dataIn_transit hr hlocal hvalid hthere hup httl]
  obtain ⟨hu, -, ⟨hseq, -, -⟩, hrest⟩ := s.chip.taken_spec p
  have htaken := taken_count s.chip p
  generalize s.chip.taken p = u at *
  obtain ⟨hkeep, hwait, hlink⟩ := (u.count (pgLNK p) 1 1).forward_spec p (r % 16) h pkts
  have hcount : CountUp s.chip ((u.count (pgLNK p) 1 1).forward p (r % 16) h pkts) (pgLNK p) 1 1 := htaken.of_countOf (Chip.countOf_updPort ..)
  generalize (u.count (pgLNK p) 1 1).forward p (r % 16) h pkts = t at *
  obtain ⟨lseq, lretU, lretS⟩ := hlink p
  obtain ⟨-, hretU, hretS⟩ := hrest p
  have hkeep' := hu.count.trans hkeep
  rw [Chip.port_count, (hrest _).1] at hwait
  rw [Chip.port_count] at lseq lretU lretS
  exact ⟨hwait, lseq.trans hseq, lretU.trans hretU, lretS.trans hretS, hcount, hkeep'.net, hkeep'.regs, hkeep'.mem⟩

theorem dataCell_lost (hlocal : r.testBit 5 = false)
    (hlost : r.testBit 4 = false ∨ s.chip.portPresent (r % 16) = false ∨ s.chip.portState (r % 16) = psDOWN ∨ hcTtl h ≤ 1) :
    Runs (.dataCellReceive p h pkts) s fun t =>
      CellBack s.chip t p h ∧ CountUp s.chip t (pgLNK p) 1 1 ∧ CountUp s.chip t (pgLNK p) 0x0E 1 ∧ t.net = s.chip.net ∧
      t.regs = s.chip.regs ∧ t.mem = s.chip.mem := by
  refine runs_dataCell_taken hin hst hgood htype hnum ?_
  rw [Chip.dataIn_lost hr hlocal hlost]
  obtain ⟨hu, hcounts, -, -⟩ := s.chip.taken_spec p
  have htaken := taken_count s.chip p
  have hback := fun (t : Chip) => cellBack_taken (s := s.chip) (p := p) (t := t) h
  generalize s.chip.taken p = u at *
  have hkeep : PortOnly s.chip (((u.count (pgLNK p) 1 1).count (pgLNK p) 0x0E 1).dueBack p (decide (hcFlow h = 63))) :=
    hu.count.count.updPort
  refine ⟨hback _ (by simp), ?_, ?_, hkeep.net, hkeep.regs, hkeep.mem⟩
  all_goals rw [Chip.dueBack_eq, CountUp, Chip.countOf_updPort]
  · rw [Chip.countOf_count_other _ _ (by omega)]
    exact htaken
  · rw [Chip.countOf_count_same, Chip.countOf_count_other _ _ (by omega), Chip.countOf_of_counts hcounts]

end Taken

/-- CONTROL cells that are not taken (R310, R321; log 81). -/
theorem controlCell_refused (hlo : psMEASURE ≤ st) (hhi : st ≤ psDEGRADING) (h : BitVec 128) (c : Control) (hgood : hcGood h = true)
    (htype : hcType h = 4) :
    (hcInfo h % 256 ≠ (Config.ctlCode (controlKind c)).toNat → Runs (.controlCellReceive p h c) s fun t => t = s.chip) ∧
    (hcInfo h % 256 = (Config.ctlCode (controlKind c)).toNat → hcLseq h ≠ (s.chip.port p).rxSeq →
      Runs (.controlCellReceive p h c) s fun t => CellNak s.chip t p) := by
  have hpass := Chip.cellsPass_of hin hlo hhi
  refine ⟨fun hcode => runs_port rfl hin ?_, fun hcode hseq => runs_port rfl hin ?_⟩
  · dsimp only
    rw [hpass, hgood, htype, decide_eq_false hcode]
    rfl
  · dsimp only
    rw [hpass, decide_eq_true hcode, Bool.or_true, Bool.and_self, if_pos rfl, Chip.cellIn_accept hgood htype (by decide)]
    exact Chip.accept_other hseq

theorem badCell_cases (hlo : psMEASURE ≤ st) (hhi : st ≤ psDEGRADING) :
    (Runs (.badCellReceive p .hcrc) s fun t => CellNak s.chip t p ∧ CountUp s.chip t (pgLNK p) 0x0B 1) ∧
    (∀ l, Runs (.badCellReceive p (.fec l)) s fun t => CellNak s.chip t p ∧ CountUp s.chip t (pgLNK p) 6 1 ∧
      ∀ i, i < 4 → CountUp s.chip t (pgLNK p) (7 + i) ((l[i]?).getD 0)) ∧
    (Runs (.badCellReceive p .reservedType) s fun t => CountUp s.chip t (pgLNK p) 0x0B 1 ∧ t = { s.chip with counts := t.counts }) := by
  have hbad : ∀ why (P : Chip → Prop), P (s.chip.badIn p why) → Runs (.badCellReceive p why) s P := fun why P hP =>
    runs_port (f := fun u => if u.cellsPass p then u.badIn p why else u) rfl hin (by rw [if_pos (Chip.cellsPass_of hin hlo hhi)]; exact hP)
  exact ⟨hbad _ _ (s.chip.badIn_hcrc p), fun l => hbad _ _ (s.chip.badIn_fec p l), hbad _ _ (s.chip.badIn_reserved p)⟩

/-- Credits come back, up to the peer's buffer of 256 (R320). -/
theorem creditCell_cases (hlo : psMEASURE ≤ st) (hhi : st ≤ psDEGRADING) (n : Nat) :
    (Runs (.creditCellReceive p true n) s fun t => t.get (pgLNK p) fCredU = min (s.chip.get (pgLNK p) fCredU + n) 256 ∧
      SameRegs s.chip t [pgLNK p + 0x110] ∧ t.ports = s.chip.ports) ∧
    (Runs (.creditCellReceive p false n) s fun t => t.get (pgLNK p) fCredS = min (s.chip.get (pgLNK p) fCredS + n) 256 ∧
      SameRegs s.chip t [pgLNK p + 0x110] ∧ t.ports = s.chip.ports) := by
  have hpass := Chip.cellsPass_of hin hlo hhi
  have hput : ∀ f : Fld, f.off = 0x110 → f.lo + f.len ≤ 32 → f.len = 9 →
      (s.chip.put (pgLNK p) f (min (s.chip.get (pgLNK p) f + n) 256)).get (pgLNK p) f = min (s.chip.get (pgLNK p) f + n) 256 ∧
      SameRegs s.chip (s.chip.put (pgLNK p) f (min (s.chip.get (pgLNK p) f + n) 256)) [pgLNK p + 0x110] ∧
      (s.chip.put (pgLNK p) f (min (s.chip.get (pgLNK p) f + n) 256)).ports = s.chip.ports := fun f hoff hfit hlen => by
    refine ⟨?_, (SameRegs.refl _ _).put (by rw [hoff]; exact List.mem_singleton_self _), rfl⟩
    rw [Chip.get_put_same _ _ _ _ hfit, hlen]
    exact Nat.mod_eq_of_lt (by omega)
  refine ⟨runs_port rfl hin ?_, runs_port rfl hin ?_⟩
  all_goals
    dsimp only
    rw [if_pos hpass]
  · exact hput fCredU rfl (by decide) rfl
  · exact hput fCredS rfl (by decide) rfl

/-- Acknowledgements and NAKs of a cell in the replay buffer (R321, R322; log 53). -/
theorem ackNak_cases (hlo : psMEASURE ≤ st) (hhi : st ≤ psDEGRADING) (x : LinkCell) (pre rest : List LinkCell)
    (hreplay : (s.chip.port p).replay = pre ++ x :: rest) (hpre : ∀ y ∈ pre, y.lseq ≠ x.lseq) :
    let consec := fun n => if 1024 ≤ (s.chip.port p).ackedRun + n then 0 else s.chip.get (pgLNK p) fConsec
    Runs (.ackReceive p x.lseq) s (fun t =>
      (t.port p).replay = rest ∧ (t.port p).ackedRun = (s.chip.port p).ackedRun + (pre.length + 1) ∧
      t.get (pgLNK p) fReplayUsed = rest.length % 1024 ∧ t.get (pgLNK p) fConsec = consec (pre.length + 1) ∧
      SameRegs s.chip t [pgLNK p + 0x110] ∧ t.net = s.chip.net ∧ t.mem = s.chip.mem) ∧
    (∀ off, Runs (.nakReceive p x.lseq off) s fun t =>
      (t.port p).replay = x :: rest ∧ (t.port p).resend = rest.length + 1 ∧
      t.get (pgLNK p) fConsec = min (consec pre.length + 1) 8 ∧
      SameRegs s.chip t [pgLNK p + 0x110, pgLNK p + 0x028] ∧ t.net = s.chip.net ∧ t.mem = s.chip.mem) := by
  intro consec
  have hpass := Chip.cellsPass_of hin hlo hhi
  obtain ⟨hack, hnak⟩ := Chip.acknowledge_found hreplay hpre
  refine ⟨runs_port (f := fun u => if u.cellsPass p then u.acknowledge p x.lseq true else u) rfl hin ?_,
    fun off => runs_port (f := fun u => if u.cellsPass p then (u.acknowledge p x.lseq false).retry p off else u) rfl hin ?_⟩
  · rw [if_pos hpass, hack]
    obtain ⟨hport, hused, hconsec, hregs, hnet, hmem⟩ := s.chip.drop_spec p rest ((s.chip.port p).ackedRun + (pre.length + 1))
    rw [hport]
    exact ⟨rfl, rfl, hused, hconsec, hregs, hnet, hmem⟩
  · rw [if_pos hpass, hnak]
    obtain ⟨hport, -, hconsec, hregs, hnet, hmem⟩ := s.chip.drop_spec p (x :: rest) ((s.chip.port p).ackedRun + pre.length)
    generalize s.chip.drop p (x :: rest) ((s.chip.port p).ackedRun + pre.length) = u at *
    obtain ⟨rconsec, rresend, rreplay, -, -, -, -, rregs, rnet, rmem⟩ := u.retry_spec p off rfl
    rw [hport] at rresend rreplay
    rw [hconsec] at rconsec
    exact ⟨rreplay, rresend, rconsec, (hregs.weaken fun _ hk => List.mem_append_left [_] hk).trans rregs, rnet.trans hnet, rmem.trans hmem⟩

/-- Time-outs and the timers of the receiver (R321, R322; log 53). -/
theorem ackTimeout_cases (hlo : psMEASURE ≤ st) (hhi : st ≤ psDEGRADING) (off : Option (BitVec 4)) :
    ((s.chip.port p).replay ≠ [] → Runs (.ackTimeout p off) s fun t =>
      let n := min (s.chip.get (pgLNK p) fConsec + 1) 8
      t.get (pgLNK p) fConsec = n ∧ (t.port p).resend = (s.chip.port p).replay.length ∧ (t.port p).replay = (s.chip.port p).replay ∧
      (t.port p).ackedRun = 0 ∧ (n = 4 → t.bit (pgLNK p) ⟨0x028, 3, 1⟩ = true) ∧
      (t.port p).downDue = (if n = 8 then some 1 else (s.chip.port p).downDue) ∧
      (t.port p).degradeDue = (s.chip.retryWidth p n off).or (s.chip.port p).degradeDue ∧
      SameRegs s.chip t [pgLNK p + 0x110, pgLNK p + 0x028] ∧ t.net = s.chip.net) ∧
    ((s.chip.port p).replay = [] → Runs (.ackTimeout p off) s fun t => t = s.chip) := by
  have hpass := Chip.cellsPass_of hin hlo hhi
  refine ⟨fun hr => runs_port (f := fun u => if u.cellsPass p && (u.port p).replay ≠ [] then u.retry p off else u) rfl hin ?_,
    fun hr => runs_port (f := fun u => if u.cellsPass p && (u.port p).replay ≠ [] then u.retry p off else u) rfl hin ?_⟩
  · rw [hpass, if_pos (by simpa using hr)]
    obtain ⟨rconsec, rresend, rreplay, rrun, rirq, rdown, rdegrade, rregs, rnet, -⟩ := s.chip.retry_spec p off rfl
    exact ⟨rconsec, rresend, rreplay, rrun, rirq, rdown, rdegrade, rregs, rnet⟩
  · rw [hr, hpass, if_neg (by simp)]

theorem linkTimer_cases (hlo : psMEASURE ≤ st) (hhi : st ≤ psDEGRADING) :
    Runs (.idleCellReceive p) s (fun t => t = s.chip) ∧
    Runs (.ackTimer p) s (fun t =>
      t.port p = { (s.chip.port p).start (s.chip.cell 3 (((s.chip.port p).rxSeq + 4095) % 4096)) with rxRun := 0 } ∧ t.regs = s.chip.regs) ∧
    Runs (.nakHoldoffExpire p) s (fun t => t.port p = { s.chip.port p with nakHold := false } ∧ t.regs = s.chip.regs) := by
  refine ⟨runs_port (f := id) rfl hin rfl, runs_port (f := fun u => if u.cellsPass p then u.sendAck p else u) rfl hin ?_,
    runs_port rfl hin ⟨Chip.port_updPort_same .., rfl⟩⟩
  rw [if_pos (Chip.cellsPass_of hin hlo hhi)]
  exact ⟨Chip.port_updPort_same .., rfl⟩

end Receive

end Sys2Proof.Machine
end

section
/-! What waits at a port, and the cells that leave it (R104, R301, R310 to R312, R318, R320, R321). -/

namespace Sys2Proof.Machine

/-! ## The group under way -/

section Group

variable {s t : Chip} {p g : Nat}

/-- A port in a group. -/
def Port.inTheGroup (k : Port) (g : Nat) : Port := if k.group = g then k else { k with group := g, inGroup := 0 }

/-- The device whose port is in a group. -/
def Chip.atGroup (s : Chip) (p g : Nat) : Chip :=
  if (s.port p).group = g then s else s.updPort p fun k => { k with group := g, inGroup := 0 }

/-- A group changes nothing else of a port. -/
theorem Port.inTheGroup_eq (k : Port) (g : Nat) : ∃ a b, k.inTheGroup g = { k with group := a, inGroup := b } := by
  rw [Port.inTheGroup]
  split
  · exact ⟨k.group, k.inGroup, rfl⟩
  · exact ⟨g, 0, rfl⟩

theorem Chip.atGroup_spec (s : Chip) (p g : Nat) : PortOnly s (s.atGroup p g) ∧ (s.atGroup p g).counts = s.counts ∧
    (s.atGroup p g).port p = (s.port p).inTheGroup g ∧ ∀ q, q ≠ p → (s.atGroup p g).port q = s.port q := by
  rw [Chip.atGroup, Port.inTheGroup]
  split
  · exact ⟨.refl s, rfl, rfl, fun _ _ => rfl⟩
  · exact ⟨(PortOnly.refl s).updPort, rfl, Chip.port_updPort_same .., fun _ hq => Chip.port_updPort_other _ _ hq⟩

/-- What waits at a port depends on the mesh and the routes alone. -/
theorem Chip.outPackets_of_portOnly (h : PortOnly s t) (p : Nat) : t.outPackets p = s.outPackets p := by
  have hbound : ∀ q, t.bound p q = s.bound p q := fun q => by
    rw [Chip.bound, Chip.bound, Chip.devId, Chip.devId, Chip.get_of_regs h.regs, Chip.route_of_regs h.regs]
  have hin : ∀ q, t.inRouter q = s.inRouter q := fun q => by
    rw [Chip.inRouter, Chip.inRouter, Chip.standing, Chip.standing, h.net, h.keeps Chip.routers fun _ _ _ => rfl]
  rw [Chip.outPackets, Chip.outPackets, h.net]
  exact List.filter_congr fun q _ => by rw [hbound, hin]

theorem Chip.groupCap_of_regs (h : t.regs = s.regs) (p g : Nat) : t.groupCap p g = s.groupCap p g := by
  rw [Chip.groupCap, Chip.groupCap, Chip.get_of_regs h, Chip.get_of_regs h]

end Group

/-! ## One packet that waits -/

section One

variable {s : Chip} {p : Nat} {q : Packet} {fl : Option Nat}

/-- The one packet that waits at a port is the one of its flow. -/
theorem Chip.flowPackets_one (hout : s.outPackets p = [q]) (hflow : (s.port p).localFlow q = fl) (hlen : packetBytes q ≤ 256) :
    s.flowPackets p fl = [q] := by
  have hall : [q].filter (fun z => decide ((s.port p).localFlow z = fl)) = [q] := by simp [hflow]
  rw [Chip.flowPackets]
  cases fl with
  | none =>
    rw [if_neg (by decide), hout]
    exact hall
  | some f =>
    have hfit : s.inStatic p = [q] := by
      have hcells : (packetBytes q + 255) / 256 ≤ 256 := by omega
      have hstatic : [q].filter (fun z => ((s.port p).localFlow z).isSome) = [q] := by simp [hflow]
      rw [Chip.inStatic, hout, hstatic, fitCells, if_pos hcells, fitCells]
    rw [if_pos Option.isSome_some, hfit]
    exact hall

theorem Chip.flowWaits_of_packets (h : s.flowPackets p fl = [q]) : s.flowWaits p fl = true := by
  rw [Chip.flowWaits, h]
  rfl

/-- Nothing at all waits at a port. -/
theorem Chip.flowWaits_of_empty (hout : s.outPackets p = []) (htransit : (s.port p).transit = []) : s.flowWaits p fl = false := by
  have hnone : s.flowPackets p fl = [] := by
    rw [Chip.flowPackets, Chip.inStatic, hout]
    cases fl <;> rfl
  rw [Chip.flowWaits, hnone, Port.flowTransit, htransit]
  rfl

end One

/-! ## A packet leaves the mesh -/

section Leave

variable {s t : Chip} {p : Nat} {q z : Packet}

theorem count_eraseHeld (h : z ≠ q) (l : List (Nat × List Packet)) :
    (((eraseHeld q l).filter fun e => decide (e.1 < 1152)).map fun e => e.2.count z).sum =
      ((l.filter fun e => decide (e.1 < 1152)).map fun e => e.2.count z).sum := by
  have hcount : ∀ m : List Packet, (m.erase q).count z = m.count z := fun m => List.count_erase_of_ne h
  induction l with
  | nil => rfl
  | cons e l ih =>
    obtain ⟨k, m⟩ := e
    rw [eraseHeld]
    split
    · by_cases hk : k < 1152 <;> simp [hk, ih]
    · split
      case isTrue hm =>
        have hzero : m.count z = 0 := by rw [← hcount, hm, List.count_nil]
        by_cases hk : k < 1152 <;> simp [hk, hzero]
      case isFalse => by_cases hk : k < 1152 <;> simp [hk, hcount]

/-- Once the one packet that waits at a port has left the mesh, none does. -/
theorem Chip.outPackets_taken (hout : s.outPackets p = [q]) (hnet : t.net = s.net.erase q) (hrouters : t.routers = eraseHeld q s.routers)
    (hbound : ∀ z, t.bound p z = s.bound p z) : t.outPackets p = [] := by
  rw [Chip.outPackets] at hout
  have hq := (List.mem_filter.1 (hout ▸ List.mem_singleton_self q : q ∈ s.net.filter _)).2
  have hone : s.net.count q = 1 := by
    rw [← List.count_filter (p := fun z => s.bound p z && !s.inRouter z) hq, hout, List.count_singleton_self]
  rw [Chip.outPackets, hnet, List.filter_eq_nil_iff]
  intro z hz hwait
  have hne : z ≠ q := fun h => by
    have hpos := List.count_pos_iff.2 (h ▸ hz)
    rw [List.count_erase_self, hone] at hpos
    exact absurd hpos (by decide)
  have hin : t.inRouter z = s.inRouter z := by
    rw [Chip.inRouter, Chip.inRouter, hnet, List.count_erase_of_ne hne, Chip.standing, hrouters, count_eraseHeld hne, Chip.standing]
  rw [hbound, hin] at hwait
  exact hne (List.mem_singleton.1 (hout ▸ List.mem_filter.2 ⟨List.mem_of_mem_erase hz, hwait⟩))

end Leave

/-! ## Words that cannot be corrected (R104, R312, R393, R394) -/

section Words

variable {s t u : Chip} {p : Nat}

/-- What words that leave the mesh at a port may change: its error registers, the global log and the count of lost words. -/
structure WordsLeave (p : Nat) (s t : Chip) : Prop where
  rest : t = { s with regs := t.regs, counts := t.counts }
  regs : ∀ k, k < pgLNK p + 0x010 ∨ pgLNK p + 0x02C ≤ k → k < pgGERP ∨ pgGERP + 0x1000 ≤ k → t.reg k = s.reg k
  counts : ∀ sel, sel ≠ 0x16 → t.countOf (pgLNK p) sel = s.countOf (pgLNK p) sel

theorem WordsLeave.refl (s : Chip) : WordsLeave p s s := ⟨rfl, fun _ _ _ => rfl, fun _ _ => rfl⟩

theorem WordsLeave.trans (h : WordsLeave p s t) (h2 : WordsLeave p t u) : WordsLeave p s u := by
  refine ⟨?_, fun k hk hg => (h2.regs k hk hg).trans (h.regs k hk hg), fun sel hs => (h2.counts sel hs).trans (h.counts sel hs)⟩
  have ht := h.rest
  have hu := h2.rest
  rw [ht] at hu
  exact hu

theorem WordsLeave.keeps {β : Type} (h : WordsLeave p s t) (g : Chip → β) (hg : ∀ (u : Chip) r n, g { u with regs := r, counts := n } = g u) :
    g t = g s := (congrArg g h.rest).trans (hg s ..)

theorem wordsLeave_logErr (s : Chip) (p code : Nat) : WordsLeave p s (s.logErr (pgLNK p) code 0) := by
  have hrest := s.logErr_rest (pgLNK p) code 0
  have hcounts : (s.logErr (pgLNK p) code 0).counts = s.counts := hrest.keeps Chip.counts fun _ _ => rfl
  refine ⟨?_, fun k hk hg => s.reg_logErr_other _ _ _ _ hk hg, fun sel _ => Chip.countOf_of_counts hcounts⟩
  rw [hcounts]
  exact hrest

theorem wordsLeave_leaveWord (s : Chip) (p e : Nat) : WordsLeave p s (s.leaveWord p e) := by
  rw [Chip.leaveWord]
  split
  · exact .refl s
  · split
    · exact wordsLeave_logErr s p e
    · exact (wordsLeave_logErr s p eUNCORR).trans ⟨rfl, fun _ _ _ => rfl, fun sel hs => Chip.countOf_count_other _ _ (by omega)⟩

/-- The words of a cell leave the mesh. -/
def Chip.leaveWords (s : Chip) (p : Nat) (l : List (Nat × Nat)) : Chip := l.foldl (fun u e => u.leaveWord p e.2) s

theorem wordsLeave_leaveWords (s : Chip) (p : Nat) (l : List (Nat × Nat)) : WordsLeave p s (s.leaveWords p l) :=
  foldl_trans (WordsLeave p) .refl .trans _ _ (fun t (e : Nat × Nat) => wordsLeave_leaveWord t p e.2) s

/-- Each word that cannot be corrected is counted (R333). -/
theorem Chip.leaveWords_count (p : Nat) (l : List (Nat × Nat)) :
    ∀ s : Chip, CountUp s (s.leaveWords p l) (pgLNK p) 0x16 (l.filter fun e => decide (3 ≤ e.2)).length := by
  induction l with
  | nil => exact fun s => countUp_zero rfl
  | cons e l ih =>
    intro s
    have hlater := ih (s.leaveWord p e.2)
    rw [CountUp, Chip.leaveWords, List.foldl_cons, ← Chip.leaveWords, hlater]
    have hnow : (s.leaveWord p e.2).countOf (pgLNK p) 0x16 =
        min (s.countOf (pgLNK p) 0x16 + (if 3 ≤ e.2 then 1 else 0)) (2 ^ 64 - 1) := by
      have hlt := s.countOf_lt (pgLNK p) 0x16
      have hlog : ∀ code, (s.logErr (pgLNK p) code 0).countOf (pgLNK p) 0x16 = s.countOf (pgLNK p) 0x16 := fun code =>
        Chip.countOf_of_counts ((s.logErr_rest (pgLNK p) code 0).keeps Chip.counts fun _ _ => rfl)
      rw [Chip.leaveWord]
      split
      · rw [if_neg (by omega)]
        omega
      · split
        · rw [if_neg (by omega), hlog]
          omega
        · rw [if_pos (by omega), Chip.countOf_count_same, hlog]
    rw [hnow, List.filter_cons]
    by_cases h3 : 3 ≤ e.2
    · rw [if_pos h3, if_pos (decide_eq_true h3), List.length_cons]
      omega
    · rw [if_neg h3, if_neg (by simpa using h3)]
      omega

/-- The last word of a run that cannot be corrected sets the bit of UNCORRECTABLE (R473). -/
theorem Chip.leaveWords_logged (s : Chip) (hp : p < 16) (l : List (Nat × Nat)) (hl : ∀ e ∈ l, 3 ≤ e.2) (hne : l ≠ []) :
    (s.leaveWords p l).bit (pgLNK p) ⟨0x010, errBit eUNCORR, 1⟩ = true := by
  obtain ⟨e, he⟩ : ∃ e, l.getLast hne = e := ⟨_, rfl⟩
  have h3 : 3 ≤ e.2 := he ▸ hl _ (List.getLast_mem hne)
  have hpage : hasErrRegs (pgLNK p) = true := by
    interval_cases p <;> decide
  rw [← List.dropLast_concat_getLast hne, he, Chip.leaveWords, List.foldl_append, List.foldl_cons, List.foldl_nil, Chip.leaveWord,
    if_neg (by omega), if_neg (by omega), Chip.bit_count]
  exact Chip.bit_logErr _ 0 hpage (by decide) (.inr (by simp only [pgLNK, pgGERP]; omega))

/-- Words without an error leave no trace. -/
theorem lowFirst_zero {l : List Nat} (h : ∀ e ∈ l, e = 0) : lowFirst (l.map fun e => (0, e)) = [] := by
  rw [lowFirst]
  simp only [List.append_eq_nil_iff, List.filter_eq_nil_iff, List.forall_mem_map, decide_eq_true_eq]
  refine ⟨⟨fun e he => ?_, fun e he => ?_⟩, fun e he => ?_⟩
  all_goals
    rw [h e he]
    decide

theorem lowFirst_bad (l : List Nat) : ((lowFirst (l.map fun e => (0, e))).filter fun e => decide (3 ≤ e.2)).length =
    (l.filter fun e => decide (3 ≤ e)).length := by
  have hlow : ∀ k < 3, ∀ l : List (Nat × Nat), (l.filter fun e => decide (e.2 = k)).filter (fun e => decide (3 ≤ e.2)) = [] := fun k hk l => by
    rw [List.filter_eq_nil_iff]
    intro e he h3
    have hek := (List.mem_filter.1 he).2
    simp only [decide_eq_true_eq] at hek h3
    omega
  rw [lowFirst, List.filter_append, List.filter_append, hlow 1 (by decide), hlow 2 (by decide), List.filter_filter, List.filter_map,
    List.nil_append, List.nil_append, List.length_map]
  simp only [Bool.and_self]
  rfl

theorem Chip.leaveWords_lowFirst_logged (s : Chip) (hp : p < 16) {l : List Nat} (h : ∃ e ∈ l, 3 ≤ e) :
    (s.leaveWords p (lowFirst (l.map fun e => (0, e)))).bit (pgLNK p) ⟨0x010, errBit eUNCORR, 1⟩ = true := by
  obtain ⟨e, he, h3⟩ := h
  have hmem : (0, e) ∈ (l.map fun e => (0, e)).filter fun q => decide (3 ≤ q.2) :=
    List.mem_filter.2 ⟨List.mem_map.2 ⟨e, he, rfl⟩, decide_eq_true h3⟩
  rw [lowFirst, Chip.leaveWords, List.foldl_append]
  exact Chip.leaveWords_logged _ hp _ (fun e he => of_decide_eq_true (List.mem_filter.1 he).2) (List.ne_nil_of_mem hmem)

end Words

/-! ## A sequenced cell is sent for the first time (R320, R321) -/

section First

/-- The credit that a cell takes. -/
def creditFld (static : Bool) : Fld := if static then fCredS else fCredU

/-- A port that starts a sequenced cell. -/
def Port.sends (k : Port) (x : LinkCell) : Port :=
  { k.start { x with lseq := k.txSeq } with
      replay := k.replay ++ [{ x with lseq := k.txSeq }]
      txSeq := (k.txSeq + 1) % 4096
      resend := if k.resend = 0 then 0 else k.resend + 1 }

/-- A sequenced cell's registers and place in the replay buffer. -/
def Chip.placeCell (s : Chip) (p : Nat) (static : Bool) (x : LinkCell) : Chip :=
  ((s.put (pgLNK p) (creditFld static) (s.get (pgLNK p) (creditFld static) - 1)).updPort p fun k => k.sends x).put (pgLNK p) fReplayUsed
    ((s.port p).replay.length + 1)

theorem Chip.placeCell_spec (s : Chip) (p : Nat) (static : Bool) (x : LinkCell) :
    (s.placeCell p static x).port p = (s.port p).sends x ∧ (∀ q, q ≠ p → (s.placeCell p static x).port q = s.port q) ∧
    (s.placeCell p static x).get (pgLNK p) (creditFld static) = s.get (pgLNK p) (creditFld static) - 1 ∧
    (s.placeCell p static x).get (pgLNK p) fReplayUsed = ((s.port p).replay.length + 1) % 1024 ∧
    SameRegs s (s.placeCell p static x) [pgLNK p + 0x110] ∧ (s.placeCell p static x).counts = s.counts ∧
    (s.placeCell p static x).net = s.net ∧ (s.placeCell p static x).routers = s.routers ∧ (s.placeCell p static x).mem = s.mem := by
  have hoff : (creditFld static).off = 0x110 := by cases static <;> rfl
  have hlen : (creditFld static).lo + (creditFld static).len ≤ 22 := by cases static <;> decide
  have hnine : (creditFld static).len = 9 := by cases static <;> rfl
  have hlt : s.get (pgLNK p) (creditFld static) < 2 ^ 9 := hnine ▸ s.get_lt _ _
  have hcut : s.get (pgLNK p) (creditFld static) - 1 < 2 ^ 9 := by omega
  rw [Chip.placeCell]
  generalize s.get (pgLNK p) (creditFld static) - 1 = n at *
  refine ⟨by simp, fun q hq => ?_, ?_, Chip.get_put_same _ _ _ _ (by decide), ?_, by simp, by simp, by simp, by simp⟩
  · rw [Chip.port_put, Chip.port_updPort_other _ _ hq, Chip.port_put]
  · rw [Chip.get_put_off _ _ (.inr (.inl hlen)), Chip.get_updPort, Chip.get_put_same _ _ _ _ (by omega), hnine]
    exact Nat.mod_eq_of_lt hcut
  · exact SameRegs.put (SameRegs.of_regs (t := s.put (pgLNK p) (creditFld static) n)
      ((SameRegs.refl s _).put (by rw [hoff]; exact List.mem_singleton_self _)) rfl) (List.mem_singleton_self _)

theorem Chip.firstSend_eq (s : Chip) (p : Nat) (static : Bool) (x : LinkCell) : s.firstSend p static x =
    if x.type = 0 then ((s.placeCell p static x).count (pgLNK p) 0 1).count (pgLNK p) 2 x.len else s.placeCell p static x := by
  cases static <;> rfl

end First

end Sys2Proof.Machine
end

section
/-! The next cell of a flow: one packet, or a cell in transit (R104, R311, R312, R318, R320, R323). -/

namespace Sys2Proof.Machine

/-! ## A packet that fills a cell of its own -/

section Packets

variable {u : Chip} {p : Nat} {q : Packet} {fl : Option Nat} {errs : List Nat}

/-- The cell that carries one packet. -/
def Chip.packetCell (u : Chip) (fl : Option Nat) (q : Packet) (errs : List Nat) : LinkCell :=
  { u.cell 0 0 with
      dst := q.dst.dev
      flow := fl.getD 63
      len := packetBytes q
      pkts := [q]
      poison := poisonOf ((packetTags q).take (packetBytes q)) errs }

/-- No packet is partly sent. -/
def Port.noPart (k : Port) : Port := { k with partSent := [] }

/-- The bit errors of the words that one packet takes from the mesh. -/
def wordErrs (q : Packet) (errs : List Nat) : List Nat := errs.take ((packetBytes q + 7) / 8)

/-- The mesh without the packet, its words logged. -/
def Chip.takeWords (u : Chip) (p : Nat) (q : Packet) (errs : List Nat) : Chip :=
  (u.netTake q).leaveWords p (lowFirst ((wordErrs q errs).map fun e => (0, e)))

theorem Chip.updPort_congr {g g' : Port → Port} (h : g (u.port p) = g' (u.port p)) : u.updPort p g = u.updPort p g' :=
  congrArg (u.setPort p) h

/-- A cell that is filled from the packets `l` of one way, of which `sent` bytes have left, with `r` as `fillCell` gives it. -/
def Chip.sendFilled (u : Chip) (p : Nat) (fl : Option Nat) (dev : Nat) (l : List Packet) (sent : Nat) (r : Nat × List Packet × Nat)
    (errs : List Nat) : Chip :=
  let x : LinkCell := { u.cell 0 (pktStart l sent) with
    dst := dev, flow := fl.getD 63, len := r.1, pkts := r.2.1, poison := poisonOf (((l.flatMap packetTags).drop sent).take r.1) errs }
  let t := (r.2.1.foldl Chip.netTake u).leaveWords p (lowFirst ((errs.take ((r.1 + 7) / 8)).map fun e => (0, e)))
  (t.updPort p fun j => { j with partSent := sset natReset j.partSent (partKey fl dev) r.2.2 }).firstSend p fl.isSome x

theorem Chip.sendFlow_filled {rest : List Packet} (htransit : (u.port p).transit = []) (hwaits : u.flowPackets p fl = q :: rest) :
    u.sendFlow p fl errs =
      let l := (q :: rest).filter fun z => z.dst.dev = q.dst.dev
      let sent := sget natReset (u.port p).partSent (partKey fl q.dst.dev)
      u.sendFilled p fl q.dst.dev l sent (fillCell l sent 256) errs := by
  rw [Chip.sendFlow, htransit, hwaits]
  rfl

theorem Chip.sendFilled_packet (hpart : (u.port p).partSent = []) :
    u.sendFilled p fl q.dst.dev [q] 0 (packetBytes q, [q], 0) errs =
      ((u.takeWords p q errs).updPort p Port.noPart).firstSend p fl.isSome (u.packetCell fl q errs) := by
  have htags : [q].flatMap packetTags = packetTags q := by simp
  have hport : (u.takeWords p q errs).port p = u.port p :=
    Chip.port_of_ports ((wordsLeave_leaveWords (u.netTake q) p _).keeps Chip.ports fun _ _ _ => rfl)
  rw [Chip.sendFilled, htags]
  refine congrArg (fun w : Chip => w.firstSend p fl.isSome (u.packetCell fl q errs)) (Chip.updPort_congr (u := u.takeWords p q errs) ?_)
  rw [hport, hpart]
  rfl

/-- The one packet of a flow leaves in a cell of its own. -/
theorem Chip.sendFlow_packet (htransit : (u.port p).transit = []) (hpart : (u.port p).partSent = []) (hwaits : u.flowPackets p fl = [q])
    (hlen : packetBytes q ≤ 256) :
    u.sendFlow p fl errs = ((u.takeWords p q errs).updPort p Port.noPart).firstSend p fl.isSome (u.packetCell fl q errs) := by
  have hfill : fillCell [q] 0 256 = (packetBytes q, [q], 0) := by
    rw [fillCell, fillCell]
    dsimp only
    rw [Nat.sub_zero, if_neg (not_lt.2 hlen), Nat.add_zero]
  have hsame : [q].filter (fun z => decide (z.dst.dev = q.dst.dev)) = [q] := by simp
  rw [Chip.sendFlow_filled htransit hwaits]
  dsimp only
  rw [hsame, hpart, sget_nil, show natReset _ = 0 from rfl, hfill]
  exact Chip.sendFilled_packet hpart

/-- What the words of a packet leave of the device when it has left the mesh. -/
theorem Chip.takeWords_spec (u : Chip) (p : Nat) (q : Packet) (errs : List Nat) (hp : p < 16) : (u.takeWords p q errs).net = u.net.erase q ∧
    (u.takeWords p q errs).routers = eraseHeld q u.routers ∧ (u.takeWords p q errs).mem = u.mem ∧ (u.takeWords p q errs).ports = u.ports ∧
    (u.takeWords p q errs).reg (pgLNK p + 0x110) = u.reg (pgLNK p + 0x110) ∧
    (∀ sel, sel ≠ 0x16 → (u.takeWords p q errs).countOf (pgLNK p) sel = u.countOf (pgLNK p) sel) ∧
    CountUp u (u.takeWords p q errs) (pgLNK p) 0x16 ((wordErrs q errs).filter fun e => decide (3 ≤ e)).length ∧
    ((∃ e ∈ wordErrs q errs, 3 ≤ e) → (u.takeWords p q errs).bit (pgLNK p) ⟨0x010, errBit eUNCORR, 1⟩ = true) ∧
    ((∀ e ∈ errs, e = 0) → (u.takeWords p q errs).regs = u.regs) := by
  have hwords := wordsLeave_leaveWords (u.netTake q) p (lowFirst ((wordErrs q errs).map fun e => (0, e)))
  have hcount := Chip.leaveWords_count p (lowFirst ((wordErrs q errs).map fun e => (0, e))) (u.netTake q)
  rw [lowFirst_bad] at hcount
  refine ⟨hwords.keeps Chip.net fun _ _ _ => rfl, hwords.keeps Chip.routers fun _ _ _ => rfl, hwords.keeps Chip.mem fun _ _ _ => rfl,
    hwords.keeps Chip.ports fun _ _ _ => rfl, hwords.regs _ (.inr (by omega)) (.inr (by simp only [pgLNK, pgGERP]; omega)),
    hwords.counts, hcount, Chip.leaveWords_lowFirst_logged _ hp, fun h => ?_⟩
  rw [Chip.takeWords, wordErrs, lowFirst_zero fun e he => h e (List.mem_of_mem_take he)]
  rfl

/-- A packet has left in a cell of its own. -/
structure PacketSent (p : Nat) (q : Packet) (fl : Option Nat) (errs : List Nat) (u t : Chip) : Prop where
  port : t.port p = (u.port p).noPart.sends (u.packetCell fl q errs)
  credit : t.get (pgLNK p) (creditFld fl.isSome) = u.get (pgLNK p) (creditFld fl.isSome) - 1
  net : t.net = u.net.erase q
  routers : t.routers = eraseHeld q u.routers
  mem : t.mem = u.mem
  cells : CountUp u t (pgLNK p) 0 1
  bytes : CountUp u t (pgLNK p) 2 (packetBytes q)
  lost : CountUp u t (pgLNK p) 0x16 ((wordErrs q errs).filter fun e => decide (3 ≤ e)).length
  counts : ∀ sel, sel ∉ [0, 2, 0x16] → t.countOf (pgLNK p) sel = u.countOf (pgLNK p) sel
  logged : (∃ e ∈ wordErrs q errs, 3 ≤ e) → t.bit (pgLNK p) ⟨0x010, errBit eUNCORR, 1⟩ = true
  regs : (∀ e ∈ errs, e = 0) → SameRegs u t [pgLNK p + 0x110]

theorem packetSent_sendFlow (hp : p < 16) (htransit : (u.port p).transit = []) (hpart : (u.port p).partSent = [])
    (hwaits : u.flowPackets p fl = [q]) (hlen : packetBytes q ≤ 256) : PacketSent p q fl errs u (u.sendFlow p fl errs) := by
  obtain ⟨wnet, wrouters, wmem, wports, wreg, wcounts, wlost, wlogged, wregs⟩ := u.takeWords_spec p q errs hp
  rw [Chip.sendFlow_packet htransit hpart hwaits hlen, Chip.firstSend_eq, if_pos (show (u.packetCell fl q errs).type = 0 from rfl)]
  have hbytes : (u.packetCell fl q errs).len = packetBytes q := rfl
  generalize hx : u.packetCell fl q errs = x at *
  generalize u.takeWords p q errs = w at *
  have hwcount : ∀ sel, (w.updPort p Port.noPart).countOf (pgLNK p) sel = w.countOf (pgLNK p) sel := fun sel => Chip.countOf_updPort ..
  obtain ⟨pport, -, pcredit, -, pregs, pcounts, pnet, prouters, pmem⟩ := (w.updPort p Port.noPart).placeCell_spec p fl.isSome x
  rw [hbytes]
  have hcount : ∀ sel, ((w.updPort p Port.noPart).placeCell p fl.isSome x).countOf (pgLNK p) sel = w.countOf (pgLNK p) sel := fun sel =>
    (Chip.countOf_of_counts pcounts).trans (hwcount sel)
  generalize (w.updPort p Port.noPart).placeCell p fl.isSome x = v at *
  have hother : ∀ sel, sel ≠ 0 → sel ≠ 2 → ((v.count (pgLNK p) 0 1).count (pgLNK p) 2 (packetBytes q)).countOf (pgLNK p) sel =
      w.countOf (pgLNK p) sel := fun sel h0 h2 => by
    rw [Chip.countOf_count_other _ _ (by omega), Chip.countOf_count_other _ _ (by omega), hcount]
  refine ⟨?_, ?_, ?_, ?_, ?_, ?_, ?_, ?_, fun sel hsel => ?_, fun h => ?_, fun h => ?_⟩
  · rw [Chip.port_count, Chip.port_count, pport, Chip.port_updPort_same, Chip.port_of_ports wports, hx]
  · have hfld : (creditFld fl.isSome).off = 0x110 := by cases fl <;> rfl
    rw [Chip.get_count, Chip.get_count, pcredit, Chip.get_updPort, u.get_congr (hfld.symm ▸ wreg)]
  · simpa using pnet.trans wnet
  · simpa using prouters.trans wrouters
  · simpa using pmem.trans wmem
  · rw [CountUp, Chip.countOf_count_other _ _ (by omega), Chip.countOf_count_same, hcount, wcounts _ (by decide)]
  · rw [CountUp, Chip.countOf_count_same, Chip.countOf_count_other _ _ (by omega), hcount, wcounts _ (by decide)]
  · rw [CountUp, hother _ (by decide) (by decide)]
    exact wlost
  · simp only [List.mem_cons, List.not_mem_nil, or_false, not_or] at hsel
    obtain ⟨h0, h2, h16⟩ := hsel
    rw [hother sel h0 h2, wcounts sel h16]
  · rw [Chip.bit_count, Chip.bit_count, pregs.bit (by simp), Chip.bit_updPort]
    exact wlogged h
  · have hsame : SameRegs u v [pgLNK p + 0x110] := SameRegs.trans ((SameRegs.refl u _).of_regs (wregs h)) pregs
    exact hsame.count.count

end Packets

/-! ## A cell in transit -/

section Transit

variable {u : Chip} {p i : Nat} {x : LinkCell} {errs : List Nat}

/-- A port without a cell in transit. -/
def Port.unload (e : Option Nat × LinkCell) (k : Port) : Port := { k with transit := k.transit.erase e }

/-- A transit cell of unassigned traffic. -/
def LinkCell.unassigned (x : LinkCell) : LinkCell := { x with flow := 63 }

theorem Chip.transitLeft_some (v : Chip) (hfrom : x.inPort = some i) : v.transitLeft x = v.dueBack i (decide (x.flow = 63)) := by
  rw [Chip.transitLeft, hfrom]

theorem Chip.sendFlow_waiting (htransit : (u.port p).transit = [(none, x)]) (hfrom : x.inPort = some i) : u.sendFlow p none errs =
    (((u.updPort p (Port.unload (none, x))).firstSend p false x.unassigned).count (pgLNK p) 0x14 1).dueBack i (decide (x.flow = 63)) := by
  have hfind : [((none : Option Nat), x)].find? (fun e => decide (e.1 = none)) = some (none, x) := rfl
  rw [Chip.sendFlow, htransit, hfind]
  exact Chip.transitLeft_some _ hfrom

/-- The one transit cell of a port leaves: the port at which it arrived has its credit back (R320, R323). -/
theorem sendFlow_transit (htransit : (u.port p).transit = [(none, x)]) (htype : x.type = 0) (hfrom : x.inPort = some i) (hi : i ≠ p) :
    ((u.sendFlow p none errs).port p).transit = [] ∧
    ((u.sendFlow p none errs).port p).sent = some { x with flow := 63, lseq := (u.port p).txSeq } ∧
    CountUp u (u.sendFlow p none errs) (pgLNK p) 0x14 1 ∧ CountUp u (u.sendFlow p none errs) (pgLNK p) 0 1 ∧
    ((u.sendFlow p none errs).port i).retU = (u.port i).retU + (if x.flow = 63 then 1 else 0) ∧
    ((u.sendFlow p none errs).port i).retS = (u.port i).retS + (if x.flow = 63 then 0 else 1) ∧
    (u.sendFlow p none errs).net = u.net ∧ SameRegs u (u.sendFlow p none errs) [pgLNK p + 0x110] := by
  have hunload : ((u.updPort p (Port.unload (none, x))).port p).transit = [] := by
    rw [Chip.port_updPort_same, Port.unload, htransit]
    exact List.erase_cons_head ..
  have hfields : ((u.updPort p (Port.unload (none, x))).port p).txSeq = (u.port p).txSeq := by
    rw [Chip.port_updPort_same]
    rfl
  have hother : (u.updPort p (Port.unload (none, x))).port i = u.port i := Chip.port_updPort_other _ _ hi
  rw [Chip.sendFlow_waiting htransit hfrom, Chip.dueBack_eq, Chip.firstSend_eq, if_pos (show x.unassigned.type = 0 from htype)]
  have hkeep : PortOnly u (u.updPort p (Port.unload (none, x))) := (PortOnly.refl u).updPort
  have hcounts : (u.updPort p (Port.unload (none, x))).counts = u.counts := rfl
  generalize u.updPort p (Port.unload (none, x)) = w at *
  obtain ⟨pport, pother, -, -, pregs, pcounts, pnet, -, -⟩ := w.placeCell_spec p false x.unassigned
  have hcount : ∀ sel, (w.placeCell p false x.unassigned).countOf (pgLNK p) sel = u.countOf (pgLNK p) sel := fun sel =>
    Chip.countOf_of_counts (pcounts.trans hcounts)
  have hback := pother i hi
  generalize w.placeCell p false x.unassigned = v at *
  obtain ⟨-, -, -, -, hretU, hretS⟩ := (v.port i).due_spec (decide (x.flow = 63))
  refine ⟨?_, ?_, ?_, ?_, ?_, ?_, ?_, ?_⟩
  · rw [Chip.port_updPort_other _ _ hi.symm, Chip.port_count, Chip.port_count, Chip.port_count, pport]
    exact hunload
  · rw [Chip.port_updPort_other _ _ hi.symm, Chip.port_count, Chip.port_count, Chip.port_count, pport, ← hfields]
    rfl
  · rw [CountUp, Chip.countOf_updPort, Chip.countOf_count_same, Chip.countOf_count_other _ _ (by omega),
      Chip.countOf_count_other _ _ (by omega), hcount]
  · rw [CountUp, Chip.countOf_updPort, Chip.countOf_count_other _ _ (by omega), Chip.countOf_count_other _ _ (by omega),
      Chip.countOf_count_same, hcount]
  · rw [Chip.port_updPort_same, Chip.port_count, Chip.port_count, Chip.port_count, hretU, hback, hother]
    simp
  · rw [Chip.port_updPort_same, Chip.port_count, Chip.port_count, Chip.port_count, hretS, hback, hother]
    simp
  · simpa using pnet.trans hkeep.net
  · exact ((SameRegs.of_regs (SameRegs.refl u _) hkeep.regs).trans pregs).of_regs (by simp)

end Transit

end Sys2Proof.Machine
end

section
/-! The cell that a port starts (R54, R315, R316, R318, R320, R321, R323; log 54). -/

namespace Sys2Proof.Machine

/-! ## The order of what a port sends (R318) -/

section Order

variable {s u : Chip} {p g st f : Nat} {room : Bool} {errs : List Nat}

theorem Chip.noteMisses_none (h : (s.port p).ended = []) : s.noteMisses p = s := by
  rw [Chip.noteMisses, h]
  rfl

/-- The group has room for a cell of a flow, and a static credit and a place for it are free. -/
def Chip.fitsGroup (u : Chip) (p g : Nat) : Bool := decide ((u.port p).inGroup < u.groupCap p g) && u.maySend p true

/-- A cell of a flow with slot misses leaves. -/
def Chip.sendMissed (u : Chip) (p f n : Nat) (errs : List Nat) : Chip :=
  (u.sendFlow p (some f) errs).updPort p fun j =>
    { j.setMisses f (if (u.sendFlow p (some f) errs).flowWaits p (some f) then n - 1 else 0) with inGroup := j.inGroup + 1 }

/-- A cell of the group's owner leaves. -/
def Chip.sendOwn (u : Chip) (p f : Nat) (errs : List Nat) : Chip :=
  ((u.sendFlow p (some f) errs).updPort p fun j => { j with inGroup := j.inGroup + 1 }).count (pgLNK p) 0x0D 1

/-- What a port that is UP starts. -/
def Chip.sendUp (u : Chip) (p g : Nat) (room : Bool) (errs : List Nat) : Chip :=
  match (u.port p).missed.find? fun e => u.flowWaits p (some e.1) && u.fitsGroup p g with
  | some (f, n) => u.sendMissed p f n errs
  | none =>
    match (match (u.port p).owner g with
      | some f => if u.flowWaits p (some f) && u.fitsGroup p g then some f else none
      | none => none) with
    | some f => u.sendOwn p f errs
    | none => if room then u.sendOther p errs else u

theorem Chip.transmit_begun (hst : s.portState p = st) (hlo : psMEASURE ≤ st) (hhi : st ≤ psDEGRADING) (hended : (s.port p).ended = []) :
    s.transmit p g room errs =
      if 4095 ≤ ((s.atGroup p g).port p).idleRun then (s.atGroup p g).updPort p fun j => j.start (s.cell 5 0)
      else if st ≠ psUP then (s.atGroup p g).sendOther p errs else (s.atGroup p g).sendUp p g room errs := by
  have hended' : ((s.atGroup p g).port p).ended = [] := by
    obtain ⟨a, b, hj⟩ := (s.port p).inTheGroup_eq g
    rw [(s.atGroup_spec p g).2.2.1, hj]
    exact hended
  have hdown : st ≠ psDOWN := fun h => by
    rw [h] at hhi
    exact absurd hhi (by decide)
  rw [Chip.transmit, hst]
  dsimp only
  rw [if_neg hdown, if_neg (not_lt.2 hlo), ← Chip.atGroup, Chip.noteMisses_none hended']
  rfl

theorem Chip.sendUp_other (hmissed : (u.port p).missed = []) (howner : (u.port p).owner g = none) :
    u.sendUp p g true errs = u.sendOther p errs := by
  rw [Chip.sendUp, hmissed, howner]
  rfl

theorem Chip.sendUp_own (hmissed : (u.port p).missed = []) (howner : (u.port p).owner g = some f)
    (hwaits : u.flowWaits p (some f) = true) (hfits : u.fitsGroup p g = true) : u.sendUp p g room errs = u.sendOwn p f errs := by
  rw [Chip.sendUp, hmissed, howner]
  dsimp only [List.find?_nil]
  rw [hwaits, hfits]
  rfl

theorem Chip.sendUp_missed {n : Nat} {pre rest : List (Nat × Nat)} (hmissed : (u.port p).missed = pre ++ (f, n) :: rest)
    (hpre : ∀ e ∈ pre, u.flowWaits p (some e.1) = false) (hwaits : u.flowWaits p (some f) = true) (hfits : u.fitsGroup p g = true) :
    u.sendUp p g room errs = u.sendMissed p f n errs := by
  have hfind : (pre ++ (f, n) :: rest).find? (fun e => u.flowWaits p (some e.1) && u.fitsGroup p g) = some (f, n) := by
    rw [List.find?_append, List.find?_eq_none.2 fun e he => by rw [hpre e he, Bool.false_and]; decide, Option.none_or, List.find?_cons, hwaits, hfits]
    rfl
  rw [Chip.sendUp, hmissed, hfind]

/-- A cell of no flow is what the port starts. -/
theorem Chip.transmit_other (hst : s.portState p = st) (hlo : psMEASURE ≤ st) (hhi : st ≤ psDEGRADING) (hended : (s.port p).ended = [])
    (hmissed : (s.port p).missed = []) (hrun : (s.port p).idleRun < 4095) (hup : st = psUP → (s.port p).owner g = none ∧ room = true) :
    s.transmit p g room errs = (s.atGroup p g).sendOther p errs := by
  obtain ⟨a, b, hj⟩ := (s.port p).inTheGroup_eq g
  have hport : (s.atGroup p g).port p = { s.port p with group := a, inGroup := b } := by rw [(s.atGroup_spec p g).2.2.1, hj]
  rw [Chip.transmit_begun hst hlo hhi hended, if_neg (by rw [hport]; exact not_le.2 hrun)]
  by_cases h : st = psUP
  · obtain ⟨howner, hroom⟩ := hup h
    rw [if_neg (not_not.2 h), hroom, Chip.sendUp_other (by rw [hport]; exact hmissed) (by rw [hport]; exact howner)]
  · rw [if_pos h]

end Order

/-! ## A cell of no flow (R310, R315, R318, R320, R321) -/

section Other

variable {s : Chip} {p g : Nat} {errs : List Nat}

theorem Chip.maySend_iff (u : Chip) (p : Nat) (static : Bool) : u.maySend p static = true ↔
    u.get (pgLNK p) (creditFld static) ≠ 0 ∧ (u.port p).replay.length < 512 := by
  rw [Chip.maySend, Chip.bit, Bool.and_eq_true, decide_eq_true_eq, decide_eq_true_eq, creditFld]

/-- What a port's group leaves of its other fields. -/
theorem Chip.atGroup_port (s : Chip) (p g : Nat) :
    ∃ a b, (s.atGroup p g).port p = { s.port p with group := a, inGroup := b } ∧
      (s.port p).inTheGroup g = { s.port p with group := a, inGroup := b } := by
  obtain ⟨a, b, hj⟩ := (s.port p).inTheGroup_eq g
  exact ⟨a, b, (s.atGroup_spec p g).2.2.1.trans hj, hj⟩

theorem Chip.atGroup_maySend (s : Chip) (p g : Nat) (static : Bool) : (s.atGroup p g).maySend p static = s.maySend p static := by
  obtain ⟨a, b, hport, -⟩ := s.atGroup_port p g
  rw [Chip.maySend, Chip.maySend, Chip.bit_of_regs (s.atGroup_spec p g).1.regs, hport]

/-- A cell that takes no credit and no number leaves, and nothing else changes. -/
def OnlyStarts (s t : Chip) (p g : Nat) (x : LinkCell) : Prop :=
  t.port p = ((s.port p).inTheGroup g).start x ∧ t.regs = s.regs ∧ t.net = s.net ∧ t.mem = s.mem

theorem onlyStarts_idle (s : Chip) (p g : Nat) :
    OnlyStarts s ((s.atGroup p g).updPort p fun j => j.start (s.cell 5 0)) p g (s.cell 5 0) := by
  obtain ⟨hkeep, -, hport, -⟩ := s.atGroup_spec p g
  refine ⟨?_, hkeep.updPort.regs, hkeep.updPort.net, hkeep.updPort.mem⟩
  rw [Chip.port_updPort_same, hport]

/-- A cell that is sent again (R321). -/
theorem Chip.sendOther_resent {x : LinkCell} (hresend : (s.port p).resend ≠ 0)
    (hx : (s.port p).replay[(s.port p).replay.length - (s.port p).resend]? = some x) :
    ((s.atGroup p g).sendOther p errs).port p = { ((s.port p).inTheGroup g).start x with resend := (s.port p).resend - 1 } ∧
    CountUp s ((s.atGroup p g).sendOther p errs) (pgLNK p) 3 1 ∧ ((s.atGroup p g).sendOther p errs).regs = s.regs ∧
    ((s.atGroup p g).sendOther p errs).net = s.net := by
  obtain ⟨hkeep, hcounts, -, -⟩ := s.atGroup_spec p g
  obtain ⟨a, b, hport, hj⟩ := s.atGroup_port p g
  generalize s.atGroup p g = u at *
  have hsend : u.sendOther p errs = (u.updPort p fun j => { j.start x with resend := j.resend - 1 }).count (pgLNK p) 3 1 := by
    rw [Chip.sendOther, hport]
    dsimp only
    rw [if_pos hresend, hx]
  rw [hsend]
  refine ⟨?_, ?_, hkeep.updPort.count.regs, hkeep.updPort.count.net⟩
  · rw [Chip.port_count, Chip.port_updPort_same, hport, hj]
  · exact (countUp_count _ _ _ _).of_before ((Chip.countOf_updPort ..).trans (Chip.countOf_of_counts hcounts))

/-- Static credits go back (R320). -/
theorem Chip.sendOther_retS (hresend : (s.port p).resend = 0) (hret : (s.port p).retS ≠ 0) :
    ((s.atGroup p g).sendOther p errs).port p = { ((s.port p).inTheGroup g).start (s.cell 2 (s.port p).retS) with retS := 0 } ∧
    ((s.atGroup p g).sendOther p errs).regs = s.regs ∧ ((s.atGroup p g).sendOther p errs).net = s.net := by
  obtain ⟨hkeep, -, -, -⟩ := s.atGroup_spec p g
  obtain ⟨a, b, hport, hj⟩ := s.atGroup_port p g
  generalize s.atGroup p g = u at *
  have hsend : u.sendOther p errs = u.updPort p fun j => { j.start (u.cell 2 j.retS) with retS := 0 } := by
    rw [Chip.sendOther, hport]
    dsimp only
    rw [hresend, if_neg (by decide), if_pos hret]
  rw [hsend]
  refine ⟨?_, hkeep.updPort.regs, hkeep.updPort.net⟩
  rw [Chip.port_updPort_same, hport, hj, Chip.cell_of_regs hkeep.regs]

/-- Unassigned credits go back (R320). -/
theorem Chip.sendOther_retU (hresend : (s.port p).resend = 0) (hretS : (s.port p).retS = 0) (hret : (s.port p).retU ≠ 0) :
    ((s.atGroup p g).sendOther p errs).port p =
      { ((s.port p).inTheGroup g).start (s.cell 2 ((s.port p).retU + 2 ^ 12)) with retU := 0 } ∧
    ((s.atGroup p g).sendOther p errs).regs = s.regs ∧ ((s.atGroup p g).sendOther p errs).net = s.net := by
  obtain ⟨hkeep, -, -, -⟩ := s.atGroup_spec p g
  obtain ⟨a, b, hport, hj⟩ := s.atGroup_port p g
  generalize s.atGroup p g = u at *
  have hsend : u.sendOther p errs = u.updPort p fun j => { j.start (u.cell 2 (j.retU + 2 ^ 12)) with retU := 0 } := by
    rw [Chip.sendOther, hport]
    dsimp only
    rw [hresend, hretS, if_neg (by decide), if_neg (by decide), if_pos hret]
  rw [hsend]
  refine ⟨?_, hkeep.updPort.regs, hkeep.updPort.net⟩
  rw [Chip.port_updPort_same, hport, hj, Chip.cell_of_regs hkeep.regs]

/-- The CONTROL cells that still wait. -/
def Port.setCtl (l : List Control) (k : Port) : Port := { k with ctl := l }

section NoReturn

variable (hresend : (s.port p).resend = 0) (hretS : (s.port p).retS = 0) (hretU : (s.port p).retU = 0)
include hresend hretS hretU

/-- A CONTROL cell waits. -/
theorem Chip.sendOther_ctl {c : Control} {rest : List Control} (hctl : (s.port p).ctl = c :: rest) :
    (s.atGroup p g).sendOther p errs =
      if s.maySend p false then ((s.atGroup p g).updPort p (Port.setCtl rest)).firstSend p false (s.ctlCell c)
      else (s.atGroup p g).updPort p fun j => j.start (s.cell 5 0) := by
  obtain ⟨hkeep, -, -, -⟩ := s.atGroup_spec p g
  obtain ⟨a, b, hport, -⟩ := s.atGroup_port p g
  have hcell : (s.atGroup p g).ctlCell c = s.ctlCell c := by rw [Chip.ctlCell, Chip.ctlCell, Chip.cell_of_regs hkeep.regs]
  rw [← s.atGroup_maySend p g, ← hcell, ← Chip.cell_of_regs hkeep.regs]
  generalize s.atGroup p g = u at *
  rw [Chip.sendOther, hport]
  dsimp only
  rw [hresend, hretS, hretU, if_neg (by decide), if_neg (by decide), if_neg (by decide), hctl]
  rfl

/-- Nothing but unassigned traffic may wait. -/
theorem Chip.sendOther_rest (hctl : (s.port p).ctl = []) : (s.atGroup p g).sendOther p errs =
    if s.portState p = psUP && (s.atGroup p g).flowWaits p none && s.maySend p false then (s.atGroup p g).sendFlow p none errs
    else (s.atGroup p g).updPort p fun j => j.start (s.cell 5 0) := by
  obtain ⟨hkeep, -, -, -⟩ := s.atGroup_spec p g
  obtain ⟨a, b, hport, -⟩ := s.atGroup_port p g
  rw [← s.atGroup_maySend p g, ← Chip.portState_of_regs hkeep.regs, ← Chip.cell_of_regs hkeep.regs]
  generalize s.atGroup p g = u at *
  rw [Chip.sendOther, hport]
  dsimp only
  rw [hresend, hretS, hretU, if_neg (by decide), if_neg (by decide), if_neg (by decide), hctl]

/-- A CONTROL cell leaves, with its code and its number (R310, R320, R321). -/
theorem Chip.sendOther_control {c : Control} {rest : List Control} (hctl : (s.port p).ctl = c :: rest) (hmay : s.maySend p false = true) :
    let t := (s.atGroup p g).sendOther p errs
    let x := { s.ctlCell c with lseq := (s.port p).txSeq }
    t.port p = { ((s.port p).inTheGroup g).start x with
      ctl := rest, replay := (s.port p).replay ++ [x], txSeq := ((s.port p).txSeq + 1) % 4096 } ∧
    t.get (pgLNK p) fCredU = s.get (pgLNK p) fCredU - 1 ∧ t.get (pgLNK p) fReplayUsed = (s.port p).replay.length + 1 ∧
    SameRegs s t [pgLNK p + 0x110] ∧ t.net = s.net := by
  have hroom := ((s.maySend_iff p false).1 hmay).2
  obtain ⟨hkeep, -, -, -⟩ := s.atGroup_spec p g
  obtain ⟨a, b, hport, hj⟩ := s.atGroup_port p g
  intro t x
  have htype : ¬ (s.ctlCell c).type = 0 := show ¬ (4 : Nat) = 0 by decide
  have ht : t = ((s.atGroup p g).updPort p (Port.setCtl rest)).placeCell p false (s.ctlCell c) := by
    rw [show t = _ from Chip.sendOther_ctl hresend hretS hretU hctl, if_pos hmay, Chip.firstSend_eq, if_neg htype]
  rw [ht]
  generalize s.atGroup p g = u at *
  have hw : PortOnly s (u.updPort p (Port.setCtl rest)) := hkeep.updPort
  have hwport : (u.updPort p (Port.setCtl rest)).port p = { s.port p with group := a, inGroup := b, ctl := rest } := by
    rw [Chip.port_updPort_same, hport]
    rfl
  generalize (u.updPort p (Port.setCtl rest)) = w at *
  obtain ⟨pport, -, pcredit, pused, pregs, -, pnet, -, -⟩ := w.placeCell_spec p false (s.ctlCell c)
  refine ⟨?_, ?_, ?_, SameRegs.trans ((SameRegs.refl s _).of_regs hw.regs) pregs, pnet.trans hw.net⟩
  · rw [pport, hwport, hj, Port.sends]
    dsimp only
    rw [hresend]
    rfl
  · rw [show fCredU = creditFld false from rfl, pcredit, Chip.get_of_regs hw.regs]
  · rw [pused, hwport]
    exact Nat.mod_eq_of_lt (show (s.port p).replay.length + 1 < 1024 by omega)

/-- Traffic of no flow leaves where it waits and a credit is free (R318, R320). -/
theorem Chip.sendOther_traffic (hctl : (s.port p).ctl = []) (hup : s.portState p = psUP) (hwaits : (s.atGroup p g).flowWaits p none = true)
    (hmay : s.maySend p false = true) : (s.atGroup p g).sendOther p errs = (s.atGroup p g).sendFlow p none errs := by
  rw [Chip.sendOther_rest hresend hretS hretU hctl, hup, hwaits, hmay]
  rfl

end NoReturn

/-- A group does not change what waits in a flow. -/
theorem Chip.flowWaits_atGroup (s : Chip) (p g : Nat) (fl : Option Nat) : (s.atGroup p g).flowWaits p fl = s.flowWaits p fl := by
  obtain ⟨a, b, hport, -⟩ := s.atGroup_port p g
  have hout := Chip.outPackets_of_portOnly (s.atGroup_spec p g).1 p
  rw [Chip.flowWaits, Chip.flowWaits, Chip.flowPackets, Chip.flowPackets, Chip.inStatic, Chip.inStatic, hout, hport]
  rfl

end Other

/-! ## Cells of flows (R54, R318) -/

section Flows

variable {s : Chip} {p g f : Nat} {q : Packet} {fl : Option Nat} {errs : List Nat}

section OneWaits

variable (hout : s.outPackets p = [q]) (hflow : (s.port p).localFlow q = fl) (hlen : packetBytes q ≤ 256)
include hout hflow hlen

/-- The one packet that waits at a port, once the port is in a group. -/
theorem Chip.flowPackets_atGroup : (s.atGroup p g).flowPackets p fl = [q] := by
  obtain ⟨a, b, hport, -⟩ := s.atGroup_port p g
  refine Chip.flowPackets_one ((Chip.outPackets_of_portOnly (s.atGroup_spec p g).1 p).trans hout) ?_ hlen
  rw [hport]
  exact hflow

theorem packetSent_atGroup (hp : p < 16) (htransit : (s.port p).transit = []) (hpart : (s.port p).partSent = []) :
    PacketSent p q fl errs (s.atGroup p g) ((s.atGroup p g).sendFlow p fl errs) := by
  obtain ⟨a, b, hport, -⟩ := s.atGroup_port p g
  exact packetSent_sendFlow hp (by rw [hport]; exact htransit) (by rw [hport]; exact hpart)
    (Chip.flowPackets_atGroup hout hflow hlen) hlen

end OneWaits

/-- What a cell tells of itself. -/
def LinkCell.told (x : LinkCell) : Nat × Nat × Nat × Nat × Nat × List Packet := (x.type, x.lseq, x.dst, x.flow, x.len, x.pkts)

/-- A packet that has left, against the device before its port was put in the group. -/
theorem PacketSent.since {t : Chip} (h : PacketSent p q fl errs (s.atGroup p g) t) :
    t.net = s.net.erase q ∧ t.get (pgLNK p) (creditFld fl.isSome) = s.get (pgLNK p) (creditFld fl.isSome) - 1 ∧
    (t.port p).sent.map LinkCell.told = some (0, (s.port p).txSeq, q.dst.dev, fl.getD 63, packetBytes q, [q]) ∧
    (t.port p).replay.length = (s.port p).replay.length + 1 ∧ (t.port p).inGroup = ((s.port p).inTheGroup g).inGroup ∧
    (t.port p).missed = (s.port p).missed ∧ (t.port p).transit = (s.port p).transit ∧
    CountUp s t (pgLNK p) 0 1 ∧ CountUp s t (pgLNK p) 2 (packetBytes q) ∧
    CountUp s t (pgLNK p) 0x16 ((wordErrs q errs).filter fun e => decide (3 ≤ e)).length ∧
    (∀ sel, sel ∉ [0, 2, 0x16] → t.countOf (pgLNK p) sel = s.countOf (pgLNK p) sel) ∧
    ((∀ e ∈ errs, e = 0) → SameRegs s t [pgLNK p + 0x110]) ∧ t.mem = s.mem ∧ t.routers = eraseHeld q s.routers := by
  obtain ⟨hkeep, hcounts, -, -⟩ := s.atGroup_spec p g
  obtain ⟨a, b, hport, hj⟩ := s.atGroup_port p g
  have hcount : ∀ sel, (s.atGroup p g).countOf (pgLNK p) sel = s.countOf (pgLNK p) sel := fun sel => Chip.countOf_of_counts hcounts
  have hfields := h.port
  rw [hport] at hfields
  refine ⟨h.net.trans (by rw [hkeep.net]), h.credit.trans (by rw [Chip.get_of_regs hkeep.regs]), ?_, ?_, ?_, ?_, ?_,
    h.cells.of_before (hcount _), h.bytes.of_before (hcount _), h.lost.of_before (hcount _), fun sel hs => (h.counts sel hs).trans (hcount sel),
    fun he => SameRegs.trans ((SameRegs.refl s _).of_regs hkeep.regs) (h.regs he), h.mem.trans hkeep.mem,
    h.routers.trans (by rw [hkeep.keeps Chip.routers fun _ _ _ => rfl])⟩
  all_goals rw [hfields]
  · rfl
  · exact List.length_append
  · rw [hj]
    rfl
  · rfl
  · rfl

/-- A port that has sent one more cell of its group. -/
def Port.groupCell (k : Port) : Port := { k with inGroup := k.inGroup + 1 }

/-- What the group's owner sends. -/
theorem sendOwn_spec {v : Chip} (hsent : PacketSent p q (some f) errs (s.atGroup p g) v) (hzero : ∀ e ∈ errs, e = 0) :
    let t := (v.updPort p Port.groupCell).count (pgLNK p) 0x0D 1
    t.net = s.net.erase q ∧ t.get (pgLNK p) fCredS = s.get (pgLNK p) fCredS - 1 ∧
    (t.port p).inGroup = ((s.port p).inTheGroup g).inGroup + 1 ∧
    (t.port p).sent.map LinkCell.told = some (0, (s.port p).txSeq, q.dst.dev, f, packetBytes q, [q]) ∧
    (t.port p).replay.length = (s.port p).replay.length + 1 ∧ CountUp s t (pgLNK p) 0 1 ∧ CountUp s t (pgLNK p) 0x0D 1 ∧
    SameRegs s t [pgLNK p + 0x110] ∧ t.mem = s.mem := by
  obtain ⟨vnet, vcredit, vsent, vreplay, vgroup, -, -, vcells, -, -, vcounts, vregs, vmem, -⟩ := hsent.since
  intro t
  have hport : t.port p = (v.port p).groupCell := (Chip.port_count ..).trans (Chip.port_updPort_same ..)
  have hcount : ∀ sel, (v.updPort p Port.groupCell).countOf (pgLNK p) sel = v.countOf (pgLNK p) sel := fun sel => Chip.countOf_updPort ..
  rw [hport]
  refine ⟨vnet, vcredit, congrArg (· + 1) vgroup, vsent, vreplay, ?_, ?_, (vregs hzero).of_regs rfl, vmem⟩
  · exact vcells.of_countOf ((Chip.countOf_count_other _ _ (by omega)).trans (hcount _))
  · exact (countUp_count _ _ _ _).of_before ((hcount _).trans (vcounts _ (by decide)))

/-- Where a flow's misses are all gone, it leaves the list of those that wait. -/
theorem Port.setMisses_zero {k : Port} {n : Nat} {pre rest : List (Nat × Nat)} (hmissed : k.missed = pre ++ (f, n) :: rest)
    (hothers : ∀ e ∈ pre ++ rest, e.1 ≠ f ∧ e.2 ≠ 0) : (k.setMisses f 0).missed = pre ++ rest := by
  have hkeep : ∀ l : List (Nat × Nat), (∀ e ∈ l, e.1 ≠ f ∧ e.2 ≠ 0) →
      (l.map fun e => if e.1 = f then (f, 0) else e).filter (fun e => decide (e.2 ≠ 0)) = l := fun l hl => by
    have hmap : (l.map fun e => if e.1 = f then (f, 0) else e) = l :=
      (List.map_congr_left fun e he => if_neg (hl e he).1).trans (List.map_id' l)
    rw [hmap]
    exact List.filter_eq_self.2 fun e he => decide_eq_true (hl e he).2
  have hany : (pre ++ (f, n) :: rest).any (fun e => decide (e.1 = f)) = true := by simp
  rw [Port.setMisses, hmissed, hany]
  dsimp only
  rw [if_pos rfl, List.map_append, List.filter_append, List.map_cons, hkeep pre fun e he => hothers e (List.mem_append_left _ he), if_pos rfl,
    List.filter_cons_of_neg (by simp), hkeep rest fun e he => hothers e (List.mem_append_right _ he)]

/-- The link registers of a port are none of those that route packets. -/
theorem Chip.bound_of_sameRegs {t : Chip} (hp : p < 16) (h : SameRegs s t [pgLNK p + 0x110]) (z : Packet) : t.bound p z = s.bound p z := by
  have hroute : t.route z.dst.dev = s.route z.dst.dev := by
    rw [Chip.route, Chip.route, h _ (by simp only [pgLKC, pgLNK, List.mem_singleton]; omega)]
  have hdev : t.devId = s.devId := h.get (by simp only [pgID, pgLNK, List.mem_singleton]; omega)
  rw [Chip.bound, Chip.bound, hroute, hdev]

/-- A slot miss that is sent with the one packet of its flow. -/
theorem sendMissed_spec {n : Nat} {pre rest : List (Nat × Nat)} (hp : p < 16) (htransit : (s.port p).transit = [])
    (hout : s.outPackets p = [q]) (hmissed : (s.port p).missed = pre ++ (f, n) :: rest)
    (hothers : ∀ e ∈ pre ++ rest, e.1 ≠ f ∧ e.2 ≠ 0) (hzero : ∀ e ∈ errs, e = 0)
    (hsent : PacketSent p q (some f) errs (s.atGroup p g) ((s.atGroup p g).sendFlow p (some f) errs)) :
    let t := (s.atGroup p g).sendMissed p f n errs
    t.net = s.net.erase q ∧ t.get (pgLNK p) fCredS = s.get (pgLNK p) fCredS - 1 ∧
    (t.port p).inGroup = ((s.port p).inTheGroup g).inGroup + 1 ∧ (t.port p).missed = pre ++ rest ∧
    (t.port p).sent.map LinkCell.told = some (0, (s.port p).txSeq, q.dst.dev, f, packetBytes q, [q]) ∧
    CountUp s t (pgLNK p) 0 1 ∧ CountUp s t (pgLNK p) 0x0D 0 ∧ SameRegs s t [pgLNK p + 0x110] ∧ t.mem = s.mem := by
  obtain ⟨vnet, vcredit, vsent, -, vgroup, vmissed, vtransit, vcells, -, -, vcounts, vregs, vmem, vrouters⟩ := hsent.since
  have hregs := vregs hzero
  have hnone := Chip.outPackets_taken hout vnet vrouters (Chip.bound_of_sameRegs hp hregs)
  have hquiet : ((s.atGroup p g).sendFlow p (some f) errs).flowWaits p (some f) = false :=
    Chip.flowWaits_of_empty hnone (vtransit.trans htransit)
  intro t
  have ht : t = ((s.atGroup p g).sendFlow p (some f) errs).updPort p fun j => (j.setMisses f 0).groupCell := by
    show (s.atGroup p g).sendMissed p f n errs = _
    rw [Chip.sendMissed, hquiet]
    rfl
  rw [ht]
  generalize (s.atGroup p g).sendFlow p (some f) errs = v at *
  rw [Chip.port_updPort_same]
  refine ⟨vnet, vcredit, congrArg (· + 1) vgroup, ?_, vsent, vcells.of_countOf (Chip.countOf_updPort ..), ?_, hregs.of_regs rfl, vmem⟩
  · exact Port.setMisses_zero (vmissed.trans hmissed) hothers
  · exact countUp_zero ((Chip.countOf_updPort ..).trans (vcounts _ (by decide)))

/-- What a replay buffer tells of a cell. -/
def LinkCell.kept (x : LinkCell) : Nat × Nat × Nat × Nat × Nat × List Packet × BitVec 32 := (x.lseq, x.dst, x.src, x.flow, x.len, x.pkts, x.poison)

/-- A packet of no flow that has left (R104, R310, R312, R320, R321). -/
theorem sendTraffic_spec {t : Chip} (hsent : PacketSent p q none errs (s.atGroup p g) t) :
    t.net = s.net.erase q ∧ t.get (pgLNK p) fCredU = s.get (pgLNK p) fCredU - 1 ∧
    (t.port p).replay.map LinkCell.kept = (s.port p).replay.map LinkCell.kept ++
      [((s.port p).txSeq, q.dst.dev, s.devId, 63, packetBytes q, [q], poisonOf ((packetTags q).take (packetBytes q)) errs)] ∧
    (t.port p).sent = (t.port p).replay.getLast? ∧ (t.port p).txSeq = ((s.port p).txSeq + 1) % 4096 ∧
    CountUp s t (pgLNK p) 0 1 ∧ CountUp s t (pgLNK p) 2 (packetBytes q) ∧
    CountUp s t (pgLNK p) 0x16 ((wordErrs q errs).filter fun e => decide (3 ≤ e)).length ∧
    ((∃ e ∈ wordErrs q errs, 3 ≤ e) → t.bit (pgLNK p) ⟨0x010, errBit eUNCORR, 1⟩ = true) ∧
    ((∀ e ∈ errs, e = 0) → SameRegs s t [pgLNK p + 0x110]) ∧ t.mem = s.mem := by
  obtain ⟨vnet, vcredit, -, -, -, -, -, vcells, vbytes, vlost, -, vregs, vmem, -⟩ := hsent.since
  obtain ⟨a, b, hport, -⟩ := s.atGroup_port p g
  have hdev : (s.atGroup p g).devId = s.devId := Chip.get_of_regs (s.atGroup_spec p g).1.regs
  have hfields := hsent.port
  rw [hport] at hfields
  refine ⟨vnet, vcredit, ?_, ?_, ?_, vcells, vbytes, vlost, hsent.logged, vregs, vmem⟩
  all_goals rw [hfields]
  · rw [← hdev]
    exact List.map_append
  · exact List.getLast?_concat.symm
  · rfl

/-- The one cell in transit that waits at a port leaves it. -/
theorem sendTransit_spec {x : LinkCell} {i : Nat} (htransit : (s.port p).transit = [(none, x)]) (htype : x.type = 0)
    (hfrom : x.inPort = some i) (hi : i ≠ p) :
    let t := (s.atGroup p g).sendFlow p none errs
    (t.port p).transit = [] ∧ (t.port p).sent = some { x with flow := 63, lseq := (s.port p).txSeq } ∧
    CountUp s t (pgLNK p) 0x14 1 ∧ CountUp s t (pgLNK p) 0 1 ∧
    (t.port i).retU = (s.port i).retU + (if x.flow = 63 then 1 else 0) ∧
    (t.port i).retS = (s.port i).retS + (if x.flow = 63 then 0 else 1) ∧ t.net = s.net ∧ SameRegs s t [pgLNK p + 0x110] := by
  obtain ⟨hkeep, hcounts, -, hother⟩ := s.atGroup_spec p g
  obtain ⟨a, b, hport, -⟩ := s.atGroup_port p g
  have hcount : ∀ sel, (s.atGroup p g).countOf (pgLNK p) sel = s.countOf (pgLNK p) sel := fun sel => Chip.countOf_of_counts hcounts
  obtain ⟨hgone, hsent, hpass, hcells, hretU, hretS, hnet, hregs⟩ :=
    sendFlow_transit (u := s.atGroup p g) (errs := errs) (by rw [hport]; exact htransit) htype hfrom hi
  rw [hport] at hsent
  rw [hother i hi] at hretU hretS
  exact ⟨hgone, hsent, hpass.of_before (hcount _), hcells.of_before (hcount _), hretU, hretS, hnet.trans hkeep.net,
    SameRegs.trans ((SameRegs.refl s _).of_regs hkeep.regs) hregs⟩

theorem Chip.flowWaits_of_transit {x : LinkCell} {rest : List (Option Nat × LinkCell)} (h : (s.port p).transit = (fl, x) :: rest) :
    s.flowWaits p fl = true := by
  rw [Chip.flowWaits, Port.flowTransit, h, List.filter_cons_of_pos (by simp), List.map_cons, List.isEmpty_cons, Bool.not_false, Bool.or_true]

end Flows

/-! ## A port that is DOWN, and the end of a group (R54, R323; log 54, log 56) -/

section Ends

variable {s : Chip} {p g f : Nat}

/-- What is bound for a DOWN port leaves the mesh. -/
theorem netTake_foldl (l : List Packet) : ∀ s : Chip, (l.foldl Chip.netTake s).net = l.foldl (fun a q => a.erase q) s.net ∧
    (l.foldl Chip.netTake s).regs = s.regs ∧ (l.foldl Chip.netTake s).ports = s.ports ∧ (l.foldl Chip.netTake s).counts = s.counts := by
  induction l with
  | nil => exact fun s => ⟨rfl, rfl, rfl, rfl⟩
  | cons q l ih => exact fun s => ih (s.netTake q)

theorem Chip.discardBound_spec (s : Chip) (p : Nat) : (s.discardBound p).net = (s.outPackets p).foldl (fun a q => a.erase q) s.net ∧
    CountUp s (s.discardBound p) (pgLNK p) 0x0E ((s.port p).cellsIn (s.outPackets p)) ∧ (s.discardBound p).regs = s.regs ∧
    (s.discardBound p).ports = s.ports := by
  obtain ⟨hnet, hregs, hports, hcounts⟩ := netTake_foldl (s.outPackets p) s
  rw [Chip.discardBound]
  generalize (s.outPackets p).foldl Chip.netTake s = t at *
  generalize (s.port p).cellsIn (s.outPackets p) = n at *
  exact ⟨hnet, (countUp_count _ _ _ _).of_before (Chip.countOf_of_counts hcounts), hregs, hports⟩

/-- A flow whose last group of the beat has ended. -/
def Port.endFlow (f : Nat) (k : Port) : Port := { k with ended := k.ended ++ [f] }

/-- The count of a flow's cells does not depend on which flows have ended. -/
theorem Chip.flowCells_endFlow (s : Chip) (p f : Nat) (fl : Option Nat) : (s.updPort p (Port.endFlow f)).flowCells p fl = s.flowCells p fl := by
  have hout := Chip.outPackets_of_portOnly (PortOnly.updPort (p := p) (g := Port.endFlow f) (.refl s)) p
  have hport : (s.updPort p (Port.endFlow f)).port p = { s.port p with ended := (s.port p).ended ++ [f] } := Chip.port_updPort_same ..
  rw [Chip.flowCells, Chip.flowCells, Chip.flowPackets, Chip.flowPackets, Chip.inStatic, Chip.inStatic, hout, hport]
  rfl

theorem Chip.groupEnd_last (hst : s.portState p = psUP) (hended : (s.port p).ended = []) (howner : (s.port p).owner g = some f)
    (hlast : ∀ h, g < h → h < 32 → (s.port p).owner h ≠ some f) : s.groupEnd p g = (s.updPort p (Port.endFlow f)).noteMisses p := by
  have hno : ((List.range 32).any fun h => decide (g < h) && decide ((s.port p).owner h = some f)) = false := by
    rw [List.any_eq_false]
    intro h hh hlate
    rw [Bool.and_eq_true, decide_eq_true_eq, decide_eq_true_eq] at hlate
    exact hlast h hlate.1 (List.mem_range.1 hh) hlate.2
  rw [Chip.groupEnd, howner]
  dsimp only
  rw [hno, hst, hended]
  rfl

/-- The first flow that ends with no miss noted: its cells are all misses. -/
theorem Chip.noteMisses_endFlow (hended : (s.port p).ended = []) (hmissed : (s.port p).missed = []) :
    let t := (s.updPort p (Port.endFlow f)).noteMisses p
    (t.port p).ended = [f] ∧ (t.port p).missed = (if s.flowCells p (some f) = 0 then [] else [(f, s.flowCells p (some f))]) ∧
    CountUp s t (pgLNK p) 0x0C (s.flowCells p (some f)) ∧ t.net = s.net ∧ t.regs = s.regs := by
  have hcells := s.flowCells_endFlow p f (some f)
  have hkeep : PortOnly s (s.updPort p (Port.endFlow f)) := (PortOnly.refl s).updPort
  have hport : (s.updPort p (Port.endFlow f)).port p = (s.port p).endFlow f := Chip.port_updPort_same ..
  have hcount : (s.updPort p (Port.endFlow f)).countOf (pgLNK p) 0x0C = s.countOf (pgLNK p) 0x0C := Chip.countOf_updPort ..
  have hflows : ((s.port p).endFlow f).ended = [f] := by rw [Port.endFlow, hended]; rfl
  have hmisses : ((s.port p).endFlow f).missesOf f = 0 := by
    rw [Port.missesOf, show ((s.port p).endFlow f).missed = [] from hmissed]
    rfl
  generalize s.updPort p (Port.endFlow f) = u at *
  have hnote : u.noteMisses p = if u.flowCells p (some f) ≤ 0 then u else
      (u.updPort p fun k => k.setMisses f (u.flowCells p (some f))).count (pgLNK p) 0x0C (u.flowCells p (some f)) := by
    rw [Chip.noteMisses, hport, hflows, List.foldl_cons, List.foldl_nil]
    dsimp only
    rw [hport, hmisses, Nat.sub_zero]
  intro t
  rw [show t = _ from hnote, hcells]
  generalize s.flowCells p (some f) = n at *
  split
  case isTrue h0 =>
    rw [if_pos (Nat.le_zero.1 h0), hport, Nat.le_zero.1 h0]
    exact ⟨hflows, hmissed, countUp_zero hcount, hkeep.net, hkeep.regs⟩
  case isFalse h0 =>
    have hne : n ≠ 0 := by omega
    rw [if_neg hne, Chip.port_count, Chip.port_updPort_same, hport]
    refine ⟨hflows, ?_, (countUp_count _ _ _ _).of_before ((Chip.countOf_updPort ..).trans hcount), hkeep.updPort.count.net,
      hkeep.updPort.count.regs⟩
    rw [Port.setMisses, show ((s.port p).endFlow f).missed = [] from hmissed]
    simp [hne]

theorem Chip.groupEnd_idle (h : (s.port p).owner g = none ∨ s.portState p ≠ psUP ∨
    ∃ h f, g < h ∧ h < 32 ∧ (s.port p).owner g = some f ∧ (s.port p).owner h = some f) : s.groupEnd p g = s := by
  rw [Chip.groupEnd]
  cases howner : (s.port p).owner g with
  | none => rfl
  | some f =>
    refine if_pos ?_
    rcases h with hnone | hstate | ⟨i, e, hlate, hlt, hg, hi⟩
    · rw [hnone] at howner
      cases howner
    · simp [hstate]
    · have hef : e = f := by rw [howner] at hg; exact (Option.some.inj hg).symm
      have hany : ((List.range 32).any fun h => decide (g < h) && decide ((s.port p).owner h = some f)) = true :=
        List.any_eq_true.2 ⟨i, List.mem_range.2 hlt, by simp [hlate, hi, hef]⟩
      rw [hany]
      rfl

end Ends

end Sys2Proof.Machine
end

section
/-! What a port's sending commands do, and O54 (R54, R315, R318, R320, R321, R323). -/

namespace Sys2Proof.Machine

/-! ## The commands of a sending port -/

/-- A cell of a flow fits in the group that the port is in. -/
theorem Chip.fitsGroup_atGroup {s : Chip} {p g : Nat} (hroom : ((s.port p).inTheGroup g).inGroup < s.groupCap p g)
    (hmay : s.get (pgLNK p) fCredS ≠ 0 ∧ (s.port p).replay.length < 512) : (s.atGroup p g).fitsGroup p g = true := by
  obtain ⟨hkeep, -, hport, -⟩ := s.atGroup_spec p g
  rw [Chip.fitsGroup, hport, Chip.groupCap_of_regs hkeep.regs, Chip.atGroup_maySend, decide_eq_true hroom,
    (s.maySend_iff p true).2 hmay, Bool.and_self]

section Send

variable {s : State} {p st g : Nat} {room : Bool} {errs : List Nat} (hin : PortIn s.chip p st)
include hin

theorem runs_transmit {P : Chip → Prop} (hP : P (s.chip.transmit p g room errs)) : Runs (.cellTransmit p g ⟨room, errs⟩) s P :=
  runs_port (f := fun u => u.transmit p g room errs) rfl hin hP

theorem transmit_quiet (h : st < psMEASURE) : Runs (.cellTransmit p g ⟨room, errs⟩) s fun t => t = s.chip := by
  refine runs_transmit hin ?_
  rw [Chip.transmit, hin.state]
  dsimp only
  rw [if_neg (by simp only [psMEASURE, psDOWN] at *; omega), if_pos h]

theorem transmit_down (h : st = psDOWN) : Runs (.cellTransmit p g ⟨room, errs⟩) s fun t =>
    t.net = (s.chip.outPackets p).foldl (fun a q => a.erase q) s.chip.net ∧
    CountUp s.chip t (pgLNK p) 0x0E ((s.chip.port p).cellsIn (s.chip.outPackets p)) ∧ t.regs = s.chip.regs ∧ t.ports = s.chip.ports := by
  refine runs_transmit hin ?_
  rw [Chip.transmit, hin.state]
  dsimp only
  rw [if_pos h]
  exact s.chip.discardBound_spec p

section Ended

variable (hended : (s.chip.port p).ended = [])
include hended

/-- After 4,095 other cells an IDLE cell leaves (R315). -/
theorem transmit_idle (hlo : psMEASURE ≤ st) (hhi : st ≤ psDEGRADING) (hrun : 4095 ≤ (s.chip.port p).idleRun) :
    Runs (.cellTransmit p g ⟨room, errs⟩) s fun t => OnlyStarts s.chip t p g (s.chip.cell 5 0) := by
  obtain ⟨a, b, hport, -⟩ := s.chip.atGroup_port p g
  refine runs_transmit hin ?_
  rw [Chip.transmit_begun hin.state hlo hhi hended, if_pos (by rw [hport]; exact hrun)]
  exact onlyStarts_idle s.chip p g

/-- A port that is UP and need not be idle sends by its order. -/
theorem runs_sendUp {P : Chip → Prop} (hst : st = psUP) (hrun : (s.chip.port p).idleRun < 4095)
    (hP : P ((s.chip.atGroup p g).sendUp p g room errs)) : Runs (.cellTransmit p g ⟨room, errs⟩) s P := by
  subst hst
  obtain ⟨a, b, hport, -⟩ := s.chip.atGroup_port p g
  refine runs_transmit hin ?_
  rw [Chip.transmit_begun hin.state (by decide) (by decide) hended, if_neg (by rw [hport]; exact not_le.2 hrun), if_neg (not_not.2 rfl)]
  exact hP

section Flow

variable {q : Packet} {f : Nat} (hst : st = psUP) (hrun : (s.chip.port p).idleRun < 4095) (htransit : (s.chip.port p).transit = [])
  (hpart : (s.chip.port p).partSent = []) (hout : s.chip.outPackets p = [q]) (hflow : (s.chip.port p).localFlow q = some f)
  (hlen : packetBytes q ≤ 256) (hroom : ((s.chip.port p).inTheGroup g).inGroup < s.chip.groupCap p g)
  (hmay : s.chip.get (pgLNK p) fCredS ≠ 0 ∧ (s.chip.port p).replay.length < 512) (hzero : ∀ e ∈ errs, e = 0)
include hst hrun htransit hpart hout hflow hlen hroom hmay hzero

/-- The flow that owns the group sends (R54, R318). -/
theorem transmit_own (hmissed : (s.chip.port p).missed = []) (howner : (s.chip.port p).owner g = some f) :
    Runs (.cellTransmit p g ⟨room, errs⟩) s fun t =>
      t.net = s.chip.net.erase q ∧ t.get (pgLNK p) fCredS = s.chip.get (pgLNK p) fCredS - 1 ∧
      (t.port p).inGroup = ((s.chip.port p).inTheGroup g).inGroup + 1 ∧
      (t.port p).sent.map LinkCell.told = some (0, (s.chip.port p).txSeq, q.dst.dev, f, packetBytes q, [q]) ∧
      (t.port p).replay.length = (s.chip.port p).replay.length + 1 ∧ CountUp s.chip t (pgLNK p) 0 1 ∧ CountUp s.chip t (pgLNK p) 0x0D 1 ∧
      SameRegs s.chip t [pgLNK p + 0x110] ∧ t.mem = s.chip.mem := by
  obtain ⟨a, b, hport, -⟩ := s.chip.atGroup_port p g
  have hwaits := Chip.flowWaits_of_packets (Chip.flowPackets_atGroup (g := g) hout hflow hlen)
  have hsent := packetSent_atGroup (g := g) (errs := errs) hout hflow hlen (portPresent_lt hin.there) htransit hpart
  refine runs_sendUp hin hended hst hrun ?_
  rw [Chip.sendUp_own (by rw [hport]; exact hmissed) (by rw [hport]; exact howner) hwaits (Chip.fitsGroup_atGroup hroom hmay), Chip.sendOwn]
  exact sendOwn_spec hsent hzero

/-- The oldest flow with a slot miss that waits sends (R54, R318). -/
theorem transmit_missed {n : Nat} {pre rest : List (Nat × Nat)} (hmissed : (s.chip.port p).missed = pre ++ (f, n) :: rest)
    (hothers : ∀ e ∈ pre ++ rest, e.1 ≠ f ∧ e.2 ≠ 0) (hpre : ∀ e ∈ pre, s.chip.flowWaits p (some e.1) = false) :
    Runs (.cellTransmit p g ⟨room, errs⟩) s fun t =>
      t.net = s.chip.net.erase q ∧ t.get (pgLNK p) fCredS = s.chip.get (pgLNK p) fCredS - 1 ∧
      (t.port p).inGroup = ((s.chip.port p).inTheGroup g).inGroup + 1 ∧ (t.port p).missed = pre ++ rest ∧
      (t.port p).sent.map LinkCell.told = some (0, (s.chip.port p).txSeq, q.dst.dev, f, packetBytes q, [q]) ∧
      CountUp s.chip t (pgLNK p) 0 1 ∧ CountUp s.chip t (pgLNK p) 0x0D 0 ∧ SameRegs s.chip t [pgLNK p + 0x110] ∧ t.mem = s.chip.mem := by
  obtain ⟨a, b, hport, -⟩ := s.chip.atGroup_port p g
  have hp := portPresent_lt hin.there
  have hwaits := Chip.flowWaits_of_packets (Chip.flowPackets_atGroup (g := g) hout hflow hlen)
  have hsent := packetSent_atGroup (g := g) (errs := errs) hout hflow hlen hp htransit hpart
  refine runs_sendUp hin hended hst hrun ?_
  rw [Chip.sendUp_missed (by rw [hport]; exact hmissed) (fun e he => (s.chip.flowWaits_atGroup p g _).trans (hpre e he)) hwaits
    (Chip.fitsGroup_atGroup hroom hmay)]
  exact sendMissed_spec hp htransit hout hmissed hothers hzero hsent

end Flow

/-! ## Cells of no flow -/

section Other

variable (hmissed : (s.chip.port p).missed = []) (hlo : psMEASURE ≤ st) (hhi : st ≤ psDEGRADING) (hrun : (s.chip.port p).idleRun < 4095)
  (hup : st = psUP → (s.chip.port p).owner g = none ∧ room = true)
include hmissed hlo hhi hrun hup

theorem runs_sendOther {P : Chip → Prop} (hP : P ((s.chip.atGroup p g).sendOther p errs)) : Runs (.cellTransmit p g ⟨room, errs⟩) s P := by
  refine runs_transmit hin ?_
  rw [Chip.transmit_other hin.state hlo hhi hended hmissed hrun hup]
  exact hP

section NoReturn

variable (hresend : (s.chip.port p).resend = 0) (hretS : (s.chip.port p).retS = 0) (hretU : (s.chip.port p).retU = 0)
include hresend hretS hretU

/-- CONTROL cells (R310, R320, R321). -/
theorem transmit_control (c : Control) (rest : List Control) (hctl : (s.chip.port p).ctl = c :: rest) :
    let may := s.chip.get (pgLNK p) fCredU ≠ 0 ∧ (s.chip.port p).replay.length < 512
    (may → Runs (.cellTransmit p g ⟨room, errs⟩) s fun t =>
      let x := { s.chip.ctlCell c with lseq := (s.chip.port p).txSeq }
      t.port p = { ((s.chip.port p).inTheGroup g).start x with
        ctl := rest, replay := (s.chip.port p).replay ++ [x], txSeq := ((s.chip.port p).txSeq + 1) % 4096 } ∧
      t.get (pgLNK p) fCredU = s.chip.get (pgLNK p) fCredU - 1 ∧ t.get (pgLNK p) fReplayUsed = (s.chip.port p).replay.length + 1 ∧
      SameRegs s.chip t [pgLNK p + 0x110] ∧ t.net = s.chip.net) ∧
    (¬ may → Runs (.cellTransmit p g ⟨room, errs⟩) s fun t => OnlyStarts s.chip t p g (s.chip.cell 5 0)) := by
  intro may
  refine ⟨fun hmay => runs_sendOther hin hended hmissed hlo hhi hrun hup ?_, fun hmay => runs_sendOther hin hended hmissed hlo hhi hrun hup ?_⟩
  · exact Chip.sendOther_control hresend hretS hretU hctl ((s.chip.maySend_iff p false).2 hmay)
  · rw [Chip.sendOther_ctl hresend hretS hretU hctl, if_neg fun h => hmay ((s.chip.maySend_iff p false).1 h)]
    exact onlyStarts_idle s.chip p g

variable (hctl : (s.chip.port p).ctl = [])
include hctl

/-- IDLE when nothing else waits (R315; log 19). -/
theorem transmit_nothing (h : st ≠ psUP ∨ s.chip.flowWaits p none = false ∨
    ¬ (s.chip.get (pgLNK p) fCredU ≠ 0 ∧ (s.chip.port p).replay.length < 512)) :
    Runs (.cellTransmit p g ⟨room, errs⟩) s fun t => OnlyStarts s.chip t p g (s.chip.cell 5 0) := by
  refine runs_sendOther hin hended hmissed hlo hhi hrun hup ?_
  rw [Chip.sendOther_rest hresend hretS hretU hctl, if_neg]
  · exact onlyStarts_idle s.chip p g
  · rw [Chip.flowWaits_atGroup, hin.state, Bool.and_eq_true, Bool.and_eq_true, decide_eq_true_eq, Chip.maySend_iff]
    rintro ⟨⟨hst, hwaits⟩, hmay⟩
    rcases h with h | h | h
    · exact h hst
    · rw [h] at hwaits
      cases hwaits
    · exact h hmay

variable (hst : st = psUP) (hmay : s.chip.get (pgLNK p) fCredU ≠ 0 ∧ (s.chip.port p).replay.length < 512)
include hst hmay

/-- A cell in transit of no flow (R320, R323). -/
theorem transmit_transit {x : LinkCell} {i : Nat} (htransit : (s.chip.port p).transit = [(none, x)]) (htype : x.type = 0)
    (hfrom : x.inPort = some i) (hi : i ≠ p) : Runs (.cellTransmit p g ⟨room, errs⟩) s fun t =>
      (t.port p).transit = [] ∧ (t.port p).sent = some { x with flow := 63, lseq := (s.chip.port p).txSeq } ∧
      CountUp s.chip t (pgLNK p) 0x14 1 ∧ CountUp s.chip t (pgLNK p) 0 1 ∧
      (t.port i).retU = (s.chip.port i).retU + (if x.flow = 63 then 1 else 0) ∧
      (t.port i).retS = (s.chip.port i).retS + (if x.flow = 63 then 0 else 1) ∧ t.net = s.chip.net ∧
      SameRegs s.chip t [pgLNK p + 0x110] := by
  have hwaits := (s.chip.flowWaits_atGroup p g none).trans (Chip.flowWaits_of_transit htransit)
  refine runs_sendOther hin hended hmissed hlo hhi hrun hup ?_
  rw [Chip.sendOther_traffic hresend hretS hretU hctl (hin.state.trans hst) hwaits ((s.chip.maySend_iff p false).2 hmay)]
  exact sendTransit_spec htransit htype hfrom hi

/-- A packet of no flow (R104, R310, R312, R318, R320, R321). -/
theorem transmit_traffic {q : Packet} (htransit : (s.chip.port p).transit = []) (hpart : (s.chip.port p).partSent = [])
    (hout : s.chip.outPackets p = [q]) (hflow : (s.chip.port p).localFlow q = none) (hlen : packetBytes q ≤ 256) :
    Runs (.cellTransmit p g ⟨room, errs⟩) s fun t =>
      t.net = s.chip.net.erase q ∧ t.get (pgLNK p) fCredU = s.chip.get (pgLNK p) fCredU - 1 ∧
      (t.port p).replay.map LinkCell.kept = (s.chip.port p).replay.map LinkCell.kept ++
        [((s.chip.port p).txSeq, q.dst.dev, s.chip.devId, 63, packetBytes q, [q], poisonOf ((packetTags q).take (packetBytes q)) errs)] ∧
      (t.port p).sent = (t.port p).replay.getLast? ∧ (t.port p).txSeq = ((s.chip.port p).txSeq + 1) % 4096 ∧
      CountUp s.chip t (pgLNK p) 0 1 ∧ CountUp s.chip t (pgLNK p) 2 (packetBytes q) ∧
      CountUp s.chip t (pgLNK p) 0x16 ((wordErrs q errs).filter fun e => decide (3 ≤ e)).length ∧
      ((∃ e ∈ wordErrs q errs, 3 ≤ e) → t.bit (pgLNK p) ⟨0x010, errBit eUNCORR, 1⟩ = true) ∧
      ((∀ e ∈ errs, e = 0) → SameRegs s.chip t [pgLNK p + 0x110]) ∧ t.mem = s.chip.mem := by
  have hwaits := Chip.flowWaits_of_packets (Chip.flowPackets_atGroup (g := g) hout hflow hlen)
  refine runs_sendOther hin hended hmissed hlo hhi hrun hup ?_
  rw [Chip.sendOther_traffic hresend hretS hretU hctl (hin.state.trans hst) hwaits ((s.chip.maySend_iff p false).2 hmay)]
  exact sendTraffic_spec (packetSent_atGroup hout hflow hlen (portPresent_lt hin.there) htransit hpart)

end NoReturn

end Other

/-! ## The end of a group -/

/-- The last group of a flow in the beat: its cells that still wait are misses (R54; log 56). -/
theorem slotGroupEnd_last (hst : st = psUP) (hmissed : (s.chip.port p).missed = []) {f : Nat}
    (howner : (s.chip.port p).owner g = some f) (hlast : ∀ h, g < h → h < 32 → (s.chip.port p).owner h ≠ some f) :
    Runs (.slotGroupEnd p g) s fun t =>
      (t.port p).ended = [f] ∧
      (t.port p).missed = (if s.chip.flowCells p (some f) = 0 then [] else [(f, s.chip.flowCells p (some f))]) ∧
      CountUp s.chip t (pgLNK p) 0x0C (s.chip.flowCells p (some f)) ∧ t.net = s.chip.net ∧ t.regs = s.chip.regs := by
  refine runs_port (f := fun u => u.groupEnd p g) rfl hin ?_
  rw [Chip.groupEnd_last (hin.state.trans hst) hended howner hlast]
  exact Chip.noteMisses_endFlow hended hmissed

end Ended

theorem slotGroupEnd_idle (h : (s.chip.port p).owner g = none ∨ st ≠ psUP ∨
    ∃ h f, g < h ∧ h < 32 ∧ (s.chip.port p).owner g = some f ∧ (s.chip.port p).owner h = some f) :
    Runs (.slotGroupEnd p g) s fun t => t = s.chip :=
  runs_port (f := fun u => u.groupEnd p g) rfl hin (Chip.groupEnd_idle (by rw [hin.state]; exact h))

end Send

/-! ## O54 -/

/-- The width that the fourth retry in a row gives, or the one due before (R322). -/
theorem Chip.retryWidth_or (s : Chip) (p n : Nat) (l : BitVec 4) (d : Option (BitVec 4)) : (s.retryWidth p n (some l)).or d =
    if n = 4 ∧ s.bit (pgLNK p) fDegradeEn = true ∧ laneCount (widest l) < s.get (pgLNK p) fLanes then some (widest l) else d := by
  rw [Chip.retryWidth]
  split <;> rfl

/-- Settles O54: the cells that a port receives, those that it sends, and the end of a group. -/
theorem cells : Obligations.Cells := by
  unfold Obligations.Cells
  refine ⟨fun s p st hin hlo hhi => ?_, fun s p st g room errs hin => ?_⟩
  · intro pg k plus back nak
    obtain ⟨hcrc, hfec, hreserved⟩ := badCell_cases hin hlo hhi
    obtain ⟨hidle, htimer, hholdoff⟩ := linkTimer_cases hin hlo hhi
    refine ⟨fun h pkts hst => ?_, controlCell_refused hin hlo hhi, hcrc, hfec, hreserved, creditCell_cases hin hlo hhi,
      ackNak_cases hin hlo hhi, fun off hr => ?_, fun off => (ackTimeout_cases hin hlo hhi off).2, hidle, htimer, hholdoff⟩
    · obtain ⟨hbad, hres, hnum⟩ := dataCell_refused hin h pkts hst
      exact ⟨hbad, hres, hnum, fun hgood htype hseq => ⟨dataCell_here hin hst hgood htype hseq rfl,
        dataCell_passed hin hst hgood htype hseq rfl, dataCell_lost hin hst hgood htype hseq rfl⟩⟩
    · refine runs_mono ((ackTimeout_cases hin hlo hhi off).1 hr) fun t ⟨hconsec, hresend, hreplay, hrun, hirq, hdown, hdegrade, hrest⟩ =>
        ⟨hconsec, hresend, hreplay, hrun, hirq, hdown, ?_, hrest⟩
      rw [hdegrade]
      cases off with
      | none => rfl
      | some l => exact s.chip.retryWidth_or p _ l _
  · intro pg k j send plus only may
    refine ⟨transmit_quiet hin, fun hlo hhi hended _ => transmit_idle hin hended hlo hhi,
      fun q f hst hended hmissed hrun howner htransit hpart hout hflow hlen hroom hmay hzero =>
        transmit_own hin hended hst hrun htransit hpart hout hflow hlen hroom hmay hzero hmissed howner,
      fun q f n pre rest hst hended hmissed hothers hpre hrun htransit hpart hout hflow hlen hroom hmay hzero =>
        transmit_missed hin hended hst hrun htransit hpart hout hflow hlen hroom hmay hzero hmissed hothers hpre,
      fun hlo hhi hended hmissed hrun hup => ⟨fun x hresend hx => ?_, fun hresend hretS => ?_, fun hresend hretS hretU => ?_,
        fun hresend hretS hretU => ?_⟩,
      transmit_down hin, fun f hst hended hmissed howner hlast => slotGroupEnd_last hin hended hst hmissed howner hlast, slotGroupEnd_idle hin⟩
    · exact runs_sendOther hin hended hmissed hlo hhi hrun hup (Chip.sendOther_resent hresend hx)
    · exact runs_sendOther hin hended hmissed hlo hhi hrun hup (Chip.sendOther_retS hresend hretS)
    · exact runs_sendOther hin hended hmissed hlo hhi hrun hup (Chip.sendOther_retU hresend hretS hretU)
    · exact ⟨transmit_control hin hended hmissed hlo hhi hrun hup hresend hretS hretU,
        transmit_nothing hin hended hmissed hlo hhi hrun hup hresend hretS hretU,
        fun x i hctl hst htransit htype hfrom hi hmay =>
          transmit_transit hin hended hmissed hlo hhi hrun hup hresend hretS hretU hctl hst hmay htransit htype hfrom hi,
        fun q hctl hst htransit hpart hout hflow hlen hmay =>
          transmit_traffic hin hended hmissed hlo hhi hrun hup hresend hretS hretU hctl hst hmay htransit hpart hout hflow hlen⟩

end Sys2Proof.Machine
end
